-- ==== Sys2Proof/Word.lean ====
section
/-! DEFINITION. Bytes, bit fields of a word held as a natural number, and little-endian byte strings (00_scope.md,
Numbers and units). -/

namespace Sys2Proof

/-- A byte, the spec's smallest addressable unit. -/
abbrev Byte := BitVec 8

/-- Bits [lo + n - 1 : lo] of a word. -/
def bits (w lo n : Nat) : Nat := (w / 2 ^ lo) % 2 ^ n

/-- Bit `i` of a word. -/
def bit (w i : Nat) : Bool := (w / 2 ^ i) % 2 = 1

/-- A word with bits [lo + n - 1 : lo] replaced by the low bits of `v`. -/
def setBits (w lo n v : Nat) : Nat :=
  w - bits w lo n * 2 ^ lo + (v % 2 ^ n) * 2 ^ lo

/-- A truth value as a bit. -/
def b2n (b : Bool) : Nat := if b then 1 else 0

/-- The value of an `n`-bit two's complement field. -/
def signed (n v : Nat) : Int := if v < 2 ^ (n - 1) then (v : Int) else (v : Int) - 2 ^ n

/-- The number a little-endian byte string spells. -/
def leNat : List Byte → Nat
  | [] => 0
  | b :: r => b.toNat + 256 * leNat r

/-- The `n` little-endian bytes of a number. -/
def leBytes : Nat → Nat → List Byte
  | 0, _ => []
  | n + 1, v => BitVec.ofNat 8 v :: leBytes n (v / 256)

/-- The numbers from `a`, `n` of them. -/
def upFrom : Nat → Nat → List Nat
  | _, 0 => []
  | a, n + 1 => a :: upFrom (a + 1) n

/-- Consecutive pieces of length `n` of a list (the last may be shorter); `fuel` bounds their number. -/
def chunksOf {α : Type} (n : Nat) : Nat → List α → List (List α)
  | 0, _ => []
  | _, [] => []
  | fuel + 1, l => l.take n :: chunksOf n fuel (l.drop n)

end Sys2Proof
end

