-- ==== Sys2Proof/Syntax.lean ====
section
/-! DEFINITION. The commands the module takes, one constructor per row of spec/opcode_table.json, and the types of
their operands. A command that is an engine's own step names the engine (queue q of R94, thresher t, bay b, port p);
the instruction it issues stands in the engine's queue. What the surroundings decide (a measurement, the outcome of a
check, the content of a memory the module reads) is an operand. -/

namespace Sys2Proof

/-- What the code of a codeword finds at a read (R134, R163): no error, an error it corrects, one it cannot correct. -/
inductive Code where
  | clean | corrected | uncorrectable
  deriving DecidableEq, Repr

/-- What a read of a codeword finds (R162, R163): whether the die reports a correction of its own with the burst, and
what the code that covers it finds. -/
structure Finding where
  die : Bool
  code : Code
  deriving DecidableEq, Repr

/-- What a read of a 64 B sector finds in its half-sector codewords, the lower and the upper (R163). -/
structure SectorFinding where
  lo : Finding
  hi : Finding
  deriving DecidableEq, Repr

/-- The check of R74 that failed in a partition: cell parity or the accumulator residue. -/
inductive PartCause where
  | cellParity | accResidue
  deriving DecidableEq, Repr

/-- Why a stack fails (R175), numbered as GN_STACK_STAT.REASON. -/
inductive StackReason where
  | lane | identity | channel | noAnswer
  deriving DecidableEq, Repr

/-- The three registers of a versioned-region entry (R211). -/
inductive VregWord where
  | a | b | cfg
  deriving DecidableEq, Repr

/-- What a link header carries beside its frame's channel (R240): the LSEQ, the ACK, the NAK, the returned credits, and
the reserved bits. -/
structure LinkHeader where
  ack : Nat
  nak : Bool
  crVc : Nat
  crN : Nat
  crClass : Nat
  lseq : Nat
  rsv : Nat
  deriving DecidableEq, Repr

/-- A link header with nothing to return. -/
def LinkHeader.bare (lseq : Nat) : LinkHeader := ⟨0, false, 0, 0, 0, lseq, 0⟩

/-- A received link frame with a transport frame (R240, R241), its OP aside: the row that carries it names that. `rsv`
is the reserved bit of the transport header, `intact` whether the end-to-end CRC-32C holds (R248), `fec` the codewords
the port's FEC corrected in it (R254). -/
structure Frame where
  lh : LinkHeader
  vc : Nat
  eclass : Nat
  hops : Nat
  sq : Nat
  prov : Bool
  vol : Bool
  digest : Bool
  dset : Nat
  src : Nat
  dst : Nat
  job : Nat
  tag : Nat
  epoch : Nat
  addr : Nat
  arg : Nat
  payload : List Byte
  flags : List Nat
  rsv : Bool
  intact : Bool
  fec : Nat
  deriving DecidableEq, Repr

/-- What firmware finds on a port's management bus (R236, R237): whether a pluggable answers, whether its identity
reads, its lanes, whether it advertises an application of R235 at 200 and at 100 Gb/s per lane, its maximum power in
units of 0.25 W, and whether it is passive copper. -/
structure Cmis where
  present : Bool
  identityOk : Bool
  lanes : Nat
  fullRate : Bool
  halfRate : Bool
  power : Nat
  passive : Bool
  deriving DecidableEq, Repr

/-- A link frame the receiver does not take (R235, R241, R243, R244, R246): a bad link CRC-32, with or without an
uncorrectable FEC codeword; an LSEQ beyond the expected one; in switched framing, a bad FCS, another EtherType or
destination address, a full buffer, a PAUSE or priority flow control frame; an otherwise good frame with a reserved
OP. -/
inductive BadFrame where
  | crc (fecUe : Bool) | gap | fcs | foreign | full | pause | strange (f : Frame)
  deriving DecidableEq, Repr

/-- What AO detects in one of its cycles in Dormant (R262): the sideband wake command, electrical-idle exit on PCIe
lane 0, and on lane 4p of each port p the wake pattern of R253 or signal energy (bit p). -/
structure WakeSeen where
  sideband : Bool
  pcie : Bool
  pattern : Nat
  energy : Nat
  deriving DecidableEq, Repr

/-- What firmware finds for one power domain when it compares the estimators with the current sense (R264): the power
sensed there over the power estimated, in watts. -/
structure Gain where
  sensed : Nat
  estimate : Nat
  deriving DecidableEq, Repr

/-- The temperature sensors of R274: four of each thresher, one of each stack. -/
inductive Sensor where
  | thresher (t : Fin 8) (i : Fin 4) | stack (s : Fin 24)
  deriving DecidableEq, Repr

/-- What brings a HOTRST reset about (R297): a Hot Reset received, or the link down for more than 1 ms. -/
inductive HotCause where
  | hotReset | linkDown
  deriving DecidableEq, Repr

/-- What raises a bay fault (R307). -/
inductive BayCause where
  | tallyStore | internal
  deriving DecidableEq, Repr

/-- What a GPIO command of the sideband does with its pin (R334): claim it with a function, release it, drive it,
read it; a read of a pin the module does not drive finds the board's level there. -/
inductive GpioAct where
  | claim (fn : Nat) | release | drive (level : Bool) | read (level : Bool)
  deriving DecidableEq, Repr

/-- What raises a module-fatal event (R308) beside a fault of bay 0 and the loss of a stack, which have their own
rows: an uncorrectable error in AO or in the PCIe endpoint. -/
inductive FatalCause where
  | ao | endpoint
  deriving DecidableEq, Repr

/-- What firmware reads of the carrier FRU record (R341, R342): no answer from the EEPROM, no record that its checksums
and its format accept, or the fields: cold-plate class, slot, board budget in watts, port budgets in units of 0.25 W. -/
inductive Fru where
  | absent
  | invalid
  | record (cls slot budget : Nat) (ports : List Nat)
  deriving DecidableEq, Repr

/-- The commands, one constructor per row of spec/opcode_table.json, in its order. -/
inductive Instr where
  /-- NOP (R102): Does nothing except carry its wait and its signal -/
  | nop (q : Fin 52)
  /-- END (R114): Ends the stream; once every earlier instruction has completed, the queue signals, enters IDLE and posts a host event if NOTIFY is set -/
  | endStream (q : Fin 52)
  /-- SYNC (R96): Issues only once every earlier instruction of the queue has completed -/
  | sync (q : Fin 52)
  /-- NOTIFY (R192): Posts a host event carrying CODE after the queue's earlier writes reach their point of coherence -/
  | notify (q : Fin 52)
  /-- LOOP (R112): Starts a hardware loop that issues the next BODY instructions COUNT times from the buffer -/
  | loop (q : Fin 52)
  /-- BR (R113): Branches unconditionally by a signed instruction offset, subject to the loop-body rule -/
  | br (q : Fin 52)
  /-- BRC (R113): Branches if CR compared with IMM under COND holds, once earlier LDC and TL.READ instructions have completed -/
  | brc (q : Fin 52)
  /-- LDC (R102): Loads 8 B from HBM or the loft into CR at the point of coherence; faults with E_POISON if the data is poisoned -/
  | ldc (q : Fin 52)
  /-- TL_SIGNAL (R121): Adds COUNT to a local, module or remote tally, saturating at 65,535, after the queue's earlier writes are released -/
  | tlSignal (q : Fin 52)
  /-- TL_WAIT (R121): Joins the tally's waiter queue and subtracts COUNT when served -/
  | tlWait (q : Fin 52)
  /-- TL_ARM (R121): Sets a tally's count to COUNT -/
  | tlArm (q : Fin 52)
  /-- TL_READ (R121): Reads a tally's count into CR, zero-extended -/
  | tlRead (q : Fin 52)
  /-- LAUNCH (R102): Starts another engine of the same thresher at OFFSET; faults with E_LAUNCH_BUSY if the start is refused -/
  | launch (t : Fin 8)
  /-- PSTEP_OPEN (R200): Closes any open epoch, checkpoints the listed tallies and opens a new provisional epoch -/
  | pstepOpen (t : Fin 8)
  /-- PSTEP_CONFIRM (R201): Confirms the older live epoch, commits its granules and flag banks, and discards its checkpoint -/
  | pstepConfirm (t : Fin 8)
  /-- PSTEP_SQUASH (R202): Marks every live epoch squashed and makes all 52 queues skip their PROV instructions -/
  | pstepSquash (t : Fin 8)
  /-- FE_FEED (R106): Feed part of a pass: streams the activation tokens of the pass into the partition's rows -/
  | feFeed (t : Fin 8)
  /-- TURN_HOLD_FEED (R86): The feed engine takes the turner onto the feed path, or faults if the turner is busy or unavailable -/
  | turnHoldFeed (t : Fin 8)
  /-- TURN_FREE_FEED (R86): The feed engine frees the turner once its earlier turner-routed instructions have delivered -/
  | turnFreeFeed (t : Fin 8)
  /-- WE_LOAD (R66): Weight part of a pass: loads a tile into the shadow registers row by row -/
  | weLoad (t : Fin 8)
  /-- TURN_HOLD_WEIGHT (R86): The weight engine takes the turner onto the weight path, or faults if the turner is busy or unavailable -/
  | turnHoldWeight (t : Fin 8)
  /-- TURN_FREE_WEIGHT (R86): The weight engine frees the turner once its earlier turner-routed instructions have delivered -/
  | turnFreeWeight (t : Fin 8)
  /-- DE_DRAIN (R106): Drain part of a pass: takes column results, applies sum-in, recipe and conversion, and writes OUT and OUT2 -/
  | deDrain (t : Fin 8)
  /-- V_ADD (R45): Computes D = A + B in FP32 with RNE -/
  | vAdd (t : Fin 8)
  /-- V_SUB (R45): Computes D = A − B in FP32 with RNE -/
  | vSub (t : Fin 8)
  /-- V_MUL (R45): Computes D = A × B in FP32 with RNE -/
  | vMul (t : Fin 8)
  /-- V_FMA (R45): Computes D = A × B + C, rounded once -/
  | vFma (t : Fin 8)
  /-- V_MIN (R45): Computes the IEEE minimum of A and B -/
  | vMin (t : Fin 8)
  /-- V_MAX (R45): Computes the IEEE maximum of A and B -/
  | vMax (t : Fin 8)
  /-- V_DIV (R45): Computes D = A × rcp(B), which rounds twice -/
  | vDiv (t : Fin 8)
  /-- V_RCP (R45): Computes the correctly rounded reciprocal of A -/
  | vRcp (t : Fin 8)
  /-- V_SQRT (R45): Computes the correctly rounded square root of A -/
  | vSqrt (t : Fin 8)
  /-- V_RSQRT (R45): Computes the correctly rounded reciprocal square root of A -/
  | vRsqrt (t : Fin 8)
  /-- V_EXP2 (R47): Computes exp2(A) by the fixed algorithm -/
  | vExp2 (t : Fin 8)
  /-- V_LOG2 (R47): Computes log2(A) by the fixed algorithm -/
  | vLog2 (t : Fin 8)
  /-- V_TANH (R47): Computes tanh(A) by the fixed algorithm -/
  | vTanh (t : Fin 8)
  /-- V_ERF (R47): Computes erf(A) by the fixed algorithm -/
  | vErf (t : Fin 8)
  /-- V_ABS (R102): Clears the sign bit of A, with NaN and poison handled as in R28 and R30 -/
  | vAbs (t : Fin 8)
  /-- V_CVT (R108): Converts A from SRC_FMT to DST_FMT under the conversion rules and scale recipes -/
  | vCvt (t : Fin 8)
  /-- V_RSUM (R46): Reduces A by sum over the fixed tree into D[0] -/
  | vRsum (t : Fin 8)
  /-- V_RMAX (R46): Reduces A by maximum over the fixed tree into D[0] -/
  | vRmax (t : Fin 8)
  /-- V_RMIN (R46): Reduces A by minimum over the fixed tree into D[0] -/
  | vRmin (t : Fin 8)
  /-- CE_COPY (R143): Checks, then copies, converts, transposes or gleaner-gathers runs between address spaces -/
  | ceCopy (t : Fin 8)
  /-- CE_FILL (R147): Fills the destination runs with the repeated 64-bit pattern -/
  | ceFill (t : Fin 8)
  /-- WN_GATHER (R229): All-gathers peers' shards into staging slots in rank order and signals PROG_TALLY once per shard -/
  | wnGather (b : Fin 4)
  /-- WN_RSCAT (R214): Runs the mesh stage and then the ring reduce-scatter of GS16 gradients for the bay's part -/
  | wnRscat (b : Fin 4)
  /-- WN_HEALTH (R209): Samples the numeric and escalation flag banks and runs the recursive-doubling OR across the ranks -/
  | wnHealth (b : Fin 4)
  /-- INSTRUCTION_COMPLETION (R96): An instruction in progress completes (copy, pass part, vector or collective) and becomes free to signal -/
  | instructionCompletion (q : Fin 52) (id : Nat)
  /-- SIGNAL_RELEASE (R96): The signal field acts once the queue's earlier writes reach their point of coherence, and host visibility too under HOSTFENCE -/
  | signalRelease (q : Fin 52) (id : Nat)
  /-- FLUSH_COMPLETION (R192): A HOSTFENCE flush read returns its completion -/
  | flushCompletion (q : Fin 52) (copy : Nat) (ok : Bool)
  /-- FLUSH_TIMEOUT (R192): A flush read without a successful completion in 50 ms faults the engine with E_HOSTFENCE -/
  | flushTimeout (q : Fin 52) (copy : Nat)
  /-- FETCH (R111): The fetcher reads the next 64 B program sector into the queue buffer when there is room -/
  | fetch (q : Fin 52)
  /-- SWAP (R64): Once the shadow holds the complete tile, the swap wavefront starts at cell (0, 0) -/
  | swap (t : Fin 8) (part : Fin 576)
  /-- PARTITION_FAULT (R75): A parity or residue check fails: the partition halts, gates its tiles and poisons its results in flight -/
  | partitionFault (t : Fin 8) (part : Fin 576) (cause : PartCause)
  /-- PART_STALL (R71): A partition frozen longer than TH_FREEZE_LIMIT takes a partition fault with E_PART_STALL -/
  | partStall (t : Fin 8) (part : Fin 576)
  /-- TH_ORG_COMMIT (R56): Checks the staged organisation and applies it, or sets a refusal status -/
  | thOrgCommit (t : Fin 8) (mode : Fin 2)
  /-- TH_PART_CLEAR (R77): Clears a faulted partition, zeroes its weights and returns it to READY -/
  | thPartClear (t : Fin 8) (part : Fin 576)
  /-- TN_DISABLE (R88): A write to TN_CTL.DISABLE, refused while the turner has an owner -/
  | tnDisable (t : Fin 8) (disable : Bool)
  /-- TN_TEST (R88): Starts the 40 µs turner self-test, refused while the turner has an owner -/
  | tnTest (t : Fin 8)
  /-- TURNER_TEST_DONE (R88): The self-test ends and writes TEST_PASS, or sets REASON FAILED -/
  | turnerTestDone (t : Fin 8) (pass : Bool)
  /-- EN_CONTRACT_WRITE (R92): Selects the contract version; refused if the version is unsupported or a queue is not idle -/
  | enContractWrite (version : Nat)
  /-- QUEUE_STOP (R114): EN_Q_CTL.STOP stops issue and abandons the head wait; the queue goes to STOPPING -/
  | queueStop (q : Fin 52)
  /-- QUEUE_CLEAR (R114): EN_Q_CTL.CLEAR discards a faulted queue's state and zeroes CODE -/
  | queueClear (q : Fin 52)
  /-- QUEUE_QUIESCED (R114): A stopping or cleared queue enters IDLE once everything in progress has completed -/
  | queueQuiesced (q : Fin 52)
  /-- QUEUE_DOORBELL (R110): An 8-byte doorbell write starts queue q at OFFSET, or is refused -/
  | queueDoorbell (q : Fin 52) (value : Nat)
  /-- GROUP_DOORBELL (R110): Starts every queue named in MASK at offset 0, each accepted or refused on its own -/
  | groupDoorbell (value : Nat)
  /-- TL_ALLOC_WRITE (R119): Allocates or frees tallies, zeroing their counts and faulting the waiters of freed tallies -/
  | tlAllocWrite (w : Fin 2048) (value : Nat)
  /-- HOST_SIGNAL (R121): TL_HOST_CTL.GO with OP 0 adds COUNT to a tally after earlier window writes are coherent -/
  | hostSignal (tally : Fin 65536) (count : Nat)
  /-- HOST_ARM (R121): TL_HOST_CTL.GO with OP 1 sets a tally's count -/
  | hostArm (tally : Fin 65536) (count : Nat)
  /-- TL_WDOG_WRITE (R128): Sets a queue's watchdog period and enable, which take effect against the time already elapsed -/
  | tlWdogWrite (q : Fin 52) (value : Nat)
  /-- WAIT_TIMEOUT (R128): A wait reaches PERIOD: the waiter leaves with nothing subtracted and the engine faults -/
  | waitTimeout (q : Fin 52)
  /-- REGION_WRITE (R139): A write to the region table, refused unless all queues are idle and the entry is well formed -/
  | regionWrite (r : Fin 4096) (size : Bool) (value : Nat)
  /-- INTERLEAVE_CHANGE (R17): An accepted GN_CFG.INTERLEAVE change starts holding new HBM accesses -/
  | interleaveChange (mode : Fin 2)
  /-- INTERLEAVE_SWITCH (R17): Once old accesses have completed, within 10 µs, the mapping switches and held accesses are released -/
  | interleaveSwitch
  /-- SCRUB_CHANGE (R166): Changes the patrol scrub mode at the end of the sector being scrubbed -/
  | scrubChange (mode : Fin 4)
  /-- SCRUB_SECTOR (R166): Patrol scrub reads the next sector, writes back corrections or poison, and counts completed passes -/
  | scrubSector (s : Fin 24) (found : SectorFinding)
  /-- RLIST_ENTRY (R173): Appends a repair record that firmware applies now or when its stack trains -/
  | rlistEntry (record : Nat)
  /-- REPAIR_POP (R177): Discards the oldest repair record in GN_REPAIR_EVT -/
  | repairPop
  /-- REPAIR_REQUEST (R168): A row candidate is moved to a spare: the bank is held, the row copied, the redirect loaded and a SOFT record posted -/
  | repairRequest (s : Fin 24) (pch : Fin 64) (bank : Fin 64) (row : Fin 32768)
  /-- QUIET_POINT (R169): After 1 ms of ALL_IDLE with AUTO_HARDEN set, firmware hardens pending repairs stack by stack -/
  | quietPoint
  /-- PACK_TIMEOUT (R160): A partial gleaner packet leaves once PACK_TIMEOUT HBM PHY cycles have passed -/
  | packTimeout (q : Fin 52) (s : Fin 24)
  /-- CHANNEL_RETRAIN (R175): The MC retrains a channel whose parity or CRC errors persist, with accesses waiting -/
  | channelRetrain (s : Fin 24) (ch : Fin 32) (ok : Bool)
  /-- STACK_FAIL (R175): A stack fails: the module enters FAILED_MEMORY and running queues fault with E_STACK_FAILED -/
  | stackFail (s : Fin 24) (reason : StackReason) (ch : Fin 32)
  /-- STACK_TRAINING (R299): Firmware completes the training of a stack, applies its repair entries and marks it TRAINED -/
  | stackTraining (s : Fin 24)
  /-- PS_VREG_WRITE (R195): Writes a versioned-region entry, refused unless its conditions hold -/
  | psVregWrite (v : Fin 64) (which : VregWord) (value : Nat)
  /-- PS_CFG_EN (R16): Turns provisional steps on or off, refused while an epoch is live -/
  | psCfgEn (en : Bool)
  /-- SQUASH_RESTORE (R202): After squashed in-progress work completes, listed tallies are restored and the SQUASH signals -/
  | squashRestore
  /-- EPOCH_FOLD (R203): Background folding of an ended epoch completes, clearing tags and poisoning squashed SCRATCH granules -/
  | epochFold
  /-- HEALTH_TIMEOUT (R210): The health collective has not finished in PS_HEALTH_TIMEOUT, so the result is written with MISSING set -/
  | healthTimeout (b : Fin 4) (id : Nat)
  /-- RANK_COMMIT (R212): Reads and checks the rank list and sets STATUS, VALID and LOG2P -/
  | rankCommit
  /-- COLL_TIMEOUT (R224): A collective still in progress after TIMEOUT faults with E_COLL_TIMEOUT -/
  | collTimeout (b : Fin 4) (id : Nat)
  /-- WR (R359): A received WR frame is checked at the target and its payload written, or refused -/
  | wr (p : Fin 16) (f : Frame)
  /-- RD_REQ (R359): A received read request is checked at the target and answered with RD_CPL or REFUSE -/
  | rdReq (p : Fin 16) (f : Frame)
  /-- RD_CPL (R242): A read completion delivers its data, with poisoned units marked, to the requester -/
  | rdCpl (p : Fin 16) (f : Frame)
  /-- ACK (R242): An acknowledgement of WR frames frees their tags and completes their writes -/
  | ack (p : Fin 16) (f : Frame)
  /-- TL_SIG (R359): A received remote tally signal is checked and counted, or refused -/
  | tlSig (p : Fin 16) (f : Frame)
  /-- TL_ACK (R121): A remote signal's acceptance reaches its source and completes it -/
  | tlAck (p : Fin 16) (f : Frame)
  /-- RING (R218): A received ring partial is added to the local mesh sum and forwarded, or delivered by the owner -/
  | ring (p : Fin 16) (f : Frame)
  /-- RING_ACK (R223): Acknowledges ring partials consumed by the successor's adder -/
  | ringAck (p : Fin 16) (f : Frame)
  /-- HEALTH (R210): A health round frame is received and ORed into the module's value -/
  | health (p : Fin 16) (f : Frame)
  /-- REFUSE (R251): A refusal ends the source instruction with the code that its reason maps to -/
  | refuse (p : Fin 16) (f : Frame)
  /-- LINK_CONTROL (R246): A link-control frame delivers ACK, NAK and credits; a NAK starts a replay -/
  | linkControl (p : Fin 16) (peer : Fin 65536) (lh : LinkHeader)
  /-- LINK_CONTROL_TIMER (R246): A link-control frame is sent at least once every 1 µs -/
  | linkControlTimer (p : Fin 16) (peer : Fin 65536)
  /-- REPLAY_TIMEOUT (R246): No ACK advances for REPLAY_US, so the sender resends from the oldest unacknowledged frame -/
  | replayTimeout (p : Fin 16) (peer : Fin 65536)
  /-- LINK_HOLD_EXPIRY (R247): A down port or peer is not back within HOLD_MS, so unacknowledged frames are discarded and their engines fault -/
  | linkHoldExpiry (p : Fin 16) (peer : Fin 65536)
  /-- TXN_TIMEOUT (R245): A transaction without completion after TXN_TIMEOUT faults with E_REMOTE_TIMEOUT and frees its tag -/
  | txnTimeout (b : Fin 4) (tag : Fin 16384)
  /-- PORT_ENABLE (R236): Writing WN_PORT_CTL.EN = 1 puts the port into QUALIFYING -/
  | portEnable (p : Fin 16)
  /-- PORT_QUALIFY (R237): Firmware reads CMIS, applies the checks and refuses the port or starts training -/
  | portQualify (p : Fin 16) (cmis : Cmis)
  /-- PORT_UP (R236): Training locks and the partner's first link-control frame puts the port UP -/
  | portUp (p : Fin 16)
  /-- TRAIN_FAIL (R236): Training does not finish within 2 s, so the port goes DOWN with TRAIN_FAIL -/
  | trainFail (p : Fin 16)
  /-- PORT_DISABLE (R238): Writing EN = 0 stops the port at once and puts it into DISABLED -/
  | portDisable (p : Fin 16)
  /-- PLUGGABLE_REMOVED (R238): Removing a pluggable puts an UP port DOWN with NO_MODULE -/
  | pluggableRemoved (p : Fin 16)
  /-- PORT_BUDGET_WRITE (R238): Lowers a port's power budget; a budget below the module's power sets OVER_BUDGET -/
  | portBudgetWrite (p : Fin 16) (value : Nat)
  /-- FRAMING_WRITE (R16): Sets direct or switched framing, refused while the port is enabled -/
  | framingWrite (p : Fin 16) (framing : Fin 2)
  /-- PORT_RETRAIN (R234): Firmware retrains an UP port at 200 Gb/s per lane after entry to Full service -/
  | portRetrain (p : Fin 16)
  /-- WAKE_SEND (R253): Sends the wake pattern once on a DISABLED or DOWN port -/
  | wakeSend (p : Fin 16)
  /-- PW_DOM_WRITE (R256): Requests a power domain off or on, refused unless its condition holds -/
  | pwDomWrite (d : Fin 20) (off : Bool)
  /-- DOMAIN_SWITCHED (R257): A domain completes going off or coming on, discarding or reinitialising what it holds -/
  | domainSwitched (d : Fin 20)
  /-- ENTER_IDLE (R260): PW_STATE.REQ = 1 gates clocks and puts HBM into self-refresh, or is refused -/
  | enterIdle
  /-- LEAVE_IDLE (R260): PW_STATE.REQ = 3 or a waking access returns the module to Active within 10 µs -/
  | leaveIdle (access : Bool)
  /-- ENTER_DORMANT (R261): PW_STATE.REQ = 2 puts ports into low power, the link into L2 and all domains off -/
  | enterDormant
  /-- WAKE (R262): A wake source detected in Dormant is recorded and triggers a reset with cause WAKE -/
  | wake (seen : WakeSeen)
  /-- PW_PROFILE_WRITE (R263): Sets the power profile, which sets the cap and the P-state ceiling -/
  | pwProfileWrite (value : Nat)
  /-- PW_CAP_WRITE (R263): Sets the power cap from 900 W to 2,800 W -/
  | pwCapWrite (value : Nat)
  /-- PW_PRIO_WRITE (R266): Sets the bubble priority order; values that are not a permutation are refused -/
  | pwPrioWrite (value : Nat)
  /-- CAP_LOOP_PERIOD (R265): Every 10 µs the loop compares PW_MEAS with the cap and adjusts the bubble fractions -/
  | capLoopPeriod (meas : List Nat)
  /-- AUTO_PSTATE_STEP (R269): After 1 ms above 1/2 or below 1/8 compute bubbles, a thresher's P-state steps down or up -/
  | autoPstateStep (t : Fin 8)
  /-- PSTATE_CHANGE (R259): A thresher island switches frequency and moves its voltage -/
  | pstateChange (t : Fin 8)
  /-- CALIBRATION_TICK (R264): Every 1 ms firmware corrects the domain estimator gains against the current sense -/
  | calibrationTick (gains : List Gain)
  /-- DROOP (R270): A droop detector fires and the thresher inserts bubbles in every cycle -/
  | droop (t : Fin 8)
  /-- DROOP_HOLD_EXPIRY (R270): HOLD cycles after the last firing, droop bubbles end -/
  | droopHoldExpiry (t : Fin 8)
  /-- PW_ALERT_ASSERT (R271): PW_ALERT_N low puts the module into the Floor state within 1 µs -/
  | pwAlertAssert
  /-- FLOOR_HOLD_EXPIRY (R271): HOLD_MS after the alert is released, the P-states start returning to policy -/
  | floorHoldExpiry
  /-- FLOOR_RETURN_STEP (R271): Every 50 µs the P-states step one step back toward policy -/
  | floorReturnStep
  /-- SENSOR_SAMPLE (R274): Every 100 µs each temperature sensor is read and self-checked -/
  | sensorSample (i : Sensor) (temp : Nat) (ok : Bool)
  /-- THROTTLE_STEP (R275): Every 1 ms or 10 ms a hot thresher steps down, or a cooled one steps up -/
  | throttleStep (t : Fin 8)
  /-- THERMTRIP (R276): A trip comparator crosses: THERMTRIP_N is asserted, domains go off and the trip record is written -/
  | thermtrip (i : Sensor)
  /-- CK_ISL_SRC_WRITE (R287): Host software requests an island clock source; the request is refused if a higher owner holds the island -/
  | ckIslSrcWrite (i : Fin 43) (src : Fin 4)
  /-- ISLAND_SWITCH (R286): An island switches its clock source, losing 32 cycles of the old clock and 32 of the new -/
  | islandSwitch (i : Fin 43)
  /-- METER_GO (R289): Starts frequency meter 1 or 2 -/
  | meterGo (m : Fin 3) (meas : Fin 64) (gate : Fin 64)
  /-- METER_DONE (R289): The gate of N edges ends and COUNT is stored -/
  | meterDone (m : Fin 3) (count : Nat)
  /-- NO_GATE (R289): No gate edge for 64 SOSC cycles ends the meter with NO_GATE -/
  | noGate (m : Fin 3)
  /-- MONITOR_WINDOW (R290): Each 200-SOSC-cycle window's REFCLK count is judged pass or fail -/
  | monitorWindow (count : Nat)
  /-- PLL_LOCK (R293): PLLs lock after qualification and the islands are restored in order -/
  | pllLock
  /-- CLK_TIMEOUT (R294): The episode timeout expires before qualification, so the module resets with cause CLK -/
  | clkTimeout
  /-- CK_SNAP (R295): Latches every island cycle counter into its snapshot register -/
  | ckSnap
  /-- POWER_ON (R297): The 48 V input is applied and a POWER (or THERM) reset begins -/
  | powerOn
  /-- POWER_LOSS (R354): The input below 38 V for 100 µs shuts down every power stage -/
  | powerLoss
  /-- PERST_ASSERT (R297): PERST_N low holds the module in reset -/
  | perstAssert
  /-- PERST_RELEASE (R299): PERST_N release starts the boot ROM, once input and REFCLK are stable -/
  | perstRelease
  /-- HOT_RESET (R297): A PCIe Hot Reset, or the link down for over 1 ms, resets with cause HOTRST -/
  | hotReset (cause : HotCause)
  /-- FLR (R297): A Function Level Reset resets the module with the link up -/
  | flr
  /-- ER_RESET_KEY (R297): Writing 0xD1E5 to ER_RESET.KEY starts a SOFT reset -/
  | erResetKey (key : Nat)
  /-- BOOT_ROM (R299): The boot ROM reads fuses and identity, records the cause and trains PCIe -/
  | bootRom
  /-- STAGING_WRITE (R331): A write into the firmware staging aperture, dropped while verifying or running -/
  | stagingWrite (offset : Nat) (data : List Byte)
  /-- FW_GO (R331): HI_FW_CTL.GO starts verification of the staged image -/
  | fwGo (length : Nat)
  /-- FW_VERIFY_DONE (R330): Verification ends: the image is refused with REASON, or started at ENTRY -/
  | fwVerifyDone
  /-- FRU_READ (R341): Firmware reads the carrier FRU record and loads the budgets, or the defaults -/
  | fruRead (rec : Fru)
  /-- LIST_DONE (R300): Setting ER_BRINGUP.LIST_DONE lets stack training start -/
  | listDone
  /-- BIST_DONE (R303): A bay's thresher and turner BIST ends and sets pass or fail -/
  | bistDone (b : Fin 4) (arrays : Fin 4) (turners : Fin 4)
  /-- REDUCED (R299): Bay 0 is ready, so STATE becomes REDUCED and a bring-up event is posted -/
  | reduced
  /-- BRINGUP_COMPLETE (R302): All stacks are trained, BIST results exist and enabled ports are settled, so COMPLETE is set -/
  | bringupComplete
  /-- REQ_FULL (R305): Requests Full service; refused unless bring-up is complete and queues are idle -/
  | reqFull
  /-- BAY_FAULT (R307): A bay fault stops the bay's queues, ports, stacks and tallies until reset -/
  | bayFault (b : Fin 4) (cause : BayCause)
  /-- MODULE_FATAL (R308): A module-fatal event faults all queues, refuses starts and freezes the fatal record -/
  | moduleFatal (cause : FatalCause)
  /-- MC_WDOG (R308): The MC hardware watchdog unserved for 100 ms raises E_MC_WDOG -/
  | mcWdog
  /-- MESH_LINK_RETRAIN (R307): The MC retrains a failing mesh link; continued failure is a bay fault -/
  | meshLinkRetrain (b : Fin 4) (ok : Bool)
  /-- LOG_POP (R312): ER_LOG_POP discards the oldest unread log record -/
  | logPop
  /-- GPIO_WRITE (R315): Claims, drives or releases a sideband GPIO pin; non-owners are refused with BUSY -/
  | gpioWrite (n : Fin 4) (value : Nat)
  /-- ATTENTION_EDGE (R315): A falling edge on an attention-input pin sets ATTN -/
  | attentionEdge (n : Fin 4)
  /-- MEMORY_WINDOW_READ (R323): A host read through BAR 2 is served at the point of coherence or ends as Unsupported Request -/
  | memoryWindowRead (addr : Nat) (len : Nat)
  /-- MEMORY_WINDOW_WRITE (R323): A host write through BAR 2 is written, merged or dropped -/
  | memoryWindowWrite (addr : Nat) (data : List Byte) (ep : Bool)
  /-- MWIN_OFFSET_WRITE (R322): Sets the window address of BAR byte 0; misaligned values are refused -/
  | mwinOffsetWrite (value : Nat)
  /-- BAR_RESIZE (R322): Resizing BAR 2 sets HI_MWIN_OFFSET to 0 -/
  | barResize (log2 : Nat)
  /-- EVENT_RELEASE (R326): A held event is written once the ring has room or the link is up -/
  | eventRelease
  /-- EVT_HEAD_WRITE (R326): Host software advances HEAD; a value that would pass TAIL is ignored -/
  | evtHeadWrite (value : Nat)
  /-- EVT_CFG_WRITE (R326): Enables or disables the event ring, zeroing HEAD and TAIL or discarding held records -/
  | evtCfgWrite (value : Nat)
  /-- GET_VERSION (R328): Mailbox command returning the running image's VERSION and SVN -/
  | getVersion
  /-- HARDEN (R328): Mailbox command that hardens every pending repair and spare retirement -/
  | harden
  /-- RETRAIN_STACK (R328): Mailbox command that retrains a stack while all queues are idle -/
  | retrainStack
  /-- RETRAIN_PORT (R328): Mailbox command that retrains an enabled port that is UP or DOWN -/
  | retrainPort
  /-- CALIBRATE (R328): Mailbox command that repeats the power calibration -/
  | calibrate
  /-- RAISE_SVN (R328): Mailbox command that raises the fused SVN, up to the running image's SVN -/
  | raiseSvn
  /-- REVOKE_KEY (R328): Mailbox command that fuses a root key slot as revoked, unless it is protected -/
  | revokeKey
  /-- REREAD_FRU (R328): Mailbox command that reads the carrier FRU record again -/
  | rereadFru
  /-- MAILBOX_DONE (R327): A long mailbox command ends with a completion record and vector 2 -/
  | mailboxDone (tag : Nat) (ok : Bool)
  /-- MBX_POP (R345): Discards the record in MC_MBX_DONE -/
  | mbxPop
  /-- GET_STATE (R334): Sideband command returning service state, reset cause, wake record and alerts -/
  | getState
  /-- SET_PROFILE (R334): Sideband command that writes PW_PROFILE -/
  | setProfile (value : Nat)
  /-- SET_CAP (R334): Sideband command that writes PW_CAP -/
  | setCap (value : Nat)
  /-- SET_SCRUB (R334): Sideband command that writes GN_CFG.SCRUB -/
  | setScrub (value : Nat)
  /-- DORMANT (R334): Sideband command requesting Dormant; BUSY when refused -/
  | dormant
  /-- SIDEBAND_WAKE (R334): Sideband WAKE command that wakes the module from Dormant -/
  | sidebandWake
  /-- SOFT_RESET (R334): Sideband command that starts a SOFT reset when given key 0xD1E5 -/
  | softReset (key : Nat)
  /-- GPIO (R334): Sideband command that claims, releases, reads or drives a GPIO pin as owner 3 -/
  | gpio (n : Fin 4) (act : GpioAct)
  /-- ALERT_ACK (R336): Sideband command that clears the named HI_ALERT bits -/
  | alertAck (mask : Nat)
  /-- SET_ENDPOINT_ID (R333): MCTP control command by which the bus owner assigns the endpoint ID -/
  | setEndpointId (eid : Nat)
  /-- GETPDR (R337): PLDM command returning the platform descriptor records -/
  | getPdr
  /-- GETSENSORREADING (R337): PLDM command returning a numeric sensor value -/
  | getSensorReading (id : Nat)
  /-- GETSTATESENSORREADINGS (R337): PLDM command returning state sensor values -/
  | getStateSensorReadings (id : Nat)
  /-- POLLFORPLATFORMEVENTMESSAGE (R337): PLDM command returning a queued platform event -/
  | pollForPlatformEventMessage
  /-- SENSOR_REFRESH (R337): Firmware refreshes the sideband sensor values at least every 100 ms -/
  | sensorRefresh
  /-- SPDM_GET_VERSION (R339): SPDM request returning the supported SPDM version -/
  | spdmGetVersion
  /-- GET_CAPABILITIES (R339): SPDM request returning the responder's capabilities -/
  | getCapabilities
  /-- NEGOTIATE_ALGORITHMS (R339): SPDM request that settles Ed25519 and SHA-512 -/
  | negotiateAlgorithms (asym : Nat) (hash : Nat)
  /-- GET_DIGESTS (R339): SPDM request returning the certificate chain digest of slot 0 -/
  | getDigests
  /-- GET_CERTIFICATE (R339): SPDM request returning the slot 0 chain -/
  | getCertificate (offset : Nat) (len : Nat)
  /-- CHALLENGE (R339): SPDM request answered with a response signed by the module key -/
  | challenge (nonce : List Byte)
  /-- GET_MEASUREMENTS (R340): SPDM request returning the signed measurement indices -/
  | getMeasurements (index : Nat) (nonce : List Byte)
  /-- REGISTER_WRITE (R358): A write to a register without a row of its own, judged field by field under the access codes -/
  | registerWrite (offset : Nat) (wide : Bool) (value : Nat)
  /-- BAD_CRC_OR_GAP (R246): A received link frame with a bad link CRC-32 or an LSEQ gap is discarded with every later frame until the expected LSEQ arrives, and one NAK is sent -/
  | badCrcOrGap (p : Fin 16) (peer : Fin 65536) (bad : BadFrame)
  /-- PW_ALERT_RELEASE (R271): PW_ALERT_N returns high and the Floor hold of PW_ALERT.HOLD_MS starts -/
  | pwAlertRelease
  deriving DecidableEq, Repr

end Sys2Proof
end

