-- ==== Sys2Proof/Config.lean ====
section
/-! DEFINITION. What the module fixes: the sizes of R13, R115, R152 and R131, and the values the spec leaves open,
which are constants without a body. -/

namespace Sys2Proof.Config

/-- A value the spec does not fix (assumption log entry 2): the free value taken with counter value `n`. Nothing
constrains it; State.freeCtr says which one is taken next. -/
opaque freeValue : Nat → BitVec 64

/-- The exponent code of a GS16 block for which the first-step rule of R44 gives a negative number (assumption log entry
45). Nothing constrains it. -/
opaque lowExponent : Int → BitVec 8

/-- The signature of a message under the module's Ed25519 key, which never leaves the module (R338). -/
opaque sign : List Byte → List Byte

/-- Bytes of one HBM stack (R152). -/
def stackBytes : Nat := 2 ^ 37

/-- Bytes of HBM (R13, R154): 24 stacks. -/
def hbmBytes : Nat := 24 * 2 ^ 37

/-- Bytes of one loft (R131). -/
def loftBytes : Nat := 201326592

/-- Where loft t begins in the numbering of physical places and of the memory window (R322). -/
def loftBase (t : Nat) : Nat := 0x030000000000 + 0x10000000 * t

/-- Engine queues (R94). -/
def queues : Nat := 52

/-- Instructions a queue buffer holds (R94). -/
def queueDepth : Nat := 4096

end Sys2Proof.Config
end

