-- ==== Sys2Proof/Machine/Codes.lean ====
section
/-! DEFINITION. The E_ codes of R310: names, 16-bit values and classes (R306). -/

namespace Sys2Proof.Machine

/-- The codes of R310, without their E_. -/
inductive E where
  | loftCe | hbmCe | turnerCe | fabricCrc | rowRepair | portDown | refclkFail | stackRetrain | loftUe | hbmUe | turnerUe | fabricPoison | gatherPoison | rowRetired | hostWrDrop | opcode | engineClass | encoding | fetchBounds | fetchPoison | loopDepth | loopNest | branchLoop | launchBusy | descAlign | descSpace | descConv | descBounds | formatPair | chunkAlign
  | partNone | passMismatch | poison | stackOffline | domainOff | vregDirect | turnerBusy | turnerOff | turnerNotHeld | tallyMisuse | waitTimeout | hostfence | provOwner | provOff | provDepth | provOrder | provNone | provView | provEscape | rankNone | collMismatch | collShape | collTimeout | remoteTimeout | linkDown | gradOverflow | cellParity | accResidue | partStall | bistFail | bayFault | tallyStore | meshLink | bayInternal | moduleFatal | stackFailed | mcWdog | aoInternal
  deriving DecidableEq, Repr

/-- The value of a code and its class (R306; 6 for a status code, R311). -/
def E.info : E → Nat × Nat
  | .loftCe => (0x0001, 0)
  | .hbmCe => (0x0002, 0)
  | .turnerCe => (0x0003, 0)
  | .fabricCrc => (0x0004, 0)
  | .rowRepair => (0x0005, 0)
  | .portDown => (0x0006, 0)
  | .refclkFail => (0x0007, 0)
  | .stackRetrain => (0x0008, 0)
  | .loftUe => (0x0010, 1)
  | .hbmUe => (0x0011, 1)
  | .turnerUe => (0x0012, 1)
  | .fabricPoison => (0x0013, 1)
  | .gatherPoison => (0x0014, 1)
  | .rowRetired => (0x0015, 1)
  | .hostWrDrop => (0x0016, 1)
  | .opcode => (0x0101, 2)
  | .engineClass => (0x0102, 2)
  | .encoding => (0x0103, 2)
  | .fetchBounds => (0x0104, 2)
  | .fetchPoison => (0x0105, 2)
  | .loopDepth => (0x0106, 2)
  | .loopNest => (0x0107, 2)
  | .branchLoop => (0x0108, 2)
  | .launchBusy => (0x0109, 2)
  | .descAlign => (0x0110, 2)
  | .descSpace => (0x0111, 2)
  | .descConv => (0x0112, 2)
  | .descBounds => (0x0113, 2)
  | .formatPair => (0x0114, 2)
  | .chunkAlign => (0x0115, 2)
  | .partNone => (0x0116, 2)
  | .passMismatch => (0x0117, 2)
  | .poison => (0x0118, 2)
  | .stackOffline => (0x0119, 2)
  | .domainOff => (0x011A, 2)
  | .vregDirect => (0x011B, 2)
  | .turnerBusy => (0x0120, 2)
  | .turnerOff => (0x0121, 2)
  | .turnerNotHeld => (0x0122, 2)
  | .tallyMisuse => (0x0128, 2)
  | .waitTimeout => (0x0129, 2)
  | .hostfence => (0x012A, 2)
  | .provOwner => (0x0130, 2)
  | .provOff => (0x0131, 2)
  | .provDepth => (0x0132, 2)
  | .provOrder => (0x0133, 2)
  | .provNone => (0x0134, 2)
  | .provView => (0x0135, 2)
  | .provEscape => (0x0136, 2)
  | .rankNone => (0x0140, 2)
  | .collMismatch => (0x0141, 2)
  | .collShape => (0x0142, 2)
  | .collTimeout => (0x0143, 2)
  | .remoteTimeout => (0x0144, 2)
  | .linkDown => (0x0145, 2)
  | .gradOverflow => (0x0148, 6)
  | .cellParity => (0x0201, 3)
  | .accResidue => (0x0202, 3)
  | .partStall => (0x0203, 3)
  | .bistFail => (0x0204, 3)
  | .bayFault => (0x0300, 4)
  | .tallyStore => (0x0301, 4)
  | .meshLink => (0x0302, 4)
  | .bayInternal => (0x0303, 4)
  | .moduleFatal => (0x0400, 5)
  | .stackFailed => (0x0401, 5)
  | .mcWdog => (0x0402, 5)
  | .aoInternal => (0x0403, 5)

/-- The 16-bit value of a code (R310). -/
def E.val (e : E) : Nat := e.info.1

/-- The class of a code (R306, R310). -/
def E.cls (e : E) : Nat := e.info.2

end Sys2Proof.Machine
end

