-- ==== Sys2Proof/Machine/Regs.lean ====
section
/-! DEFINITION. The register map of the control window (R320) and the field tables of every block, transcribed from
the Registers sections of spec/: one name per register (`Reg`), one per field (`F`), with offsets, instance counts,
bit places, access codes (R8) and reset values. -/

namespace Sys2Proof.Machine

/-- The access codes of R8. -/
inductive Access where
  | rw | ro | w1c | w1s | wo | sc | rwl
  deriving DecidableEq, Repr

/-- Where a register stands (R320): `base` is its window offset, `n1`, `s1` the count and byte stride of its first
instance number, `n2`, `s2` of its second (1 and 0 where it has none), `wide` the mark "64-bit" of R7. -/
structure RegInfo where
  base : Nat
  wide : Bool
  n1 : Nat
  s1 : Nat
  n2 : Nat
  s2 : Nat
  deriving DecidableEq, Repr

/-- The registers, one constructor each, in the order of the spec's tables. -/
inductive Reg where
  -- 03_threshers.md, Registers
  | TH_ORG
  | TH_STAT
  | TH_FREEZE_LIMIT
  | TH_ACTIVE_CNT
  | TH_FREEZE_CNT
  | TH_SWAP_WAIT_CNT
  | TH_PART_CFG
  | TH_PART_STAT
  | TH_PART_CTL
  | TH_PART_FREEZE
  -- 04_backward_and_turner.md, Registers
  | TN_CTL
  | TN_STAT
  | TN_REFUSE_CNT
  | TN_ECC
  | TN_SQUARE_CNT
  | TN_HELD_CNT
  -- 05_folyqua_engines.md, R115
  | ID_CAP_CONTRACT
  | ID_CAP_CONTRACT_MIN
  | ID_CAP_BAYS
  | ID_CAP_THRESHERS
  | ID_CAP_ROWS
  | ID_CAP_COLS
  | ID_CAP_TILE
  | ID_CAP_PARTS
  | ID_CAP_LOFT_BYTES
  | ID_CAP_LOFT_BANKS
  | ID_CAP_VLANES
  | ID_CAP_STACKS
  | ID_CAP_STACK_BYTES
  | ID_CAP_HBM_BYTES
  | ID_CAP_PORTS
  | ID_CAP_PORT_LANES
  | ID_CAP_TALLIES
  | ID_CAP_BAY_TALLIES
  | ID_CAP_QUEUES
  | ID_CAP_QDEPTH
  | ID_CAP_LOOPS
  | ID_CAP_REGIONS
  | ID_CAP_TAGS
  | ID_CAP_MODULES
  | ID_CAP_FORMATS
  | ID_CAP_TURNER
  | ID_CAP_MAX_STEPS
  | ID_CAP_CH_DEPTH
  | ID_CAP_CE_DEPTH
  | ID_CAP_WN_DEPTH
  | ID_CAP_VE_DEPTH
  -- 05_folyqua_engines.md, R116
  | EN_CONTRACT
  | EN_STAT
  | EN_RNG_SEED_LO
  | EN_RNG_SEED_HI
  | EN_Q_CTL
  | EN_Q_STAT
  | EN_Q_PRG_BASE
  | EN_Q_PRG_SIZE
  | EN_Q_PC
  | EN_Q_FAULT_PC
  | EN_Q_ISSUED
  | EN_Q_CR
  -- 06_tallies.md, R130
  | TL_JOB
  | TL_STAT
  | TL_OVF_FIRST
  | TL_MISUSE_LAST
  | TL_REMOTE_LAST
  | TL_REMOTE_REFUSE_CNT
  | TL_HOST_OP
  | TL_HOST_CTL
  | TL_WDOG
  | TL_WAIT
  | TL_ALLOC
  | TL_OVF
  | TL_COUNT
  -- 07_lofts_and_copies.md, R151
  | LF_STAT
  | LF_BOUNDS_LAST
  | LF_BOUNDS_ADDR
  | LF_BOUNDS_CNT
  | LF_REMOTE_REFUSE_CNT
  | LF_ECC
  | LF_FABRIC
  | LF_FLOOR_CNT
  | LF_REGION_BASE
  | LF_REGION_SIZE
  -- 08_granary.md, R177
  | GN_CFG
  | GN_STAT
  | GN_STACK_TRAINED
  | GN_STACK_FAILED
  | GN_REPAIR_CFG
  | GN_RLIST_ENTRY
  | GN_RLIST_CTL
  | GN_REPAIR_EVT
  | GN_REPAIR_POP
  | GN_STACK_STAT
  | GN_ECC_ODC
  | GN_ECC_CE
  | GN_ECC_UE
  | GN_SPARE
  | GN_SCRUB_PASS
  | GN_ID
  -- 08_granary.md, R178
  | GL_CFG
  | GL_STAT
  | GL_ITEMS
  | GL_PACKETS
  | GL_POISON
  | GL_TIMEOUT_CNT
  -- 10_provisional_steps.md, R211
  | PS_CFG
  | PS_HEALTH_TIMEOUT
  | PS_STAT
  | PS_EPOCH_OPEN
  | PS_EPOCH_CLOSED
  | PS_EPOCH_LAST
  | PS_CONFIRM_CNT
  | PS_SQUASH_CNT
  | PS_ESC_FLAG
  | PS_STALL_CNT
  | PS_DISCARD_CNT
  | PS_NUMFLAG
  | PS_VREG_A
  | PS_VREG_B
  | PS_VREG_CFG
  -- 11_gradient_and_parameter_traffic.md, R232
  | WN_RANK_BASE
  | WN_RANK_COUNT
  | WN_RANK_SELF
  | WN_RANK_CTL
  | WN_DIG_BASE
  | WN_DIG_CFG
  | WN_COLL_CFG
  | WN_COLL_STAT
  | WN_SAT_CNT
  | WN_ESC_CNT
  -- 12_ports_and_wain.md, R254
  | WN_ID
  | WN_STAT
  | WN_ETH
  | WN_MAC_PREFIX
  | WN_LINK_CFG
  | WN_PORT_CTL
  | WN_PORT_STAT
  | WN_PORT_BUDGET
  | WN_PORT_ERR
  | WN_PORT_FEC
  | WN_PORT_DROP
  | WN_ROUTE
  -- 13_power_limits_thermal.md, R279
  | PW_PROFILE
  | PW_CAP
  | PW_PSTATE
  | PW_PRIO
  | PW_LOOP_CFG
  | PW_STAT
  | PW_MEAS
  | PW_BUBBLE_FRAC
  | PW_ENERGY
  | PW_POLICY_HELD
  | PW_ALERT
  | PW_STATE
  | PW_WAKE_LAST
  | PW_DROOP_CFG
  | PW_DOM
  | PW_THR_STAT
  | PW_DROOP_CNT
  | PW_BUBBLE_CNT
  -- 13_power_limits_thermal.md, R280
  | TM_LIMIT
  | TM_TRIP
  | TM_STAT
  | TM_THROTTLE_CNT
  | TM_TEMP
  | TM_STACK_TEMP
  -- 14_clock_islands.md, R296
  | CK_STAT
  | CK_FAIL_CFG
  | CK_FAIL_STAT
  | CK_MON
  | CK_SNAP
  | CK_METER_CTL
  | CK_METER_N
  | CK_METER_CNT
  | CK_ISL_CTL
  | CK_ISL_STAT
  | CK_ISL_CYCLES
  | CK_ISL_SNAP
  | CK_ISL_SWITCHES
  -- 15_bringup_reduced_service_errors.md, R316
  | ER_RESET_CAUSE
  | ER_RESET
  | ER_SERVICE
  | ER_BRINGUP
  | ER_STAT
  | ER_BAY_FAULT
  | ER_CLASS_CNT
  | ER_LOG_STAT
  | ER_LOG_POP
  | ER_LOG_DATA
  | ER_FATAL
  | ER_GPIO
  -- 16_host_firmware_identity.md, R343
  | ID_VENDOR
  | ID_REV
  | ID_SERIAL
  | ID_FUSE_CFG
  | ID_SVN
  | ID_BOARD
  | ID_CERT_LEN
  | ID_PUBKEY
  | ID_FW_DIGEST
  | ID_CERT
  -- 16_host_firmware_identity.md, R344
  | HI_MWIN_OFFSET
  | HI_STAT
  | HI_FW_CTL
  | HI_FW_STAT
  | HI_EVT_BASE
  | HI_EVT_CFG
  | HI_EVT_HEAD
  | HI_EVT_TAIL
  | HI_EVT_DROP
  | HI_ALERT
  -- 16_host_firmware_identity.md, R345
  | MC_MBX_CMD
  | MC_MBX_CTL
  | MC_MBX_STAT
  | MC_MBX_RES
  | MC_MBX_DONE
  | MC_MBX_POP
  | MC_FW_VER
  deriving DecidableEq, Repr

/-- The fields, one constructor each, named register_field. -/
inductive F where
  | TH_ORG_MODE | TH_ORG_COMMIT | TH_ORG_STATUS | TH_ORG_CUR_MODE | TH_ORG_NPART
  | TH_STAT_STREAMING | TH_STAT_FROZEN | TH_STAT_SWAP_WAIT | TH_STAT_NFAULT | TH_STAT_GATED
  | TH_FREEZE_LIMIT_LIMIT
  | TH_ACTIVE_CNT_COUNT
  | TH_FREEZE_CNT_COUNT
  | TH_SWAP_WAIT_CNT_COUNT
  | TH_PART_CFG_ROW_ORG | TH_PART_CFG_COL_ORG | TH_PART_CFG_HEIGHT | TH_PART_CFG_WIDTH | TH_PART_CFG_EN
  | TH_PART_STAT_STATE | TH_PART_STAT_DROP | TH_PART_STAT_CODE
  | TH_PART_CTL_CLEAR
  | TH_PART_FREEZE_COUNT
  | TN_CTL_DISABLE | TN_CTL_TEST
  | TN_STAT_OWNER | TN_STAT_AVAIL | TN_STAT_REASON | TN_STAT_TEST_PASS | TN_STAT_CTL_REFUSED | TN_STAT_STRAY_FREE
  | TN_REFUSE_CNT_COUNT
  | TN_ECC_CE | TN_ECC_UE
  | TN_SQUARE_CNT_COUNT
  | TN_HELD_CNT_COUNT
  | ID_CAP_CONTRACT_VALUE
  | ID_CAP_CONTRACT_MIN_VALUE
  | ID_CAP_BAYS_VALUE
  | ID_CAP_THRESHERS_VALUE
  | ID_CAP_ROWS_VALUE
  | ID_CAP_COLS_VALUE
  | ID_CAP_TILE_VALUE
  | ID_CAP_PARTS_VALUE
  | ID_CAP_LOFT_BYTES_VALUE
  | ID_CAP_LOFT_BANKS_VALUE
  | ID_CAP_VLANES_VALUE
  | ID_CAP_STACKS_VALUE
  | ID_CAP_STACK_BYTES_VALUE
  | ID_CAP_HBM_BYTES_VALUE
  | ID_CAP_PORTS_VALUE
  | ID_CAP_PORT_LANES_VALUE
  | ID_CAP_TALLIES_VALUE
  | ID_CAP_BAY_TALLIES_VALUE
  | ID_CAP_QUEUES_VALUE
  | ID_CAP_QDEPTH_VALUE
  | ID_CAP_LOOPS_VALUE
  | ID_CAP_REGIONS_VALUE
  | ID_CAP_TAGS_VALUE
  | ID_CAP_MODULES_VALUE
  | ID_CAP_FORMATS_VALUE
  | ID_CAP_TURNER_VALUE
  | ID_CAP_MAX_STEPS_VALUE
  | ID_CAP_CH_DEPTH_VALUE
  | ID_CAP_CE_DEPTH_VALUE
  | ID_CAP_WN_DEPTH_VALUE
  | ID_CAP_VE_DEPTH_VALUE
  | EN_CONTRACT_VERSION
  | EN_STAT_ALL_IDLE | EN_STAT_CFG_REFUSED
  | EN_RNG_SEED_LO_SEED
  | EN_RNG_SEED_HI_SEED
  | EN_Q_CTL_STOP | EN_Q_CTL_CLEAR
  | EN_Q_STAT_STATE | EN_Q_STAT_DB_REFUSED | EN_Q_STAT_CFG_REFUSED | EN_Q_STAT_CODE
  | EN_Q_PRG_BASE_BASE
  | EN_Q_PRG_SIZE_SIZE
  | EN_Q_PC_PC
  | EN_Q_FAULT_PC_PC
  | EN_Q_ISSUED_COUNT
  | EN_Q_CR_CR
  | TL_JOB_TAG | TL_JOB_REMOTE_EN
  | TL_STAT_OVF | TL_STAT_MISUSE | TL_STAT_REMOTE_REFUSED | TL_STAT_CFG_REFUSED | TL_STAT_WDOG_FIRED
  | TL_OVF_FIRST_TALLY | TL_OVF_FIRST_VALID
  | TL_MISUSE_LAST_TALLY | TL_MISUSE_LAST_QUEUE | TL_MISUSE_LAST_REASON
  | TL_REMOTE_LAST_TALLY | TL_REMOTE_LAST_SOURCE
  | TL_REMOTE_REFUSE_CNT_COUNT
  | TL_HOST_OP_TALLY | TL_HOST_OP_COUNT
  | TL_HOST_CTL_OP | TL_HOST_CTL_GO | TL_HOST_CTL_REFUSED
  | TL_WDOG_PERIOD | TL_WDOG_EN
  | TL_WAIT_TALLY | TL_WAIT_NEED
  | TL_ALLOC_BITS
  | TL_OVF_BITS
  | TL_COUNT_COUNT
  | LF_STAT_CFG_REFUSED | LF_STAT_GATHER_RACE | LF_STAT_BOUNDS | LF_STAT_REMOTE_REFUSED
  | LF_BOUNDS_LAST_QUEUE | LF_BOUNDS_LAST_REASON | LF_BOUNDS_LAST_SIDE
  | LF_BOUNDS_ADDR_LO
  | LF_BOUNDS_CNT_COUNT
  | LF_REMOTE_REFUSE_CNT_COUNT
  | LF_ECC_CE | LF_ECC_UE
  | LF_FABRIC_RESEND | LF_FABRIC_FAIL
  | LF_FLOOR_CNT_COUNT
  | LF_REGION_BASE_BASE
  | LF_REGION_SIZE_SIZE | LF_REGION_SIZE_V | LF_REGION_SIZE_RD | LF_REGION_SIZE_WR | LF_REGION_SIZE_RRD | LF_REGION_SIZE_RWR
  | GN_CFG_INTERLEAVE | GN_CFG_SCRUB
  | GN_STAT_BUSY | GN_STAT_FAILED_MEMORY | GN_STAT_REPAIR_PENDING | GN_STAT_HARDENING
  | GN_STACK_TRAINED_STACKS
  | GN_STACK_FAILED_STACKS
  | GN_REPAIR_CFG_THRESH | GN_REPAIR_CFG_AUTO_HARDEN | GN_REPAIR_CFG_LOCK
  | GN_RLIST_ENTRY_RECORD
  | GN_RLIST_CTL_COUNT | GN_RLIST_CTL_REFUSED
  | GN_REPAIR_EVT_RECORD
  | GN_REPAIR_POP_POP | GN_REPAIR_POP_VALID | GN_REPAIR_POP_LOST
  | GN_STACK_STAT_STATE | GN_STACK_STAT_REASON | GN_STACK_STAT_CHANNEL
  | GN_ECC_ODC_COUNT
  | GN_ECC_CE_COUNT
  | GN_ECC_UE_COUNT
  | GN_SPARE_SOFT | GN_SPARE_RETIRED | GN_SPARE_SPARE_RET
  | GN_SCRUB_PASS_COUNT
  | GN_ID_DATA
  | GL_CFG_PACK_TIMEOUT
  | GL_STAT_CFG_REFUSED
  | GL_ITEMS_COUNT
  | GL_PACKETS_COUNT
  | GL_POISON_COUNT
  | GL_TIMEOUT_CNT_COUNT
  | PS_CFG_EN | PS_CFG_CTL_T
  | PS_HEALTH_TIMEOUT_US
  | PS_STAT_BUSY | PS_STAT_CFG_REFUSED | PS_STAT_OPEN | PS_STAT_CLOSED | PS_STAT_FOLDING | PS_STAT_HOST_WR_DROP | PS_STAT_ESCAPE | PS_STAT_LAST_SQUASHED
  | PS_EPOCH_OPEN_EPOCH
  | PS_EPOCH_CLOSED_EPOCH
  | PS_EPOCH_LAST_EPOCH
  | PS_CONFIRM_CNT_COUNT
  | PS_SQUASH_CNT_COUNT
  | PS_ESC_FLAG_ESC_C | PS_ESC_FLAG_ESC_O | PS_ESC_FLAG_ESC_A
  | PS_STALL_CNT_COUNT
  | PS_DISCARD_CNT_COUNT
  | PS_NUMFLAG_OVF_C | PS_NUMFLAG_NAN_C | PS_NUMFLAG_OVF_O | PS_NUMFLAG_NAN_O | PS_NUMFLAG_OVF_A | PS_NUMFLAG_NAN_A
  | PS_VREG_A_BASE
  | PS_VREG_B_BASE
  | PS_VREG_CFG_GRANULES | PS_VREG_CFG_KIND | PS_VREG_CFG_V
  | WN_RANK_BASE_BASE
  | WN_RANK_COUNT_COUNT
  | WN_RANK_SELF_RANK
  | WN_RANK_CTL_COMMIT | WN_RANK_CTL_STATUS | WN_RANK_CTL_VALID | WN_RANK_CTL_LOG2P
  | WN_DIG_BASE_BASE
  | WN_DIG_CFG_EN
  | WN_COLL_CFG_TIMEOUT
  | WN_COLL_STAT_CFG_REFUSED | WN_COLL_STAT_TIMEOUT | WN_COLL_STAT_MISMATCH | WN_COLL_STAT_OVERFLOW
  | WN_SAT_CNT_COUNT
  | WN_ESC_CNT_ADDER | WN_ESC_CNT_CONV
  | WN_ID_MODULE
  | WN_STAT_CFG_REFUSED | WN_STAT_LINK_DOWN
  | WN_ETH_ETYPE | WN_ETH_VID | WN_ETH_PCP | WN_ETH_TAG_EN
  | WN_MAC_PREFIX_PREFIX
  | WN_LINK_CFG_MAX_HOPS | WN_LINK_CFG_REPLAY_US | WN_LINK_CFG_SW_WIN | WN_LINK_CFG_HOLD_MS | WN_LINK_CFG_TXN_TIMEOUT
  | WN_PORT_CTL_EN | WN_PORT_CTL_FRAMING | WN_PORT_CTL_TX_INV | WN_PORT_CTL_WAKE_EN | WN_PORT_CTL_WAKE_ENERGY | WN_PORT_CTL_WAKE_SEND
  | WN_PORT_STAT_STATE | WN_PORT_STAT_REASON | WN_PORT_STAT_RATE | WN_PORT_STAT_OVER_BUDGET | WN_PORT_STAT_BUSY
  | WN_PORT_BUDGET_BUDGET | WN_PORT_BUDGET_MODULE_PWR
  | WN_PORT_ERR_REPLAY | WN_PORT_ERR_CRC
  | WN_PORT_FEC_CE | WN_PORT_FEC_UE
  | WN_PORT_DROP_FRAMES | WN_PORT_DROP_PAUSE
  | WN_ROUTE_P0 | WN_ROUTE_P1 | WN_ROUTE_P2 | WN_ROUTE_P3 | WN_ROUTE_NCH | WN_ROUTE_DL | WN_ROUTE_VALID
  | PW_PROFILE_PROFILE
  | PW_CAP_WATTS | PW_CAP_EFFECTIVE
  | PW_PSTATE_CEIL | PW_PSTATE_PIN | PW_PSTATE_PIN_EN | PW_PSTATE_AUTO
  | PW_PRIO_FIRST | PW_PRIO_SECOND | PW_PRIO_THIRD
  | PW_LOOP_CFG_GAIN | PW_LOOP_CFG_LINK_FLOOR | PW_LOOP_CFG_LOCK
  | PW_STAT_CFG_REFUSED | PW_STAT_BUSY | PW_STAT_ALERT | PW_STAT_CAPPING | PW_STAT_PIN_OVERRIDDEN | PW_STAT_CALIBRATED
  | PW_MEAS_WATTS
  | PW_BUBBLE_FRAC_COMPUTE | PW_BUBBLE_FRAC_MEMORY | PW_BUBBLE_FRAC_LINKS
  | PW_ENERGY_UJ
  | PW_POLICY_HELD_COUNT
  | PW_ALERT_CNT | PW_ALERT_HOLD_MS
  | PW_STATE_REQ | PW_STATE_IDLE
  | PW_WAKE_LAST_SOURCE | PW_WAKE_LAST_PORT
  | PW_DROOP_CFG_HOLD
  | PW_DOM_OFF | PW_DOM_IS_OFF | PW_DOM_REFUSED
  | PW_THR_STAT_PSTATE | PW_THR_STAT_THROTTLED
  | PW_DROOP_CNT_COUNT
  | PW_BUBBLE_CNT_COUNT
  | TM_LIMIT_THROTTLE | TM_LIMIT_HBM_THROTTLE | TM_LIMIT_HYST
  | TM_TRIP_THRESHER | TM_TRIP_STACK
  | TM_STAT_THROTTLING | TM_STAT_TRIPPED | TM_STAT_SENSOR_FAIL | TM_STAT_CFG_REFUSED
  | TM_THROTTLE_CNT_COUNT
  | TM_TEMP_TEMP | TM_TEMP_VALID
  | TM_STACK_TEMP_TEMP | TM_STACK_TEMP_VALID
  | CK_STAT_REFCLK_OK | CK_STAT_ARMED | CK_STAT_EPISODE | CK_STAT_REFUSED | CK_STAT_BUSY | CK_STAT_REFUSED_ISL
  | CK_FAIL_CFG_TIMEOUT_MS | CK_FAIL_CFG_LOCK
  | CK_FAIL_STAT_EPISODES | CK_FAIL_STAT_LAST_MS
  | CK_MON_LAST
  | CK_SNAP_GO | CK_SNAP_VALID
  | CK_METER_CTL_MEAS | CK_METER_CTL_GATE | CK_METER_CTL_GO | CK_METER_CTL_STATUS
  | CK_METER_N_N
  | CK_METER_CNT_COUNT
  | CK_ISL_CTL_SRC
  | CK_ISL_STAT_CUR | CK_ISL_STAT_READY0 | CK_ISL_STAT_READY1 | CK_ISL_STAT_READYS | CK_ISL_STAT_SWITCHING | CK_ISL_STAT_OWNER | CK_ISL_STAT_MHZ
  | CK_ISL_CYCLES_COUNT
  | CK_ISL_SNAP_COUNT
  | CK_ISL_SWITCHES_COUNT
  | ER_RESET_CAUSE_CAUSE | ER_RESET_CAUSE_ALSO
  | ER_RESET_KEY
  | ER_SERVICE_STATE | ER_SERVICE_REQ_FULL | ER_SERVICE_BUSY
  | ER_BRINGUP_LIST_DONE | ER_BRINGUP_COMPLETE | ER_BRINGUP_BIST_PASS | ER_BRINGUP_BIST_FAIL
  | ER_STAT_CE | ER_STAT_POISON | ER_STAT_ENGINE | ER_STAT_PARTITION | ER_STAT_BAY | ER_STAT_FATAL | ER_STAT_GPIO_BUSY
  | ER_BAY_FAULT_BAYS | ER_BAY_FAULT_CODE
  | ER_CLASS_CNT_COUNT
  | ER_LOG_STAT_UNREAD | ER_LOG_STAT_LOST | ER_LOG_STAT_CE_DROP
  | ER_LOG_POP_POP
  | ER_LOG_DATA_DATA
  | ER_FATAL_DATA
  | ER_GPIO_FN | ER_GPIO_OWN | ER_GPIO_OUT | ER_GPIO_IN | ER_GPIO_ATTN
  | ID_VENDOR_VENDOR | ID_VENDOR_DEVICE
  | ID_REV_STEPPING | ID_REV_BOOTROM
  | ID_SERIAL_SERIAL
  | ID_FUSE_CFG_REVOKED | ID_FUSE_CFG_MAP
  | ID_SVN_SVN
  | ID_BOARD_BUDGET_W | ID_BOARD_CLASS | ID_BOARD_SLOT | ID_BOARD_FRU_STATUS
  | ID_CERT_LEN_LEN
  | ID_PUBKEY_DATA
  | ID_FW_DIGEST_DATA
  | ID_CERT_DATA
  | HI_MWIN_OFFSET_OFFSET
  | HI_STAT_CFG_REFUSED | HI_STAT_BAD_ACCESS | HI_STAT_BAD_HEAD
  | HI_FW_CTL_LEN | HI_FW_CTL_GO
  | HI_FW_STAT_STATE | HI_FW_STAT_REASON | HI_FW_STAT_BUSY | HI_FW_STAT_STAGE_DROP
  | HI_EVT_BASE_BASE
  | HI_EVT_CFG_LOG2N | HI_EVT_CFG_EN
  | HI_EVT_HEAD_HEAD
  | HI_EVT_TAIL_TAIL
  | HI_EVT_DROP_COUNT
  | HI_ALERT_CLKFAIL | HI_ALERT_TRIP | HI_ALERT_BAY | HI_ALERT_FATAL | HI_ALERT_FLOOR
  | MC_MBX_CMD_OP | MC_MBX_CMD_TAG | MC_MBX_CMD_ARG
  | MC_MBX_CTL_GO | MC_MBX_CTL_OVERRUN
  | MC_MBX_STAT_STATUS | MC_MBX_STAT_TAG
  | MC_MBX_RES_RESULT
  | MC_MBX_DONE_RECORD
  | MC_MBX_POP_POP | MC_MBX_POP_VALID | MC_MBX_POP_LOST
  | MC_FW_VER_VERSION
  deriving DecidableEq, Repr

/-- What a table says of a field: its register, its lowest bit, its width, its access code and its reset value. A
reset value "HW" stands as 0 here (assumption log entry 3); `resetField` adds the instances the tables single out. -/
structure FieldInfo where
  reg : Reg
  lo : Nat
  width : Nat
  acc : Access
  reset : Nat
  deriving DecidableEq, Repr

/-- The place of every register. -/
def Reg.info : Reg → RegInfo
  | .TH_ORG => ⟨0x400000, false, 8, 0x10000, 1, 0x0⟩
  | .TH_STAT => ⟨0x400004, false, 8, 0x10000, 1, 0x0⟩
  | .TH_FREEZE_LIMIT => ⟨0x400008, false, 8, 0x10000, 1, 0x0⟩
  | .TH_ACTIVE_CNT => ⟨0x400010, true, 8, 0x10000, 1, 0x0⟩
  | .TH_FREEZE_CNT => ⟨0x400018, true, 8, 0x10000, 1, 0x0⟩
  | .TH_SWAP_WAIT_CNT => ⟨0x400020, true, 8, 0x10000, 1, 0x0⟩
  | .TH_PART_CFG => ⟨0x401000, false, 8, 0x10000, 576, 0x4⟩
  | .TH_PART_STAT => ⟨0x402000, false, 8, 0x10000, 576, 0x4⟩
  | .TH_PART_CTL => ⟨0x403000, false, 8, 0x10000, 576, 0x4⟩
  | .TH_PART_FREEZE => ⟨0x404000, false, 8, 0x10000, 576, 0x4⟩
  | .TN_CTL => ⟨0x480000, false, 8, 0x1000, 1, 0x0⟩
  | .TN_STAT => ⟨0x480004, false, 8, 0x1000, 1, 0x0⟩
  | .TN_REFUSE_CNT => ⟨0x480008, false, 8, 0x1000, 1, 0x0⟩
  | .TN_ECC => ⟨0x48000C, false, 8, 0x1000, 1, 0x0⟩
  | .TN_SQUARE_CNT => ⟨0x480010, true, 8, 0x1000, 1, 0x0⟩
  | .TN_HELD_CNT => ⟨0x480018, true, 8, 0x1000, 1, 0x0⟩
  | .ID_CAP_CONTRACT => ⟨0x400, false, 1, 0x0, 1, 0x0⟩
  | .ID_CAP_CONTRACT_MIN => ⟨0x404, false, 1, 0x0, 1, 0x0⟩
  | .ID_CAP_BAYS => ⟨0x408, false, 1, 0x0, 1, 0x0⟩
  | .ID_CAP_THRESHERS => ⟨0x40C, false, 1, 0x0, 1, 0x0⟩
  | .ID_CAP_ROWS => ⟨0x410, false, 1, 0x0, 1, 0x0⟩
  | .ID_CAP_COLS => ⟨0x414, false, 1, 0x0, 1, 0x0⟩
  | .ID_CAP_TILE => ⟨0x418, false, 1, 0x0, 1, 0x0⟩
  | .ID_CAP_PARTS => ⟨0x41C, false, 1, 0x0, 1, 0x0⟩
  | .ID_CAP_LOFT_BYTES => ⟨0x420, false, 1, 0x0, 1, 0x0⟩
  | .ID_CAP_LOFT_BANKS => ⟨0x424, false, 1, 0x0, 1, 0x0⟩
  | .ID_CAP_VLANES => ⟨0x428, false, 1, 0x0, 1, 0x0⟩
  | .ID_CAP_STACKS => ⟨0x42C, false, 1, 0x0, 1, 0x0⟩
  | .ID_CAP_STACK_BYTES => ⟨0x430, true, 1, 0x0, 1, 0x0⟩
  | .ID_CAP_HBM_BYTES => ⟨0x438, true, 1, 0x0, 1, 0x0⟩
  | .ID_CAP_PORTS => ⟨0x440, false, 1, 0x0, 1, 0x0⟩
  | .ID_CAP_PORT_LANES => ⟨0x444, false, 1, 0x0, 1, 0x0⟩
  | .ID_CAP_TALLIES => ⟨0x448, false, 1, 0x0, 1, 0x0⟩
  | .ID_CAP_BAY_TALLIES => ⟨0x44C, false, 1, 0x0, 1, 0x0⟩
  | .ID_CAP_QUEUES => ⟨0x450, false, 1, 0x0, 1, 0x0⟩
  | .ID_CAP_QDEPTH => ⟨0x454, false, 1, 0x0, 1, 0x0⟩
  | .ID_CAP_LOOPS => ⟨0x458, false, 1, 0x0, 1, 0x0⟩
  | .ID_CAP_REGIONS => ⟨0x45C, false, 1, 0x0, 1, 0x0⟩
  | .ID_CAP_TAGS => ⟨0x460, false, 1, 0x0, 1, 0x0⟩
  | .ID_CAP_MODULES => ⟨0x464, false, 1, 0x0, 1, 0x0⟩
  | .ID_CAP_FORMATS => ⟨0x468, false, 1, 0x0, 1, 0x0⟩
  | .ID_CAP_TURNER => ⟨0x46C, false, 1, 0x0, 1, 0x0⟩
  | .ID_CAP_MAX_STEPS => ⟨0x470, false, 1, 0x0, 1, 0x0⟩
  | .ID_CAP_CH_DEPTH => ⟨0x474, false, 1, 0x0, 1, 0x0⟩
  | .ID_CAP_CE_DEPTH => ⟨0x478, false, 1, 0x0, 1, 0x0⟩
  | .ID_CAP_WN_DEPTH => ⟨0x47C, false, 1, 0x0, 1, 0x0⟩
  | .ID_CAP_VE_DEPTH => ⟨0x480, false, 1, 0x0, 1, 0x0⟩
  | .EN_CONTRACT => ⟨0x80000, false, 1, 0x0, 1, 0x0⟩
  | .EN_STAT => ⟨0x80004, false, 1, 0x0, 1, 0x0⟩
  | .EN_RNG_SEED_LO => ⟨0x80008, false, 1, 0x0, 1, 0x0⟩
  | .EN_RNG_SEED_HI => ⟨0x8000C, false, 1, 0x0, 1, 0x0⟩
  | .EN_Q_CTL => ⟨0x81000, false, 52, 0x40, 1, 0x0⟩
  | .EN_Q_STAT => ⟨0x81004, false, 52, 0x40, 1, 0x0⟩
  | .EN_Q_PRG_BASE => ⟨0x81008, true, 52, 0x40, 1, 0x0⟩
  | .EN_Q_PRG_SIZE => ⟨0x81010, false, 52, 0x40, 1, 0x0⟩
  | .EN_Q_PC => ⟨0x81018, true, 52, 0x40, 1, 0x0⟩
  | .EN_Q_FAULT_PC => ⟨0x81020, true, 52, 0x40, 1, 0x0⟩
  | .EN_Q_ISSUED => ⟨0x81028, true, 52, 0x40, 1, 0x0⟩
  | .EN_Q_CR => ⟨0x81030, true, 52, 0x40, 1, 0x0⟩
  | .TL_JOB => ⟨0x200000, false, 1, 0x0, 1, 0x0⟩
  | .TL_STAT => ⟨0x200004, false, 1, 0x0, 1, 0x0⟩
  | .TL_OVF_FIRST => ⟨0x200008, false, 1, 0x0, 1, 0x0⟩
  | .TL_MISUSE_LAST => ⟨0x20000C, false, 1, 0x0, 1, 0x0⟩
  | .TL_REMOTE_LAST => ⟨0x200010, false, 1, 0x0, 1, 0x0⟩
  | .TL_REMOTE_REFUSE_CNT => ⟨0x200014, false, 1, 0x0, 1, 0x0⟩
  | .TL_HOST_OP => ⟨0x200020, false, 1, 0x0, 1, 0x0⟩
  | .TL_HOST_CTL => ⟨0x200024, false, 1, 0x0, 1, 0x0⟩
  | .TL_WDOG => ⟨0x200100, false, 52, 0x4, 1, 0x0⟩
  | .TL_WAIT => ⟨0x200200, false, 52, 0x4, 1, 0x0⟩
  | .TL_ALLOC => ⟨0x201000, false, 2048, 0x4, 1, 0x0⟩
  | .TL_OVF => ⟨0x203000, false, 2048, 0x4, 1, 0x0⟩
  | .TL_COUNT => ⟨0x210000, false, 65536, 0x4, 1, 0x0⟩
  | .LF_STAT => ⟨0x100000, false, 1, 0x0, 1, 0x0⟩
  | .LF_BOUNDS_LAST => ⟨0x100004, false, 1, 0x0, 1, 0x0⟩
  | .LF_BOUNDS_ADDR => ⟨0x100008, true, 1, 0x0, 1, 0x0⟩
  | .LF_BOUNDS_CNT => ⟨0x100010, false, 1, 0x0, 1, 0x0⟩
  | .LF_REMOTE_REFUSE_CNT => ⟨0x100014, false, 1, 0x0, 1, 0x0⟩
  | .LF_ECC => ⟨0x100100, false, 8, 0x10, 1, 0x0⟩
  | .LF_FABRIC => ⟨0x100104, false, 8, 0x10, 1, 0x0⟩
  | .LF_FLOOR_CNT => ⟨0x100108, true, 8, 0x10, 1, 0x0⟩
  | .LF_REGION_BASE => ⟨0x110000, true, 4096, 0x10, 1, 0x0⟩
  | .LF_REGION_SIZE => ⟨0x110008, true, 4096, 0x10, 1, 0x0⟩
  | .GN_CFG => ⟨0x120000, false, 1, 0x0, 1, 0x0⟩
  | .GN_STAT => ⟨0x120004, false, 1, 0x0, 1, 0x0⟩
  | .GN_STACK_TRAINED => ⟨0x120008, false, 1, 0x0, 1, 0x0⟩
  | .GN_STACK_FAILED => ⟨0x12000C, false, 1, 0x0, 1, 0x0⟩
  | .GN_REPAIR_CFG => ⟨0x120010, false, 1, 0x0, 1, 0x0⟩
  | .GN_RLIST_ENTRY => ⟨0x120018, true, 1, 0x0, 1, 0x0⟩
  | .GN_RLIST_CTL => ⟨0x120020, false, 1, 0x0, 1, 0x0⟩
  | .GN_REPAIR_EVT => ⟨0x120028, true, 1, 0x0, 1, 0x0⟩
  | .GN_REPAIR_POP => ⟨0x120030, false, 1, 0x0, 1, 0x0⟩
  | .GN_STACK_STAT => ⟨0x120100, false, 24, 0x40, 1, 0x0⟩
  | .GN_ECC_ODC => ⟨0x120104, false, 24, 0x40, 1, 0x0⟩
  | .GN_ECC_CE => ⟨0x120108, false, 24, 0x40, 1, 0x0⟩
  | .GN_ECC_UE => ⟨0x12010C, false, 24, 0x40, 1, 0x0⟩
  | .GN_SPARE => ⟨0x120110, false, 24, 0x40, 1, 0x0⟩
  | .GN_SCRUB_PASS => ⟨0x120114, false, 24, 0x40, 1, 0x0⟩
  | .GN_ID => ⟨0x121000, false, 24, 0x40, 16, 0x4⟩
  | .GL_CFG => ⟨0x130000, false, 1, 0x0, 1, 0x0⟩
  | .GL_STAT => ⟨0x130004, false, 1, 0x0, 1, 0x0⟩
  | .GL_ITEMS => ⟨0x130100, true, 24, 0x20, 1, 0x0⟩
  | .GL_PACKETS => ⟨0x130108, true, 24, 0x20, 1, 0x0⟩
  | .GL_POISON => ⟨0x130110, false, 24, 0x20, 1, 0x0⟩
  | .GL_TIMEOUT_CNT => ⟨0x130114, false, 24, 0x20, 1, 0x0⟩
  | .PS_CFG => ⟨0x90000, false, 1, 0x0, 1, 0x0⟩
  | .PS_HEALTH_TIMEOUT => ⟨0x90004, false, 1, 0x0, 1, 0x0⟩
  | .PS_STAT => ⟨0x90008, false, 1, 0x0, 1, 0x0⟩
  | .PS_EPOCH_OPEN => ⟨0x9000C, false, 1, 0x0, 1, 0x0⟩
  | .PS_EPOCH_CLOSED => ⟨0x90010, false, 1, 0x0, 1, 0x0⟩
  | .PS_EPOCH_LAST => ⟨0x90014, false, 1, 0x0, 1, 0x0⟩
  | .PS_CONFIRM_CNT => ⟨0x90018, false, 1, 0x0, 1, 0x0⟩
  | .PS_SQUASH_CNT => ⟨0x9001C, false, 1, 0x0, 1, 0x0⟩
  | .PS_ESC_FLAG => ⟨0x90020, false, 1, 0x0, 1, 0x0⟩
  | .PS_STALL_CNT => ⟨0x90028, true, 1, 0x0, 1, 0x0⟩
  | .PS_DISCARD_CNT => ⟨0x90030, true, 1, 0x0, 1, 0x0⟩
  | .PS_NUMFLAG => ⟨0x90100, false, 8, 0x4, 1, 0x0⟩
  | .PS_VREG_A => ⟨0x91000, true, 64, 0x20, 1, 0x0⟩
  | .PS_VREG_B => ⟨0x91008, true, 64, 0x20, 1, 0x0⟩
  | .PS_VREG_CFG => ⟨0x91010, false, 64, 0x20, 1, 0x0⟩
  | .WN_RANK_BASE => ⟨0x308000, true, 1, 0x0, 1, 0x0⟩
  | .WN_RANK_COUNT => ⟨0x308008, false, 1, 0x0, 1, 0x0⟩
  | .WN_RANK_SELF => ⟨0x30800C, false, 1, 0x0, 1, 0x0⟩
  | .WN_RANK_CTL => ⟨0x308010, false, 1, 0x0, 1, 0x0⟩
  | .WN_DIG_BASE => ⟨0x308018, true, 1, 0x0, 1, 0x0⟩
  | .WN_DIG_CFG => ⟨0x308020, false, 1, 0x0, 1, 0x0⟩
  | .WN_COLL_CFG => ⟨0x308024, false, 1, 0x0, 1, 0x0⟩
  | .WN_COLL_STAT => ⟨0x308028, false, 1, 0x0, 1, 0x0⟩
  | .WN_SAT_CNT => ⟨0x308030, false, 1, 0x0, 1, 0x0⟩
  | .WN_ESC_CNT => ⟨0x308040, true, 4, 0x8, 1, 0x0⟩
  | .WN_ID => ⟨0x300000, false, 1, 0x0, 1, 0x0⟩
  | .WN_STAT => ⟨0x300004, false, 1, 0x0, 1, 0x0⟩
  | .WN_ETH => ⟨0x300008, false, 1, 0x0, 1, 0x0⟩
  | .WN_MAC_PREFIX => ⟨0x30000C, false, 1, 0x0, 1, 0x0⟩
  | .WN_LINK_CFG => ⟨0x300010, true, 1, 0x0, 1, 0x0⟩
  | .WN_PORT_CTL => ⟨0x301000, false, 16, 0x40, 1, 0x0⟩
  | .WN_PORT_STAT => ⟨0x301004, false, 16, 0x40, 1, 0x0⟩
  | .WN_PORT_BUDGET => ⟨0x301008, false, 16, 0x40, 1, 0x0⟩
  | .WN_PORT_ERR => ⟨0x301010, true, 16, 0x40, 1, 0x0⟩
  | .WN_PORT_FEC => ⟨0x301018, true, 16, 0x40, 1, 0x0⟩
  | .WN_PORT_DROP => ⟨0x301020, false, 16, 0x40, 1, 0x0⟩
  | .WN_ROUTE => ⟨0x310000, false, 65536, 0x4, 1, 0x0⟩
  | .PW_PROFILE => ⟨0x40000, false, 1, 0x0, 1, 0x0⟩
  | .PW_CAP => ⟨0x40004, false, 1, 0x0, 1, 0x0⟩
  | .PW_PSTATE => ⟨0x40008, false, 1, 0x0, 1, 0x0⟩
  | .PW_PRIO => ⟨0x4000C, false, 1, 0x0, 1, 0x0⟩
  | .PW_LOOP_CFG => ⟨0x40010, false, 1, 0x0, 1, 0x0⟩
  | .PW_STAT => ⟨0x40014, false, 1, 0x0, 1, 0x0⟩
  | .PW_MEAS => ⟨0x40018, false, 1, 0x0, 1, 0x0⟩
  | .PW_BUBBLE_FRAC => ⟨0x4001C, false, 1, 0x0, 1, 0x0⟩
  | .PW_ENERGY => ⟨0x40020, true, 1, 0x0, 1, 0x0⟩
  | .PW_POLICY_HELD => ⟨0x40028, false, 1, 0x0, 1, 0x0⟩
  | .PW_ALERT => ⟨0x4002C, false, 1, 0x0, 1, 0x0⟩
  | .PW_STATE => ⟨0x40030, false, 1, 0x0, 1, 0x0⟩
  | .PW_WAKE_LAST => ⟨0x40034, false, 1, 0x0, 1, 0x0⟩
  | .PW_DROOP_CFG => ⟨0x40038, false, 1, 0x0, 1, 0x0⟩
  | .PW_DOM => ⟨0x40040, false, 20, 0x4, 1, 0x0⟩
  | .PW_THR_STAT => ⟨0x40100, false, 8, 0x20, 1, 0x0⟩
  | .PW_DROOP_CNT => ⟨0x40104, false, 8, 0x20, 1, 0x0⟩
  | .PW_BUBBLE_CNT => ⟨0x40108, true, 8, 0x20, 1, 0x0⟩
  | .TM_LIMIT => ⟨0x50000, false, 1, 0x0, 1, 0x0⟩
  | .TM_TRIP => ⟨0x50004, false, 1, 0x0, 1, 0x0⟩
  | .TM_STAT => ⟨0x50008, false, 1, 0x0, 1, 0x0⟩
  | .TM_THROTTLE_CNT => ⟨0x5000C, false, 1, 0x0, 1, 0x0⟩
  | .TM_TEMP => ⟨0x50100, false, 8, 0x10, 4, 0x4⟩
  | .TM_STACK_TEMP => ⟨0x50200, false, 24, 0x4, 1, 0x0⟩
  | .CK_STAT => ⟨0x30000, false, 1, 0x0, 1, 0x0⟩
  | .CK_FAIL_CFG => ⟨0x30004, false, 1, 0x0, 1, 0x0⟩
  | .CK_FAIL_STAT => ⟨0x30008, false, 1, 0x0, 1, 0x0⟩
  | .CK_MON => ⟨0x3000C, false, 1, 0x0, 1, 0x0⟩
  | .CK_SNAP => ⟨0x30010, false, 1, 0x0, 1, 0x0⟩
  | .CK_METER_CTL => ⟨0x30040, false, 3, 0x10, 1, 0x0⟩
  | .CK_METER_N => ⟨0x30044, false, 3, 0x10, 1, 0x0⟩
  | .CK_METER_CNT => ⟨0x30048, true, 3, 0x10, 1, 0x0⟩
  | .CK_ISL_CTL => ⟨0x30100, false, 43, 0x20, 1, 0x0⟩
  | .CK_ISL_STAT => ⟨0x30104, false, 43, 0x20, 1, 0x0⟩
  | .CK_ISL_CYCLES => ⟨0x30108, true, 43, 0x20, 1, 0x0⟩
  | .CK_ISL_SNAP => ⟨0x30110, true, 43, 0x20, 1, 0x0⟩
  | .CK_ISL_SWITCHES => ⟨0x30118, false, 43, 0x20, 1, 0x0⟩
  | .ER_RESET_CAUSE => ⟨0x60000, false, 1, 0x0, 1, 0x0⟩
  | .ER_RESET => ⟨0x60004, false, 1, 0x0, 1, 0x0⟩
  | .ER_SERVICE => ⟨0x60008, false, 1, 0x0, 1, 0x0⟩
  | .ER_BRINGUP => ⟨0x6000C, false, 1, 0x0, 1, 0x0⟩
  | .ER_STAT => ⟨0x60010, false, 1, 0x0, 1, 0x0⟩
  | .ER_BAY_FAULT => ⟨0x60014, false, 1, 0x0, 1, 0x0⟩
  | .ER_CLASS_CNT => ⟨0x60020, false, 6, 0x4, 1, 0x0⟩
  | .ER_LOG_STAT => ⟨0x60040, false, 1, 0x0, 1, 0x0⟩
  | .ER_LOG_POP => ⟨0x60044, false, 1, 0x0, 1, 0x0⟩
  | .ER_LOG_DATA => ⟨0x60060, false, 8, 0x4, 1, 0x0⟩
  | .ER_FATAL => ⟨0x60080, false, 8, 0x4, 1, 0x0⟩
  | .ER_GPIO => ⟨0x600A0, false, 4, 0x4, 1, 0x0⟩
  | .ID_VENDOR => ⟨0x0, false, 1, 0x0, 1, 0x0⟩
  | .ID_REV => ⟨0x4, false, 1, 0x0, 1, 0x0⟩
  | .ID_SERIAL => ⟨0x8, true, 1, 0x0, 1, 0x0⟩
  | .ID_FUSE_CFG => ⟨0x10, false, 1, 0x0, 1, 0x0⟩
  | .ID_SVN => ⟨0x14, false, 1, 0x0, 1, 0x0⟩
  | .ID_BOARD => ⟨0x18, false, 1, 0x0, 1, 0x0⟩
  | .ID_CERT_LEN => ⟨0x1C, false, 1, 0x0, 1, 0x0⟩
  | .ID_PUBKEY => ⟨0x100, false, 8, 0x4, 1, 0x0⟩
  | .ID_FW_DIGEST => ⟨0x140, false, 16, 0x4, 1, 0x0⟩
  | .ID_CERT => ⟨0x1000, false, 256, 0x4, 1, 0x0⟩
  | .HI_MWIN_OFFSET => ⟨0x10000, true, 1, 0x0, 1, 0x0⟩
  | .HI_STAT => ⟨0x10008, false, 1, 0x0, 1, 0x0⟩
  | .HI_FW_CTL => ⟨0x1000C, false, 1, 0x0, 1, 0x0⟩
  | .HI_FW_STAT => ⟨0x10010, false, 1, 0x0, 1, 0x0⟩
  | .HI_EVT_BASE => ⟨0x10018, true, 1, 0x0, 1, 0x0⟩
  | .HI_EVT_CFG => ⟨0x10020, false, 1, 0x0, 1, 0x0⟩
  | .HI_EVT_HEAD => ⟨0x10024, false, 1, 0x0, 1, 0x0⟩
  | .HI_EVT_TAIL => ⟨0x10028, false, 1, 0x0, 1, 0x0⟩
  | .HI_EVT_DROP => ⟨0x1002C, false, 1, 0x0, 1, 0x0⟩
  | .HI_ALERT => ⟨0x10030, false, 1, 0x0, 1, 0x0⟩
  | .MC_MBX_CMD => ⟨0x20000, false, 1, 0x0, 1, 0x0⟩
  | .MC_MBX_CTL => ⟨0x20004, false, 1, 0x0, 1, 0x0⟩
  | .MC_MBX_STAT => ⟨0x20008, false, 1, 0x0, 1, 0x0⟩
  | .MC_MBX_RES => ⟨0x20010, false, 4, 0x4, 1, 0x0⟩
  | .MC_MBX_DONE => ⟨0x20020, true, 1, 0x0, 1, 0x0⟩
  | .MC_MBX_POP => ⟨0x20028, false, 1, 0x0, 1, 0x0⟩
  | .MC_FW_VER => ⟨0x20030, false, 1, 0x0, 1, 0x0⟩

/-- The table entry of every field. -/
def F.info : F → FieldInfo
  | .TH_ORG_MODE => ⟨.TH_ORG, 0, 1, .rw, 0⟩
  | .TH_ORG_COMMIT => ⟨.TH_ORG, 1, 1, .sc, 0⟩
  | .TH_ORG_STATUS => ⟨.TH_ORG, 2, 3, .ro, 0⟩
  | .TH_ORG_CUR_MODE => ⟨.TH_ORG, 5, 1, .ro, 0⟩
  | .TH_ORG_NPART => ⟨.TH_ORG, 16, 10, .ro, 1⟩
  | .TH_STAT_STREAMING => ⟨.TH_STAT, 0, 1, .ro, 0⟩
  | .TH_STAT_FROZEN => ⟨.TH_STAT, 1, 1, .ro, 0⟩
  | .TH_STAT_SWAP_WAIT => ⟨.TH_STAT, 2, 1, .ro, 0⟩
  | .TH_STAT_NFAULT => ⟨.TH_STAT, 3, 10, .ro, 0⟩
  | .TH_STAT_GATED => ⟨.TH_STAT, 16, 10, .ro, 0⟩
  | .TH_FREEZE_LIMIT_LIMIT => ⟨.TH_FREEZE_LIMIT, 0, 32, .rw, 0⟩
  | .TH_ACTIVE_CNT_COUNT => ⟨.TH_ACTIVE_CNT, 0, 64, .ro, 0⟩
  | .TH_FREEZE_CNT_COUNT => ⟨.TH_FREEZE_CNT, 0, 64, .ro, 0⟩
  | .TH_SWAP_WAIT_CNT_COUNT => ⟨.TH_SWAP_WAIT_CNT, 0, 64, .ro, 0⟩
  | .TH_PART_CFG_ROW_ORG => ⟨.TH_PART_CFG, 0, 5, .rw, 0⟩
  | .TH_PART_CFG_COL_ORG => ⟨.TH_PART_CFG, 5, 5, .rw, 0⟩
  | .TH_PART_CFG_HEIGHT => ⟨.TH_PART_CFG, 10, 5, .rw, 0⟩
  | .TH_PART_CFG_WIDTH => ⟨.TH_PART_CFG, 15, 5, .rw, 0⟩
  | .TH_PART_CFG_EN => ⟨.TH_PART_CFG, 31, 1, .rw, 0⟩
  | .TH_PART_STAT_STATE => ⟨.TH_PART_STAT, 0, 2, .ro, 0⟩
  | .TH_PART_STAT_DROP => ⟨.TH_PART_STAT, 2, 1, .w1c, 0⟩
  | .TH_PART_STAT_CODE => ⟨.TH_PART_STAT, 16, 16, .ro, 0⟩
  | .TH_PART_CTL_CLEAR => ⟨.TH_PART_CTL, 0, 1, .sc, 0⟩
  | .TH_PART_FREEZE_COUNT => ⟨.TH_PART_FREEZE, 0, 32, .ro, 0⟩
  | .TN_CTL_DISABLE => ⟨.TN_CTL, 0, 1, .rw, 0⟩
  | .TN_CTL_TEST => ⟨.TN_CTL, 1, 1, .sc, 0⟩
  | .TN_STAT_OWNER => ⟨.TN_STAT, 0, 2, .ro, 0⟩
  | .TN_STAT_AVAIL => ⟨.TN_STAT, 2, 1, .ro, 0⟩
  | .TN_STAT_REASON => ⟨.TN_STAT, 3, 3, .ro, 1⟩
  | .TN_STAT_TEST_PASS => ⟨.TN_STAT, 6, 1, .ro, 0⟩
  | .TN_STAT_CTL_REFUSED => ⟨.TN_STAT, 7, 1, .w1c, 0⟩
  | .TN_STAT_STRAY_FREE => ⟨.TN_STAT, 8, 1, .w1c, 0⟩
  | .TN_REFUSE_CNT_COUNT => ⟨.TN_REFUSE_CNT, 0, 32, .ro, 0⟩
  | .TN_ECC_CE => ⟨.TN_ECC, 0, 16, .ro, 0⟩
  | .TN_ECC_UE => ⟨.TN_ECC, 16, 16, .ro, 0⟩
  | .TN_SQUARE_CNT_COUNT => ⟨.TN_SQUARE_CNT, 0, 64, .ro, 0⟩
  | .TN_HELD_CNT_COUNT => ⟨.TN_HELD_CNT, 0, 64, .ro, 0⟩
  | .ID_CAP_CONTRACT_VALUE => ⟨.ID_CAP_CONTRACT, 0, 32, .ro, 256⟩
  | .ID_CAP_CONTRACT_MIN_VALUE => ⟨.ID_CAP_CONTRACT_MIN, 0, 32, .ro, 256⟩
  | .ID_CAP_BAYS_VALUE => ⟨.ID_CAP_BAYS, 0, 32, .ro, 4⟩
  | .ID_CAP_THRESHERS_VALUE => ⟨.ID_CAP_THRESHERS, 0, 32, .ro, 8⟩
  | .ID_CAP_ROWS_VALUE => ⟨.ID_CAP_ROWS, 0, 32, .ro, 768⟩
  | .ID_CAP_COLS_VALUE => ⟨.ID_CAP_COLS, 0, 32, .ro, 768⟩
  | .ID_CAP_TILE_VALUE => ⟨.ID_CAP_TILE, 0, 32, .ro, 32⟩
  | .ID_CAP_PARTS_VALUE => ⟨.ID_CAP_PARTS, 0, 32, .ro, 576⟩
  | .ID_CAP_LOFT_BYTES_VALUE => ⟨.ID_CAP_LOFT_BYTES, 0, 32, .ro, 201326592⟩
  | .ID_CAP_LOFT_BANKS_VALUE => ⟨.ID_CAP_LOFT_BANKS, 0, 32, .ro, 128⟩
  | .ID_CAP_VLANES_VALUE => ⟨.ID_CAP_VLANES, 0, 32, .ro, 2048⟩
  | .ID_CAP_STACKS_VALUE => ⟨.ID_CAP_STACKS, 0, 32, .ro, 24⟩
  | .ID_CAP_STACK_BYTES_VALUE => ⟨.ID_CAP_STACK_BYTES, 0, 64, .ro, 137438953472⟩
  | .ID_CAP_HBM_BYTES_VALUE => ⟨.ID_CAP_HBM_BYTES, 0, 64, .ro, 3298534883328⟩
  | .ID_CAP_PORTS_VALUE => ⟨.ID_CAP_PORTS, 0, 32, .ro, 16⟩
  | .ID_CAP_PORT_LANES_VALUE => ⟨.ID_CAP_PORT_LANES, 0, 32, .ro, 4⟩
  | .ID_CAP_TALLIES_VALUE => ⟨.ID_CAP_TALLIES, 0, 32, .ro, 65536⟩
  | .ID_CAP_BAY_TALLIES_VALUE => ⟨.ID_CAP_BAY_TALLIES, 0, 32, .ro, 16384⟩
  | .ID_CAP_QUEUES_VALUE => ⟨.ID_CAP_QUEUES, 0, 32, .ro, 52⟩
  | .ID_CAP_QDEPTH_VALUE => ⟨.ID_CAP_QDEPTH, 0, 32, .ro, 4096⟩
  | .ID_CAP_LOOPS_VALUE => ⟨.ID_CAP_LOOPS, 0, 32, .ro, 4⟩
  | .ID_CAP_REGIONS_VALUE => ⟨.ID_CAP_REGIONS, 0, 32, .ro, 4096⟩
  | .ID_CAP_TAGS_VALUE => ⟨.ID_CAP_TAGS, 0, 32, .ro, 65536⟩
  | .ID_CAP_MODULES_VALUE => ⟨.ID_CAP_MODULES, 0, 32, .ro, 65536⟩
  | .ID_CAP_FORMATS_VALUE => ⟨.ID_CAP_FORMATS, 0, 32, .ro, 511⟩
  | .ID_CAP_TURNER_VALUE => ⟨.ID_CAP_TURNER, 0, 32, .ro, 1⟩
  | .ID_CAP_MAX_STEPS_VALUE => ⟨.ID_CAP_MAX_STEPS, 0, 32, .ro, 16777215⟩
  | .ID_CAP_CH_DEPTH_VALUE => ⟨.ID_CAP_CH_DEPTH, 0, 32, .ro, 4⟩
  | .ID_CAP_CE_DEPTH_VALUE => ⟨.ID_CAP_CE_DEPTH, 0, 32, .ro, 16⟩
  | .ID_CAP_WN_DEPTH_VALUE => ⟨.ID_CAP_WN_DEPTH, 0, 32, .ro, 8⟩
  | .ID_CAP_VE_DEPTH_VALUE => ⟨.ID_CAP_VE_DEPTH, 0, 32, .ro, 8⟩
  | .EN_CONTRACT_VERSION => ⟨.EN_CONTRACT, 0, 16, .rw, 256⟩
  | .EN_STAT_ALL_IDLE => ⟨.EN_STAT, 0, 1, .ro, 1⟩
  | .EN_STAT_CFG_REFUSED => ⟨.EN_STAT, 1, 1, .w1c, 0⟩
  | .EN_RNG_SEED_LO_SEED => ⟨.EN_RNG_SEED_LO, 0, 32, .rw, 0⟩
  | .EN_RNG_SEED_HI_SEED => ⟨.EN_RNG_SEED_HI, 0, 32, .rw, 0⟩
  | .EN_Q_CTL_STOP => ⟨.EN_Q_CTL, 0, 1, .sc, 0⟩
  | .EN_Q_CTL_CLEAR => ⟨.EN_Q_CTL, 1, 1, .sc, 0⟩
  | .EN_Q_STAT_STATE => ⟨.EN_Q_STAT, 0, 3, .ro, 0⟩
  | .EN_Q_STAT_DB_REFUSED => ⟨.EN_Q_STAT, 3, 1, .w1c, 0⟩
  | .EN_Q_STAT_CFG_REFUSED => ⟨.EN_Q_STAT, 4, 1, .w1c, 0⟩
  | .EN_Q_STAT_CODE => ⟨.EN_Q_STAT, 16, 16, .ro, 0⟩
  | .EN_Q_PRG_BASE_BASE => ⟨.EN_Q_PRG_BASE, 0, 42, .rw, 0⟩
  | .EN_Q_PRG_SIZE_SIZE => ⟨.EN_Q_PRG_SIZE, 0, 32, .rw, 0⟩
  | .EN_Q_PC_PC => ⟨.EN_Q_PC, 0, 42, .ro, 0⟩
  | .EN_Q_FAULT_PC_PC => ⟨.EN_Q_FAULT_PC, 0, 42, .ro, 0⟩
  | .EN_Q_ISSUED_COUNT => ⟨.EN_Q_ISSUED, 0, 64, .ro, 0⟩
  | .EN_Q_CR_CR => ⟨.EN_Q_CR, 0, 64, .ro, 0⟩
  | .TL_JOB_TAG => ⟨.TL_JOB, 0, 16, .rw, 0⟩
  | .TL_JOB_REMOTE_EN => ⟨.TL_JOB, 16, 1, .rw, 0⟩
  | .TL_STAT_OVF => ⟨.TL_STAT, 0, 1, .w1c, 0⟩
  | .TL_STAT_MISUSE => ⟨.TL_STAT, 1, 1, .w1c, 0⟩
  | .TL_STAT_REMOTE_REFUSED => ⟨.TL_STAT, 2, 1, .w1c, 0⟩
  | .TL_STAT_CFG_REFUSED => ⟨.TL_STAT, 3, 1, .w1c, 0⟩
  | .TL_STAT_WDOG_FIRED => ⟨.TL_STAT, 4, 1, .w1c, 0⟩
  | .TL_OVF_FIRST_TALLY => ⟨.TL_OVF_FIRST, 0, 16, .ro, 0⟩
  | .TL_OVF_FIRST_VALID => ⟨.TL_OVF_FIRST, 16, 1, .ro, 0⟩
  | .TL_MISUSE_LAST_TALLY => ⟨.TL_MISUSE_LAST, 0, 16, .ro, 0⟩
  | .TL_MISUSE_LAST_QUEUE => ⟨.TL_MISUSE_LAST, 16, 6, .ro, 0⟩
  | .TL_MISUSE_LAST_REASON => ⟨.TL_MISUSE_LAST, 24, 2, .ro, 0⟩
  | .TL_REMOTE_LAST_TALLY => ⟨.TL_REMOTE_LAST, 0, 16, .ro, 0⟩
  | .TL_REMOTE_LAST_SOURCE => ⟨.TL_REMOTE_LAST, 16, 16, .ro, 0⟩
  | .TL_REMOTE_REFUSE_CNT_COUNT => ⟨.TL_REMOTE_REFUSE_CNT, 0, 32, .ro, 0⟩
  | .TL_HOST_OP_TALLY => ⟨.TL_HOST_OP, 0, 16, .rw, 0⟩
  | .TL_HOST_OP_COUNT => ⟨.TL_HOST_OP, 16, 16, .rw, 0⟩
  | .TL_HOST_CTL_OP => ⟨.TL_HOST_CTL, 0, 1, .rw, 0⟩
  | .TL_HOST_CTL_GO => ⟨.TL_HOST_CTL, 1, 1, .sc, 0⟩
  | .TL_HOST_CTL_REFUSED => ⟨.TL_HOST_CTL, 2, 1, .w1c, 0⟩
  | .TL_WDOG_PERIOD => ⟨.TL_WDOG, 0, 26, .rw, 10000000⟩
  | .TL_WDOG_EN => ⟨.TL_WDOG, 31, 1, .rw, 1⟩
  | .TL_WAIT_TALLY => ⟨.TL_WAIT, 0, 16, .ro, 0⟩
  | .TL_WAIT_NEED => ⟨.TL_WAIT, 16, 16, .ro, 0⟩
  | .TL_ALLOC_BITS => ⟨.TL_ALLOC, 0, 32, .rw, 0⟩
  | .TL_OVF_BITS => ⟨.TL_OVF, 0, 32, .w1c, 0⟩
  | .TL_COUNT_COUNT => ⟨.TL_COUNT, 0, 16, .ro, 0⟩
  | .LF_STAT_CFG_REFUSED => ⟨.LF_STAT, 0, 1, .w1c, 0⟩
  | .LF_STAT_GATHER_RACE => ⟨.LF_STAT, 1, 1, .w1c, 0⟩
  | .LF_STAT_BOUNDS => ⟨.LF_STAT, 2, 1, .w1c, 0⟩
  | .LF_STAT_REMOTE_REFUSED => ⟨.LF_STAT, 3, 1, .w1c, 0⟩
  | .LF_BOUNDS_LAST_QUEUE => ⟨.LF_BOUNDS_LAST, 0, 6, .ro, 0⟩
  | .LF_BOUNDS_LAST_REASON => ⟨.LF_BOUNDS_LAST, 8, 3, .ro, 0⟩
  | .LF_BOUNDS_LAST_SIDE => ⟨.LF_BOUNDS_LAST, 12, 2, .ro, 0⟩
  | .LF_BOUNDS_ADDR_LO => ⟨.LF_BOUNDS_ADDR, 0, 64, .ro, 0⟩
  | .LF_BOUNDS_CNT_COUNT => ⟨.LF_BOUNDS_CNT, 0, 32, .ro, 0⟩
  | .LF_REMOTE_REFUSE_CNT_COUNT => ⟨.LF_REMOTE_REFUSE_CNT, 0, 32, .ro, 0⟩
  | .LF_ECC_CE => ⟨.LF_ECC, 0, 16, .ro, 0⟩
  | .LF_ECC_UE => ⟨.LF_ECC, 16, 16, .ro, 0⟩
  | .LF_FABRIC_RESEND => ⟨.LF_FABRIC, 0, 16, .ro, 0⟩
  | .LF_FABRIC_FAIL => ⟨.LF_FABRIC, 16, 16, .ro, 0⟩
  | .LF_FLOOR_CNT_COUNT => ⟨.LF_FLOOR_CNT, 0, 64, .ro, 0⟩
  | .LF_REGION_BASE_BASE => ⟨.LF_REGION_BASE, 0, 64, .rw, 0⟩
  | .LF_REGION_SIZE_SIZE => ⟨.LF_REGION_SIZE, 0, 48, .rw, 0⟩
  | .LF_REGION_SIZE_V => ⟨.LF_REGION_SIZE, 48, 1, .rw, 0⟩
  | .LF_REGION_SIZE_RD => ⟨.LF_REGION_SIZE, 49, 1, .rw, 0⟩
  | .LF_REGION_SIZE_WR => ⟨.LF_REGION_SIZE, 50, 1, .rw, 0⟩
  | .LF_REGION_SIZE_RRD => ⟨.LF_REGION_SIZE, 51, 1, .rw, 0⟩
  | .LF_REGION_SIZE_RWR => ⟨.LF_REGION_SIZE, 52, 1, .rw, 0⟩
  | .GN_CFG_INTERLEAVE => ⟨.GN_CFG, 0, 1, .rw, 1⟩
  | .GN_CFG_SCRUB => ⟨.GN_CFG, 1, 2, .rw, 1⟩
  | .GN_STAT_BUSY => ⟨.GN_STAT, 0, 1, .w1c, 0⟩
  | .GN_STAT_FAILED_MEMORY => ⟨.GN_STAT, 1, 1, .ro, 0⟩
  | .GN_STAT_REPAIR_PENDING => ⟨.GN_STAT, 2, 1, .ro, 0⟩
  | .GN_STAT_HARDENING => ⟨.GN_STAT, 3, 1, .ro, 0⟩
  | .GN_STACK_TRAINED_STACKS => ⟨.GN_STACK_TRAINED, 0, 24, .ro, 0⟩
  | .GN_STACK_FAILED_STACKS => ⟨.GN_STACK_FAILED, 0, 24, .ro, 0⟩
  | .GN_REPAIR_CFG_THRESH => ⟨.GN_REPAIR_CFG, 0, 8, .rwl, 4⟩
  | .GN_REPAIR_CFG_AUTO_HARDEN => ⟨.GN_REPAIR_CFG, 8, 1, .rwl, 1⟩
  | .GN_REPAIR_CFG_LOCK => ⟨.GN_REPAIR_CFG, 31, 1, .w1s, 0⟩
  | .GN_RLIST_ENTRY_RECORD => ⟨.GN_RLIST_ENTRY, 0, 64, .wo, 0⟩
  | .GN_RLIST_CTL_COUNT => ⟨.GN_RLIST_CTL, 0, 13, .ro, 0⟩
  | .GN_RLIST_CTL_REFUSED => ⟨.GN_RLIST_CTL, 13, 1, .w1c, 0⟩
  | .GN_REPAIR_EVT_RECORD => ⟨.GN_REPAIR_EVT, 0, 64, .ro, 0⟩
  | .GN_REPAIR_POP_POP => ⟨.GN_REPAIR_POP, 0, 1, .wo, 0⟩
  | .GN_REPAIR_POP_VALID => ⟨.GN_REPAIR_POP, 1, 1, .ro, 0⟩
  | .GN_REPAIR_POP_LOST => ⟨.GN_REPAIR_POP, 2, 1, .w1c, 0⟩
  | .GN_STACK_STAT_STATE => ⟨.GN_STACK_STAT, 0, 3, .ro, 0⟩
  | .GN_STACK_STAT_REASON => ⟨.GN_STACK_STAT, 3, 3, .ro, 0⟩
  | .GN_STACK_STAT_CHANNEL => ⟨.GN_STACK_STAT, 6, 6, .ro, 0⟩
  | .GN_ECC_ODC_COUNT => ⟨.GN_ECC_ODC, 0, 32, .ro, 0⟩
  | .GN_ECC_CE_COUNT => ⟨.GN_ECC_CE, 0, 32, .ro, 0⟩
  | .GN_ECC_UE_COUNT => ⟨.GN_ECC_UE, 0, 32, .ro, 0⟩
  | .GN_SPARE_SOFT => ⟨.GN_SPARE, 0, 10, .ro, 0⟩
  | .GN_SPARE_RETIRED => ⟨.GN_SPARE, 10, 10, .ro, 0⟩
  | .GN_SPARE_SPARE_RET => ⟨.GN_SPARE, 20, 10, .ro, 0⟩
  | .GN_SCRUB_PASS_COUNT => ⟨.GN_SCRUB_PASS, 0, 32, .ro, 0⟩
  | .GN_ID_DATA => ⟨.GN_ID, 0, 32, .ro, 0⟩
  | .GL_CFG_PACK_TIMEOUT => ⟨.GL_CFG, 0, 10, .rw, 64⟩
  | .GL_STAT_CFG_REFUSED => ⟨.GL_STAT, 0, 1, .w1c, 0⟩
  | .GL_ITEMS_COUNT => ⟨.GL_ITEMS, 0, 64, .ro, 0⟩
  | .GL_PACKETS_COUNT => ⟨.GL_PACKETS, 0, 64, .ro, 0⟩
  | .GL_POISON_COUNT => ⟨.GL_POISON, 0, 32, .ro, 0⟩
  | .GL_TIMEOUT_CNT_COUNT => ⟨.GL_TIMEOUT_CNT, 0, 32, .ro, 0⟩
  | .PS_CFG_EN => ⟨.PS_CFG, 0, 1, .rw, 0⟩
  | .PS_CFG_CTL_T => ⟨.PS_CFG, 1, 3, .rw, 0⟩
  | .PS_HEALTH_TIMEOUT_US => ⟨.PS_HEALTH_TIMEOUT, 0, 27, .rw, 1000000⟩
  | .PS_STAT_BUSY => ⟨.PS_STAT, 0, 1, .w1c, 0⟩
  | .PS_STAT_CFG_REFUSED => ⟨.PS_STAT, 1, 1, .w1c, 0⟩
  | .PS_STAT_OPEN => ⟨.PS_STAT, 2, 1, .ro, 0⟩
  | .PS_STAT_CLOSED => ⟨.PS_STAT, 3, 1, .ro, 0⟩
  | .PS_STAT_FOLDING => ⟨.PS_STAT, 4, 1, .ro, 0⟩
  | .PS_STAT_HOST_WR_DROP => ⟨.PS_STAT, 5, 1, .w1c, 0⟩
  | .PS_STAT_ESCAPE => ⟨.PS_STAT, 6, 1, .w1c, 0⟩
  | .PS_STAT_LAST_SQUASHED => ⟨.PS_STAT, 7, 1, .ro, 0⟩
  | .PS_EPOCH_OPEN_EPOCH => ⟨.PS_EPOCH_OPEN, 0, 32, .ro, 0⟩
  | .PS_EPOCH_CLOSED_EPOCH => ⟨.PS_EPOCH_CLOSED, 0, 32, .ro, 0⟩
  | .PS_EPOCH_LAST_EPOCH => ⟨.PS_EPOCH_LAST, 0, 32, .ro, 0⟩
  | .PS_CONFIRM_CNT_COUNT => ⟨.PS_CONFIRM_CNT, 0, 32, .ro, 0⟩
  | .PS_SQUASH_CNT_COUNT => ⟨.PS_SQUASH_CNT, 0, 32, .ro, 0⟩
  | .PS_ESC_FLAG_ESC_C => ⟨.PS_ESC_FLAG, 0, 1, .w1c, 0⟩
  | .PS_ESC_FLAG_ESC_O => ⟨.PS_ESC_FLAG, 1, 1, .ro, 0⟩
  | .PS_ESC_FLAG_ESC_A => ⟨.PS_ESC_FLAG, 2, 1, .ro, 0⟩
  | .PS_STALL_CNT_COUNT => ⟨.PS_STALL_CNT, 0, 64, .ro, 0⟩
  | .PS_DISCARD_CNT_COUNT => ⟨.PS_DISCARD_CNT, 0, 64, .ro, 0⟩
  | .PS_NUMFLAG_OVF_C => ⟨.PS_NUMFLAG, 0, 1, .w1c, 0⟩
  | .PS_NUMFLAG_NAN_C => ⟨.PS_NUMFLAG, 1, 1, .w1c, 0⟩
  | .PS_NUMFLAG_OVF_O => ⟨.PS_NUMFLAG, 2, 1, .ro, 0⟩
  | .PS_NUMFLAG_NAN_O => ⟨.PS_NUMFLAG, 3, 1, .ro, 0⟩
  | .PS_NUMFLAG_OVF_A => ⟨.PS_NUMFLAG, 4, 1, .ro, 0⟩
  | .PS_NUMFLAG_NAN_A => ⟨.PS_NUMFLAG, 5, 1, .ro, 0⟩
  | .PS_VREG_A_BASE => ⟨.PS_VREG_A, 0, 64, .rw, 0⟩
  | .PS_VREG_B_BASE => ⟨.PS_VREG_B, 0, 64, .rw, 0⟩
  | .PS_VREG_CFG_GRANULES => ⟨.PS_VREG_CFG, 0, 23, .rw, 0⟩
  | .PS_VREG_CFG_KIND => ⟨.PS_VREG_CFG, 23, 1, .rw, 0⟩
  | .PS_VREG_CFG_V => ⟨.PS_VREG_CFG, 24, 1, .rw, 0⟩
  | .WN_RANK_BASE_BASE => ⟨.WN_RANK_BASE, 0, 42, .rw, 0⟩
  | .WN_RANK_COUNT_COUNT => ⟨.WN_RANK_COUNT, 0, 17, .rw, 0⟩
  | .WN_RANK_SELF_RANK => ⟨.WN_RANK_SELF, 0, 16, .rw, 0⟩
  | .WN_RANK_CTL_COMMIT => ⟨.WN_RANK_CTL, 0, 1, .sc, 0⟩
  | .WN_RANK_CTL_STATUS => ⟨.WN_RANK_CTL, 1, 2, .ro, 0⟩
  | .WN_RANK_CTL_VALID => ⟨.WN_RANK_CTL, 3, 1, .ro, 0⟩
  | .WN_RANK_CTL_LOG2P => ⟨.WN_RANK_CTL, 4, 5, .ro, 0⟩
  | .WN_DIG_BASE_BASE => ⟨.WN_DIG_BASE, 0, 42, .rw, 0⟩
  | .WN_DIG_CFG_EN => ⟨.WN_DIG_CFG, 0, 8, .rw, 0⟩
  | .WN_COLL_CFG_TIMEOUT => ⟨.WN_COLL_CFG, 0, 27, .rw, 10000000⟩
  | .WN_COLL_STAT_CFG_REFUSED => ⟨.WN_COLL_STAT, 0, 1, .w1c, 0⟩
  | .WN_COLL_STAT_TIMEOUT => ⟨.WN_COLL_STAT, 1, 1, .w1c, 0⟩
  | .WN_COLL_STAT_MISMATCH => ⟨.WN_COLL_STAT, 2, 1, .w1c, 0⟩
  | .WN_COLL_STAT_OVERFLOW => ⟨.WN_COLL_STAT, 3, 1, .w1c, 0⟩
  | .WN_SAT_CNT_COUNT => ⟨.WN_SAT_CNT, 0, 32, .ro, 0⟩
  | .WN_ESC_CNT_ADDER => ⟨.WN_ESC_CNT, 0, 32, .ro, 0⟩
  | .WN_ESC_CNT_CONV => ⟨.WN_ESC_CNT, 32, 32, .ro, 0⟩
  | .WN_ID_MODULE => ⟨.WN_ID, 0, 16, .rw, 0⟩
  | .WN_STAT_CFG_REFUSED => ⟨.WN_STAT, 0, 1, .w1c, 0⟩
  | .WN_STAT_LINK_DOWN => ⟨.WN_STAT, 1, 1, .w1c, 0⟩
  | .WN_ETH_ETYPE => ⟨.WN_ETH, 0, 16, .rw, 34997⟩
  | .WN_ETH_VID => ⟨.WN_ETH, 16, 12, .rw, 0⟩
  | .WN_ETH_PCP => ⟨.WN_ETH, 28, 3, .rw, 0⟩
  | .WN_ETH_TAG_EN => ⟨.WN_ETH, 31, 1, .rw, 0⟩
  | .WN_MAC_PREFIX_PREFIX => ⟨.WN_MAC_PREFIX, 0, 24, .rw, 131072⟩
  | .WN_LINK_CFG_MAX_HOPS => ⟨.WN_LINK_CFG, 0, 4, .rw, 8⟩
  | .WN_LINK_CFG_REPLAY_US => ⟨.WN_LINK_CFG, 4, 12, .rw, 4⟩
  | .WN_LINK_CFG_SW_WIN => ⟨.WN_LINK_CFG, 16, 10, .rw, 64⟩
  | .WN_LINK_CFG_HOLD_MS => ⟨.WN_LINK_CFG, 26, 10, .rw, 100⟩
  | .WN_LINK_CFG_TXN_TIMEOUT => ⟨.WN_LINK_CFG, 36, 10, .rw, 100⟩
  | .WN_PORT_CTL_EN => ⟨.WN_PORT_CTL, 0, 1, .rw, 0⟩
  | .WN_PORT_CTL_FRAMING => ⟨.WN_PORT_CTL, 1, 1, .rw, 0⟩
  | .WN_PORT_CTL_TX_INV => ⟨.WN_PORT_CTL, 2, 4, .rw, 0⟩
  | .WN_PORT_CTL_WAKE_EN => ⟨.WN_PORT_CTL, 6, 1, .rw, 0⟩
  | .WN_PORT_CTL_WAKE_ENERGY => ⟨.WN_PORT_CTL, 7, 1, .rw, 0⟩
  | .WN_PORT_CTL_WAKE_SEND => ⟨.WN_PORT_CTL, 8, 1, .sc, 0⟩
  | .WN_PORT_STAT_STATE => ⟨.WN_PORT_STAT, 0, 3, .ro, 0⟩
  | .WN_PORT_STAT_REASON => ⟨.WN_PORT_STAT, 3, 3, .ro, 0⟩
  | .WN_PORT_STAT_RATE => ⟨.WN_PORT_STAT, 6, 1, .ro, 0⟩
  | .WN_PORT_STAT_OVER_BUDGET => ⟨.WN_PORT_STAT, 7, 1, .w1c, 0⟩
  | .WN_PORT_STAT_BUSY => ⟨.WN_PORT_STAT, 8, 1, .w1c, 0⟩
  | .WN_PORT_BUDGET_BUDGET => ⟨.WN_PORT_BUDGET, 0, 12, .rw, 1⟩
  | .WN_PORT_BUDGET_MODULE_PWR => ⟨.WN_PORT_BUDGET, 12, 12, .ro, 0⟩
  | .WN_PORT_ERR_REPLAY => ⟨.WN_PORT_ERR, 0, 32, .ro, 0⟩
  | .WN_PORT_ERR_CRC => ⟨.WN_PORT_ERR, 32, 32, .ro, 0⟩
  | .WN_PORT_FEC_CE => ⟨.WN_PORT_FEC, 0, 48, .ro, 0⟩
  | .WN_PORT_FEC_UE => ⟨.WN_PORT_FEC, 48, 16, .ro, 0⟩
  | .WN_PORT_DROP_FRAMES => ⟨.WN_PORT_DROP, 0, 16, .ro, 0⟩
  | .WN_PORT_DROP_PAUSE => ⟨.WN_PORT_DROP, 16, 16, .ro, 0⟩
  | .WN_ROUTE_P0 => ⟨.WN_ROUTE, 0, 4, .rw, 0⟩
  | .WN_ROUTE_P1 => ⟨.WN_ROUTE, 4, 4, .rw, 0⟩
  | .WN_ROUTE_P2 => ⟨.WN_ROUTE, 8, 4, .rw, 0⟩
  | .WN_ROUTE_P3 => ⟨.WN_ROUTE, 12, 4, .rw, 0⟩
  | .WN_ROUTE_NCH => ⟨.WN_ROUTE, 16, 2, .rw, 0⟩
  | .WN_ROUTE_DL => ⟨.WN_ROUTE, 18, 4, .rw, 0⟩
  | .WN_ROUTE_VALID => ⟨.WN_ROUTE, 22, 1, .rw, 0⟩
  | .PW_PROFILE_PROFILE => ⟨.PW_PROFILE, 0, 2, .rw, 1⟩
  | .PW_CAP_WATTS => ⟨.PW_CAP, 0, 12, .rw, 2400⟩
  | .PW_CAP_EFFECTIVE => ⟨.PW_CAP, 12, 12, .ro, 1200⟩
  | .PW_PSTATE_CEIL => ⟨.PW_PSTATE, 0, 3, .rw, 0⟩
  | .PW_PSTATE_PIN => ⟨.PW_PSTATE, 3, 3, .rw, 0⟩
  | .PW_PSTATE_PIN_EN => ⟨.PW_PSTATE, 6, 1, .rw, 0⟩
  | .PW_PSTATE_AUTO => ⟨.PW_PSTATE, 7, 1, .rw, 1⟩
  | .PW_PRIO_FIRST => ⟨.PW_PRIO, 0, 2, .rw, 0⟩
  | .PW_PRIO_SECOND => ⟨.PW_PRIO, 2, 2, .rw, 1⟩
  | .PW_PRIO_THIRD => ⟨.PW_PRIO, 4, 2, .rw, 2⟩
  | .PW_LOOP_CFG_GAIN => ⟨.PW_LOOP_CFG, 0, 4, .rwl, 8⟩
  | .PW_LOOP_CFG_LINK_FLOOR => ⟨.PW_LOOP_CFG, 4, 7, .rwl, 25⟩
  | .PW_LOOP_CFG_LOCK => ⟨.PW_LOOP_CFG, 31, 1, .w1s, 0⟩
  | .PW_STAT_CFG_REFUSED => ⟨.PW_STAT, 0, 1, .w1c, 0⟩
  | .PW_STAT_BUSY => ⟨.PW_STAT, 1, 1, .w1c, 0⟩
  | .PW_STAT_ALERT => ⟨.PW_STAT, 2, 1, .ro, 0⟩
  | .PW_STAT_CAPPING => ⟨.PW_STAT, 3, 1, .ro, 0⟩
  | .PW_STAT_PIN_OVERRIDDEN => ⟨.PW_STAT, 4, 1, .w1c, 0⟩
  | .PW_STAT_CALIBRATED => ⟨.PW_STAT, 5, 1, .ro, 0⟩
  | .PW_MEAS_WATTS => ⟨.PW_MEAS, 0, 12, .ro, 0⟩
  | .PW_BUBBLE_FRAC_COMPUTE => ⟨.PW_BUBBLE_FRAC, 0, 8, .ro, 0⟩
  | .PW_BUBBLE_FRAC_MEMORY => ⟨.PW_BUBBLE_FRAC, 8, 8, .ro, 0⟩
  | .PW_BUBBLE_FRAC_LINKS => ⟨.PW_BUBBLE_FRAC, 16, 8, .ro, 0⟩
  | .PW_ENERGY_UJ => ⟨.PW_ENERGY, 0, 64, .ro, 0⟩
  | .PW_POLICY_HELD_COUNT => ⟨.PW_POLICY_HELD, 0, 32, .ro, 0⟩
  | .PW_ALERT_CNT => ⟨.PW_ALERT, 0, 16, .ro, 0⟩
  | .PW_ALERT_HOLD_MS => ⟨.PW_ALERT, 16, 8, .rw, 1⟩
  | .PW_STATE_REQ => ⟨.PW_STATE, 0, 2, .wo, 0⟩
  | .PW_STATE_IDLE => ⟨.PW_STATE, 2, 1, .ro, 0⟩
  | .PW_WAKE_LAST_SOURCE => ⟨.PW_WAKE_LAST, 0, 2, .ro, 0⟩
  | .PW_WAKE_LAST_PORT => ⟨.PW_WAKE_LAST, 2, 4, .ro, 0⟩
  | .PW_DROOP_CFG_HOLD => ⟨.PW_DROOP_CFG, 0, 10, .rw, 64⟩
  | .PW_DOM_OFF => ⟨.PW_DOM, 0, 1, .rw, 0⟩
  | .PW_DOM_IS_OFF => ⟨.PW_DOM, 1, 1, .ro, 0⟩
  | .PW_DOM_REFUSED => ⟨.PW_DOM, 2, 1, .w1c, 0⟩
  | .PW_THR_STAT_PSTATE => ⟨.PW_THR_STAT, 0, 3, .ro, 5⟩
  | .PW_THR_STAT_THROTTLED => ⟨.PW_THR_STAT, 3, 1, .ro, 0⟩
  | .PW_DROOP_CNT_COUNT => ⟨.PW_DROOP_CNT, 0, 32, .ro, 0⟩
  | .PW_BUBBLE_CNT_COUNT => ⟨.PW_BUBBLE_CNT, 0, 64, .ro, 0⟩
  | .TM_LIMIT_THROTTLE => ⟨.TM_LIMIT, 0, 8, .rw, 95⟩
  | .TM_LIMIT_HBM_THROTTLE => ⟨.TM_LIMIT, 8, 8, .rw, 85⟩
  | .TM_LIMIT_HYST => ⟨.TM_LIMIT, 16, 8, .rw, 5⟩
  | .TM_TRIP_THRESHER => ⟨.TM_TRIP, 0, 8, .ro, 115⟩
  | .TM_TRIP_STACK => ⟨.TM_TRIP, 8, 8, .ro, 105⟩
  | .TM_STAT_THROTTLING => ⟨.TM_STAT, 0, 1, .ro, 0⟩
  | .TM_STAT_TRIPPED => ⟨.TM_STAT, 1, 1, .ro, 0⟩
  | .TM_STAT_SENSOR_FAIL => ⟨.TM_STAT, 2, 1, .w1c, 0⟩
  | .TM_STAT_CFG_REFUSED => ⟨.TM_STAT, 3, 1, .w1c, 0⟩
  | .TM_THROTTLE_CNT_COUNT => ⟨.TM_THROTTLE_CNT, 0, 32, .ro, 0⟩
  | .TM_TEMP_TEMP => ⟨.TM_TEMP, 0, 12, .ro, 0⟩
  | .TM_TEMP_VALID => ⟨.TM_TEMP, 15, 1, .ro, 0⟩
  | .TM_STACK_TEMP_TEMP => ⟨.TM_STACK_TEMP, 0, 12, .ro, 0⟩
  | .TM_STACK_TEMP_VALID => ⟨.TM_STACK_TEMP, 15, 1, .ro, 0⟩
  | .CK_STAT_REFCLK_OK => ⟨.CK_STAT, 0, 1, .ro, 0⟩
  | .CK_STAT_ARMED => ⟨.CK_STAT, 1, 1, .ro, 0⟩
  | .CK_STAT_EPISODE => ⟨.CK_STAT, 2, 1, .ro, 0⟩
  | .CK_STAT_REFUSED => ⟨.CK_STAT, 3, 1, .w1c, 0⟩
  | .CK_STAT_BUSY => ⟨.CK_STAT, 4, 1, .w1c, 0⟩
  | .CK_STAT_REFUSED_ISL => ⟨.CK_STAT, 5, 6, .ro, 0⟩
  | .CK_FAIL_CFG_TIMEOUT_MS => ⟨.CK_FAIL_CFG, 0, 7, .rwl, 10⟩
  | .CK_FAIL_CFG_LOCK => ⟨.CK_FAIL_CFG, 31, 1, .w1s, 0⟩
  | .CK_FAIL_STAT_EPISODES => ⟨.CK_FAIL_STAT, 0, 16, .ro, 0⟩
  | .CK_FAIL_STAT_LAST_MS => ⟨.CK_FAIL_STAT, 16, 16, .ro, 0⟩
  | .CK_MON_LAST => ⟨.CK_MON, 0, 8, .ro, 0⟩
  | .CK_SNAP_GO => ⟨.CK_SNAP, 0, 1, .sc, 0⟩
  | .CK_SNAP_VALID => ⟨.CK_SNAP, 1, 1, .ro, 0⟩
  | .CK_METER_CTL_MEAS => ⟨.CK_METER_CTL, 0, 6, .rw, 0⟩
  | .CK_METER_CTL_GATE => ⟨.CK_METER_CTL, 8, 6, .rw, 0⟩
  | .CK_METER_CTL_GO => ⟨.CK_METER_CTL, 14, 1, .sc, 0⟩
  | .CK_METER_CTL_STATUS => ⟨.CK_METER_CTL, 15, 2, .ro, 0⟩
  | .CK_METER_N_N => ⟨.CK_METER_N, 0, 24, .rw, 1⟩
  | .CK_METER_CNT_COUNT => ⟨.CK_METER_CNT, 0, 64, .ro, 0⟩
  | .CK_ISL_CTL_SRC => ⟨.CK_ISL_CTL, 0, 2, .rw, 0⟩
  | .CK_ISL_STAT_CUR => ⟨.CK_ISL_STAT, 0, 2, .ro, 2⟩
  | .CK_ISL_STAT_READY0 => ⟨.CK_ISL_STAT, 2, 1, .ro, 0⟩
  | .CK_ISL_STAT_READY1 => ⟨.CK_ISL_STAT, 3, 1, .ro, 0⟩
  | .CK_ISL_STAT_READYS => ⟨.CK_ISL_STAT, 4, 1, .ro, 1⟩
  | .CK_ISL_STAT_SWITCHING => ⟨.CK_ISL_STAT, 5, 1, .ro, 0⟩
  | .CK_ISL_STAT_OWNER => ⟨.CK_ISL_STAT, 6, 2, .ro, 0⟩
  | .CK_ISL_STAT_MHZ => ⟨.CK_ISL_STAT, 8, 12, .ro, 100⟩
  | .CK_ISL_CYCLES_COUNT => ⟨.CK_ISL_CYCLES, 0, 64, .ro, 0⟩
  | .CK_ISL_SNAP_COUNT => ⟨.CK_ISL_SNAP, 0, 64, .ro, 0⟩
  | .CK_ISL_SWITCHES_COUNT => ⟨.CK_ISL_SWITCHES, 0, 32, .ro, 0⟩
  | .ER_RESET_CAUSE_CAUSE => ⟨.ER_RESET_CAUSE, 0, 3, .ro, 0⟩
  | .ER_RESET_CAUSE_ALSO => ⟨.ER_RESET_CAUSE, 8, 8, .ro, 0⟩
  | .ER_RESET_KEY => ⟨.ER_RESET, 0, 16, .wo, 0⟩
  | .ER_SERVICE_STATE => ⟨.ER_SERVICE, 0, 3, .ro, 0⟩
  | .ER_SERVICE_REQ_FULL => ⟨.ER_SERVICE, 3, 1, .sc, 0⟩
  | .ER_SERVICE_BUSY => ⟨.ER_SERVICE, 4, 1, .w1c, 0⟩
  | .ER_BRINGUP_LIST_DONE => ⟨.ER_BRINGUP, 0, 1, .w1s, 0⟩
  | .ER_BRINGUP_COMPLETE => ⟨.ER_BRINGUP, 1, 1, .ro, 0⟩
  | .ER_BRINGUP_BIST_PASS => ⟨.ER_BRINGUP, 2, 8, .ro, 0⟩
  | .ER_BRINGUP_BIST_FAIL => ⟨.ER_BRINGUP, 10, 8, .ro, 0⟩
  | .ER_STAT_CE => ⟨.ER_STAT, 0, 1, .w1c, 0⟩
  | .ER_STAT_POISON => ⟨.ER_STAT, 1, 1, .w1c, 0⟩
  | .ER_STAT_ENGINE => ⟨.ER_STAT, 2, 1, .w1c, 0⟩
  | .ER_STAT_PARTITION => ⟨.ER_STAT, 3, 1, .w1c, 0⟩
  | .ER_STAT_BAY => ⟨.ER_STAT, 4, 1, .ro, 0⟩
  | .ER_STAT_FATAL => ⟨.ER_STAT, 5, 1, .ro, 0⟩
  | .ER_STAT_GPIO_BUSY => ⟨.ER_STAT, 6, 1, .w1c, 0⟩
  | .ER_BAY_FAULT_BAYS => ⟨.ER_BAY_FAULT, 0, 4, .ro, 0⟩
  | .ER_BAY_FAULT_CODE => ⟨.ER_BAY_FAULT, 16, 16, .ro, 0⟩
  | .ER_CLASS_CNT_COUNT => ⟨.ER_CLASS_CNT, 0, 32, .ro, 0⟩
  | .ER_LOG_STAT_UNREAD => ⟨.ER_LOG_STAT, 0, 11, .ro, 0⟩
  | .ER_LOG_STAT_LOST => ⟨.ER_LOG_STAT, 11, 1, .w1c, 0⟩
  | .ER_LOG_STAT_CE_DROP => ⟨.ER_LOG_STAT, 16, 16, .ro, 0⟩
  | .ER_LOG_POP_POP => ⟨.ER_LOG_POP, 0, 1, .wo, 0⟩
  | .ER_LOG_DATA_DATA => ⟨.ER_LOG_DATA, 0, 32, .ro, 0⟩
  | .ER_FATAL_DATA => ⟨.ER_FATAL, 0, 32, .ro, 0⟩
  | .ER_GPIO_FN => ⟨.ER_GPIO, 0, 3, .rw, 0⟩
  | .ER_GPIO_OWN => ⟨.ER_GPIO, 3, 2, .ro, 0⟩
  | .ER_GPIO_OUT => ⟨.ER_GPIO, 5, 1, .rw, 0⟩
  | .ER_GPIO_IN => ⟨.ER_GPIO, 6, 1, .ro, 0⟩
  | .ER_GPIO_ATTN => ⟨.ER_GPIO, 7, 1, .w1c, 0⟩
  | .ID_VENDOR_VENDOR => ⟨.ID_VENDOR, 0, 16, .ro, 8028⟩
  | .ID_VENDOR_DEVICE => ⟨.ID_VENDOR, 16, 16, .ro, 22080⟩
  | .ID_REV_STEPPING => ⟨.ID_REV, 0, 8, .ro, 0⟩
  | .ID_REV_BOOTROM => ⟨.ID_REV, 16, 16, .ro, 0⟩
  | .ID_SERIAL_SERIAL => ⟨.ID_SERIAL, 0, 64, .ro, 0⟩
  | .ID_FUSE_CFG_REVOKED => ⟨.ID_FUSE_CFG, 0, 4, .ro, 0⟩
  | .ID_FUSE_CFG_MAP => ⟨.ID_FUSE_CFG, 8, 8, .ro, 0⟩
  | .ID_SVN_SVN => ⟨.ID_SVN, 0, 7, .ro, 0⟩
  | .ID_BOARD_BUDGET_W => ⟨.ID_BOARD, 0, 12, .ro, 1200⟩
  | .ID_BOARD_CLASS => ⟨.ID_BOARD, 12, 4, .ro, 0⟩
  | .ID_BOARD_SLOT => ⟨.ID_BOARD, 16, 8, .ro, 0⟩
  | .ID_BOARD_FRU_STATUS => ⟨.ID_BOARD, 24, 2, .ro, 0⟩
  | .ID_CERT_LEN_LEN => ⟨.ID_CERT_LEN, 0, 11, .ro, 0⟩
  | .ID_PUBKEY_DATA => ⟨.ID_PUBKEY, 0, 32, .ro, 0⟩
  | .ID_FW_DIGEST_DATA => ⟨.ID_FW_DIGEST, 0, 32, .ro, 0⟩
  | .ID_CERT_DATA => ⟨.ID_CERT, 0, 32, .ro, 0⟩
  | .HI_MWIN_OFFSET_OFFSET => ⟨.HI_MWIN_OFFSET, 0, 42, .rw, 0⟩
  | .HI_STAT_CFG_REFUSED => ⟨.HI_STAT, 0, 1, .w1c, 0⟩
  | .HI_STAT_BAD_ACCESS => ⟨.HI_STAT, 1, 1, .w1c, 0⟩
  | .HI_STAT_BAD_HEAD => ⟨.HI_STAT, 2, 1, .w1c, 0⟩
  | .HI_FW_CTL_LEN => ⟨.HI_FW_CTL, 0, 24, .rw, 0⟩
  | .HI_FW_CTL_GO => ⟨.HI_FW_CTL, 31, 1, .sc, 0⟩
  | .HI_FW_STAT_STATE => ⟨.HI_FW_STAT, 0, 2, .ro, 0⟩
  | .HI_FW_STAT_REASON => ⟨.HI_FW_STAT, 2, 3, .ro, 0⟩
  | .HI_FW_STAT_BUSY => ⟨.HI_FW_STAT, 5, 1, .w1c, 0⟩
  | .HI_FW_STAT_STAGE_DROP => ⟨.HI_FW_STAT, 6, 1, .w1c, 0⟩
  | .HI_EVT_BASE_BASE => ⟨.HI_EVT_BASE, 0, 64, .rw, 0⟩
  | .HI_EVT_CFG_LOG2N => ⟨.HI_EVT_CFG, 0, 5, .rw, 6⟩
  | .HI_EVT_CFG_EN => ⟨.HI_EVT_CFG, 31, 1, .rw, 0⟩
  | .HI_EVT_HEAD_HEAD => ⟨.HI_EVT_HEAD, 0, 32, .rw, 0⟩
  | .HI_EVT_TAIL_TAIL => ⟨.HI_EVT_TAIL, 0, 32, .ro, 0⟩
  | .HI_EVT_DROP_COUNT => ⟨.HI_EVT_DROP, 0, 32, .ro, 0⟩
  | .HI_ALERT_CLKFAIL => ⟨.HI_ALERT, 0, 1, .w1c, 0⟩
  | .HI_ALERT_TRIP => ⟨.HI_ALERT, 1, 1, .w1c, 0⟩
  | .HI_ALERT_BAY => ⟨.HI_ALERT, 2, 1, .w1c, 0⟩
  | .HI_ALERT_FATAL => ⟨.HI_ALERT, 3, 1, .w1c, 0⟩
  | .HI_ALERT_FLOOR => ⟨.HI_ALERT, 4, 1, .w1c, 0⟩
  | .MC_MBX_CMD_OP => ⟨.MC_MBX_CMD, 0, 8, .rw, 0⟩
  | .MC_MBX_CMD_TAG => ⟨.MC_MBX_CMD, 8, 8, .rw, 0⟩
  | .MC_MBX_CMD_ARG => ⟨.MC_MBX_CMD, 16, 16, .rw, 0⟩
  | .MC_MBX_CTL_GO => ⟨.MC_MBX_CTL, 0, 1, .sc, 0⟩
  | .MC_MBX_CTL_OVERRUN => ⟨.MC_MBX_CTL, 1, 1, .w1c, 0⟩
  | .MC_MBX_STAT_STATUS => ⟨.MC_MBX_STAT, 0, 3, .ro, 0⟩
  | .MC_MBX_STAT_TAG => ⟨.MC_MBX_STAT, 8, 8, .ro, 0⟩
  | .MC_MBX_RES_RESULT => ⟨.MC_MBX_RES, 0, 32, .ro, 0⟩
  | .MC_MBX_DONE_RECORD => ⟨.MC_MBX_DONE, 0, 64, .ro, 0⟩
  | .MC_MBX_POP_POP => ⟨.MC_MBX_POP, 0, 1, .wo, 0⟩
  | .MC_MBX_POP_VALID => ⟨.MC_MBX_POP, 1, 1, .ro, 0⟩
  | .MC_MBX_POP_LOST => ⟨.MC_MBX_POP, 2, 1, .w1c, 0⟩
  | .MC_FW_VER_VERSION => ⟨.MC_FW_VER, 0, 32, .ro, 0⟩

/-- The fields of every register, from its lowest bit up. -/
def Reg.fields : Reg → List F
  | .TH_ORG => [.TH_ORG_MODE, .TH_ORG_COMMIT, .TH_ORG_STATUS, .TH_ORG_CUR_MODE, .TH_ORG_NPART]
  | .TH_STAT => [.TH_STAT_STREAMING, .TH_STAT_FROZEN, .TH_STAT_SWAP_WAIT, .TH_STAT_NFAULT, .TH_STAT_GATED]
  | .TH_FREEZE_LIMIT => [.TH_FREEZE_LIMIT_LIMIT]
  | .TH_ACTIVE_CNT => [.TH_ACTIVE_CNT_COUNT]
  | .TH_FREEZE_CNT => [.TH_FREEZE_CNT_COUNT]
  | .TH_SWAP_WAIT_CNT => [.TH_SWAP_WAIT_CNT_COUNT]
  | .TH_PART_CFG => [.TH_PART_CFG_ROW_ORG, .TH_PART_CFG_COL_ORG, .TH_PART_CFG_HEIGHT, .TH_PART_CFG_WIDTH, .TH_PART_CFG_EN]
  | .TH_PART_STAT => [.TH_PART_STAT_STATE, .TH_PART_STAT_DROP, .TH_PART_STAT_CODE]
  | .TH_PART_CTL => [.TH_PART_CTL_CLEAR]
  | .TH_PART_FREEZE => [.TH_PART_FREEZE_COUNT]
  | .TN_CTL => [.TN_CTL_DISABLE, .TN_CTL_TEST]
  | .TN_STAT => [.TN_STAT_OWNER, .TN_STAT_AVAIL, .TN_STAT_REASON, .TN_STAT_TEST_PASS, .TN_STAT_CTL_REFUSED, .TN_STAT_STRAY_FREE]
  | .TN_REFUSE_CNT => [.TN_REFUSE_CNT_COUNT]
  | .TN_ECC => [.TN_ECC_CE, .TN_ECC_UE]
  | .TN_SQUARE_CNT => [.TN_SQUARE_CNT_COUNT]
  | .TN_HELD_CNT => [.TN_HELD_CNT_COUNT]
  | .ID_CAP_CONTRACT => [.ID_CAP_CONTRACT_VALUE]
  | .ID_CAP_CONTRACT_MIN => [.ID_CAP_CONTRACT_MIN_VALUE]
  | .ID_CAP_BAYS => [.ID_CAP_BAYS_VALUE]
  | .ID_CAP_THRESHERS => [.ID_CAP_THRESHERS_VALUE]
  | .ID_CAP_ROWS => [.ID_CAP_ROWS_VALUE]
  | .ID_CAP_COLS => [.ID_CAP_COLS_VALUE]
  | .ID_CAP_TILE => [.ID_CAP_TILE_VALUE]
  | .ID_CAP_PARTS => [.ID_CAP_PARTS_VALUE]
  | .ID_CAP_LOFT_BYTES => [.ID_CAP_LOFT_BYTES_VALUE]
  | .ID_CAP_LOFT_BANKS => [.ID_CAP_LOFT_BANKS_VALUE]
  | .ID_CAP_VLANES => [.ID_CAP_VLANES_VALUE]
  | .ID_CAP_STACKS => [.ID_CAP_STACKS_VALUE]
  | .ID_CAP_STACK_BYTES => [.ID_CAP_STACK_BYTES_VALUE]
  | .ID_CAP_HBM_BYTES => [.ID_CAP_HBM_BYTES_VALUE]
  | .ID_CAP_PORTS => [.ID_CAP_PORTS_VALUE]
  | .ID_CAP_PORT_LANES => [.ID_CAP_PORT_LANES_VALUE]
  | .ID_CAP_TALLIES => [.ID_CAP_TALLIES_VALUE]
  | .ID_CAP_BAY_TALLIES => [.ID_CAP_BAY_TALLIES_VALUE]
  | .ID_CAP_QUEUES => [.ID_CAP_QUEUES_VALUE]
  | .ID_CAP_QDEPTH => [.ID_CAP_QDEPTH_VALUE]
  | .ID_CAP_LOOPS => [.ID_CAP_LOOPS_VALUE]
  | .ID_CAP_REGIONS => [.ID_CAP_REGIONS_VALUE]
  | .ID_CAP_TAGS => [.ID_CAP_TAGS_VALUE]
  | .ID_CAP_MODULES => [.ID_CAP_MODULES_VALUE]
  | .ID_CAP_FORMATS => [.ID_CAP_FORMATS_VALUE]
  | .ID_CAP_TURNER => [.ID_CAP_TURNER_VALUE]
  | .ID_CAP_MAX_STEPS => [.ID_CAP_MAX_STEPS_VALUE]
  | .ID_CAP_CH_DEPTH => [.ID_CAP_CH_DEPTH_VALUE]
  | .ID_CAP_CE_DEPTH => [.ID_CAP_CE_DEPTH_VALUE]
  | .ID_CAP_WN_DEPTH => [.ID_CAP_WN_DEPTH_VALUE]
  | .ID_CAP_VE_DEPTH => [.ID_CAP_VE_DEPTH_VALUE]
  | .EN_CONTRACT => [.EN_CONTRACT_VERSION]
  | .EN_STAT => [.EN_STAT_ALL_IDLE, .EN_STAT_CFG_REFUSED]
  | .EN_RNG_SEED_LO => [.EN_RNG_SEED_LO_SEED]
  | .EN_RNG_SEED_HI => [.EN_RNG_SEED_HI_SEED]
  | .EN_Q_CTL => [.EN_Q_CTL_STOP, .EN_Q_CTL_CLEAR]
  | .EN_Q_STAT => [.EN_Q_STAT_STATE, .EN_Q_STAT_DB_REFUSED, .EN_Q_STAT_CFG_REFUSED, .EN_Q_STAT_CODE]
  | .EN_Q_PRG_BASE => [.EN_Q_PRG_BASE_BASE]
  | .EN_Q_PRG_SIZE => [.EN_Q_PRG_SIZE_SIZE]
  | .EN_Q_PC => [.EN_Q_PC_PC]
  | .EN_Q_FAULT_PC => [.EN_Q_FAULT_PC_PC]
  | .EN_Q_ISSUED => [.EN_Q_ISSUED_COUNT]
  | .EN_Q_CR => [.EN_Q_CR_CR]
  | .TL_JOB => [.TL_JOB_TAG, .TL_JOB_REMOTE_EN]
  | .TL_STAT => [.TL_STAT_OVF, .TL_STAT_MISUSE, .TL_STAT_REMOTE_REFUSED, .TL_STAT_CFG_REFUSED, .TL_STAT_WDOG_FIRED]
  | .TL_OVF_FIRST => [.TL_OVF_FIRST_TALLY, .TL_OVF_FIRST_VALID]
  | .TL_MISUSE_LAST => [.TL_MISUSE_LAST_TALLY, .TL_MISUSE_LAST_QUEUE, .TL_MISUSE_LAST_REASON]
  | .TL_REMOTE_LAST => [.TL_REMOTE_LAST_TALLY, .TL_REMOTE_LAST_SOURCE]
  | .TL_REMOTE_REFUSE_CNT => [.TL_REMOTE_REFUSE_CNT_COUNT]
  | .TL_HOST_OP => [.TL_HOST_OP_TALLY, .TL_HOST_OP_COUNT]
  | .TL_HOST_CTL => [.TL_HOST_CTL_OP, .TL_HOST_CTL_GO, .TL_HOST_CTL_REFUSED]
  | .TL_WDOG => [.TL_WDOG_PERIOD, .TL_WDOG_EN]
  | .TL_WAIT => [.TL_WAIT_TALLY, .TL_WAIT_NEED]
  | .TL_ALLOC => [.TL_ALLOC_BITS]
  | .TL_OVF => [.TL_OVF_BITS]
  | .TL_COUNT => [.TL_COUNT_COUNT]
  | .LF_STAT => [.LF_STAT_CFG_REFUSED, .LF_STAT_GATHER_RACE, .LF_STAT_BOUNDS, .LF_STAT_REMOTE_REFUSED]
  | .LF_BOUNDS_LAST => [.LF_BOUNDS_LAST_QUEUE, .LF_BOUNDS_LAST_REASON, .LF_BOUNDS_LAST_SIDE]
  | .LF_BOUNDS_ADDR => [.LF_BOUNDS_ADDR_LO]
  | .LF_BOUNDS_CNT => [.LF_BOUNDS_CNT_COUNT]
  | .LF_REMOTE_REFUSE_CNT => [.LF_REMOTE_REFUSE_CNT_COUNT]
  | .LF_ECC => [.LF_ECC_CE, .LF_ECC_UE]
  | .LF_FABRIC => [.LF_FABRIC_RESEND, .LF_FABRIC_FAIL]
  | .LF_FLOOR_CNT => [.LF_FLOOR_CNT_COUNT]
  | .LF_REGION_BASE => [.LF_REGION_BASE_BASE]
  | .LF_REGION_SIZE => [.LF_REGION_SIZE_SIZE, .LF_REGION_SIZE_V, .LF_REGION_SIZE_RD, .LF_REGION_SIZE_WR, .LF_REGION_SIZE_RRD, .LF_REGION_SIZE_RWR]
  | .GN_CFG => [.GN_CFG_INTERLEAVE, .GN_CFG_SCRUB]
  | .GN_STAT => [.GN_STAT_BUSY, .GN_STAT_FAILED_MEMORY, .GN_STAT_REPAIR_PENDING, .GN_STAT_HARDENING]
  | .GN_STACK_TRAINED => [.GN_STACK_TRAINED_STACKS]
  | .GN_STACK_FAILED => [.GN_STACK_FAILED_STACKS]
  | .GN_REPAIR_CFG => [.GN_REPAIR_CFG_THRESH, .GN_REPAIR_CFG_AUTO_HARDEN, .GN_REPAIR_CFG_LOCK]
  | .GN_RLIST_ENTRY => [.GN_RLIST_ENTRY_RECORD]
  | .GN_RLIST_CTL => [.GN_RLIST_CTL_COUNT, .GN_RLIST_CTL_REFUSED]
  | .GN_REPAIR_EVT => [.GN_REPAIR_EVT_RECORD]
  | .GN_REPAIR_POP => [.GN_REPAIR_POP_POP, .GN_REPAIR_POP_VALID, .GN_REPAIR_POP_LOST]
  | .GN_STACK_STAT => [.GN_STACK_STAT_STATE, .GN_STACK_STAT_REASON, .GN_STACK_STAT_CHANNEL]
  | .GN_ECC_ODC => [.GN_ECC_ODC_COUNT]
  | .GN_ECC_CE => [.GN_ECC_CE_COUNT]
  | .GN_ECC_UE => [.GN_ECC_UE_COUNT]
  | .GN_SPARE => [.GN_SPARE_SOFT, .GN_SPARE_RETIRED, .GN_SPARE_SPARE_RET]
  | .GN_SCRUB_PASS => [.GN_SCRUB_PASS_COUNT]
  | .GN_ID => [.GN_ID_DATA]
  | .GL_CFG => [.GL_CFG_PACK_TIMEOUT]
  | .GL_STAT => [.GL_STAT_CFG_REFUSED]
  | .GL_ITEMS => [.GL_ITEMS_COUNT]
  | .GL_PACKETS => [.GL_PACKETS_COUNT]
  | .GL_POISON => [.GL_POISON_COUNT]
  | .GL_TIMEOUT_CNT => [.GL_TIMEOUT_CNT_COUNT]
  | .PS_CFG => [.PS_CFG_EN, .PS_CFG_CTL_T]
  | .PS_HEALTH_TIMEOUT => [.PS_HEALTH_TIMEOUT_US]
  | .PS_STAT => [.PS_STAT_BUSY, .PS_STAT_CFG_REFUSED, .PS_STAT_OPEN, .PS_STAT_CLOSED, .PS_STAT_FOLDING, .PS_STAT_HOST_WR_DROP, .PS_STAT_ESCAPE, .PS_STAT_LAST_SQUASHED]
  | .PS_EPOCH_OPEN => [.PS_EPOCH_OPEN_EPOCH]
  | .PS_EPOCH_CLOSED => [.PS_EPOCH_CLOSED_EPOCH]
  | .PS_EPOCH_LAST => [.PS_EPOCH_LAST_EPOCH]
  | .PS_CONFIRM_CNT => [.PS_CONFIRM_CNT_COUNT]
  | .PS_SQUASH_CNT => [.PS_SQUASH_CNT_COUNT]
  | .PS_ESC_FLAG => [.PS_ESC_FLAG_ESC_C, .PS_ESC_FLAG_ESC_O, .PS_ESC_FLAG_ESC_A]
  | .PS_STALL_CNT => [.PS_STALL_CNT_COUNT]
  | .PS_DISCARD_CNT => [.PS_DISCARD_CNT_COUNT]
  | .PS_NUMFLAG => [.PS_NUMFLAG_OVF_C, .PS_NUMFLAG_NAN_C, .PS_NUMFLAG_OVF_O, .PS_NUMFLAG_NAN_O, .PS_NUMFLAG_OVF_A, .PS_NUMFLAG_NAN_A]
  | .PS_VREG_A => [.PS_VREG_A_BASE]
  | .PS_VREG_B => [.PS_VREG_B_BASE]
  | .PS_VREG_CFG => [.PS_VREG_CFG_GRANULES, .PS_VREG_CFG_KIND, .PS_VREG_CFG_V]
  | .WN_RANK_BASE => [.WN_RANK_BASE_BASE]
  | .WN_RANK_COUNT => [.WN_RANK_COUNT_COUNT]
  | .WN_RANK_SELF => [.WN_RANK_SELF_RANK]
  | .WN_RANK_CTL => [.WN_RANK_CTL_COMMIT, .WN_RANK_CTL_STATUS, .WN_RANK_CTL_VALID, .WN_RANK_CTL_LOG2P]
  | .WN_DIG_BASE => [.WN_DIG_BASE_BASE]
  | .WN_DIG_CFG => [.WN_DIG_CFG_EN]
  | .WN_COLL_CFG => [.WN_COLL_CFG_TIMEOUT]
  | .WN_COLL_STAT => [.WN_COLL_STAT_CFG_REFUSED, .WN_COLL_STAT_TIMEOUT, .WN_COLL_STAT_MISMATCH, .WN_COLL_STAT_OVERFLOW]
  | .WN_SAT_CNT => [.WN_SAT_CNT_COUNT]
  | .WN_ESC_CNT => [.WN_ESC_CNT_ADDER, .WN_ESC_CNT_CONV]
  | .WN_ID => [.WN_ID_MODULE]
  | .WN_STAT => [.WN_STAT_CFG_REFUSED, .WN_STAT_LINK_DOWN]
  | .WN_ETH => [.WN_ETH_ETYPE, .WN_ETH_VID, .WN_ETH_PCP, .WN_ETH_TAG_EN]
  | .WN_MAC_PREFIX => [.WN_MAC_PREFIX_PREFIX]
  | .WN_LINK_CFG => [.WN_LINK_CFG_MAX_HOPS, .WN_LINK_CFG_REPLAY_US, .WN_LINK_CFG_SW_WIN, .WN_LINK_CFG_HOLD_MS, .WN_LINK_CFG_TXN_TIMEOUT]
  | .WN_PORT_CTL => [.WN_PORT_CTL_EN, .WN_PORT_CTL_FRAMING, .WN_PORT_CTL_TX_INV, .WN_PORT_CTL_WAKE_EN, .WN_PORT_CTL_WAKE_ENERGY, .WN_PORT_CTL_WAKE_SEND]
  | .WN_PORT_STAT => [.WN_PORT_STAT_STATE, .WN_PORT_STAT_REASON, .WN_PORT_STAT_RATE, .WN_PORT_STAT_OVER_BUDGET, .WN_PORT_STAT_BUSY]
  | .WN_PORT_BUDGET => [.WN_PORT_BUDGET_BUDGET, .WN_PORT_BUDGET_MODULE_PWR]
  | .WN_PORT_ERR => [.WN_PORT_ERR_REPLAY, .WN_PORT_ERR_CRC]
  | .WN_PORT_FEC => [.WN_PORT_FEC_CE, .WN_PORT_FEC_UE]
  | .WN_PORT_DROP => [.WN_PORT_DROP_FRAMES, .WN_PORT_DROP_PAUSE]
  | .WN_ROUTE => [.WN_ROUTE_P0, .WN_ROUTE_P1, .WN_ROUTE_P2, .WN_ROUTE_P3, .WN_ROUTE_NCH, .WN_ROUTE_DL, .WN_ROUTE_VALID]
  | .PW_PROFILE => [.PW_PROFILE_PROFILE]
  | .PW_CAP => [.PW_CAP_WATTS, .PW_CAP_EFFECTIVE]
  | .PW_PSTATE => [.PW_PSTATE_CEIL, .PW_PSTATE_PIN, .PW_PSTATE_PIN_EN, .PW_PSTATE_AUTO]
  | .PW_PRIO => [.PW_PRIO_FIRST, .PW_PRIO_SECOND, .PW_PRIO_THIRD]
  | .PW_LOOP_CFG => [.PW_LOOP_CFG_GAIN, .PW_LOOP_CFG_LINK_FLOOR, .PW_LOOP_CFG_LOCK]
  | .PW_STAT => [.PW_STAT_CFG_REFUSED, .PW_STAT_BUSY, .PW_STAT_ALERT, .PW_STAT_CAPPING, .PW_STAT_PIN_OVERRIDDEN, .PW_STAT_CALIBRATED]
  | .PW_MEAS => [.PW_MEAS_WATTS]
  | .PW_BUBBLE_FRAC => [.PW_BUBBLE_FRAC_COMPUTE, .PW_BUBBLE_FRAC_MEMORY, .PW_BUBBLE_FRAC_LINKS]
  | .PW_ENERGY => [.PW_ENERGY_UJ]
  | .PW_POLICY_HELD => [.PW_POLICY_HELD_COUNT]
  | .PW_ALERT => [.PW_ALERT_CNT, .PW_ALERT_HOLD_MS]
  | .PW_STATE => [.PW_STATE_REQ, .PW_STATE_IDLE]
  | .PW_WAKE_LAST => [.PW_WAKE_LAST_SOURCE, .PW_WAKE_LAST_PORT]
  | .PW_DROOP_CFG => [.PW_DROOP_CFG_HOLD]
  | .PW_DOM => [.PW_DOM_OFF, .PW_DOM_IS_OFF, .PW_DOM_REFUSED]
  | .PW_THR_STAT => [.PW_THR_STAT_PSTATE, .PW_THR_STAT_THROTTLED]
  | .PW_DROOP_CNT => [.PW_DROOP_CNT_COUNT]
  | .PW_BUBBLE_CNT => [.PW_BUBBLE_CNT_COUNT]
  | .TM_LIMIT => [.TM_LIMIT_THROTTLE, .TM_LIMIT_HBM_THROTTLE, .TM_LIMIT_HYST]
  | .TM_TRIP => [.TM_TRIP_THRESHER, .TM_TRIP_STACK]
  | .TM_STAT => [.TM_STAT_THROTTLING, .TM_STAT_TRIPPED, .TM_STAT_SENSOR_FAIL, .TM_STAT_CFG_REFUSED]
  | .TM_THROTTLE_CNT => [.TM_THROTTLE_CNT_COUNT]
  | .TM_TEMP => [.TM_TEMP_TEMP, .TM_TEMP_VALID]
  | .TM_STACK_TEMP => [.TM_STACK_TEMP_TEMP, .TM_STACK_TEMP_VALID]
  | .CK_STAT => [.CK_STAT_REFCLK_OK, .CK_STAT_ARMED, .CK_STAT_EPISODE, .CK_STAT_REFUSED, .CK_STAT_BUSY, .CK_STAT_REFUSED_ISL]
  | .CK_FAIL_CFG => [.CK_FAIL_CFG_TIMEOUT_MS, .CK_FAIL_CFG_LOCK]
  | .CK_FAIL_STAT => [.CK_FAIL_STAT_EPISODES, .CK_FAIL_STAT_LAST_MS]
  | .CK_MON => [.CK_MON_LAST]
  | .CK_SNAP => [.CK_SNAP_GO, .CK_SNAP_VALID]
  | .CK_METER_CTL => [.CK_METER_CTL_MEAS, .CK_METER_CTL_GATE, .CK_METER_CTL_GO, .CK_METER_CTL_STATUS]
  | .CK_METER_N => [.CK_METER_N_N]
  | .CK_METER_CNT => [.CK_METER_CNT_COUNT]
  | .CK_ISL_CTL => [.CK_ISL_CTL_SRC]
  | .CK_ISL_STAT => [.CK_ISL_STAT_CUR, .CK_ISL_STAT_READY0, .CK_ISL_STAT_READY1, .CK_ISL_STAT_READYS, .CK_ISL_STAT_SWITCHING, .CK_ISL_STAT_OWNER, .CK_ISL_STAT_MHZ]
  | .CK_ISL_CYCLES => [.CK_ISL_CYCLES_COUNT]
  | .CK_ISL_SNAP => [.CK_ISL_SNAP_COUNT]
  | .CK_ISL_SWITCHES => [.CK_ISL_SWITCHES_COUNT]
  | .ER_RESET_CAUSE => [.ER_RESET_CAUSE_CAUSE, .ER_RESET_CAUSE_ALSO]
  | .ER_RESET => [.ER_RESET_KEY]
  | .ER_SERVICE => [.ER_SERVICE_STATE, .ER_SERVICE_REQ_FULL, .ER_SERVICE_BUSY]
  | .ER_BRINGUP => [.ER_BRINGUP_LIST_DONE, .ER_BRINGUP_COMPLETE, .ER_BRINGUP_BIST_PASS, .ER_BRINGUP_BIST_FAIL]
  | .ER_STAT => [.ER_STAT_CE, .ER_STAT_POISON, .ER_STAT_ENGINE, .ER_STAT_PARTITION, .ER_STAT_BAY, .ER_STAT_FATAL, .ER_STAT_GPIO_BUSY]
  | .ER_BAY_FAULT => [.ER_BAY_FAULT_BAYS, .ER_BAY_FAULT_CODE]
  | .ER_CLASS_CNT => [.ER_CLASS_CNT_COUNT]
  | .ER_LOG_STAT => [.ER_LOG_STAT_UNREAD, .ER_LOG_STAT_LOST, .ER_LOG_STAT_CE_DROP]
  | .ER_LOG_POP => [.ER_LOG_POP_POP]
  | .ER_LOG_DATA => [.ER_LOG_DATA_DATA]
  | .ER_FATAL => [.ER_FATAL_DATA]
  | .ER_GPIO => [.ER_GPIO_FN, .ER_GPIO_OWN, .ER_GPIO_OUT, .ER_GPIO_IN, .ER_GPIO_ATTN]
  | .ID_VENDOR => [.ID_VENDOR_VENDOR, .ID_VENDOR_DEVICE]
  | .ID_REV => [.ID_REV_STEPPING, .ID_REV_BOOTROM]
  | .ID_SERIAL => [.ID_SERIAL_SERIAL]
  | .ID_FUSE_CFG => [.ID_FUSE_CFG_REVOKED, .ID_FUSE_CFG_MAP]
  | .ID_SVN => [.ID_SVN_SVN]
  | .ID_BOARD => [.ID_BOARD_BUDGET_W, .ID_BOARD_CLASS, .ID_BOARD_SLOT, .ID_BOARD_FRU_STATUS]
  | .ID_CERT_LEN => [.ID_CERT_LEN_LEN]
  | .ID_PUBKEY => [.ID_PUBKEY_DATA]
  | .ID_FW_DIGEST => [.ID_FW_DIGEST_DATA]
  | .ID_CERT => [.ID_CERT_DATA]
  | .HI_MWIN_OFFSET => [.HI_MWIN_OFFSET_OFFSET]
  | .HI_STAT => [.HI_STAT_CFG_REFUSED, .HI_STAT_BAD_ACCESS, .HI_STAT_BAD_HEAD]
  | .HI_FW_CTL => [.HI_FW_CTL_LEN, .HI_FW_CTL_GO]
  | .HI_FW_STAT => [.HI_FW_STAT_STATE, .HI_FW_STAT_REASON, .HI_FW_STAT_BUSY, .HI_FW_STAT_STAGE_DROP]
  | .HI_EVT_BASE => [.HI_EVT_BASE_BASE]
  | .HI_EVT_CFG => [.HI_EVT_CFG_LOG2N, .HI_EVT_CFG_EN]
  | .HI_EVT_HEAD => [.HI_EVT_HEAD_HEAD]
  | .HI_EVT_TAIL => [.HI_EVT_TAIL_TAIL]
  | .HI_EVT_DROP => [.HI_EVT_DROP_COUNT]
  | .HI_ALERT => [.HI_ALERT_CLKFAIL, .HI_ALERT_TRIP, .HI_ALERT_BAY, .HI_ALERT_FATAL, .HI_ALERT_FLOOR]
  | .MC_MBX_CMD => [.MC_MBX_CMD_OP, .MC_MBX_CMD_TAG, .MC_MBX_CMD_ARG]
  | .MC_MBX_CTL => [.MC_MBX_CTL_GO, .MC_MBX_CTL_OVERRUN]
  | .MC_MBX_STAT => [.MC_MBX_STAT_STATUS, .MC_MBX_STAT_TAG]
  | .MC_MBX_RES => [.MC_MBX_RES_RESULT]
  | .MC_MBX_DONE => [.MC_MBX_DONE_RECORD]
  | .MC_MBX_POP => [.MC_MBX_POP_POP, .MC_MBX_POP_VALID, .MC_MBX_POP_LOST]
  | .MC_FW_VER => [.MC_FW_VER_VERSION]

/-- The registers of block TH_. -/
def Reg.blockTH : List Reg :=
  [.TH_ORG, .TH_STAT, .TH_FREEZE_LIMIT, .TH_ACTIVE_CNT, .TH_FREEZE_CNT, .TH_SWAP_WAIT_CNT, .TH_PART_CFG, .TH_PART_STAT, .TH_PART_CTL, .TH_PART_FREEZE]

/-- The registers of block TN_. -/
def Reg.blockTN : List Reg :=
  [.TN_CTL, .TN_STAT, .TN_REFUSE_CNT, .TN_ECC, .TN_SQUARE_CNT, .TN_HELD_CNT]

/-- The registers of block ID_. -/
def Reg.blockID : List Reg :=
  [.ID_CAP_CONTRACT, .ID_CAP_CONTRACT_MIN, .ID_CAP_BAYS, .ID_CAP_THRESHERS, .ID_CAP_ROWS, .ID_CAP_COLS, .ID_CAP_TILE, .ID_CAP_PARTS, .ID_CAP_LOFT_BYTES, .ID_CAP_LOFT_BANKS, .ID_CAP_VLANES, .ID_CAP_STACKS, .ID_CAP_STACK_BYTES, .ID_CAP_HBM_BYTES, .ID_CAP_PORTS, .ID_CAP_PORT_LANES, .ID_CAP_TALLIES, .ID_CAP_BAY_TALLIES, .ID_CAP_QUEUES, .ID_CAP_QDEPTH, .ID_CAP_LOOPS, .ID_CAP_REGIONS, .ID_CAP_TAGS, .ID_CAP_MODULES, .ID_CAP_FORMATS, .ID_CAP_TURNER, .ID_CAP_MAX_STEPS, .ID_CAP_CH_DEPTH, .ID_CAP_CE_DEPTH, .ID_CAP_WN_DEPTH, .ID_CAP_VE_DEPTH, .ID_VENDOR, .ID_REV, .ID_SERIAL, .ID_FUSE_CFG, .ID_SVN, .ID_BOARD, .ID_CERT_LEN, .ID_PUBKEY, .ID_FW_DIGEST, .ID_CERT]

/-- The registers of block EN_. -/
def Reg.blockEN : List Reg :=
  [.EN_CONTRACT, .EN_STAT, .EN_RNG_SEED_LO, .EN_RNG_SEED_HI, .EN_Q_CTL, .EN_Q_STAT, .EN_Q_PRG_BASE, .EN_Q_PRG_SIZE, .EN_Q_PC, .EN_Q_FAULT_PC, .EN_Q_ISSUED, .EN_Q_CR]

/-- The registers of block TL_. -/
def Reg.blockTL : List Reg :=
  [.TL_JOB, .TL_STAT, .TL_OVF_FIRST, .TL_MISUSE_LAST, .TL_REMOTE_LAST, .TL_REMOTE_REFUSE_CNT, .TL_HOST_OP, .TL_HOST_CTL, .TL_WDOG, .TL_WAIT, .TL_ALLOC, .TL_OVF, .TL_COUNT]

/-- The registers of block LF_. -/
def Reg.blockLF : List Reg :=
  [.LF_STAT, .LF_BOUNDS_LAST, .LF_BOUNDS_ADDR, .LF_BOUNDS_CNT, .LF_REMOTE_REFUSE_CNT, .LF_ECC, .LF_FABRIC, .LF_FLOOR_CNT, .LF_REGION_BASE, .LF_REGION_SIZE]

/-- The registers of block GN_. -/
def Reg.blockGN : List Reg :=
  [.GN_CFG, .GN_STAT, .GN_STACK_TRAINED, .GN_STACK_FAILED, .GN_REPAIR_CFG, .GN_RLIST_ENTRY, .GN_RLIST_CTL, .GN_REPAIR_EVT, .GN_REPAIR_POP, .GN_STACK_STAT, .GN_ECC_ODC, .GN_ECC_CE, .GN_ECC_UE, .GN_SPARE, .GN_SCRUB_PASS, .GN_ID]

/-- The registers of block GL_. -/
def Reg.blockGL : List Reg :=
  [.GL_CFG, .GL_STAT, .GL_ITEMS, .GL_PACKETS, .GL_POISON, .GL_TIMEOUT_CNT]

/-- The registers of block PS_. -/
def Reg.blockPS : List Reg :=
  [.PS_CFG, .PS_HEALTH_TIMEOUT, .PS_STAT, .PS_EPOCH_OPEN, .PS_EPOCH_CLOSED, .PS_EPOCH_LAST, .PS_CONFIRM_CNT, .PS_SQUASH_CNT, .PS_ESC_FLAG, .PS_STALL_CNT, .PS_DISCARD_CNT, .PS_NUMFLAG, .PS_VREG_A, .PS_VREG_B, .PS_VREG_CFG]

/-- The registers of block WN_. -/
def Reg.blockWN : List Reg :=
  [.WN_RANK_BASE, .WN_RANK_COUNT, .WN_RANK_SELF, .WN_RANK_CTL, .WN_DIG_BASE, .WN_DIG_CFG, .WN_COLL_CFG, .WN_COLL_STAT, .WN_SAT_CNT, .WN_ESC_CNT, .WN_ID, .WN_STAT, .WN_ETH, .WN_MAC_PREFIX, .WN_LINK_CFG, .WN_PORT_CTL, .WN_PORT_STAT, .WN_PORT_BUDGET, .WN_PORT_ERR, .WN_PORT_FEC, .WN_PORT_DROP, .WN_ROUTE]

/-- The registers of block PW_. -/
def Reg.blockPW : List Reg :=
  [.PW_PROFILE, .PW_CAP, .PW_PSTATE, .PW_PRIO, .PW_LOOP_CFG, .PW_STAT, .PW_MEAS, .PW_BUBBLE_FRAC, .PW_ENERGY, .PW_POLICY_HELD, .PW_ALERT, .PW_STATE, .PW_WAKE_LAST, .PW_DROOP_CFG, .PW_DOM, .PW_THR_STAT, .PW_DROOP_CNT, .PW_BUBBLE_CNT]

/-- The registers of block TM_. -/
def Reg.blockTM : List Reg :=
  [.TM_LIMIT, .TM_TRIP, .TM_STAT, .TM_THROTTLE_CNT, .TM_TEMP, .TM_STACK_TEMP]

/-- The registers of block CK_. -/
def Reg.blockCK : List Reg :=
  [.CK_STAT, .CK_FAIL_CFG, .CK_FAIL_STAT, .CK_MON, .CK_SNAP, .CK_METER_CTL, .CK_METER_N, .CK_METER_CNT, .CK_ISL_CTL, .CK_ISL_STAT, .CK_ISL_CYCLES, .CK_ISL_SNAP, .CK_ISL_SWITCHES]

/-- The registers of block ER_. -/
def Reg.blockER : List Reg :=
  [.ER_RESET_CAUSE, .ER_RESET, .ER_SERVICE, .ER_BRINGUP, .ER_STAT, .ER_BAY_FAULT, .ER_CLASS_CNT, .ER_LOG_STAT, .ER_LOG_POP, .ER_LOG_DATA, .ER_FATAL, .ER_GPIO]

/-- The registers of block HI_. -/
def Reg.blockHI : List Reg :=
  [.HI_MWIN_OFFSET, .HI_STAT, .HI_FW_CTL, .HI_FW_STAT, .HI_EVT_BASE, .HI_EVT_CFG, .HI_EVT_HEAD, .HI_EVT_TAIL, .HI_EVT_DROP, .HI_ALERT]

/-- The registers of block MC_. -/
def Reg.blockMC : List Reg :=
  [.MC_MBX_CMD, .MC_MBX_CTL, .MC_MBX_STAT, .MC_MBX_RES, .MC_MBX_DONE, .MC_MBX_POP, .MC_FW_VER]

/-- The registers of the block whose base (R320) is the largest not above window offset `o`. -/
def Reg.blockAt (o : Nat) : List Reg :=
  if o ≥ 0x480000 then Reg.blockTN
  else if o ≥ 0x400000 then Reg.blockTH
  else if o ≥ 0x300000 then Reg.blockWN
  else if o ≥ 0x200000 then Reg.blockTL
  else if o ≥ 0x130000 then Reg.blockGL
  else if o ≥ 0x120000 then Reg.blockGN
  else if o ≥ 0x100000 then Reg.blockLF
  else if o ≥ 0x90000 then Reg.blockPS
  else if o ≥ 0x80000 then Reg.blockEN
  else if o ≥ 0x60000 then Reg.blockER
  else if o ≥ 0x50000 then Reg.blockTM
  else if o ≥ 0x40000 then Reg.blockPW
  else if o ≥ 0x30000 then Reg.blockCK
  else if o ≥ 0x20000 then Reg.blockMC
  else if o ≥ 0x10000 then Reg.blockHI
  else Reg.blockID

/-- Instances of a register. -/
def Reg.count (r : Reg) : Nat := r.info.n1 * r.info.n2

/-- The width of a field's register in bytes (R7). -/
def Reg.bytes (r : Reg) : Nat := if r.info.wide then 8 else 4

/-- Does window offset `o` fall in an instance of register `r`? The instance number (the two numbers of a doubly
indexed register joined as first × count + second) and the byte within the register. -/
def Reg.hit (r : Reg) (o : Nat) : Option (Nat × Nat) :=
  let i := r.info
  if o < i.base then none
  else
    let d := o - i.base
    let a := if i.s1 = 0 then 0 else d / i.s1
    let d1 := if i.s1 = 0 then d else d % i.s1
    let b := if i.s2 = 0 then 0 else d1 / i.s2
    let d2 := if i.s2 = 0 then d1 else d1 % i.s2
    if a < i.n1 ∧ b < i.n2 ∧ d2 < r.bytes then some (a * i.n2 + b, d2) else none

/-- The register, instance and byte at a window offset (R320); none where the offset is reserved (R11). -/
def regAt (o : Nat) : Option (Reg × Nat × Nat) :=
  (Reg.blockAt o).findSome? fun r => (r.hit o).map fun (i, b) => (r, i, b)

/-- The reset value of instance `i` of a field: the table's value, with the exceptions the tables state for single
instances: partition 0 of every thresher resets READY (R16), island 41 runs at 200 MHz on its safe clock (R283), and meter 0 is
fixed on REFCLK against SOSC with N = 200 (R289). The identity block of every stack resets to what R176 and R152 give of
it, its CRC over that (what they do not give, 0: assumption log entry 3). -/
def resetField (f : F) (i : Nat) : Nat :=
  match f with
  | .TH_PART_STAT_STATE => if i % 576 = 0 then 1 else 0
  | .CK_ISL_STAT_MHZ => if i = 41 then 200 else 100
  | .CK_METER_CTL_MEAS => if i = 0 then 62 else 0
  | .CK_METER_CTL_GATE => if i = 0 then 63 else 0
  | .CK_METER_N_N => if i = 0 then 200 else 1
  | .GN_ID_DATA =>
    match i % 16 with
    | 0 => 0x0A710001
    | 6 => 0x00801010
    | 7 => 0x40000000
    | 15 => 0x4A11ABA8
    | _ => 0
  | g => g.info.reset

end Sys2Proof.Machine
end

