-- ==== Sys2Proof/Machine/Tbl.lean ====
section
/-! DEFINITION. Sparse tables: what is not listed reads as the table's default. One canonical form (numbers strictly
rising, no entry equal to the default), so equal contents are equal data. Memory and the register file are such
tables. -/

namespace Sys2Proof.Machine

/-- A table keyed by a number. -/
abbrev Tbl (α : Type) := List (Nat × α)

/-- The value at `k`; `d` where `k` is not listed. -/
def Tbl.get {α : Type} (d : α) : List (Nat × α) → Nat → α
  | [], _ => d
  | (k', v) :: r, k => if k' = k then v else Tbl.get d r k

/-- The value listed at `k`, where one is. -/
def Tbl.find {α : Type} : List (Nat × α) → Nat → Option α
  | [], _ => none
  | (k', v) :: r, k => if k' = k then some v else Tbl.find r k

/-- The table with `k` listed as `v`, in its place by number. -/
def Tbl.put {α : Type} : List (Nat × α) → Nat → α → List (Nat × α)
  | [], k, v => [(k, v)]
  | (k', v') :: r, k, v =>
    if k' = k then (k, v) :: r
    else if k < k' then (k, v) :: (k', v') :: r
    else (k', v') :: Tbl.put r k v

/-- The table without `k`. -/
def Tbl.del {α : Type} : List (Nat × α) → Nat → List (Nat × α)
  | [], _ => []
  | (k', v') :: r, k => if k' = k then Tbl.del r k else (k', v') :: Tbl.del r k

/-- The table with `v` at `k`, in canonical form: a value equal to the default is not listed. -/
def Tbl.set {α : Type} [DecidableEq α] (d : α) (t : List (Nat × α)) (k : Nat) (v : α) : List (Nat × α) :=
  if v = d then Tbl.del t k else Tbl.put t k v

/-- The table with `g` applied at `k`. -/
def Tbl.upd {α : Type} [DecidableEq α] (d : α) (t : List (Nat × α)) (k : Nat) (g : α → α) : List (Nat × α) :=
  Tbl.set d t k (g (Tbl.get d t k))

/-- Every listed number is above `k`. -/
def Tbl.above {α : Type} (k : Nat) (t : List (Nat × α)) : Bool := t.all fun e => decide (k < e.1)

/-- Canonical form: numbers strictly rising, no entry equal to the default. -/
def Tbl.wf {α : Type} [DecidableEq α] (d : α) : List (Nat × α) → Bool
  | [] => true
  | (k, v) :: r => decide (v ≠ d) && Tbl.above k r && Tbl.wf d r

end Sys2Proof.Machine
end

