-- ==== Sys2Proof/Machine/State.lean ====
section
/-! DEFINITION. The state of the module, plain data throughout. Registers live in one sparse table keyed by field and
instance; memory is one sparse table keyed by physical place; what stands behind the registers is grouped by unit. -/

namespace Sys2Proof.Machine

/-- A reason the machine stops. The spec gives every misuse an outcome that goes on (R3), so nothing here stops it;
the one constructor is kept for a command that meets a state no run reaches. Safe. -/
inductive Fault where
  /-- Raised by no meaning: kept so that the type has an element. Safe. -/
  | impossible
  deriving DecidableEq, Repr

/-- A reason a command is turned away unexecuted. -/
inductive Refusal where
  /-- The arm of a command without a meaning yet; named by its mnemonic. Safe. -/
  | notModelled (mnemonic : String)
  /-- A command whose operands no sender can form (WellFormed): raised by `exec` of the commands that carry frames,
  byte strings or numbers of a fixed width. Safe. -/
  | illFormed
  deriving DecidableEq, Repr

/-! ### Engine queues (R94 to R114) -/

/-- An instruction in a queue's buffer: its 128-bit word, and whether its fetch sector was poisoned (R101). -/
structure Slot where
  word : Nat
  poison : Bool
  deriving DecidableEq, Repr

/-- One active loop (R112): the addresses of its body's first instruction and of the first one behind it, its COUNT,
and the iteration index i(l) of R103. -/
structure LoopLevel where
  start : Nat
  stop : Nat
  count : Nat
  index : Nat
  deriving DecidableEq, Repr

/-- The wait of the head instruction (R125, R128): the tally, the count it asks for, the µs it has lasted, and whether
it is the operand wait of a TL.WAIT. -/
structure HeadWait where
  tally : Nat
  need : Nat
  elapsed : Nat
  operand : Bool
  deriving DecidableEq, Repr

/-- A span of R140: space code of R104, the thresher of a loft or the module, space and thresher of a remote place,
lowest and highest byte. -/
structure Span where
  space : Nat
  sub : Nat
  lo : Int
  hi : Int
  deriving DecidableEq, Repr

/-- A byte as a unit reads it: its value, and whether it was read poisoned (R135). -/
structure PByte where
  val : Byte
  bad : Bool
  deriving DecidableEq, Repr

/-- A part of a remote read (R186): position and length in the source stream, the transaction that answers it, and
what has come back. -/
structure Piece where
  pos : Nat
  len : Nat
  off : Nat
  tag : Nat
  data : Option (List PByte)
  deriving DecidableEq, Repr

/-- A GS16 block in an adder (R217): its 32 elements as 16-bit codes, its exponent code and its flags. -/
structure GBlock where
  elems : List Nat
  exp : Nat
  esc : Bool
  sat : Bool
  deriving DecidableEq, Repr

/-- What an instruction in progress is; `dead`: one that has ended in a fault, with transactions still out. -/
inductive WorkKind where
  | copy | pass | vector | gather | rscat | health | remoteSignal | squash | notify | plain | dead
  deriving DecidableEq, Repr

/-- A collective in progress (R209 to R229): its SEQ; whether it has begun to move (R215); the mesh sums, by shard and
block of the bay's part; blocks or shards delivered, blocks sent, shards signalled (R229); the counts of the status
record; the ring bytes it folds into the digests, by their place in the order of R227; the health value and how far its
rounds are (R210). -/
structure Coll where
  seq : Nat
  started : Bool
  mesh : List GBlock
  delivered : Nat
  sent : Nat
  signalled : Nat
  escBlocks : Nat
  satBlocks : Nat
  poisonBlocks : Nat
  addsEsc : Nat
  sentBytes : List (Nat × List Byte)
  recvBytes : List (Nat × List Byte)
  value : Nat
  round : Nat
  deriving DecidableEq, Repr

/-- A collective of a SEQ that has moved nothing. -/
def Coll.fresh (seq : Nat) : Coll :=
  { seq := seq, started := false, mesh := [], delivered := 0, sent := 0, signalled := 0, escBlocks := 0, satBlocks := 0,
    poisonBlocks := 0, addsEsc := 0, sentBytes := [], recvBytes := [], value := 0, round := 0 }

/-- An instruction that has issued and has not yet finished (R96, R97): its number in its queue, its own address, its
kind, its signal field, its HOSTFENCE, HALT_ON_POISON and VOL flags, its epoch (R198), its spans (R182), whether it has
completed, the transactions it waits for, the stacks that hold a partial gleaner packet of it (R160), the parts of a
remote read, its descriptor, its partition, its collective. -/
structure Work where
  id : Nat
  pc : Nat
  kind : WorkKind
  sigIdx : Nat
  sigCnt : Nat
  hostFence : Bool
  hop : Bool
  vol : Bool
  bound : Option Nat
  reads : List Span
  writes : List Span
  ready : Bool
  done : Bool
  tags : List Nat
  packs : List Nat
  pieces : List Piece
  desc : Nat
  part : Nat
  coll : Option Coll
  deriving DecidableEq, Repr

/-- A copy into host space that no flush read has covered yet, or whose flush read is outstanding (R192). -/
structure HostCopy where
  id : Nat
  addr : Nat
  flushing : Bool
  deriving DecidableEq, Repr

/-- What a queue holds behind its registers: the instruction buffer by HBM address, the fetcher's next address, the
active loops, the head's wait and whether its wait field has been taken, whether the fetcher waits on a BRC (R111), an
END that has issued, the skip of R202, whether the head's held write is counted (R205), the instructions in progress
and the number of the next one, the host copies not yet flushed, the latest ordering point, and the address of the last
instruction issued (R116). -/
structure Queue where
  buf : List (Nat × Slot)
  next : Option Nat
  loops : List LoopLevel
  wait : Option HeadWait
  taken : Bool
  brcStop : Bool
  ending : Option Work
  skipping : Bool
  held : Bool
  work : List Work
  nextId : Nat
  copies : List HostCopy
  ordPoint : Nat
  last : Nat
  deriving DecidableEq, Repr

/-- A queue with nothing in it. -/
def Queue.empty : Queue :=
  { buf := [], next := none, loops := [], wait := none, taken := false, brcStop := false, ending := none, skipping := false,
    held := false, work := [], nextId := 0, copies := [], ordPoint := 0, last := 0 }

/-- A waiter of a tally (R125). -/
structure Waiter where
  queue : Nat
  need : Nat
  deriving DecidableEq, Repr

/-! ### Threshers (R50 to R89) -/

/-- A tile or operand element with the scale of its line: the element code, the E8M0 code (127 for BF16), whether it was
read poisoned, and the parity bit that the weight register which holds it has (R51). -/
structure Cell where
  code : Nat
  scale : Nat
  bad : Bool
  parity : Bool
  deriving DecidableEq, Repr

/-- A weight tile (R51, R79): its format and, by contraction position, its cells column by column. -/
structure Tile where
  fmt : Nat
  rows : List (List Cell)
  deriving DecidableEq, Repr

/-- A partition's place (R55), in tiles. -/
structure Rect where
  row : Nat
  col : Nat
  height : Nat
  width : Nat
  deriving DecidableEq, Repr

/-- One instruction of a pass (R107): its number in its queue, and whether it has done its part. -/
structure PassPart where
  id : Nat
  done : Bool
  deriving DecidableEq, Repr

/-- How a pass stands (R107): open, its tile not yet swapped in; ended by an address that differs; ended by a fault of
one of its instructions before the swap. -/
inductive PassMode where
  | active | mismatched | faulted
  deriving DecidableEq, Repr

/-- A pass being formed or in progress (R107): the address its first instruction brought, and its three parts. -/
structure Pass where
  addr : Nat
  load : Option PassPart
  feed : Option PassPart
  drain : Option PassPart
  mode : PassMode
  deriving DecidableEq, Repr

/-- A partition (R51, R107): the active and shadow tiles (none: all +0), the number of the oldest pass that has not
ended, how many instructions of each kind have named the partition, and the passes from that one on. -/
structure Part where
  active : Option Tile
  shadow : Option Tile
  base : Nat
  loads : Nat
  feeds : Nat
  drains : Nat
  passes : List Pass
  deriving DecidableEq, Repr

/-- A partition with +0 weights and no pass. -/
def Part.empty : Part :=
  { active := none, shadow := none, base := 0, loads := 0, feeds := 0, drains := 0, passes := [] }

/-- A turner behind its registers (R87, R88), and what the SECDED of its banks will find in the squares it turns next,
the next one first (R89). -/
structure Turner where
  failed : Bool
  banks : List Code
  deriving DecidableEq, Repr

/-- A turner without a defect. -/
def Turner.fresh : Turner := { failed := false, banks := [] }

/-! ### Granary (R152 to R178) -/

/-- A spare row of a bank (R168 to R171): the row it stands in for, whether that is hardened in fuses, and whether it
is retired and that hardened. -/
structure Spare where
  row : Option Nat
  hard : Bool
  retired : Bool
  hardRetired : Bool
  deriving DecidableEq, Repr

/-- An unused spare. -/
def Spare.free : Spare := { row := none, hard := false, retired := false, hardRetired := false }

/-- An error that waits at a place. At a codeword (a 32 B half of a sector of HBM, a 64-bit word of a loft): what its
next read finds (R134, R162, R163), and, for a word of a loft, whether the parity of the result path fails when an
engine writes it (R137). At the first codeword of a 64 B line: how often the check of a flit fails that arrives there to
be written, and of one that leaves (R137, R165, R248): at 1 the resend or reread is good, at 2 it fails too. -/
structure Flaw where
  found : Finding
  result : Bool
  arrives : Fin 3
  leaves : Fin 3
  deriving DecidableEq, Repr

/-- No error. -/
def Flaw.none : Flaw := ⟨⟨false, .clean⟩, false, 0, 0⟩

/-- The granary behind its registers: the row error tables (row and count, oldest entry first), the rows an
uncorrectable error made candidates (R167), spares, retired rows, the repair list, the posted records and their SEQ,
the scrub positions, and the stacks that a safe clock holds in
self-refresh (R283, R291). -/
structure Granary where
  rowErr : List (Nat × List (Nat × Nat))
  rowUe : List Nat
  spares : List (Nat × Spare)
  retired : List Nat
  rlist : List Nat
  records : List Nat
  seq : Nat
  scrubPos : List (Nat × Nat)
  asleep : List Nat
  deriving DecidableEq, Repr

/-! ### Provisional steps (R195 to R211) -/

/-- A granule of a versioned region (R197): whether its committed side is B, and its epoch tag. -/
structure Granule where
  sideB : Bool
  tag : Option Nat
  deriving DecidableEq, Repr

/-- An ended epoch (R203): its number, whether it was squashed, and whether it is folded. -/
structure Ended where
  epoch : Nat
  squashed : Bool
  folded : Bool
  deriving DecidableEq, Repr

/-- Provisional steps behind the registers: granules by region and number, ended epochs, the tally checkpoint of each
live epoch, whether any epoch has opened since reset, and the oldest epoch of each squash in progress, the earliest
squash first. -/
structure Prov where
  granules : List (Nat × Granule)
  ended : List Ended
  checks : List (Nat × List (Nat × Nat))
  opened : Bool
  squashing : List Nat
  deriving DecidableEq, Repr

/-! ### Links (R239 to R251) -/

/-- A frame on its way out: its OP (R242) and its fields. -/
structure OutFrame where
  op : Nat
  f : Frame
  deriving DecidableEq, Repr

/-- A sequenced frame not yet acknowledged (R246). -/
structure Sent where
  lseq : Nat
  out : OutFrame
  replays : Nat
  deriving DecidableEq, Repr

/-- The Ethernet fields of a switched frame (R243): destination and source address, EtherType, and the 802.1Q tag
where one is added. -/
structure Ether where
  dst : Nat
  src : Nat
  etype : Nat
  tag : Option Nat
  deriving DecidableEq, Repr

/-- What a port puts out: a link frame, a link-control frame (R240), each with its Ethernet fields in switched framing
(R243), the wake pattern (R253). -/
inductive PortOut where
  | frame (eth : Option Ether) (o : OutFrame) | control (eth : Option Ether) (h : LinkHeader) | wake
  deriving DecidableEq, Repr

/-- A link's state, per port and, in switched framing, per peer (R240): next LSEQ, expected LSEQ, whether the NAK of
the present gap is sent, the unacknowledged frames, the credits by channel (VC 0 to 3, then the four escape classes),
the credits to return, the frames and acknowledgement counters waiting for credits (R245), whether the peer is marked
unreachable (R247), and what started the replay that no link-control frame has left behind yet: a NAK (true) or the
timer (R246). -/
structure Link where
  txNext : Nat
  rxNext : Nat
  nakSent : Bool
  unacked : List Sent
  credits : List Nat
  owed : List Nat
  waiting : List OutFrame
  unreachable : Bool
  replaying : Option Bool
  deriving DecidableEq, Repr

/-- A link with nothing sent and all credits of R244. -/
def Link.fresh : Link :=
  { txNext := 0, rxNext := 0, nakSent := false, unacked := [],
    credits := [512, 1024, 128, 64, 128, 128, 128, 128], owed := [0, 0, 0, 0, 0, 0, 0, 0], waiting := [], unreachable := false,
    replaying := none }

/-- A transaction holding a tag (R245): the queue and instruction, the OP it sent, the target, the remote address, its
epoch, whether it is volatile, when it was made (R186), the bytes or blocks it stands for, and, where it is folded into
a digest when acknowledged (R227), the set and the bytes with their places in the order of the table. -/
structure Txn where
  queue : Nat
  id : Nat
  op : Nat
  dst : Nat
  addr : Nat
  bound : Option Nat
  vol : Bool
  stamp : Nat
  size : Nat
  digest : Option Nat
  data : List Byte
  deriving DecidableEq, Repr

/-- A received frame that waits in the receive buffers with its credits: a RING or HEALTH frame for its collective
(R224), a write for a closed epoch (R205). -/
structure HeldFrame where
  port : Nat
  f : Frame
  deriving DecidableEq, Repr

/-- A frame that waits at its source engine for a tag (R245): its bay, the queue and instruction, the position of the
read it asks for, the frame. -/
structure TagWait where
  bay : Nat
  queue : Nat
  id : Nat
  pos : Nat
  out : OutFrame
  deriving DecidableEq, Repr

/-- What an ended WN.RSCAT of one bay leaves for the digests until all four bays of its SEQ have ended (R227): the set,
and the bytes sent to the successor and received from the predecessor, by their place in the order of the table. -/
structure DigPart where
  seq : Nat
  bay : Nat
  set : Option Nat
  sent : List (Nat × List Byte)
  recv : List (Nat × List Byte)
  deriving DecidableEq, Repr

/-- The wain behind its registers: links by port and peer, the peers of switched ports in the order of their last use,
the latest first, and frames for new peers that wait for link state, with their port (R244), transactions by bay and
tag, frames waiting for a tag, held
RING and HEALTH frames, held writes, what ended reduce-scatters leave for the digests, what the ports have put out, in
the order it left, the rank list in force with this module's rank in it (R212), and, by digest record, whose bytes were
folded into it since it was zeroed, the latest first: queues of the peer, 52 for this module (R227). -/
structure Net where
  links : List (Nat × Link)
  recent : List Nat
  peerWait : List (Nat × OutFrame)
  txns : List (Nat × Txn)
  tagWait : List TagWait
  held : List HeldFrame
  heldWr : List HeldFrame
  digs : List DigPart
  out : List (Nat × PortOut)
  ranks : List Nat
  rankSelf : Nat
  folders : List (Nat × List Nat)
  deriving DecidableEq, Repr

/-! ### Errors, events and the host side -/

/-- A log record (R311). -/
structure LogRec where
  code : Nat
  cls : Nat
  unit : Nat
  inst : Nat
  sub : Nat
  addr : Nat
  time : Nat
  count : Nat
  detail : Nat
  seq : Nat
  deriving DecidableEq, Repr

/-- What the PCIe endpoint has put into its posted egress queue, or asked for, in order (R180, R192, R193). -/
inductive Egress where
  | write (addr : Nat) (data : List Byte) (ep : Bool)
  | flush (queue copy : Nat) (addr : Nat)
  | msix (vector : Nat)
  | aer (fatal : Bool)
  deriving DecidableEq, Repr

/-- A host event record waiting for the ring (R325, R326): its queue, CODE, KIND (0 NOTIFY, 1 END), the AO cycles at
its posting, and the number of the NOTIFY that waits for it. -/
structure EvtRec where
  queue : Nat
  code : Nat
  kind : Nat
  time : Nat
  id : Nat
  deriving DecidableEq, Repr

/-- The completion of a memory-window read (R323, R158): its bytes, or Unsupported Request, and whether EP is
set. -/
structure WindowReply where
  ok : Bool
  ep : Bool
  data : List Byte
  deriving DecidableEq, Repr

/-- An access of this module's HBM that waits for an interleave change (R17) or for a stack in self-refresh (R283,
R292), and what must not pass one: a received frame (R189), a memory-window access (R190), a host tally operation or a
doorbell (R191). -/
inductive HeldAccess where
  | frame (port op : Nat) (f : Frame)
  | read (addr len : Nat)
  | write (addr : Nat) (data : List Byte) (ep : Bool)
  | tallyOp (arm : Bool) (tally count : Nat)
  | doorbell (q value : Nat)
  | group (value : Nat)
  deriving DecidableEq, Repr

/-- The host interface behind its registers: whether the PCIe link is up, log2 of BAR 2's size, the completions of
window reads, in the order they left, host events waiting for the ring, accesses that wait (R17, R292), the MSI-X table
by 4-byte word and its pending bits (R324). -/
structure HostIf where
  linkUp : Bool
  barLog2 : Nat
  replies : List WindowReply
  held : List EvtRec
  accesses : List HeldAccess
  msix : List (Nat × Nat)
  pba : Nat
  deriving DecidableEq, Repr

/-! ### Power, clocks, bring-up, firmware, sideband -/

/-- A fraction from 0 to 1 in lowest terms. -/
structure Frac where
  num : Nat
  den : Nat
  deriving DecidableEq, Repr

/-- Zero. -/
def Frac.zero : Frac := ⟨0, 1⟩

/-- Power and thermal state behind the registers: PW_ALERT_N low, the hold after its release, the return to policy
(R271); the AUTO choice and the thermal limit of each thresher as P-states, 0 where none (R269, R275); the sensors
whose self-check failed, the units held down until reset for it (threshers, and 8 + s for stack s; R274), the stacks
throttled (R275); the exact bubble fractions (R265) and, by thresher, what the running sum of the compute fraction
holds beyond whole bubbles (R267); threshers in droop bubbles (R270); the gain of each of the 20 domains and of AO
(R264); Dormant (R261); THERMTRIP_N asserted, the thermal-trip record, and the domains held off by a trip (R276). -/
structure PowerSt where
  alertLow : Bool
  holding : Bool
  returning : Bool
  auto : List (Nat × Nat)
  heat : List (Nat × Nat)
  badSensors : List Sensor
  dead : List Nat
  hotStacks : List Nat
  compute : Frac
  memory : Frac
  links : Frac
  rest : List (Nat × Frac)
  droop : List Nat
  gains : List Frac
  dormant : Bool
  tripPin : Bool
  tripRecord : Bool
  tripOff : Bool
  deriving DecidableEq, Repr

/-- Clock state behind the registers: passing monitor windows in a row (R282), the sources islands return to after the
episode in progress and the µs it has lasted (R291, R293), the frequency settings of the thresher islands' outputs, by
2 × island + output (R284), and the thresher islands whose clock the Floor state divides by four (R288). -/
structure ClockSt where
  passes : Nat
  before : List (Nat × Nat)
  elapsed : Nat
  settings : List (Nat × Nat)
  divided : List Nat
  deriving DecidableEq, Repr

/-- Where the module is between power-on and service (R297, R299): without power, held in reset with boot not started,
or with the boot ROM done. -/
inductive Phase where
  | off | held | up
  deriving DecidableEq, Repr

/-- Bring-up and firmware state behind the registers: the phase, PERST_N low, the reset causes since this reset began
(R298), whether the MC runs (false once its watchdog fired), the root key slot that verified the running image and
that image's SVN (R328), and the
port budgets the carrier record loaded (R342). -/
structure BootSt where
  phase : Phase
  perstLow : Bool
  causes : List Nat
  mcDead : Bool
  keySlot : Nat
  imageSvn : Nat
  budgets : List (Nat × Nat)
  deriving DecidableEq, Repr

/-- Fuses and one-time memory beside the registers they load (R24, R330, R338, R340): the four root key hashes, the
hash of the root certificate, the fuse configuration block. -/
structure Fuses where
  rootKeys : List (List Byte)
  rootCert : List Byte
  config : List Byte
  deriving DecidableEq, Repr

/-- A long mailbox command in progress (R22, R327): OP, TAG, ARG. -/
structure MbxCmd where
  op : Nat
  tag : Nat
  arg : Nat
  deriving DecidableEq, Repr

/-- The mailbox behind its registers: the command whose GO is not yet answered, long commands in progress, completion
records. -/
structure Mailbox where
  waiting : Option MbxCmd
  active : List MbxCmd
  records : List Nat
  deriving DecidableEq, Repr

/-- The protocol an answer is given in (R333). -/
inductive Proto where
  | mctp | vendor | pldm | spdm
  deriving DecidableEq, Repr

/-- An answer of the sideband or MCTP endpoint: protocol, completion code, data. -/
structure Answer where
  proto : Proto
  code : Nat
  data : List Byte
  deriving DecidableEq, Repr

/-- The sideband endpoint (R333 to R340): endpoint ID, last answer, queued platform events (oldest first), the sensor
values last refreshed, the highest error class since the last poll, whether the SPDM algorithms are negotiated. -/
structure Sideband where
  eid : Nat
  answer : Option Answer
  events : List LogRec
  sensors : List (Nat × Nat)
  worst : Nat
  negotiated : Bool
  deriving DecidableEq, Repr

/-- A change of a mode of R16: a thresher's organisation, memory interleave, patrol scrub, power profile, a port's
framing, provisional steps, service. -/
inductive ModeChange where
  | organisation (t mode : Nat) (entries : List (Nat × Rect))
  | interleave (mode : Nat)
  | scrub (mode : Nat)
  | profile (p : Nat)
  | framing (port framing : Nat)
  | provisional (on : Bool)
  | service
  deriving DecidableEq, Repr

/-! ### The state -/

/-- The module. `regs` is the home of every register field (key: field and register number); `mem` of every byte of
HBM and the lofts, by physical place; `poison` of the marks of R134 and R164, by the place of the word or sector;
`flaws` of the errors that wait to be found (R134, R137, R163, R165). `freeCtr` numbers the free values taken (the
model's own), `stamp` the
ordering points (R186). `modes` holds the accepted mode changes that are not yet in effect, in the order of their
acceptance: the first is taking effect, the others wait for it (R18). `staging` is the firmware staging aperture (R320,
R331). -/
structure State where
  regs : List (Nat × Nat)
  mem : List Host.Cell
  poison : List (Nat × Bool)
  flaws : List (Nat × Flaw)
  freeCtr : Nat
  stamp : Nat
  queues : List (Nat × Queue)
  waiters : List (Nat × List Waiter)
  org : List (Nat × Rect)
  parts : List (Nat × Part)
  turners : List (Nat × Turner)
  gran : Granary
  prov : Prov
  net : Net
  log : List LogRec
  logSeq : Nat
  egress : List Egress
  host : HostIf
  power : PowerSt
  clock : ClockSt
  modes : List ModeChange
  boot : BootSt
  fuses : Fuses
  staging : List Host.Cell
  mailbox : Mailbox
  sideband : Sideband
  pending : List Instr
  deriving DecidableEq, Repr

/-- The module right after reset: powered, held by PERST_N, every register at its reset value, nothing in memory, the
queue of commands empty (R24, R297). -/
def State.reset : State :=
  { regs := [], mem := [], poison := [], flaws := [], freeCtr := 0, stamp := 0, queues := [], waiters := [], org := [],
    parts := [], turners := [],
    gran := { rowErr := [], rowUe := [], spares := [], retired := [], rlist := [], records := [], seq := 0,
              scrubPos := [], asleep := [] },
    prov := { granules := [], ended := [], checks := [], opened := false, squashing := [] },
    net := { links := [], recent := [], peerWait := [], txns := [], tagWait := [], held := [], heldWr := [], digs := [], out := [], ranks := [],
             rankSelf := 0, folders := [] },
    log := [], logSeq := 0, egress := [],
    host := { linkUp := false, barLog2 := 42, replies := [], held := [], accesses := [], msix := [], pba := 0 },
    power := { alertLow := false, holding := false, returning := false, auto := [], heat := [], badSensors := [], dead := [],
               hotStacks := [], compute := .zero, memory := .zero, links := .zero, rest := [], droop := [],
               gains := List.replicate 21 ⟨1, 1⟩, dormant := false, tripPin := false, tripRecord := false, tripOff := false },
    clock := { passes := 0, before := [], elapsed := 0, settings := [], divided := [] },
    modes := [],
    boot := { phase := .held, perstLow := true, causes := [0], mcDead := false, keySlot := 0, imageSvn := 0,
              budgets := [] },
    fuses := { rootKeys := List.replicate 4 (List.replicate 64 0), rootCert := List.replicate 64 0,
               config := List.replicate 256 0 },
    staging := [],
    mailbox := { waiting := none, active := [], records := [] },
    sideband := { eid := 0, answer := none, events := [], sensors := [], worst := 0, negotiated := false },
    pending := [] }

end Sys2Proof.Machine
end

