-- ==== Sys2Proof/Machine/Ops.lean ====
section
/-! DEFINITION. The named operations over registers, memory, poison, the log and the event paths that every meaning is
built from. -/

namespace Sys2Proof.Machine

/-! ### Registers -/

/-- The key of instance `i` of a field in the register table. -/
def fkey (f : F) (i : Nat) : Nat := i * 512 + f.ctorIdx

/-- The value of instance `i` of a field; its reset value where nothing has written it. -/
def State.rdi (s : State) (f : F) (i : Nat) : Nat := Tbl.get (resetField f i) s.regs (fkey f i)

/-- The value of a field with one instance. -/
def State.rd (s : State) (f : F) : Nat := s.rdi f 0

/-- The state with instance `i` of a field at `v`, cut to the field's width. -/
def State.wri (s : State) (f : F) (i : Nat) (v : Nat) : State :=
  { s with regs := Tbl.set (resetField f i) s.regs (fkey f i) (v % 2 ^ f.info.width) }

/-- The state with a field of one instance at `v`. -/
def State.wr (s : State) (f : F) (v : Nat) : State := s.wri f 0 v

/-- A counter that saturates at its field's largest value, advanced by `n`. -/
def State.addSat (s : State) (f : F) (i n : Nat) : State :=
  s.wri f i (min (2 ^ f.info.width - 1) (s.rdi f i + n))

/-- A counter that wraps at its field's width, advanced by `n`. -/
def State.addWrap (s : State) (f : F) (i n : Nat) : State := s.wri f i (s.rdi f i + n)

/-- A flag field read as a truth value. -/
def State.flag (s : State) (f : F) (i : Nat) : Bool := s.rdi f i != 0

/-- Bit `n` of a field. -/
def State.bitOf (s : State) (f : F) (n : Nat) : Bool := bit (s.rd f) n

/-- A field of one instance with bit `n` set or cleared. -/
def State.wrBit (s : State) (f : F) (n : Nat) (b : Bool) : State := s.wr f (setBits (s.rd f) n 1 (b2n b))

/-! ### Numbers of things (00_scope.md, Indices; R94) -/

/-- The class code of queue `q` (R94). -/
def qClass (q : Nat) : Nat := if q < 48 then q % 6 else 6

/-- The bay of queue `q`. -/
def qBay (q : Nat) : Nat := if q < 48 then q / 12 else q - 48

/-- The thresher whose loft queue `q` names by LOFT = 1 (R103): its own, or the lower-numbered of its bay. -/
def qThr (q : Nat) : Nat := if q < 48 then q / 6 else 2 * (q - 48)

/-- Queue of class `c` of thresher `t` (R94). -/
def thrQ (t c : Nat) : Nat := 6 * t + c

/-- The bay a thresher, a stack, a tally or a port lies on. -/
def thrBay (t : Nat) : Nat := t / 2
/-- The bay of a stack. -/
def stackBay (s : Nat) : Nat := s / 6
/-- The bay of a tally (R117). -/
def tallyBay (u : Nat) : Nat := u / 16384
/-- The bay of a port. -/
def portBay (p : Nat) : Nat := p / 4

/-- Is bay `b` faulted (R307)? -/
def State.bayFaulted (s : State) (b : Nat) : Bool := s.bitOf .ER_BAY_FAULT_BAYS b

/-! ### Tables of State -/

/-- What queue `q` holds. -/
def State.queue (s : State) (q : Nat) : Queue := Tbl.get Queue.empty s.queues q

/-- The state with queue `q` changed by `g`. -/
def State.updQueue (s : State) (q : Nat) (g : Queue → Queue) : State :=
  { s with queues := Tbl.upd Queue.empty s.queues q g }

/-- The waiters of tally `u`. -/
def State.waitersOf (s : State) (u : Nat) : List Waiter := Tbl.get [] s.waiters u

/-- The state with the waiters of tally `u` replaced. -/
def State.setWaiters (s : State) (u : Nat) (w : List Waiter) : State := { s with waiters := Tbl.set [] s.waiters u w }

/-- The key of partition `p` of thresher `t`. -/
def partKey (t p : Nat) : Nat := t * 576 + p

/-- Partition `p` of thresher `t`. -/
def State.part (s : State) (t p : Nat) : Part := Tbl.get Part.empty s.parts (partKey t p)

/-- The state with a partition changed by `g`. -/
def State.updPart (s : State) (t p : Nat) (g : Part → Part) : State :=
  { s with parts := Tbl.upd Part.empty s.parts (partKey t p) g }

/-- The turner of thresher `t` behind its registers. -/
def State.turner (s : State) (t : Nat) : Turner := Tbl.get Turner.fresh s.turners t

/-- The state with a turner changed by `g`. -/
def State.updTurner (s : State) (t : Nat) (g : Turner → Turner) : State :=
  { s with turners := Tbl.upd Turner.fresh s.turners t g }

/-- The next free value (log entry 2), and the state that has taken it. -/
def State.takeFree (s : State) : Nat × State :=
  ((Config.freeValue s.freeCtr).toNat, { s with freeCtr := s.freeCtr + 1 })

/-! ### Queue states (R116) -/

/-- EN_Q_STAT[q].STATE: 0 IDLE, 1 RUN, 2 head waiting, 3 fetcher waiting on a BRC, 4 STOPPING, 5 FAULTED. -/
def State.qState (s : State) (q : Nat) : Nat := s.rdi .EN_Q_STAT_STATE q

/-- The state with EN_Q_STAT[q].STATE written. -/
def State.setQState (s : State) (q v : Nat) : State := s.wri .EN_Q_STAT_STATE q v

/-- Are all the queues of a list IDLE? -/
def State.idleAll (s : State) (l : List Nat) : Bool := l.all fun q => s.qState q == 0

/-- EN_STAT.ALL_IDLE (R116): all 52 queues are IDLE. -/
def State.allIdle (s : State) : Bool := s.idleAll (List.range 52)

/-- Are the four wain queues IDLE? -/
def State.wainIdle (s : State) : Bool := s.idleAll [48, 49, 50, 51]

/-! ### Who can act -/

/-- Is the host's PCIe link up, so that its accesses arrive (R292, R299)? -/
def State.hostUp (s : State) : Bool := s.host.linkUp

/-- Does firmware run (R331, R308)? -/
def State.fwUp (s : State) : Bool := s.rd .HI_FW_STAT_STATE == 3 && !s.boot.mcDead

/-- A command of the host: without a link it does not arrive. -/
def State.byHost (s : State) (k : State → State) : State := if s.hostUp then k s else s

/-- What firmware does: nothing while none runs. -/
def State.byFw (s : State) (k : State → State) : State := if s.fwUp then k s else s

/-- The module leaves Idle for an access that wakes it, which then is served (R260). -/
def State.leaveIdle (s : State) : State := if s.flag .PW_STATE_IDLE 0 then s.wr .PW_STATE_IDLE 0 else s

/-! ### Mode changes (R16 to R18) -/

/-- Do two changes concern the same mode? -/
def ModeChange.same : ModeChange → ModeChange → Bool
  | .organisation t _ _, .organisation u _ _ => t == u
  | .interleave _, .interleave _ => true
  | .scrub _, .scrub _ => true
  | .profile _, .profile _ => true
  | .framing p _, .framing q _ => p == q
  | .provisional _, .provisional _ => true
  | .service, .service => true
  | _, _ => false

/-- Is an accepted change of the same mode still taking effect, so that another is refused with BUSY (R18)? -/
def State.modeBusy (s : State) (m : ModeChange) : Bool := s.modes.any fun x => x.same m

/-- An accepted change takes effect by `k`, or behind the changes accepted before it (R18). -/
def State.orAfter (s : State) (m : ModeChange) (k : State → State) : State :=
  if s.modes.isEmpty then k s else { s with modes := s.modes ++ [m] }

/-- Does an accepted interleave change hold new accesses to HBM (R17)? -/
def State.holdsHbm (s : State) : Bool := s.modeBusy (.interleave 0)

/-! ### Accesses that wait (R17, R189 to R191, R292) -/

/-- An access put behind those that wait. -/
def State.holdAccess (s : State) (a : HeldAccess) : State :=
  { s with host := { s.host with accesses := s.host.accesses ++ [a] } }

/-- Does a memory-window write wait, so that what the host does after it must not pass it (R190, R191)? -/
def State.writesHeld (s : State) : Bool :=
  s.host.accesses.any fun a => match a with
    | .write _ _ _ => true
    | _ => false

/-! ### Egress and the log (R311 to R313, R324) -/

/-- The state with an item put into the endpoint's posted egress queue. -/
def State.emit (s : State) (e : Egress) : State := { s with egress := s.egress ++ [e] }

/-- What word `n` of the MSI-X table holds after reset (PRESUMED, assumption log entry 4): its vector masked. -/
def msixReset (n : Nat) : Nat := if n % 4 = 3 then 1 else 0

/-- Is MSI-X vector `v` masked (R324)? -/
def State.masked (s : State) (v : Nat) : Bool := bit (Tbl.get (msixReset 3) s.host.msix (4 * v + 3)) 0

/-- A message on MSI-X vector `v` (R324): sent, or pending while the vector is masked. -/
def State.msix (s : State) (v : Nat) : State :=
  if s.masked v then { s with host := { s.host with pba := setBits s.host.pba v 1 1 } } else s.emit (.msix v)

/-- The AO island's cycle count, the TIME of log records and events (R295, R311). -/
def State.aoCycles (s : State) : Nat := s.rdi .CK_ISL_CYCLES_COUNT 42

/-- The newest unread corrected record takes another event in, when it matches and is at most 1 ms old (R312). -/
def foldInto (r : LogRec) : List LogRec → Option (List LogRec)
  | [] => none
  | x :: l =>
    match foldInto r l with
    | some l' => some (x :: l')
    | none =>
      if x.cls = 0 ∧ (l.all fun y => y.cls != 0) then
        if x.code = r.code ∧ x.unit = r.unit ∧ x.inst = r.inst ∧ r.time ≤ x.time + r.detail then
          some ({ x with count := min 65535 (x.count + 1) } :: l)
        else none
      else none

/-- The log without its oldest corrected record, where it holds one (R312). -/
def dropOldestCe : List LogRec → Option (List LogRec)
  | [] => none
  | x :: l => if x.cls = 0 then some l else (dropOldestCe l).map (x :: ·)

/-- The words of a log record (R311). -/
def LogRec.words (r : LogRec) : List Nat :=
  [r.code + r.cls * 2 ^ 16 + r.unit * 2 ^ 20, r.inst + r.sub * 2 ^ 16, r.addr % 2 ^ 32, r.addr / 2 ^ 32,
    r.time % 2 ^ 32, r.time / 2 ^ 32, r.count + r.detail * 2 ^ 16, r.seq]

/-- ER_FATAL takes a module-fatal record while it is empty (R312). -/
def State.freezeFatal (s : State) (r : LogRec) : State :=
  if r.cls = 5 ∧ ((List.range 8).all fun w => s.rdi .ER_FATAL_DATA w == 0) then
    (List.range 8).foldl (fun s w => s.wri .ER_FATAL_DATA w ((r.words).getD w 0)) s
  else s

/-- The record of an event detected now (R311). -/
def State.record (s : State) (code cls unit inst sub addr detail : Nat) : LogRec :=
  { code := code, cls := cls, unit := unit, inst := inst, sub := sub, addr := addr,
    time := s.aoCycles, count := 1, detail := detail, seq := s.logSeq % 65536 }

/-- A record appended to the log ring. -/
def State.keepLog (s : State) (l : List LogRec) : State := { s with log := l, logSeq := s.logSeq + 1 }

/-- A record enters the log ring under R312: folded, appended, in place of a corrected one, or dropped. -/
def State.logRec (s : State) (r : LogRec) : State :=
  let ms := 1000 * s.rdi .CK_ISL_STAT_MHZ 42
  let s := s.freezeFatal r
  if r.cls = 0 then
    match foldInto { r with detail := ms } s.log with
    | some l => { s with log := l }
    | none => if s.log.length < 1024 then s.keepLog (s.log ++ [r]) else s.addSat .ER_LOG_STAT_CE_DROP 0 1
  else if s.log.length < 1024 then s.keepLog (s.log ++ [r])
  else
    match dropOldestCe s.log with
    | some l => s.keepLog (l ++ [r])
    | none => s.wr .ER_LOG_STAT_LOST 1

/-- The platform event queue of the sideband (R337): 64 events, the oldest lost when it overflows. -/
def State.pldmEvent (s : State) (r : LogRec) : State :=
  let l := s.sideband.events ++ [r]
  { s with sideband := { s.sideband with events := l.drop (l.length - 64) } }

/-- The highest error class since the last poll (R337). -/
def State.noteClass (s : State) (c : Nat) : State :=
  { s with sideband := { s.sideband with worst := max s.sideband.worst c } }

/-- The flag of a class in ER_STAT (R316). -/
def State.flagClass (s : State) (c : Nat) : State :=
  match c with
  | 0 => s.wr .ER_STAT_CE 1
  | 1 => s.wr .ER_STAT_POISON 1
  | 2 => s.wr .ER_STAT_ENGINE 1
  | 3 => s.wr .ER_STAT_PARTITION 1
  | 4 => s.wr .ER_STAT_BAY 1
  | _ => s.wr .ER_STAT_FATAL 1

/-- An error event on its class's paths (R306, R311 to R313, R337): logged; unless it is a status code, counted and
flagged; sent on the error vector for every class but corrected. A poisoned-class event, a bay fault and module fatal
are platform events too, and module fatal goes to AER; the faults of single queues under those codes (unit 1) are
neither. -/
def State.raise (s : State) (e : E) (unit inst sub addr detail : Nat) : State :=
  let c := e.cls
  let r := s.record e.val c unit inst sub addr detail
  let s := s.logRec r
  if c = 6 then s
  else
    let s := ((s.addSat .ER_CLASS_CNT_COUNT c 1).flagClass c).noteClass c
    let s := if c = 1 ∨ (4 ≤ c ∧ unit ≠ 1) then s.pldmEvent r else s
    if c = 0 then s else if c = 5 ∧ unit ≠ 1 then (s.msix 0).emit (.aer true) else s.msix 0

end Sys2Proof.Machine
end

