-- ==== Sys2Proof/Machine/Mem.lean ====
section
/-! DEFINITION. Memory: the address mapping of the granary (R153 to R155), poison marks and array errors (R134, R163,
R164), merged writes (R136, R156), row error counting (R167), and the redirection of versioned regions (R197 to R206).
A byte is kept by its physical place: HBM place = stack × 2^37 + stack-local address; loft t from Config.loftBase t. -/

namespace Sys2Proof.Machine

/-! ### Physical places -/

/-- The interleave in force: 0 bay-local, 1 module-interleaved (R16). -/
def State.interleave (s : State) : Nat := s.rd .GN_CFG_INTERLEAVE

/-- Stack and stack-local address of a module address (R154, R155). -/
def hbmPlace (mode a : Nat) : Nat × Nat :=
  if mode = 0 then (a / 2 ^ 37, a % 2 ^ 37)
  else
    let g := a / 4096
    let i := g % 24
    (6 * (i % 4) + i / 4, (g / 24) * 4096 + a % 4096)

/-- The physical place of a module address. -/
def hbmPhys (mode a : Nat) : Nat := (hbmPlace mode a).1 * 2 ^ 37 + (hbmPlace mode a).2

/-- A stack's place in the rotation (R155). -/
def rotation (s : Nat) : Nat := 4 * (s % 6) + s / 6

/-- The module address of a stack and stack-local address: the inverse of `hbmPlace` (R174). -/
def hbmAddr (mode stack a : Nat) : Nat :=
  if mode = 0 then stack * 2 ^ 37 + a else ((a / 4096) * 24 + rotation stack) * 4096 + a % 4096

/-- The physical place of byte `a` of space 0 or of the loft of thresher `t`. -/
def State.phys (s : State) (space t a : Nat) : Nat :=
  if space = 0 then hbmPhys s.interleave a else Config.loftBase t + a

/-- Is a physical place in HBM? -/
def isHbm (p : Nat) : Bool := p < Config.hbmBytes

/-- The size of the protected unit a place lies in: a 64 B sector of HBM, a 64-bit word of a loft. -/
def unitSize (p : Nat) : Nat := if isHbm p then 64 else 8

/-- The place of the first byte of that unit. -/
def unitOf (p : Nat) : Nat := p / unitSize p * unitSize p

/-- The codewords of the unit of a place: the two halves of a sector, or the word itself (R134, R163). -/
def codewords (p : Nat) : List Nat := if isHbm p then [unitOf p, unitOf p + 32] else [unitOf p]

/-- The first place of the codeword a place lies in. -/
def cwOf (p : Nat) : Nat := if isHbm p then p / 32 * 32 else unitOf p

/-- The first place of the 64 B line a place lies in. -/
def lineOf (p : Nat) : Nat := p / 64 * 64

/-- The first places of the lines a run of `n` places from `p` touches. -/
def linesOf (p n : Nat) : List Nat :=
  if n = 0 then [] else (List.range ((p + n - 1) / 64 - p / 64 + 1)).map fun i => (p / 64 + i) * 64

/-- The thresher whose loft a place lies in. -/
def loftOf (p : Nat) : Nat := (p - Config.loftBase 0) / 0x10000000

/-- The endpoint form (R104) of a physical place, for log records (R311). -/
def State.endpointOf (s : State) (p : Nat) : Nat :=
  if isHbm p then hbmAddr s.interleave (p / 2 ^ 37) (p % 2 ^ 37)
  else 2 ^ 62 + loftOf p * 2 ^ 32 + (p - Config.loftBase (loftOf p))

/-! ### Bytes and marks -/

/-- The canonical form of memory: places strictly rising, none listed that holds what an unlisted place reads as. -/
def Memory.wf (m : List Host.Cell) : Bool := Tbl.wf 0 m

/-- A byte of memory. A byte nothing has written reads 0 (assumption log entry 1). -/
def State.byteAt (s : State) (p : Nat) : Byte := Tbl.get 0 s.mem p

/-- The state with a byte written. -/
def State.setByte (s : State) (p : Nat) (b : Byte) : State := { s with mem := Tbl.set 0 s.mem p b }

/-- Is the unit of a place poison-marked? -/
def State.poisoned (s : State) (p : Nat) : Bool := Tbl.get false s.poison (unitOf p)

/-- The state with the mark of a place's unit set or cleared. -/
def State.mark (s : State) (p : Nat) (b : Bool) : State := { s with poison := Tbl.set false s.poison (unitOf p) b }

/-- The errors that wait at a place's codeword. -/
def State.flawAt (s : State) (p : Nat) : Flaw := Tbl.get .none s.flaws (cwOf p)

/-- The state with those errors set. -/
def State.setFlaw (s : State) (p : Nat) (f : Flaw) : State := { s with flaws := Tbl.set .none s.flaws (cwOf p) f }

/-- What the next read of a codeword finds. -/
def State.foundAt (s : State) (p : Nat) : Finding := (s.flawAt p).found

/-- The unit of a place written anew: its codewords hold no error. -/
def State.rewritten (s : State) (p : Nat) : State :=
  if s.flaws.isEmpty then s
  else (codewords p).foldl (fun s c => s.setFlaw c { s.flawAt c with found := ⟨false, .clean⟩ }) s

/-- A byte as a reader gets it. -/
def State.pbyte (s : State) (p : Nat) : PByte := ⟨s.byteAt p, s.poisoned p⟩

/-! ### Rows (R153, R167) -/

/-- A row's number in its stack: pseudo-channel, bank, row. -/
def rowOf (a : Nat) : Nat := bits a 8 6 * 2 ^ 21 + bits a 16 6 * 2 ^ 15 + a / 2 ^ 22

/-- Is row `r` of stack `k` retired? -/
def State.rowRetired (s : State) (k r : Nat) : Bool := s.gran.retired.contains (k * 2 ^ 27 + r)

/-- The lowest count of a row error table. -/
def lowestCount : List (Nat × Nat) → Nat
  | [] => 0
  | [e] => e.2
  | e :: l => min e.2 (lowestCount l)

/-- A row error table without its oldest entry of count `c` (R167). -/
def dropCount (c : Nat) : List (Nat × Nat) → List (Nat × Nat)
  | [] => []
  | e :: l => if e.2 = c then l else e :: dropCount c l

/-- A row error table with `n` more errors of row `r`: its entry, or a new one, in place of the lowest where the table
is full. -/
def bumpRow (l : List (Nat × Nat)) (r n : Nat) : List (Nat × Nat) :=
  if l.any fun e => e.1 == r then l.map fun e => if e.1 = r then (r, e.2 + n) else e
  else (if l.length < 1024 then l else dropCount (lowestCount l) l) ++ [(r, n)]

/-- An error counted against the row of a place: a corrected one in the row error table, an uncorrectable one by making
the row a candidate at once (R167). -/
def State.countRow (s : State) (p : Nat) (ue : Bool) : State :=
  let k := p / 2 ^ 37
  let r := rowOf (p % 2 ^ 37)
  if s.rowRetired k r then s
  else if ue then { s with gran := { s.gran with rowUe := (k * 2 ^ 27 + r) :: s.gran.rowUe } }
  else { s with gran := { s.gran with rowErr := Tbl.upd [] s.gran.rowErr k fun l => bumpRow l r 1 } }

/-! ### What a read finds (R134, R162 to R165) -/

/-- A burst read from the dies: a correction of their own is counted (R162). -/
def State.senseDie (s : State) (c : Nat) : State :=
  if (s.foundAt c).die then s.addSat .GN_ECC_ODC_COUNT (c / 2 ^ 37) 1 else s

/-- A half the symbol code corrects: counted, and against its row (R163). -/
def State.correctHalf (s : State) (c : Nat) : State :=
  ((s.addSat .GN_ECC_CE_COUNT (c / 2 ^ 37) 1).countRow c false).raise .hbmCe 3 (c / 2 ^ 37) (bits c 8 6)
    (s.endpointOf (unitOf c)) 0

/-- The controller reads codewords `cs` of the sector at `p` (R163): where one is uncorrectable the sector is written
back poisoned, else each correction is counted. The check pattern of a poisoned sector counts nothing (R164). -/
def State.senseHbm (s : State) (p : Nat) (cs : List Nat) : State :=
  let s := cs.foldl State.senseDie s
  if s.poisoned p then s
  else if cs.any fun c => (s.foundAt c).code == .uncorrectable then
    ((((s.rewritten p).mark p true).addSat .GN_ECC_UE_COUNT (p / 2 ^ 37) 1).countRow p true).raise .hbmUe 3 (p / 2 ^ 37)
      (bits p 8 6) (s.endpointOf p) 0
  else (cs.filter fun c => (s.foundAt c).code == .corrected).foldl State.correctHalf s

/-- A bank of a loft reads the word at `p` (R134): a corrected one is written back, an uncorrectable one poisoned. -/
def State.senseLoft (s : State) (p : Nat) : State :=
  if s.poisoned p then s
  else
    match (s.foundAt p).code with
    | .clean => s
    | .corrected => ((s.rewritten p).addSat .LF_ECC_CE (loftOf p) 1).raise .loftCe 2 (loftOf p) 0 (s.endpointOf p) 0
    | .uncorrectable =>
      (((s.rewritten p).mark p true).addSat .LF_ECC_UE (loftOf p) 1).raise .loftUe 2 (loftOf p) 0 (s.endpointOf p) 0

/-- The outcome of a read's check on the unit at `p`. -/
def State.sense (s : State) (p : Nat) : State := if isHbm p then s.senseHbm p (codewords p) else s.senseLoft p

/-- The unit and instance a log record names for a place: stack or loft (R311). -/
def placeUnit (p : Nat) : Nat × Nat := if isHbm p then (3, p / 2 ^ 37) else (2, loftOf p)

/-- The flit of the line at `p` leaves (R165, R248): a check that fails once is made good by a reread or resend, one that
fails again leaves the flit poisoned. Both are logged. -/
def State.leaveLine (s : State) (p : Nat) : State :=
  let u := placeUnit p
  let f := s.flawAt p
  if f.leaves = 0 then s
  else if f.leaves = 1 then (s.setFlaw p { f with leaves := 0 }).raise .fabricCrc u.1 u.2 0 (s.endpointOf p) 0
  else s.raise .fabricPoison u.1 u.2 0 (s.endpointOf p) 0

/-- Does the flit of a place leave poisoned? -/
def State.leavesBad (s : State) (p : Nat) : Bool := (s.flawAt (lineOf p)).leaves == 2

/-- The first bytes of the units a run of `n` places from `p` touches. -/
def unitsOf (p n : Nat) : List Nat :=
  if n = 0 then []
  else
    let z := unitSize p
    (List.range ((p + n - 1) / z - p / z + 1)).map fun i => (p / z + i) * z

/-- Does a place lie on a failed stack, whose accesses in flight end as poisoned reads and dropped writes (R175)? -/
def State.onFailed (s : State) (p : Nat) : Bool := isHbm p && s.rdi .GN_STACK_STAT_STATE (p / 2 ^ 37) == 3

/-- Every unit of a run of places checked, and for HBM every flit that leaves its controller, where any error waits at
all. -/
def State.senseRun (s : State) (p n : Nat) : State :=
  if s.flaws.isEmpty then s
  else
    let s := (unitsOf p n).foldl State.sense s
    if isHbm p then (linesOf p n).foldl State.leaveLine s else s

/-- The bytes of a run of places, as a reader gets them. -/
def State.readPhys (s : State) (p n : Nat) : List PByte :=
  let l := (List.range n).map fun i => if s.onFailed p then ⟨s.byteAt (p + i), true⟩ else s.pbyte (p + i)
  if s.flaws.isEmpty || !isHbm p then l
  else (List.range n).zip l |>.map fun x => { x.2 with bad := x.2.bad || s.leavesBad (p + x.1) }

/-! ### Writes (R133, R136, R137, R156, R164, R165) -/

/-- Consecutive bytes gathered by the unit they lie in. -/
def groupUnits : List (Nat × PByte) → List (Nat × List (Nat × PByte))
  | [] => []
  | (p, b) :: r =>
    match groupUnits r with
    | (u, g) :: l => if u = unitOf p then (u, (p, b) :: g) :: l else (unitOf p, [(p, b)]) :: (u, g) :: l
    | [] => [(unitOf p, [(p, b)])]

/-- A write to part or all of one unit: all of it replaces it and its mark; a part is merged, or lost where the unit
is poisoned. The unit is stored with new check symbols. A poisoned byte poisons it. -/
def State.writeUnit (s : State) (g : Nat × List (Nat × PByte)) : State :=
  let whole := g.2.length = unitSize g.1
  let s := if whole then s.mark g.1 false else if s.flaws.isEmpty then s else s.sense g.1
  if s.poisoned g.1 then s
  else
    let s := g.2.foldl (fun s e => s.setByte e.1 e.2.val) (s.rewritten g.1)
    if g.2.any fun e => e.2.bad then s.mark g.1 true else s

/-- A run of bytes stored from place `p` up, unit by unit; dropped on a failed stack (R175). -/
def State.storePhys (s : State) (p : Nat) (l : List PByte) : State :=
  if s.onFailed p then s else (groupUnits ((List.range l.length).zip l |>.map fun e => (p + e.1, e.2))).foldl State.writeUnit s

/-- The bytes of a run from place `p` up with those of the line at `z` poisoned. -/
def spoilLine (p z : Nat) (l : List PByte) : List PByte :=
  (List.range l.length).zip l |>.map fun x => if lineOf (p + x.1) = z then { x.2 with bad := true } else x.2

/-- The flit of the line at `z` arrives in a run of bytes for place `p` up (R137, R165): a check that fails once is made
good by a resend; one that fails again has its bytes written poisoned. -/
def arriveLine (p : Nat) (x : State × List PByte) (z : Nat) : State × List PByte :=
  let (s, l) := x
  let f := s.flawAt z
  let u := placeUnit z
  if f.arrives = 0 then x
  else
    let s := s.setFlaw z { f with arrives := 0 }
    let s := if isHbm z then s else s.addSat .LF_FABRIC_RESEND u.2 1
    if f.arrives = 1 then (s.raise .fabricCrc u.1 u.2 0 (s.endpointOf z) 0, l)
    else
      let s := if isHbm z then s else s.addSat .LF_FABRIC_FAIL u.2 1
      (s.raise .fabricPoison u.1 u.2 0 (s.endpointOf z) 0, spoilLine p z l)

/-- A run of bytes that comes over the fabric written from place `p` up. -/
def State.writePhys (s : State) (p : Nat) (l : List PByte) : State :=
  if s.flaws.isEmpty then s.storePhys p l
  else
    let x := (linesOf p l.length).foldl (arriveLine p) (s, l)
    x.1.storePhys p x.2

/-- The word at `z` is written over the result path (R137): where its parity fails, the word is written poisoned, and
that counts as an uncorrectable error. -/
def resultWord (p : Nat) (x : State × List PByte) (z : Nat) : State × List PByte :=
  let (s, l) := x
  let f := s.flawAt z
  if f.result then
    let s := ((s.setFlaw z { f with result := false }).addSat .LF_ECC_UE (loftOf z) 1).raise .loftUe 2 (loftOf z) 0
      (s.endpointOf z) 0
    (s, (List.range l.length).zip l |>.map fun x => if unitOf (p + x.1) = z then { x.2 with bad := true } else x.2)
  else x

/-- A run of bytes that an engine of the thresher puts out written from place `p` up: over the result path into a loft,
over the fabric into HBM. -/
def State.resultPhys (s : State) (p : Nat) (l : List PByte) : State :=
  if isHbm p then s.writePhys p l
  else if s.flaws.isEmpty then s.storePhys p l
  else
    let x := (unitsOf p l.length).foldl (resultWord p) (s, l)
    x.1.storePhys p x.2

/-- Every unit of a run of places poison-marked. -/
def State.poisonRun (s : State) (p n : Nat) : State := (unitsOf p n).foldl (fun s u => s.mark u true) s

/-! ### Versioned regions (R195 to R206) -/

/-- A valid versioned-region entry: its number, the space and loft of both copies, the lowest address of each, its
granules, and whether it is SCRATCH. -/
structure Vreg where
  v : Nat
  space : Nat
  thr : Nat
  a : Nat
  b : Nat
  granules : Nat
  scratch : Bool
  deriving DecidableEq, Repr

/-- The size of a granule of a space (R195). -/
def granSize (space : Nat) : Nat := if space = 0 then 4096 else 512

/-- The address an endpoint word names in its space, HBM or loft (R104). -/
def epAddr (w : Nat) : Nat := if bits w 62 2 = 0 then bits w 0 42 else bits w 0 28

/-- Entry `v` as the registers hold it. -/
def State.vregAt (s : State) (v : Nat) : Vreg :=
  let a := s.rdi .PS_VREG_A_BASE v
  { v := v, space := bits a 62 2, thr := if bits a 62 2 = 1 then bits a 32 3 else 0, a := epAddr a,
    b := epAddr (s.rdi .PS_VREG_B_BASE v), granules := s.rdi .PS_VREG_CFG_GRANULES v,
    scratch := s.flag .PS_VREG_CFG_KIND v }

/-- The valid entries. -/
def State.vregs (s : State) : List Vreg :=
  (List.range 64).filterMap fun v => if s.flag .PS_VREG_CFG_V v then some (s.vregAt v) else none

/-- The bytes of one copy. -/
def Vreg.bytes (r : Vreg) : Nat := r.granules * granSize r.space

/-- Does an address lie in the name range (copy A)? -/
def Vreg.hasName (r : Vreg) (space t a : Nat) : Bool :=
  r.space == space && r.thr == t && decide (r.a ≤ a) && decide (a < r.a + r.bytes)

/-- Does a range of addresses meet copy B of a DUAL entry? -/
def Vreg.meetsB (r : Vreg) (space t lo hi : Nat) : Bool :=
  !r.scratch && r.space == space && r.thr == t && decide (r.b ≤ hi) && decide (lo < r.b + r.bytes)

/-- The key of granule `g` of entry `v`. -/
def granKey (v g : Nat) : Nat := v * 2 ^ 23 + g

/-- A granule as it was last written: its committed side and its tag. -/
def State.granule (s : State) (v g : Nat) : Granule := Tbl.get ⟨false, none⟩ s.prov.granules (granKey v g)

/-- The state with a granule set. -/
def State.setGranule (s : State) (v g : Nat) (x : Granule) : State :=
  { s with prov := { s.prov with granules := Tbl.set ⟨false, none⟩ s.prov.granules (granKey v g) x } }

/-- The numbers of the live epochs (R198): the closed one, then the open one. -/
def State.liveEpochs (s : State) : List Nat :=
  (if s.flag .PS_STAT_CLOSED 0 then [s.rd .PS_EPOCH_CLOSED_EPOCH] else []) ++
    (if s.flag .PS_STAT_OPEN 0 then [s.rd .PS_EPOCH_OPEN_EPOCH] else [])

/-- Is epoch `e` live? -/
def State.live (s : State) (e : Nat) : Bool := s.liveEpochs.contains e

/-- Did epoch `e` end in a squash? -/
def State.squashed (s : State) (e : Nat) : Bool := s.prov.ended.any fun x => x.epoch == e && x.squashed

/-- Whose eyes an access sees memory with (R204): none, a live epoch's, a squashed epoch's. -/
inductive View where
  | unbound | live (e : Nat) | squashed (e : Nat)
  deriving DecidableEq, Repr

/-- The view of an instruction bound to an epoch (R198, R201, R202): a confirmed epoch's accesses are committed ones. -/
def State.viewOf (s : State) (bound : Option Nat) : View :=
  match bound with
  | none => .unbound
  | some e => if s.live e then .live e else if s.squashed e then .squashed e else .unbound

/-- A granule as the fold of its ended epoch will leave it (R203): a confirmed tag has flipped a DUAL granule's side.
The second value says whether it is a SCRATCH granule of a squashed epoch, which reads poisoned. -/
def State.settled (s : State) (r : Vreg) (x : Granule) : Granule × Bool :=
  match x.tag with
  | none => (x, false)
  | some e =>
    if s.live e then (x, false)
    else if s.squashed e then (⟨x.sideB, none⟩, r.scratch)
    else (⟨if r.scratch then x.sideB else !x.sideB, none⟩, false)

/-- A piece of an access that lies in one granule: where its bytes stand, and whether they read poisoned whatever
stands there. -/
structure Place where
  phys : Nat
  bad : Bool
  deriving DecidableEq, Repr

/-- The place of an address in copy A or B. -/
def State.copyPhys (s : State) (r : Vreg) (sideB : Bool) (a : Nat) : Nat :=
  s.phys r.space r.thr (if sideB then r.b + (a - r.a) else a)

/-- Where a read of an address finds its bytes (R204). -/
def State.readPlace (s : State) (rs : List Vreg) (view : View) (space t a : Nat) : Place :=
  match rs.find? fun r => r.hasName space t a with
  | none => ⟨s.phys space t a, false⟩
  | some r =>
    let x := s.settled r (s.granule r.v ((a - r.a) / granSize space))
    if r.scratch then ⟨s.phys space t a, x.2 && (match view with | .squashed _ => false | _ => true)⟩
    else
      match view, x.1.tag with
      | .live e, some g => ⟨s.copyPhys r (if g ≤ e then !x.1.sideB else x.1.sideB) a, false⟩
      | _, _ => ⟨s.copyPhys r x.1.sideB a, false⟩

/-- One copy of a granule's bytes into the other, marks included (R205). -/
def State.copyGranule (s : State) (r : Vreg) (fromB : Bool) (a0 : Nat) : State :=
  let n := granSize r.space
  let p := s.copyPhys r fromB a0
  let s := s.senseRun p n
  s.storePhys (s.copyPhys r (!fromB) a0) (s.readPhys p n)

/-- Where a write of `n` bytes at an address lands, and the state with its granule prepared (R203 to R205): the first
write of an epoch copies the committed side unless it covers the granule; a squashed SCRATCH granule is folded first.
No place: the write is discarded. -/
def State.writePlace (s : State) (rs : List Vreg) (view : View) (space t a n : Nat) : Option Nat × State :=
  match rs.find? fun r => r.hasName space t a with
  | none => (some (s.phys space t a), s)
  | some r =>
    let z := granSize space
    let g := (a - r.a) / z
    let a0 := r.a + g * z
    let raw := s.granule r.v g
    let x := s.settled r raw
    if r.scratch then
      let s := if x.2 then s.poisonRun (s.phys space t a0) z else s
      let tag := match view with
        | .unbound => none
        | .live e => some e
        | .squashed e => some e
      (some (s.phys space t a), s.setGranule r.v g ⟨false, tag⟩)
    else
      match view with
      | .unbound => (some (s.copyPhys r x.1.sideB a), if raw.tag = x.1.tag then s else s.setGranule r.v g x.1)
      | .live e =>
        let s := if raw.tag = some e ∨ n = z then s else s.copyGranule r x.1.sideB a0
        (some (s.copyPhys r (!x.1.sideB) a), s.setGranule r.v g ⟨x.1.sideB, some e⟩)
      | .squashed _ => (none, s)

/-! ### Runs through the redirection -/

/-- A range of addresses cut at the granule boundaries of its space: start and length of each piece. -/
def cutRun (z : Nat) : Nat → Nat → Nat → List (Nat × Nat)
  | 0, _, _ => []
  | fuel + 1, a, n =>
    if n = 0 then []
    else
      let k := min n (z - a % z)
      (a, k) :: cutRun z fuel (a + k) (n - k)

/-- The pieces of a range. -/
def piecesOf (space a n : Nat) : List (Nat × Nat) := cutRun (granSize space) (n / granSize space + 2) a n

/-- The checks of the units a read touches (R134, R163). -/
def State.senseAt (s : State) (view : View) (space t a n : Nat) : State :=
  if s.flaws.isEmpty then s
  else
    let rs := s.vregs
    (piecesOf space a n).foldl (fun s p => s.senseRun (s.readPlace rs view space t p.1).phys p.2) s

/-- A read of `n` bytes from an address of HBM or a loft. -/
def State.readAt (s : State) (view : View) (space t a n : Nat) : List PByte :=
  let rs := s.vregs
  (piecesOf space a n).flatMap fun p =>
    let pl := s.readPlace rs view space t p.1
    (s.readPhys pl.phys p.2).map fun b => if pl.bad then { b with bad := true } else b

/-- A range of a loft leaves over the fabric for the wain: every flit is checked there (R137, R248). A flit of HBM has
been checked at its controller. -/
def State.leaveAt (s : State) (view : View) (space t a n : Nat) : State :=
  if s.flaws.isEmpty ∨ space = 0 then s
  else
    let rs := s.vregs
    (piecesOf space a n).foldl
      (fun s p => (linesOf (s.readPlace rs view space t p.1).phys p.2).foldl State.leaveLine s) s

/-- A read of `n` bytes for the wain: those of a flit that fails its check twice are poisoned. -/
def State.readOut (s : State) (view : View) (space t a n : Nat) : List PByte :=
  if s.flaws.isEmpty ∨ space = 0 then s.readAt view space t a n
  else
    let rs := s.vregs
    (piecesOf space a n).flatMap fun p =>
      let q := (s.readPlace rs view space t p.1).phys
      (List.range p.2).zip (s.readAt view space t p.1 p.2) |>.map fun x => { x.2 with bad := x.2.bad || s.leavesBad (q + x.1) }

/-- The bytes of the pieces of a range, piece by piece. -/
def splitBy : List (Nat × Nat) → List PByte → List (Nat × List PByte)
  | [], _ => []
  | (a, k) :: r, l => (a, l.take k) :: splitBy r (l.drop k)

/-- A write of bytes to an address of HBM or a loft, each piece put down by `put`. -/
def State.writeVia (put : State → Nat → List PByte → State) (s : State) (view : View) (space t a : Nat)
    (l : List PByte) : State :=
  let rs := s.vregs
  (splitBy (piecesOf space a l.length) l).foldl
    (fun s p =>
      match s.writePlace rs view space t p.1 p.2.length with
      | (some q, s') => put s' q p.2
      | (none, s') => s')
    s

/-- A write of bytes that come over the fabric. -/
def State.writeAt (s : State) (view : View) (space t a : Nat) (l : List PByte) : State :=
  s.writeVia State.writePhys view space t a l

/-- A write of bytes that an engine of a thresher puts out. -/
def State.writeResult (s : State) (view : View) (space t a : Nat) (l : List PByte) : State :=
  s.writeVia State.resultPhys view space t a l

/-- Clean bytes. -/
def clean (l : List Byte) : List PByte := l.map fun b => ⟨b, false⟩

/-- The number a run of bytes spells, poison aside. -/
def pNat (l : List PByte) : Nat := leNat (l.map PByte.val)

/-- Is any byte of a run poisoned? -/
def anyBad (l : List PByte) : Bool := l.any PByte.bad

end Sys2Proof.Machine
end

