-- ==== Sys2Proof/Machine/Queue.lean ====
section
/-! DEFINITION. Engine queues and tallies: faults of an engine (R114, R309), tally counts and waiters (R121 to R126),
the issue of the head instruction with the checks of R101, its wait, and the end of an instruction (R95, R96). -/

namespace Sys2Proof.Machine

/-! ### Domains (R255) -/

/-- The power domain of a thresher, of a bay's core, granary interface and SerDes (R255). -/
def thrDomain (t : Nat) : Nat := 5 * (t / 2) + t % 2
/-- The bay-core domain. -/
def coreDomain (b : Nat) : Nat := 5 * b + 2
/-- The granary-interface domain. -/
def granDomain (b : Nat) : Nat := 5 * b + 3
/-- The SerDes domain. -/
def serdesDomain (b : Nat) : Nat := 5 * b + 4

/-- Is domain `d` off? -/
def State.domainOff (s : State) (d : Nat) : Bool := s.flag .PW_DOM_IS_OFF d

/-- Is stack `k` online (R158, R307): trained, not failed, its bay not faulted, its interface on? -/
def State.online (s : State) (k : Nat) : Bool :=
  s.rdi .GN_STACK_STAT_STATE k == 2 && !s.bayFaulted (stackBay k) && !s.domainOff (granDomain (stackBay k))

/-- Is the module fatal or in FAILED_MEMORY (R175, R308)? -/
def State.fatal (s : State) : Bool := decide (4 ≤ s.rd .ER_SERVICE_STATE)

/-! ### The instruction word (R98) -/

/-- The fields of an instruction word, and its address. -/
structure Ins where
  pc : Nat
  opcode : Nat
  cls : Nat
  hop : Bool
  hostFence : Bool
  prov : Bool
  vol : Bool
  waitIdx : Nat
  sigIdx : Nat
  waitCnt : Nat
  sigCnt : Nat
  operand : Nat
  deriving DecidableEq, Repr

/-- The fields of a 128-bit instruction word (R98). -/
def Ins.ofWord (pc w : Nat) : Ins :=
  { pc := pc, opcode := bits w 120 8, cls := bits w 116 4, hop := bit w 115, hostFence := bit w 114,
    prov := bit w 113, vol := bit w 112, waitIdx := bits w 96 16, sigIdx := bits w 80 16, waitCnt := bits w 72 8,
    sigCnt := bits w 64 8, operand := bits w 0 64 }

/-- The engine class of an opcode (R102); none where the opcode is reserved. -/
def opClass (o : Nat) : Option Nat :=
  if o ≤ 0x0B then some 15
  else if 0x20 ≤ o ∧ o ≤ 0x23 then some 0
  else if 0x30 ≤ o ∧ o ≤ 0x32 then some 1
  else if 0x40 ≤ o ∧ o ≤ 0x42 then some 2
  else if o = 0x50 then some 3
  else if 0x60 ≤ o ∧ o ≤ 0x6E ∨ 0x70 ≤ o ∧ o ≤ 0x73 then some 4
  else if o = 0xA0 ∨ o = 0xA1 then some 5
  else if 0xB0 ≤ o ∧ o ≤ 0xB2 then some 6
  else none

/-- Are the bits of `x` outside the fields (lowest bit, width) all zero? -/
def zeroBut (x : Nat) (l : List (Nat × Nat)) : Bool := (l.foldl (fun x f => setBits x f.1 f.2 0) x) == 0

/-- Check 5 of R101 for a tally operand (R102, R118): reserved bits, SCOPE, and the range of a local index. -/
def tallyOperandOk (o x : Nat) : Bool :=
  zeroBut x [(0, 16), (16, 16), (32, 2), (48, 16)] && bits x 32 2 != 3 &&
    !(bits x 32 2 == 0 && decide (16383 < bits x 0 16)) && !(bits x 32 2 == 2 && o != 0x08)

/-- Check 5 of R101: reserved operand bits are zero and every field lies within its range. -/
def operandOk (o x : Nat) : Bool :=
  match o with
  | 0x00 | 0x02 | 0x22 | 0x23 | 0x31 | 0x32 | 0x41 | 0x42 => x == 0
  | 0x01 => zeroBut x [(0, 1), (16, 16)]
  | 0x03 => zeroBut x [(0, 16)]
  | 0x04 => zeroBut x [(0, 24), (32, 13)] && decide (1 ≤ bits x 32 13) && decide (bits x 32 13 ≤ 4096)
  | 0x05 => zeroBut x [(0, 32)]
  | 0x06 => zeroBut x [(0, 32), (32, 3), (40, 24)] && decide (bits x 32 3 ≤ 5)
  | 0x07 => zeroBut x [(0, 43)] && bits x 0 3 == 0
  | 0x08 | 0x09 | 0x0A | 0x0B => tallyOperandOk o x
  | 0x20 => zeroBut x [(0, 4), (32, 32)] && decide (1 ≤ bits x 0 4) && decide (bits x 0 4 ≤ 5) && bits x 32 4 == 0
  | _ => zeroBut x [(0, 43), (44, 3), (48, 16)]

/-- Checks 3 to 5 of R101. Folyqua 1.0 is the only version (R92). -/
def decodeFault (q : Nat) (i : Ins) : Option E :=
  match opClass i.opcode with
  | none => some .opcode
  | some c =>
    if i.cls ≠ c ∨ c ≠ 15 ∧ c ≠ qClass q then some .engineClass
    else if operandOk i.opcode i.operand then none else some .encoding

/-- The head of a queue as issue finds it: nothing to issue yet, a fault of check 1 or 2, or an instruction. -/
inductive Head where
  | empty | bad (c : E) | ins (i : Ins)
  deriving DecidableEq, Repr

/-- The head instruction of queue `q`, with checks 1 and 2 of R101. -/
def State.head (s : State) (q : Nat) : Head :=
  let pc := s.rdi .EN_Q_PC_PC q
  let base := s.rdi .EN_Q_PRG_BASE_BASE q
  if pc < base ∨ base + s.rdi .EN_Q_PRG_SIZE_SIZE q < pc + 16 then .bad .fetchBounds
  else
    match (s.queue q).buf.find? fun e => e.1 == pc with
    | none => .empty
    | some e => if e.2.poison then .bad .fetchPoison else .ins (Ins.ofWord pc e.2.word)

/-! ### Faults of an engine -/

/-- What a fault records beside its code: nothing, the case of LF_BOUNDS_LAST (R140, R151), or the case of
TL_MISUSE_LAST (R126). -/
inductive FaultInfo where
  | plain
  | bounds (reason side addr : Nat)
  | misuse (tally reason : Nat)
  deriving DecidableEq, Repr

/-- An engine fault. -/
structure EFault where
  code : E
  info : FaultInfo
  deriving DecidableEq, Repr

/-- A fault that records nothing beside its code. -/
def EFault.of (c : E) : EFault := ⟨c, .plain⟩

/-- The reason field a fault's log record carries in DETAIL (R311). -/
def EFault.detail (f : EFault) : Nat :=
  match f.info with
  | .plain => 0
  | .bounds r _ _ => r
  | .misuse _ r => r

/-- The records a fault of queue `q` writes beside the queue's own (R126, R140, R211). -/
def State.recordFault (s : State) (q : Nat) (f : EFault) : State :=
  let s := if f.code = .provEscape then s.wr .PS_STAT_ESCAPE 1 else s
  match f.info with
  | .plain => s
  | .bounds r side a =>
    ((((((s.wr .LF_STAT_BOUNDS 1).wr .LF_BOUNDS_LAST_QUEUE q).wr .LF_BOUNDS_LAST_REASON r).wr .LF_BOUNDS_LAST_SIDE
      side).wr .LF_BOUNDS_ADDR_LO a).addSat .LF_BOUNDS_CNT_COUNT 0 1)
  | .misuse u r =>
    ((((s.wr .TL_STAT_MISUSE 1).wr .TL_MISUSE_LAST_TALLY u).wr .TL_MISUSE_LAST_QUEUE q).wr .TL_MISUSE_LAST_REASON r)

/-- The owner code of TN_STAT.OWNER an engine class has: 1 weight engine, 2 feed engine. -/
def ownerCode (cls : Nat) : Nat := if cls = 2 then 1 else if cls = 1 then 2 else 0

/-- The turner a faulting engine owned is freed (R86). A turner-routed instruction of its that is in progress and waits
runs to completion through the turner as R114 says (DESIGN CHOICE, assumption log entry 91). -/
def State.freeTurnerOf (s : State) (q : Nat) : State :=
  if q < 48 ∧ ownerCode (qClass q) ≠ 0 ∧ s.rdi .TN_STAT_OWNER (q / 6) = ownerCode (qClass q) then
    s.wri .TN_STAT_OWNER (q / 6) 0
  else s

/-! ### Tallies -/

/-- The count of tally `u`. -/
def State.tally (s : State) (u : Nat) : Nat := s.rdi .TL_COUNT_COUNT u

/-- The state with the count of tally `u`. -/
def State.setTally (s : State) (u n : Nat) : State := s.wri .TL_COUNT_COUNT u n

/-- Is tally `u` allocated (R119)? -/
def State.allocated (s : State) (u : Nat) : Bool := bit (s.rdi .TL_ALLOC_BITS (u / 32)) (u % 32)

/-- The bookkeeping of an instruction that leaves the head of its queue: PC behind it under the loops of R112. -/
def loopNext : List LoopLevel → Nat → List LoopLevel × Nat
  | [], pc => ([], pc)
  | l :: r, pc =>
    if pc = l.stop then
      if l.index + 1 < l.count then ({ l with index := l.index + 1 } :: r, l.start) else loopNext r pc
    else (l :: r, pc)

/-- The buffer after the instruction at `pc` has issued: kept while a loop is active, so that its body issues again
(R112), else without it and without the body of the loop that has just ended. -/
def dropIssued (before after : List LoopLevel) (pc : Nat) (buf : List (Nat × Slot)) : List (Nat × Slot) :=
  if after.isEmpty then
    match before.getLast? with
    | none => buf.filter fun e => e.1 != pc
    | some l => buf.filter fun e => decide (e.1 < l.start) || decide (l.stop ≤ e.1)
  else buf

/-- The head instruction of queue `q` is done with the head; the next one is at `npc` before the loops have their say
(R95, R112). -/
def State.advance (s : State) (q npc : Nat) : State :=
  let x := s.queue q
  let pc := s.rdi .EN_Q_PC_PC q
  let (ls, p) := loopNext x.loops npc
  (s.updQueue q fun x =>
    { x with loops := ls, buf := dropIssued x.loops ls pc x.buf, taken := false, held := false, wait := none }).wri
    .EN_Q_PC_PC q p

/-- The head of queue `q` issues: counted, and remembered as the last instruction issued (R116). -/
def State.countIssue (s : State) (q : Nat) : State :=
  (s.addWrap .EN_Q_ISSUED_COUNT q 1).updQueue q fun x => { x with last := s.rdi .EN_Q_PC_PC q }

/-- Has a WN.GATHER landed shards whose PROG_TALLY signals have not acted yet (R229)? -/
def Work.owesProg (w : Work) : Bool :=
  w.kind == .gather && bits w.desc 208 16 != 0xFFFF && w.coll.any fun c => decide (c.signalled < c.delivered)

/-- The instruction in progress that a completed instruction leaves behind while a signal of its has not acted: nothing
where it has none. -/
def finished (w : Work) (l : List Work) : List Work :=
  if w.sigIdx = 0xFFFF ∧ !w.owesProg then l.filter fun x => x.id != w.id
  else l.map fun x =>
    if x.id = w.id then { x with done := true, kind := if w.owesProg then .gather else .plain, reads := [], writes := [] } else x

/-- Instruction `id` of queue `q` completes (R96). -/
def State.complete (s : State) (q id : Nat) : State :=
  s.updQueue q fun x =>
    match x.work.find? fun w => w.id == id with
    | none => x
    | some w => { x with work := finished w x.work }

/-- A moment that is an ordering point of queue `q` (R186). -/
def State.orderPoint (s : State) (q : Nat) : State :=
  { (s.updQueue q fun x => { x with ordPoint := s.stamp + 1 }) with stamp := s.stamp + 1 }

/-- The code of a running queue whose head does not wait (R116): 3 while the fetcher waits on a BRC, else 1. -/
def State.runState (s : State) (q : Nat) : Nat := if (s.queue q).brcStop then 3 else 1

/-- The wait of queue `q`'s head has been served (R125, R184): the wait field is taken, or the TL.WAIT completes. -/
def State.wake (s : State) (q : Nat) : State :=
  let s := (s.setQState q (s.runState q)).orderPoint q
  match (s.queue q).wait with
  | none => s
  | some w =>
    if w.operand then
      let s := s.advance q (s.rdi .EN_Q_PC_PC q + 16)
      s.updQueue q fun x => { x with work := x.work.flatMap fun k => if k.kind = .plain ∧ !k.done then finished k [{ k with done := true }] else [k] }
    else s.updQueue q fun x => { x with wait := none, taken := true }

/-- The waiters of tally `u` served in order while the count covers the head (R125). -/
def serveList (u : Nat) : List Waiter → State → State
  | [], s => s.setWaiters u []
  | w :: r, s =>
    if w.need ≤ s.tally u then serveList u r ((s.setTally u (s.tally u - w.need)).wake w.queue)
    else s.setWaiters u (w :: r)

/-- Tally `u` serves what it can. -/
def State.serve (s : State) (u : Nat) : State := serveList u (s.waitersOf u) s

/-- Queue `q`'s waiter leaves its tally with nothing subtracted (R114, R128); those behind it are served. -/
def State.leaveWait (s : State) (q : Nat) : State :=
  match (s.queue q).wait with
  | none => s
  | some w =>
    let s := s.setWaiters w.tally ((s.waitersOf w.tally).filter fun x => x.queue != q)
    (s.updQueue q fun x => { x with wait := none, taken := x.taken && !w.operand, work := x.work.filter fun k => k.kind != .plain || k.done }).serve
      w.tally

/-- The queue's own part of an engine fault (R114): a queue already FAULTED keeps its code (R309). -/
def State.stopQueue (s : State) (q : Nat) (c : E) (pc : Nat) : State :=
  if s.qState q = 5 then s
  else
    let s := s.leaveWait q
    let s := s.updQueue q fun x => { x with ending := none, wait := none, taken := false }
    (((s.setQState q 5).wri .EN_Q_STAT_CODE q c.val).wri .EN_Q_FAULT_PC_PC q pc).freeTurnerOf q

/-- The wait of the head, where that is the instruction at `pc` that faults, is not taken (R101): a count its service
subtracted is given back, and the waiters are served. -/
def State.giveBack (s : State) (q pc : Nat) : State :=
  if (s.queue q).taken && (s.queue q).wait.isNone && s.rdi .EN_Q_PC_PC q == pc then
    let s' := s.updQueue q fun x => { x with taken := false }
    match s.head q with
    | .ins i =>
      if i.waitIdx = 0xFFFF ∨ i.waitCnt = 0 ∨ ¬ s.allocated i.waitIdx then s'
      else (s'.setTally i.waitIdx (min 65535 (s.tally i.waitIdx + i.waitCnt))).serve i.waitIdx
    | _ => s'
  else s

/-- Engine fault `f` of queue `q` at the instruction of address `pc` (R101, R114, R306, R311). -/
def State.engineFault (s : State) (q : Nat) (f : EFault) (pc : Nat) : State :=
  (((s.giveBack q pc).recordFault q f).raise f.code 1 q 0 pc f.detail).stopQueue q f.code pc

/-- The overflow flag of tally `u` (R123). -/
def State.overflow (s : State) (u : Nat) : State :=
  if bit (s.rdi .TL_OVF_BITS (u / 32)) (u % 32) then s
  else
    let s := s.wri .TL_OVF_BITS (u / 32) (setBits (s.rdi .TL_OVF_BITS (u / 32)) (u % 32) 1 1)
    let s := s.wr .TL_STAT_OVF 1
    if s.flag .TL_OVF_FIRST_VALID 0 then s else (s.wr .TL_OVF_FIRST_TALLY u).wr .TL_OVF_FIRST_VALID 1

/-- A signal of `n` at tally `u` (R121, R123): added, saturating at 65,535, then the waiters served. -/
def State.signal (s : State) (u n : Nat) : State :=
  let c := s.tally u + n
  let s := if 65535 < c then s.overflow u else s
  (s.setTally u (min 65535 c)).serve u

/-- Tally `u` set to `n` (R121), then the waiters served. -/
def State.arm (s : State) (u n : Nat) : State := (s.setTally u n).serve u

/-! ### Issue (R95, R99, R101) -/

/-- May queue `q` issue: it is running, nothing of it ends, and no instruction it must wait for is in progress (R95,
R97, R127)? -/
def State.mayIssue (s : State) (q : Nat) : Bool :=
  (s.qState q == 1 || s.qState q == 3) && (s.queue q).ending.isNone &&
    (s.queue q).work.all fun w => w.done || (w.kind != .remoteSignal && w.kind != .squash && w.kind != .notify)

/-- The module-wide number of the tally an operand names (R118), scopes 0 and 1. -/
def operandTally (q x : Nat) : Nat := if bits x 32 2 = 0 then 16384 * qBay q + bits x 0 16 else bits x 0 16

/-- An operation of queue `q` on tally `u` of this module: the fault of check 6 (R126, R307), where there is one. -/
def State.tallyFault (s : State) (q u : Nat) : Option EFault :=
  if s.bayFaulted (tallyBay u) ∧ tallyBay u ≠ qBay q then some (.of .bayFault)
  else if s.allocated u then none else some ⟨.tallyMisuse, .misuse u 1⟩

/-- Is the tally operand of an instruction one of this module's tallies (R118)? -/
def State.localTally (s : State) (q : Nat) (i : Ins) : Option Nat :=
  if 0x08 ≤ i.opcode ∧ i.opcode ≤ 0x0B then
    if bits i.operand 32 2 = 2 ∧ bits i.operand 48 16 ≠ s.rd .WN_ID_MODULE then none else some (operandTally q i.operand)
  else none

/-- Check 6 of R101 behind the wait: the signal's tally, then the operand's. -/
def State.check6 (s : State) (q : Nat) (i : Ins) : Option EFault :=
  match (if i.sigIdx = 0xFFFF then none else s.tallyFault q i.sigIdx) with
  | some f => some f
  | none =>
    match s.localTally q i with
    | none => none
    | some u => s.tallyFault q u

/-- The wait of queue `q` on tally `u` begins (R121, R125): it joins the waiters, and is served at once where the
count covers it and none is before it. -/
def State.beginWait (s : State) (q u n : Nat) (operand : Bool) : State :=
  let s := s.updQueue q fun x => { x with wait := some ⟨u, n, 0, operand⟩ }
  ((s.setQState q 2).setWaiters u (s.waitersOf u ++ [⟨q, n⟩])).serve u

/-- The wait field of the head (R95, R99): the state behind it, and whether issue may go on. -/
def State.takeWait (s : State) (q : Nat) (i : Ins) : State × Bool :=
  if i.waitIdx = 0xFFFF ∨ (s.queue q).taken then (s, true)
  else
    match s.tallyFault q i.waitIdx with
    | some f => (s.engineFault q f i.pc, false)
    | none =>
      if i.waitCnt = 0 then (s.updQueue q fun x => { x with taken := true }, true)
      else
        let s := s.beginWait q i.waitIdx i.waitCnt false
        (s, (s.queue q).taken)

/-- The instruction at the head behind a skipped one (R202): a LOOP goes with its body. -/
def skipTo (i : Ins) : Nat := if i.opcode = 0x04 then i.pc + 16 * (bits i.operand 32 13 + 1) else i.pc + 16

/-- The head of queue `q` goes on to `npc` over the addresses from `lo` up, which do not run (R112, R202): outside loops
their slots leave the buffer, and a BRC among them no longer stops the fetcher (R111). -/
def State.passBy (s : State) (q lo npc : Nat) : State :=
  let x := s.queue q
  let held := x.buf.any fun e => e.1 == npc
  let s' := s.updQueue q fun x =>
    { x with buf := if x.loops.isEmpty then x.buf.filter fun e => decide (e.1 < lo) || decide (npc ≤ e.1) else x.buf,
             brcStop := x.brcStop && held, next := if x.brcStop && !held then some npc else x.next }
  if x.brcStop && !held && s.qState q == 3 then s'.setQState q 1 else s'

/-- Does PROV have a meaning on this opcode (R198)? -/
def provCounts (o : Nat) : Bool := o != 0x01 && o != 0x21 && o != 0x22 && o != 0x23

/-- The epoch an instruction that issues now is bound to (R198). -/
def State.bindEpoch (s : State) (i : Ins) : Option Nat :=
  if i.prov && provCounts i.opcode && s.flag .PS_STAT_OPEN 0 then some (s.rd .PS_EPOCH_OPEN_EPOCH) else none

/-- Queue `q` issues its head instruction, when that is one of opcode `op`: the checks of R101, the skip of R202, the
wait, check 6, then the instruction's own work. A command for another opcode than the head's, or for a queue that
cannot issue, changes nothing. -/
def issue (q op : Nat) (s : State) (body : Ins → State → State) : State :=
  if s.mayIssue q then
    match s.head q with
    | .empty => s
    | .bad c => s.engineFault q (.of c) (s.rdi .EN_Q_PC_PC q)
    | .ins i =>
      if (s.queue q).skipping && i.prov && provCounts i.opcode then
        if i.opcode = op then ((s.countIssue q).passBy q i.pc (skipTo i)).advance q (skipTo i) else s
      else
        match decodeFault q i with
        | some c => s.engineFault q (.of c) i.pc
        | none =>
          if i.opcode = op then
            let s := s.updQueue q fun x => { x with skipping := false }
            let (s, go) := s.takeWait q i
            if go then
              match s.check6 q i with
              | some f => s.engineFault q f i.pc
              | none => body i s
            else s
          else s
  else s

/-- An instruction as it goes in progress (R97). -/
def newWork (x : Queue) (i : Ins) (k : WorkKind) (bound : Option Nat) : Work :=
  { id := x.nextId, pc := i.pc, kind := k, sigIdx := i.sigIdx, sigCnt := i.sigCnt, hostFence := i.hostFence,
    hop := i.hop, vol := i.vol, bound := bound, reads := [], writes := [], ready := true, done := false, tags := [], packs := [], pieces := [],
    desc := 0, part := 0, coll := none }

/-- The instruction issues and stays in progress as `w`; the head moves on. -/
def State.goOn (s : State) (q : Nat) (i : Ins) (w : Work) : State :=
  ((s.countIssue q).updQueue q fun x => { x with work := x.work ++ [w], nextId := x.nextId + 1 }).advance q (i.pc + 16)

/-- The instruction issues and completes at once; its signal, where it has one, waits to act (R96). -/
def State.retireTo (s : State) (q : Nat) (i : Ins) (npc : Nat) : State :=
  let w := { newWork (s.queue q) i .plain (s.bindEpoch i) with done := true }
  ((s.countIssue q).updQueue q fun x =>
    { x with work := if i.sigIdx = 0xFFFF then x.work else x.work ++ [w], nextId := x.nextId + 1 }).advance q npc

/-- The instruction issues and completes at once, and the next one follows it. -/
def State.retire (s : State) (q : Nat) (i : Ins) : State := s.retireTo q i (i.pc + 16)

/-! ### Release (R96, R122, R192) -/

/-- Have the writes of queue `q`'s instructions before number `id` reached their points of coherence? Local and host
writes of this model have, in the step that makes them; those of an instruction still in progress may not. -/
def State.released (s : State) (q id : Nat) : Bool :=
  (s.queue q).work.all fun w => decide (id ≤ w.id) || w.done || w.writes.isEmpty

/-- Has every earlier instruction of the queue completed (R96)? -/
def State.drained (s : State) (q : Nat) : Bool := (s.queue q).work.all fun w => w.done

/-- Are the host copies of queue `q` up to number `id` flushed (R192)? -/
def State.flushed (s : State) (q id : Nat) : Bool := (s.queue q).copies.all fun c => decide (id < c.id)

/-- The flush reads of the copies up to number `id` that none has been issued for (R192). -/
def State.flush (s : State) (q id : Nat) : State :=
  let l := (s.queue q).copies.filter fun c => !c.flushing && decide (c.id ≤ id)
  let s := l.foldl (fun s c => s.emit (.flush q c.id c.addr)) s
  s.updQueue q fun x => { x with copies := x.copies.map fun c => if c.id ≤ id then { c with flushing := true } else c }

end Sys2Proof.Machine
end

