-- ==== Sys2Proof/Machine/Operands.lean ====
section
/-! DEFINITION. The operand forms: endpoints (R104), descriptor references (R103), spans (R140), the region table
(R138 to R141) and the ordered checks of R142 that every descriptor instruction shares. A check answers a value or the
fault that ends it, and the first failure decides. -/

namespace Sys2Proof.Machine

/-- The answer of a check: a value, or the fault of the first check that failed. -/
abbrev Chk (α : Type) := Except EFault α

/-- A check that fails with `c` unless `b`. -/
def need (b : Bool) (c : E) : Chk Unit := if b then .ok () else .error (.of c)

/-- A check that fails with E_DESC_BOUNDS of the given reason, side and address (R140, R151). -/
def needBounds (b : Bool) (reason side addr : Nat) : Chk Unit :=
  if b then .ok () else .error ⟨.descBounds, .bounds reason side addr⟩

/-- Every check of a list, in order. -/
def Chk.all {α : Type} (l : List α) (g : α → Chk Unit) : Chk Unit :=
  match l with
  | [] => .ok ()
  | x :: r => match g x with
    | .ok _ => Chk.all r g
    | .error e => .error e

/-! ### Endpoints (R104) -/

/-- An endpoint word taken apart: the space code; the thresher of a loft, or of the remote loft; the address; the
remote module and the remote space. -/
structure Ep where
  space : Nat
  thr : Nat
  addr : Nat
  mod : Nat
  rloft : Bool
  deriving DecidableEq, Repr

/-- The endpoint a 64-bit word names. -/
def Ep.ofWord (w : Nat) : Ep :=
  match bits w 62 2 with
  | 0 => ⟨0, 0, bits w 0 42, 0, false⟩
  | 1 => ⟨1, bits w 32 3, bits w 0 28, 0, false⟩
  | 2 => ⟨2, bits w 42 3, bits w 0 42, bits w 46 16, bit w 45⟩
  | _ => ⟨3, 0, bits w 0 62, 0, false⟩

/-- Are an endpoint word's reserved bits zero (R104)? -/
def epReservedOk (w : Nat) : Bool :=
  match bits w 62 2 with
  | 0 => bits w 42 20 == 0
  | 1 => bits w 28 4 == 0 && bits w 35 27 == 0
  | _ => true

/-- The `sub` of a span at an endpoint: the thresher of a loft; module, space and thresher of a remote place. -/
def Ep.sub (e : Ep) : Nat :=
  if e.space = 1 then e.thr
  else if e.space = 2 then e.mod * 16 + b2n e.rloft * 8 + (if e.rloft then e.thr else 0)
  else 0

/-- The endpoint word of an address in the place of a span. -/
def spanWord (space sub : Nat) (a : Int) : Nat :=
  let a := (a % 2 ^ 62).toNat
  if space = 1 then 2 ^ 62 + sub * 2 ^ 32 + a % 2 ^ 28
  else if space = 2 then 2 * 2 ^ 62 + (sub / 16) * 2 ^ 46 + bits sub 3 1 * 2 ^ 45 + bits sub 0 3 * 2 ^ 42 + a % 2 ^ 42
  else if space = 3 then 3 * 2 ^ 62 + a
  else a

/-! ### Spans (R140) -/

/-- One dimension of a span: count and stride move its lower or its upper end. -/
def spanDim (r : Int × Int) (c : Nat) (st : Int) : Int × Int :=
  if st < 0 then (r.1 + ((c : Int) - 1) * st, r.2) else (r.1, r.2 + ((c : Int) - 1) * st)

/-- The span of a transfer at one endpoint (R140); none where it is EMPTY. -/
def spanOf (space sub addr len : Nat) (dims : List (Nat × Int)) : Option Span :=
  if len = 0 ∨ (dims.any fun d => d.1 == 0) then none
  else
    let r := dims.foldl (fun r d => spanDim r d.1 d.2) ((addr : Int), (addr : Int) + len - 1)
    some ⟨space, sub, r.1, r.2⟩

/-- Do two spans meet (R144, R182)? -/
def Span.meets (a b : Span) : Bool :=
  a.space == b.space && a.sub == b.sub && decide (a.lo ≤ b.hi) && decide (b.lo ≤ a.hi)

/-- The lowest byte of a span, in endpoint form (R151). -/
def Span.word (a : Span) : Nat := spanWord a.space a.sub a.lo

/-! ### The region table (R138 to R140) -/

/-- The attributes of a region entry. -/
inductive Attr where
  | rd | wr | rrd | rwr
  deriving DecidableEq, Repr

/-- The field of an attribute. -/
def Attr.field : Attr → F
  | .rd => .LF_REGION_SIZE_RD
  | .wr => .LF_REGION_SIZE_WR
  | .rrd => .LF_REGION_SIZE_RRD
  | .rwr => .LF_REGION_SIZE_RWR

/-- The numbers of the valid entries, in ascending order. -/
def State.validRegions (s : State) : List Nat :=
  s.regs.filterMap fun e =>
    if e.1 % 512 = F.LF_REGION_SIZE_V.ctorIdx ∧ e.2 = 1 then some (e.1 / 512) else none

/-- Does entry `r` contain a span whole (R140)? -/
def State.regionHas (s : State) (x : Span) (r : Nat) : Bool :=
  let e := Ep.ofWord (s.rdi .LF_REGION_BASE_BASE r)
  e.space == x.space && (x.space != 1 || e.thr == x.sub) && decide ((e.addr : Int) ≤ x.lo) &&
    decide (x.hi ≤ (e.addr : Int) + s.rdi .LF_REGION_SIZE_SIZE r - 1)

/-- The outcome of the table for a span: 0 it passes, 2 no entry contains it, 3 none that does has the attribute. -/
def State.regionReason (s : State) (x : Span) (a : Attr) : Nat :=
  let l := s.validRegions.filter (s.regionHas x)
  if l.any fun r => s.flag a.field r then 0 else if l.isEmpty then 2 else 3

/-- The span check of R140 on one span; `side` as in LF_BOUNDS_LAST. A remote span is checked at its target (R141). -/
def State.checkSpan (s : State) (x : Option Span) (a : Attr) (side : Nat) : Chk Unit :=
  match x with
  | none => .ok ()
  | some x => if x.space = 2 then .ok () else needBounds (s.regionReason x a == 0) (s.regionReason x a) side x.word

/-! ### Availability (R158, R257) -/

/-- The stacks a range of module addresses touches (R154, R155). -/
def stacksOf (mode lo hi : Nat) : List Nat :=
  if mode = 0 then (List.range (hi / 2 ^ 37 - lo / 2 ^ 37 + 1)).map fun i => lo / 2 ^ 37 + i
  else (List.range (min 24 (hi / 4096 - lo / 4096 + 1))).map fun i => (hbmPlace mode (lo + i * 4096)).1

/-- The fault of a span on memory that is not there (item 11 of R142). -/
def State.checkThere (s : State) (x : Option Span) : Chk Unit :=
  match x with
  | none => .ok ()
  | some x =>
    if x.space = 0 then need ((stacksOf s.interleave x.lo.toNat x.hi.toNat).all fun k => s.online k) .stackOffline
    else if x.space = 1 then need (!s.domainOff (thrDomain x.sub)) .domainOff
    else .ok ()

/-! ### Versioned regions in the checks (R196, R204; item 10 of R142) -/

/-- Does a span meet the name range of a region? -/
def Vreg.meetsName (r : Vreg) (x : Span) : Bool :=
  r.space == x.space && (x.space == 0 || r.thr == x.sub) && decide ((r.a : Int) ≤ x.hi) &&
    decide (x.lo < (r.a : Int) + r.bytes)

/-- Does a span lie whole in the name ranges of regions (R204)? `n` bounds how often it is cut: each region found takes
the span's lowest bytes away. -/
def namesCover (rs : List Vreg) : Nat → Span → Bool
  | 0, _ => false
  | n + 1, x =>
    match rs.find? fun r => r.meetsName x && decide ((r.a : Int) ≤ x.lo) && decide (x.lo < (r.a : Int) + r.bytes) with
    | none => false
    | some r =>
      if x.hi < (r.a : Int) + r.bytes then true else namesCover rs n { x with lo := (r.a : Int) + r.bytes }

/-- Is a span versioned memory whole? -/
def allVersioned (rs : List Vreg) (x : Span) : Bool := namesCover rs (rs.length + 1) x

/-- Does a span meet the B copy of a region? -/
def Vreg.meetsBSpan (r : Vreg) (x : Span) : Bool :=
  (x.space == 0 || x.space == 1) && r.meetsB x.space (if x.space = 1 then x.sub else 0) x.lo.toNat x.hi.toNat

/-- The granules of a region that a span touches. -/
def Vreg.granulesOf (r : Vreg) (x : Span) : List Nat :=
  let z := granSize r.space
  let lo := (max x.lo r.a).toNat - r.a
  let hi := (min x.hi (r.a + r.bytes - 1)).toNat - r.a
  (List.range (hi / z - lo / z + 1)).map fun i => lo / z + i

/-- The part of a span that lies in a region's name range, at the B addresses (R196). -/
def Vreg.atB (r : Vreg) (x : Span) : Span :=
  { x with lo := max x.lo r.a - r.a + r.b, hi := min x.hi (r.a + r.bytes - 1) - r.a + r.b }

/-- One span of an instruction: whether it is written, its attribute, its side of LF_BOUNDS_LAST. -/
structure Use where
  span : Option Span
  write : Bool
  side : Nat
  deriving DecidableEq, Repr

/-- The attribute a use needs. -/
def Use.attr (u : Use) : Attr := if u.write then .wr else .rd

/-- Is a granule tagged with a live epoch? -/
def State.liveTag (s : State) (v g : Nat) : Bool :=
  match (s.granule v g).tag with
  | none => false
  | some e => s.live e

/-- The four rules of item 10 of R142, each over every span before the next. -/
def State.checkVersions (s : State) (bound : Option Nat) (us : List Use) : Chk Unit := do
  let rs := s.vregs
  if rs.isEmpty ∧ bound.isNone then .ok ()
  else
    let view := s.viewOf bound
    Chk.all us fun u => match u.span with
      | none => .ok ()
      | some x => need (!(rs.any fun r => r.meetsBSpan x)) .vregDirect
    Chk.all us fun u => match u.span with
      | none => .ok ()
      | some x => Chk.all (rs.filter fun r => !r.scratch && r.meetsName x) fun r =>
          s.checkSpan (some (r.atB x)) u.attr u.side
    Chk.all us fun u => match u.span, view with
      | some x, .live _ => need (!u.write || x.space == 2 || allVersioned rs x) .provEscape
      | _, _ => .ok ()
    Chk.all us fun u => match u.span, view with
      | some x, .unbound =>
        need ((rs.filter fun r => (u.write || r.scratch) && r.meetsName x).all fun r =>
          (r.granulesOf x).all fun g => !s.liveTag r.v g) .provView
      | _, _ => .ok ()

/-- Must a bound write wait for the closed epoch (R205)? -/
def State.heldBy205 (s : State) (bound : Option Nat) (us : List Use) : Bool :=
  s.flag .PS_STAT_CLOSED 0 && s.flag .PS_STAT_OPEN 0 && bound == some (s.rd .PS_EPOCH_OPEN_EPOCH) &&
    us.any fun u => u.write && match u.span with
      | none => false
      | some x => (s.vregs.filter fun r => r.meetsName x).any fun r => (r.granulesOf x).any fun g =>
          (s.granule r.v g).tag == some (s.rd .PS_EPOCH_CLOSED_EPOCH)

/-- Items 8 to 11 of R142 over an instruction's spans; `overlap` is item 9. -/
def State.checkUses (s : State) (bound : Option Nat) (us : List Use) (overlap : Chk Unit) : Chk Unit := do
  Chk.all us fun u => s.checkSpan u.span u.attr u.side
  overlap
  s.checkVersions bound us
  Chk.all us fun u => s.checkThere u.span

/-- The spans of uses that are read, or written. -/
def usesSpans (write : Bool) (us : List Use) : List Span :=
  us.filterMap fun u => if u.write = write then u.span else none

/-- Does an instruction with these spans conflict with an earlier one of its queue still in progress (R182)? Two
instructions of one partition's channels do not (R183). -/
def conflicts (l : List Work) (reads writes : List Span) (part : Option Nat) : Bool :=
  l.any fun w => !w.done && !(w.kind == .pass && part == some w.part) &&
    ((writes.any fun x => (w.reads.any x.meets) || (w.writes.any x.meets)) || reads.any fun x => w.writes.any x.meets)

/-- Does a span touch a stack that a safe clock holds in self-refresh, at its name or at its B addresses (R283, R292)? -/
def State.sleeps (s : State) (x : Span) : Bool :=
  !s.gran.asleep.isEmpty && x.space == 0 &&
    (x :: ((s.vregs.filter fun r => !r.scratch && r.meetsName x).map fun r => r.atB x)).any fun y =>
      (stacksOf s.interleave y.lo.toNat y.hi.toNat).any s.gran.asleep.contains

/-- Must an instruction of queue `q` with these spans wait at issue: for an earlier one it conflicts with (R182), or
for memory that a safe clock holds in self-refresh (R292)? -/
def State.mustStall (s : State) (q : Nat) (reads writes : List Span) (part : Option Nat) : Bool :=
  conflicts (s.queue q).work reads writes part || (reads ++ writes).any s.sleeps

/-! ### Descriptor references (R103) -/

/-- The flat index of R103 over levels `IDX` down to 0 of the enclosing loops, outermost of the selected first. -/
def flatIndex : List LoopLevel → Nat
  | [] => 0
  | l :: r => flatIndex r * l.count + l.index

/-- The effective descriptor address (R103). -/
def effective (ls : List LoopLevel) (x : Nat) : Chk Nat :=
  if bits x 46 1 = 0 then .ok (bits x 0 42)
  else if ls.length < bits x 44 2 + 1 then .error (.of .loopDepth)
  else .ok (bits x 0 42 + flatIndex (ls.take (bits x 44 2 + 1)) * bits x 48 16 * 64)

/-- A descriptor as its instruction finds it: the effective address, the space it was read from, its 64 bytes as one
number, the span of its read. -/
structure Desc where
  addr : Nat
  space : Nat
  word : Nat
  span : Span
  deriving DecidableEq, Repr

/-- Items 1 and 2 of R142: the descriptor's alignment and the span of its read, which must be there to be read. -/
def State.descAt (s : State) (q : Nat) (i : Ins) : Chk Span := do
  need (bits i.operand 0 6 == 0) .descAlign
  let a ← effective (s.queue q).loops i.operand
  let space := bits i.operand 42 1
  let x : Span := ⟨space, if space = 1 then qThr q else 0, a, (a : Int) + 63⟩
  needBounds (s.regionReason x .rd == 0) 1 3 x.word
  s.checkThere (some x)
  .ok x

/-- A descriptor instruction's work on its descriptor, items 1 to 3 of R142 before it. The descriptor is read as every
earlier instruction of the queue that writes it leaves it (R182). -/
def withDesc (q : Nat) (i : Ins) (s : State) (k : Desc → State → State) : State :=
  match s.descAt q i with
  | .error f => s.engineFault q f i.pc
  | .ok x =>
    if s.mustStall q [x] [] none then s
    else
      let view := s.viewOf (s.bindEpoch i)
      let s := s.senseAt view x.space x.sub x.lo.toNat 64
      let l := s.readAt view x.space x.sub x.lo.toNat 64
      if anyBad l then s.engineFault q (.of .poison) i.pc else k ⟨x.lo.toNat, x.space, pNat l, x⟩ s

/-- The descriptor read among an instruction's uses. -/
def Desc.use (d : Desc) : Use := ⟨some d.span, false, 3⟩

/-- The `n`-byte field at byte offset `o` of a descriptor. -/
def fld (w o n : Nat) : Nat := bits w (8 * o) (8 * n)

/-- A signed 32-bit field at byte offset `o`. -/
def sfld (w o : Nat) : Int := signed 32 (fld w o 4)

end Sys2Proof.Machine
end

