-- ==== Sys2Proof/Machine/Control.lean ====
section
/-! DEFINITION. The common control instructions (R102): NOP, END, SYNC, NOTIFY, LOOP, BR, BRC, LDC, LAUNCH; host events
(R325, R326); starting, stopping, clearing and fetching a queue (R109 to R114); completion, signal release and flush
reads (R96, R192). -/

namespace Sys2Proof.Machine

/-! ### Host events (R325, R326) -/

/-- Is the event ring full (R326)? -/
def State.ringFull (s : State) : Bool :=
  (s.rd .HI_EVT_TAIL_TAIL + 2 ^ 32 - s.rd .HI_EVT_HEAD_HEAD) % 2 ^ 32 == 2 ^ s.rd .HI_EVT_CFG_LOG2N

/-- An event record written to the ring, TAIL advanced, and vector 8 + q sent behind it (R325). -/
def State.writeEvent (s : State) (e : EvtRec) : State :=
  let n := s.rd .HI_EVT_TAIL_TAIL
  let k := s.rd .HI_EVT_CFG_LOG2N
  let w0 := e.code + e.queue * 2 ^ 16 + e.kind * 2 ^ 22 + (n / 2 ^ k % 2) * 2 ^ 23
  let a := s.rd .HI_EVT_BASE_BASE + (n % 2 ^ k) * 16
  ((s.emit (.write a (leBytes 4 w0 ++ leBytes 4 n ++ leBytes 8 e.time) false)).wr .HI_EVT_TAIL_TAIL (n + 1)).msix
    (8 + e.queue)

/-- Can the ring take an event at once: enabled, link up, not full, nothing held before it (R326)? -/
def State.eventReady (s : State) : Bool := s.host.linkUp && !s.ringFull && s.host.held.isEmpty

/-- Must an instruction that would post an event stall, the holding buffer being full (R326)? -/
def State.eventStall (s : State) : Bool :=
  s.flag .HI_EVT_CFG_EN 0 && !s.eventReady && decide (256 ≤ s.host.held.length)

/-- A host event posted: discarded and counted while EN is 0, else written to the ring or held (R326). The second
value says whether it is held. -/
def State.postEvent (s : State) (q code kind id : Nat) : State × Bool :=
  if s.flag .HI_EVT_CFG_EN 0 then
    let e : EvtRec := ⟨q, code, kind, s.aoCycles, id⟩
    if s.eventReady then (s.writeEvent e, false)
    else ({ s with host := { s.host with held := s.host.held ++ [e] } }, true)
  else (s.addSat .HI_EVT_DROP_COUNT 0 1, false)

/-! ### Signals and the end of an instruction -/

/-- Is an instruction's epoch squashed (R202)? -/
def State.lostEpoch (s : State) (bound : Option Nat) : Bool :=
  match bound with
  | none => false
  | some e => s.squashed e

/-- A signal field acts (R96, R126, R202): dropped for a squashed epoch, a fault for a tally freed meanwhile or on a
faulted bay. -/
def State.actSignal (s : State) (q : Nat) (w : Work) : State :=
  if w.sigIdx = 0xFFFF ∨ s.lostEpoch w.bound then s
  else if s.bayFaulted (tallyBay w.sigIdx) ∧ tallyBay w.sigIdx ≠ qBay q then s.engineFault q (.of .bayFault) w.pc
  else if s.allocated w.sigIdx then (if w.sigCnt = 0 then s else s.signal w.sigIdx w.sigCnt)
  else s.engineFault q ⟨.tallyMisuse, .misuse w.sigIdx 2⟩ w.pc

/-- A queue's buffer, loops and head wait dropped (R114). -/
def State.discard (s : State) (q : Nat) : State :=
  s.updQueue q fun x =>
    { x with buf := [], next := none, loops := [], wait := none, taken := false, brcStop := false, skipping := false,
             held := false }

/-- The END that queue `q` has issued completes, when every earlier instruction has (R114). Under HOSTFENCE the flush
reads then go out, and it waits for them (R192). It signals, the queue enters IDLE, also where it was stopping, and with
NOTIFY a host event is posted. -/
def State.settleEnd (s : State) (q : Nat) : State :=
  match (s.queue q).ending with
  | none => s
  | some w =>
    if s.drained q && w.hostFence && !s.flushed q w.id then s.flush q w.id
    else if s.drained q then
      let s := ((s.actSignal q w).discard q).updQueue q fun x => { x with ending := none }
      if s.qState q = 5 then s
      else
        let s := (s.setQState q 0).wri .EN_Q_CTL_STOP q 0
        if bit w.desc 0 then (s.postEvent q (bits w.desc 16 16) 1 w.id).1 else s
    else s

/-- NOP (R102). -/
def execNop (q : Fin 52) (s : State) : Host.Outcome State Fault Refusal :=
  .next (issue q 0x00 s fun i s => s.retire q i)

/-- END (R114): issues, and ends the stream once every earlier instruction has completed. -/
def execEndStream (q : Fin 52) (s : State) : Host.Outcome State Fault Refusal :=
  .next (issue q 0x01 s fun i s =>
    if bit i.operand 0 && s.eventStall then s
    else
      let w := { newWork (s.queue q) i .plain none with desc := i.operand }
      ((s.countIssue q).updQueue q fun x => { x with ending := some w, nextId := x.nextId + 1 }).settleEnd q)

/-- SYNC (R96): issues only once every earlier instruction of the queue has completed. -/
def execSync (q : Fin 52) (s : State) : Host.Outcome State Fault Refusal :=
  .next (issue q 0x02 s fun i s => if s.drained q then s.retire q i else s)

/-- Are the earlier writes of the head released, and under HOSTFENCE visible to host-bus observers (R122, R192)? -/
def State.fenceDone (s : State) (q : Nat) (i : Ins) : Bool :=
  s.released q (s.queue q).nextId && (!i.hostFence || s.flushed q (s.queue q).nextId)

/-- The stall of an instruction whose release is not done: under HOSTFENCE its flush reads go out (R192). -/
def State.fenceWait (s : State) (q : Nat) (i : Ins) : State :=
  if i.hostFence && s.released q (s.queue q).nextId then s.flush q (s.queue q).nextId else s

/-- NOTIFY (R192, R326): its event leaves once the queue's earlier writes are at their points of coherence; it
completes when the record is in the ring. -/
def execNotify (q : Fin 52) (s : State) : Host.Outcome State Fault Refusal :=
  .next (issue q 0x03 s fun i s =>
    if !s.fenceDone q i then s.fenceWait q i
    else if s.eventStall then s
    else
      let id := (s.queue q).nextId
      match s.postEvent q (bits i.operand 0 16) 0 id with
      | (s, false) => s.retire q i
      | (s, true) => s.goOn q i (newWork (s.queue q) i .notify (s.bindEpoch i)))

/-- LOOP (R112). -/
def execLoop (q : Fin 52) (s : State) : Host.Outcome State Fault Refusal :=
  .next (issue q 0x04 s fun i s =>
    let start := i.pc + 16
    let stop := start + 16 * bits i.operand 32 13
    let ls := (s.queue q).loops
    if 4 ≤ ls.length then s.engineFault q (.of .loopDepth) i.pc
    else if (ls.head?.any fun l => decide (l.stop < stop)) then s.engineFault q (.of .loopNest) i.pc
    else if bits i.operand 0 24 = 0 then (s.passBy q start stop).retireTo q i stop
    else
      (s.retireTo q i start).updQueue q fun x =>
        { x with loops := ⟨start, stop, bits i.operand 0 24, 0⟩ :: x.loops })

/-- The address a branch names (R113), in the 42 bits of the PC. -/
def branchTarget (i : Ins) : Nat := (((i.pc : Int) + 16 * signed 32 (bits i.operand 0 32)) % 2 ^ 42).toNat

/-- Does a branch target break the loop rule of R113? -/
def branchBad (ls : List LoopLevel) (a : Nat) : Bool :=
  match ls with
  | [] => false
  | l :: _ => decide (a < l.start) || decide (l.stop ≤ a)

/-- The head branches to address `a`: the fetcher goes on there when the buffer does not hold it (R111, R113). -/
def State.branchTo (s : State) (q : Nat) (i : Ins) (a : Nat) : State :=
  let s := s.retireTo q i a
  s.updQueue q fun x => if (x.buf.any fun e => e.1 == a) then x else { x with next := some a }

/-- BR (R113). -/
def execBr (q : Fin 52) (s : State) : Host.Outcome State Fault Refusal :=
  .next (issue q 0x05 s fun i s =>
    if branchBad (s.queue q).loops (branchTarget i) then s.engineFault q (.of .branchLoop) i.pc
    else s.branchTo q i (branchTarget i))

/-- The condition of a BRC (R113). -/
def brcTaken (cond imm cr : Nat) : Bool :=
  match cond with
  | 0 => cr == imm
  | 1 => cr != imm
  | 2 => decide (cr < imm)
  | 3 => decide (imm ≤ cr)
  | 4 => Nat.land cr imm != 0
  | _ => Nat.land cr imm == 0

/-- BRC (R113). LDC and TL.READ complete in the step that issues them, so it resolves when it issues. -/
def execBrc (q : Fin 52) (s : State) : Host.Outcome State Fault Refusal :=
  .next (issue q 0x06 s fun i s =>
    let taken := brcTaken (bits i.operand 32 3) (bits i.operand 40 24) (s.rdi .EN_Q_CR_CR q)
    let a := if taken then branchTarget i else i.pc + 16
    if taken && branchBad (s.queue q).loops a then s.engineFault q (.of .branchLoop) i.pc
    else
      ((s.updQueue q fun x => { x with brcStop := false }).setQState q 1).branchTo q i a)

/-- LDC (R102, R135): 8 B from HBM or the unit's loft into CR; poisoned data faults. -/
def execLdc (q : Fin 52) (s : State) : Host.Outcome State Fault Refusal :=
  .next (issue q 0x07 s fun i s =>
    let a := bits i.operand 0 42
    let space := bits i.operand 42 1
    let t := if space = 1 then qThr q else 0
    let x : Span := ⟨space, t, a, (a : Int) + 7⟩
    match s.checkUses (s.bindEpoch i) [⟨some x, false, 0⟩] (.ok ()) with
    | .error f => s.engineFault q f i.pc
    | .ok _ =>
      if s.mustStall q [x] [] none then s
      else
        let view := s.viewOf (s.bindEpoch i)
        let s := s.senseAt view space t a 8
        let s := if i.vol then s.orderPoint q else s
        let l := s.readAt view space t a 8
        if anyBad l then ((s.countIssue q).advance q (i.pc + 16)).engineFault q (.of .poison) i.pc
        else (s.wri .EN_Q_CR_CR q (pNat l)).retire q i)

/-! ### Starting a queue (R109, R110, R301) -/

/-- Do the thresher, bay and module of queue `q` accept starts (R175, R257, R301, R303, R307, R308)? -/
def State.acceptsStart (s : State) (q : Nat) : Bool :=
  !s.fatal && !s.bayFaulted (qBay q) && !s.domainOff (coreDomain (qBay q)) &&
    (if q < 48 then s.bitOf .ER_BRINGUP_BIST_PASS (q / 6) && !s.domainOff (thrDomain (q / 6))
     else (List.range 6).all fun k => s.rdi .GN_STACK_STAT_STATE (6 * qBay q + k) == 2)

/-- May queue `q` start at `off` of its region (R110)? -/
def State.canStart (s : State) (q off : Nat) : Bool :=
  s.qState q == 0 && off % 16 == 0 && decide (off < s.rdi .EN_Q_PRG_SIZE_SIZE q) &&
    decide (s.rdi .EN_Q_PRG_BASE_BASE q + s.rdi .EN_Q_PRG_SIZE_SIZE q ≤ Config.hbmBytes) && s.acceptsStart q

/-- Queue `q` enters RUN at `off` of its region: CR zeroed, the fetcher at its first instruction (R110, R111). -/
def State.start (s : State) (q off : Nat) : State :=
  let pc := s.rdi .EN_Q_PRG_BASE_BASE q + off
  ((((s.discard q).updQueue q fun x => { x with next := some pc }).wri .EN_Q_PC_PC q pc).wri .EN_Q_CR_CR q 0).setQState
    q 1

/-- A start of queue `q`, or its refusal (R110). -/
def State.tryStart (s : State) (q off : Nat) (valueOk : Bool) : State :=
  if valueOk && s.canStart q off then s.start q off else s.wri .EN_Q_STAT_DB_REFUSED q 1

/-- LAUNCH (R102): starts another engine of the thresher, or faults the sequencer. -/
def execLaunch (t : Fin 8) (s : State) : Host.Outcome State Fault Refusal :=
  .next (issue (thrQ t 0) 0x20 s fun i s =>
    let q' := thrQ t (bits i.operand 0 4)
    let off := bits i.operand 32 32
    if s.canStart q' off then (s.start q' off).retire (thrQ t 0) i
    else (s.wri .EN_Q_STAT_DB_REFUSED q' 1).engineFault (thrQ t 0) (.of .launchBusy) i.pc)

/-- A doorbell's value takes effect on queue `q` (R110). -/
def State.ringDoorbell (s : State) (q value : Nat) : State :=
  s.tryStart q (bits value 0 32) (bits value 32 32 == 0)

/-- A group doorbell's value takes effect. -/
def State.ringGroup (s : State) (value : Nat) : State :=
  (List.range 52).foldl (fun s q => if bit value q then s.tryStart q 0 (bits value 52 12 == 0) else s) s

/-- A queue doorbell (R110): an aligned 8-byte write. It acts behind window writes that wait (R191). -/
def execQueueDoorbell (q : Fin 52) (value : Nat) (s : State) : Host.Outcome State Fault Refusal :=
  if value < 2 ^ 64 then
    .next (s.byHost fun s =>
      let s := s.leaveIdle
      if s.writesHeld then s.holdAccess (.doorbell q value) else s.ringDoorbell q value)
  else .refused .illFormed

/-- The group doorbell (R110). -/
def execGroupDoorbell (value : Nat) (s : State) : Host.Outcome State Fault Refusal :=
  if value < 2 ^ 64 then
    .next (s.byHost fun s =>
      let s := s.leaveIdle
      if s.writesHeld then s.holdAccess (.group value) else s.ringGroup value)
  else .refused .illFormed

/-! ### Stop, clear, fetch (R111, R114) -/

/-- EN_Q_CTL[q].STOP (R114). -/
def execQueueStop (q : Fin 52) (s : State) : Host.Outcome State Fault Refusal :=
  .next (s.byHost fun s =>
    if s.qState q = 1 ∨ s.qState q = 2 ∨ s.qState q = 3 then
      (((s.leaveWait q).discard q).setQState q 4).wri .EN_Q_CTL_STOP q 1
    else s)

/-- EN_Q_CTL[q].CLEAR (R114, R309). The queue enters IDLE once everything in progress has completed. -/
def execQueueClear (q : Fin 52) (s : State) : Host.Outcome State Fault Refusal :=
  .next (s.byHost fun s =>
    if s.qState q = 5 ∧ ¬ s.bayFaulted (qBay q) ∧ ¬ s.fatal then
      ((s.discard q).wri .EN_Q_STAT_CODE q 0).wri .EN_Q_CTL_CLEAR q 1
    else s)

/-- A stopping or cleared queue enters IDLE once everything in progress has completed (R114). -/
def execQueueQuiesced (q : Fin 52) (s : State) : Host.Outcome State Fault Refusal :=
  if s.drained q ∧ (s.queue q).ending.isNone ∧ (s.qState q = 4 ∨ s.qState q = 5 ∧ s.flag .EN_Q_CTL_CLEAR q) then
    .next (((s.setQState q 0).wri .EN_Q_CTL_STOP q 0).wri .EN_Q_CTL_CLEAR q 0)
  else .next s

/-- The instructions of a fetched sector that go into the buffer: in ascending order, to the first END, BR or BRC, and
not past the region (R111). -/
def takeFetched (limit : Nat) : List (Nat × Slot) → List (Nat × Slot)
  | [] => []
  | (a, x) :: r =>
    if limit < a + 16 then []
    else
      let o := bits x.word 120 8
      if o = 0x01 ∨ o = 0x05 ∨ o = 0x06 then [(a, x)] else (a, x) :: takeFetched limit r

/-- Where the fetcher goes on behind its last instruction (R111). -/
def fetchNext (l : List (Nat × Slot)) : Option Nat :=
  match l.getLast? with
  | none => none
  | some (a, x) =>
    let o := bits x.word 120 8
    if o = 0x01 ∨ o = 0x06 then none
    else if o = 0x05 then some (branchTarget (Ins.ofWord a x.word))
    else some (a + 16)

/-- The instructions of the sector that holds address `a`, from `a` up. A stack that is not online delivers poison. -/
def State.sectorSlots (s : State) (a : Nat) : List (Nat × Slot) :=
  let sec := a / 64 * 64
  let bad := !s.online (hbmPlace s.interleave sec).1
  (List.range ((sec + 64 - a) / 16)).map fun k =>
    let l := s.readAt .unbound 0 0 (a + 16 * k) 16
    (a + 16 * k, ⟨pNat l, bad || anyBad l⟩)

/-- The fetcher of queue `q` reads the next sector when there is room (R111). -/
def execFetch (q : Fin 52) (s : State) : Host.Outcome State Fault Refusal :=
  let x := s.queue q
  let pc := s.rdi .EN_Q_PC_PC q
  let at? := if (x.buf.any fun e => e.1 == pc) then x.next else if x.brcStop then none else some pc
  let base := s.rdi .EN_Q_PRG_BASE_BASE q
  let limit := base + s.rdi .EN_Q_PRG_SIZE_SIZE q
  match at? with
  | none => .next s
  | some a =>
    if s.sleeps ⟨0, 0, (a / 64 * 64 : Nat), (a / 64 * 64 + 63 : Nat)⟩ then .next s
    else if (s.qState q = 1 ∨ s.qState q = 2) ∧ base ≤ a ∧ a + 16 ≤ limit ∧ x.buf.length < Config.queueDepth then
      let s := s.senseAt .unbound 0 0 (a / 64 * 64) 64
      let l := (takeFetched limit (s.sectorSlots a)).take (Config.queueDepth - x.buf.length)
      let brc := (l.getLast?.any fun e => bits e.2.word 120 8 == 0x06)
      let s := s.updQueue q fun x =>
        { x with buf := l.foldl (fun b e => if b.any fun y => y.1 == e.1 then b else Tbl.put b e.1 e.2) x.buf,
                 next := fetchNext l, brcStop := brc }
      .next (if s.qState q = 1 then s.setQState q (s.runState q) else s)
    else .next s

/-! ### Completion and release (R96, R97, R192) -/

/-- May instruction `w` complete now: all it waits for is there, and a vector instruction follows those before it
(R97)? -/
def State.mayComplete (s : State) (q : Nat) (w : Work) : Bool :=
  w.ready && !w.done && w.tags.isEmpty && w.packs.isEmpty && (s.net.tagWait.all fun x => !(x.queue == q && x.id == w.id)) &&
    (w.kind == .copy || w.kind == .pass || w.kind == .dead || w.kind == .gather || w.kind == .rscat || w.kind == .health ||
      (w.kind == .vector && (s.queue q).work.all fun y => decide (w.id ≤ y.id) || y.done || y.kind != .vector))

/-- A WN.GATHER may complete once its last shard has landed (R229). -/
def Work.landed (w : Work) : Work :=
  if w.kind = .gather then { w with ready := w.coll.any fun c => decide (bits w.desc 224 17 ≤ c.delivered) } else w

/-- A WN.GATHER that has signalled the shards that have landed; one that has completed and has no signal of its own left
is forgotten. -/
def Work.signalled (w : Work) : Option Work :=
  let w : Work := { w with coll := w.coll.map fun (c : Coll) => { c with signalled := c.delivered } }
  if w.done then (if w.sigIdx = 0xFFFF then none else some { w with kind := .plain }) else some w

/-- The signals of a WN.GATHER for the shards that have landed, in order (R229): each acts once the queue's earlier
writes are at their points of coherence. -/
def State.progGo (s : State) (q : Nat) (w : Work) : State :=
  match w.coll with
  | none => s
  | some c =>
    if w.kind = .gather then
      let s := s.updQueue q fun x => { x with work := x.work.map fun y => if y.id = w.id then y.landed else y }
      if bits w.desc 208 16 ≠ 0xFFFF ∧ s.released q w.id then
        let s := s.updQueue q fun x => { x with work := x.work.filterMap fun y => if y.id = w.id then y.signalled else some y }
        (List.range (c.delivered - c.signalled)).foldl
          (fun s _ => s.actSignal q { w with sigIdx := bits w.desc 208 16, sigCnt := 1 }) s
      else s
    else s

/-- Every gather of queue `q` signals what it can. -/
def State.progAll (s : State) (q : Nat) : State := (s.queue q).work.foldl (fun s w => s.progGo q w) s

/-- Does the end of an instruction end a volatile read (R100, R186, R187): a copy with VOL that reads a source? -/
def Work.volRead (w : Work) : Bool := w.vol && w.kind == .copy && !w.reads.isEmpty

/-- An instruction in progress completes and becomes free to signal (R96). A volatile read and a remote write end in an
ordering point (R186). -/
def execInstructionCompletion (q : Fin 52) (id : Nat) (s : State) : Host.Outcome State Fault Refusal :=
  match (s.queue q).work.find? fun w => w.id == id with
  | none => .next s
  | some w =>
    if s.mayComplete q w then
      let s := s.complete q id
      let s := if w.volRead || (w.writes.any fun x => x.space == 2) then s.orderPoint q else s
      .next ((s.progAll q).settleEnd q)
    else .next s

/-- A signal field acts once the queue's earlier writes are at their points of coherence, and under HOSTFENCE visible
to host-bus observers (R96, R192). -/
def execSignalRelease (q : Fin 52) (id : Nat) (s : State) : Host.Outcome State Fault Refusal :=
  match (s.queue q).work.find? fun w => w.id == id with
  | none => .next s
  | some w =>
    if w.done ∧ s.released q id then
      if w.hostFence ∧ ¬ s.flushed q id then .next (s.flush q id)
      else
        .next ((((s.progGo q w).updQueue q fun x => { x with work := x.work.filter fun y => y.id != id }).actSignal q w))
    else .next s

/-- A failed or missing flush read (R192): the engine faults, and no signal that waits for it is given. -/
def State.flushFail (s : State) (q copy : Nat) : State :=
  match (s.queue q).copies.find? fun c => c.id == copy && c.flushing with
  | none => s
  | some _ =>
    let pc := match (s.queue q).work.find? fun w => w.hostFence && decide (copy ≤ w.id) with
      | some w => w.pc
      | none => match (s.queue q).ending with
        | some w => w.pc
        | none => s.rdi .EN_Q_PC_PC q
    let s := s.updQueue q fun x =>
      { x with copies := x.copies.filter fun c => c.id != copy,
               work := (x.work.filter fun w => !(w.done && w.hostFence && decide (copy ≤ w.id))).map fun w =>
                 if w.hostFence ∧ copy ≤ w.id then { w with sigIdx := 0xFFFF } else w }
    s.engineFault q (.of .hostfence) pc

/-- A flush read returns (R192). -/
def execFlushCompletion (q : Fin 52) (copy : Nat) (ok : Bool) (s : State) : Host.Outcome State Fault Refusal :=
  if ok then
    .next ((s.updQueue q fun x =>
      { x with copies := x.copies.filter fun c => !(c.id == copy && c.flushing) }).settleEnd q)
  else .next (s.flushFail q copy)

/-- A flush read has had no completion for 50 ms (R192). -/
def execFlushTimeout (q : Fin 52) (copy : Nat) (s : State) : Host.Outcome State Fault Refusal :=
  .next (s.flushFail q copy)

end Sys2Proof.Machine
end

