-- ==== Sys2Proof/Machine/Digest.lean ====
section
/-! DEFINITION. The collective digests (R225 to R227): the CRC-64 and the folding of bytes into the record of a peer; the
descriptor of a reduce-scatter and its status record (R214, R223). -/

namespace Sys2Proof.Machine

/-- One bit of the ECMA-182 CRC-64, most significant first (R226). -/
def crc64Bit (c : Nat) : Nat :=
  if bit c 63 then Nat.xor (c * 2 % 2 ^ 64) 0x42F0E1EBA9EA3693 else c * 2

/-- One byte of it. -/
def crc64Byte (c : Nat) (b : Byte) : Nat :=
  crc64Bit (crc64Bit (crc64Bit (crc64Bit (crc64Bit (crc64Bit (crc64Bit (crc64Bit (Nat.xor c (b.toNat * 2 ^ 56)))))))))

/-- The CRC of a byte string continued from `c` (R226). -/
def crc64 (c : Nat) (l : List Byte) : Nat := l.foldl crc64Byte c

/-- The address of the digest record of a peer in a set (R225). -/
def State.digestAt (s : State) (set peer : Nat) : Nat := s.rd .WN_DIG_BASE_BASE + set * 2 ^ 21 + peer * 32

/-! ### Ranks (R212, R213) -/

/-- The module of rank `r` modulo the number of ranks. -/
def State.rankId (s : State) (r : Nat) : Nat := s.net.ranks.getD (r % s.net.ranks.length) 0

/-- This module's successor in the rank list (R213). -/
def State.succId (s : State) : Nat := s.rankId (s.net.rankSelf + 1)

/-- This module's predecessor. -/
def State.predId (s : State) : Nat := s.rankId (s.net.rankSelf + s.net.ranks.length - 1)

/-! ### Folding (R225, R227) -/

/-- Does an instruction in progress still fold what it reads, or its partials, into the record of a peer in a set? -/
def State.workFolds (s : State) (w : Work) (set peer : Nat) : Bool :=
  !w.ready &&
    match w.kind with
    | .copy =>
      let e := Ep.ofWord (fld w.desc 0 8)
      bit w.desc 248 && bits w.desc 249 3 == set && !w.pieces.isEmpty && e.space == 2 && e.mod == peer
    | .gather =>
      bit w.desc 168 && bits w.desc 169 3 == set &&
        (List.range (bits w.desc 224 17)).any fun k => s.rankId (s.net.rankSelf + fld w.desc 24 2 + k) == peer
    | .rscat => bit w.desc 166 && bits w.desc 167 3 == set && (s.succId == peer || s.predId == peer)
    | _ => false

/-- Who has bytes folded: an instruction of this module, the reduce-scatters of a SEQ, or a queue of the peer. -/
inductive Folder where
  | own (queue id : Nat) | rscat | peer (queue : Nat)
  deriving DecidableEq, Repr

/-- The number of a folder in a record's list. -/
def Folder.code : Folder → Nat
  | .peer q => q
  | _ => Config.queues

/-- Does an instruction of this module other than `who` fold into the record of a peer in a set at this time: with
writes not yet acknowledged (WR is OP 0), or in progress (R227)? -/
def State.foldsElsewhere (s : State) (who : Folder) (set peer : Nat) : Bool :=
  (s.net.txns.any fun e => e.2.op == 0 && e.2.digest == some set && e.2.dst == peer && who != .own e.2.queue e.2.id) ||
    (s.net.tagWait.any fun x =>
      x.out.op == 0 && x.out.f.digest && x.out.f.dset == set && x.out.f.dst == peer && who != .own x.queue x.id) ||
    (List.range Config.queues).any fun q => (s.queue q).work.any fun w => who != .own q w.id && s.workFolds w set peer

/-- May an instruction of the peer whose frames come from queue `q` have been folding when others did: bytes of its
queue were folded, and then others', whose are in `l`, the latest first? A frame does not say where its instruction
began. -/
def cameBack (who : Folder) (l : List Nat) : Bool :=
  match who with
  | .peer q => l.contains q && l.head? != some q
  | _ => false

/-- Bytes sent to (`recv` false) or received from a peer folded into its record of a set, where the set folds (R225 to
R227), on behalf of `who`. While another instruction folds into the record its CRC-64 is undefined, a free value; the
counts are exact. -/
def State.foldDigest (s : State) (who : Folder) (set peer : Nat) (recv : Bool) (l : List Byte) : State :=
  if l.isEmpty || !s.bitOf .WN_DIG_CFG_EN set then s
  else
    let a := s.digestAt set peer
    let o := if recv then 8 else 0
    let s := s.senseAt .unbound 0 0 a 32
    let c := pNat (s.readAt .unbound 0 0 (a + o) 8)
    let n := pNat (s.readAt .unbound 0 0 (a + 16 + o) 8)
    let h := if pNat (s.readAt .unbound 0 0 (a + 16) 16) = 0 then [] else Tbl.get [] s.net.folders (set * 65536 + peer)
    let r := if cameBack who h || s.foldsElsewhere who set peer then s.takeFree else (crc64 c l, s)
    let s := (r.2.writeAt .unbound 0 0 (a + o) (clean (leBytes 8 r.1))).writeAt .unbound 0 0 (a + 16 + o)
      (clean (leBytes 8 (n + l.length)))
    { s with net := { s.net with folders := Tbl.put s.net.folders (set * 65536 + peer) (who.code :: h.filter (· != who.code)) } }

/-- The fold of an optional set. -/
def State.foldIn (s : State) (who : Folder) (set : Option Nat) (peer : Nat) (recv : Bool) (l : List Byte) : State :=
  match set with
  | none => s
  | some d => s.foldDigest who d peer recv l

/-! ### The status record of a reduce-scatter (R214, R223) -/

/-- The fields of a reduce-scatter descriptor. -/
structure RscatDesc where
  src : Nat
  dst : Nat
  s : Nat
  mask : Nat
  ringN : Nat
  digest : Bool
  dset : Nat
  seq : Nat
  escMap : Nat
  nextExp : Nat
  status : Nat
  deriving DecidableEq, Repr

/-- The fields of its 64 bytes. -/
def RscatDesc.ofWord (w : Nat) : RscatDesc :=
  { src := fld w 0 8, dst := fld w 8 8, s := fld w 16 4, mask := bits w 160 4, ringN := bits w 164 2, digest := bit w 166,
    dset := bits w 167 3, seq := bits w 176 16, escMap := fld w 24 8, nextExp := fld w 32 8, status := fld w 40 8 }

/-- A write of a collective at an endpoint word. -/
def State.collWrite (s : State) (w : Work) (word off : Nat) (l : List Byte) : State :=
  let e := Ep.ofWord word
  s.writeAt (s.viewOf w.bound) e.space e.thr (e.addr + off) (clean l)

/-- The status record of a reduce-scatter written with a code (R223). R223 lists the codes of R221, R215 and R224; another
fault leaves its own (DEDUCED, assumption log entry 86). -/
def State.writeStatus (s : State) (w : Work) (code : Nat) : State :=
  let c := w.coll.getD (Coll.fresh 0)
  let d := RscatDesc.ofWord w.desc
  let sat (n : Nat) : List Byte := leBytes 4 (min n (2 ^ 32 - 1))
  s.collWrite w d.status 0 (leBytes 2 d.seq ++ leBytes 2 code ++ sat c.escBlocks ++ sat c.satBlocks ++ sat c.poisonBlocks ++
    sat c.addsEsc ++ leBytes 12 0)

end Sys2Proof.Machine
end

