-- ==== Sys2Proof/Machine/Net.lean ====
section
/-! DEFINITION. Putting frames on links: tags (R245), routes (R249, R250), channels and credits (R242, R244), sequence
numbers (R240, R246). -/

namespace Sys2Proof.Machine

/-- OP codes of R242. -/
def opWr : Nat := 0
/-- OP of a read request. -/
def opRdReq : Nat := 1
/-- OP of a read completion. -/
def opRdCpl : Nat := 2
/-- OP of an acknowledgement of WR frames. -/
def opAck : Nat := 3
/-- OP of a remote signal. -/
def opTlSig : Nat := 4
/-- OP of its acceptance. -/
def opTlAck : Nat := 5
/-- OP of a ring partial. -/
def opRing : Nat := 6
/-- OP of its acknowledgement. -/
def opRingAck : Nat := 7
/-- OP of a health round. -/
def opHealth : Nat := 8
/-- OP of a refusal. -/
def opRefuse : Nat := 9

/-- The channel an OP travels on outside the escape channel: 0 completion, 1 write, 2 request, 3 tally/control (R242). -/
def opChannel (op : Nat) : Nat :=
  if op = opWr ∨ op = opRing then 1
  else if op = opRdReq then 2
  else if op = opTlSig ∨ op = opHealth then 3
  else 0

/-- The credits a frame takes (R244): its link header, transport frame and CRCs in 64 B units. -/
def frameUnits (o : OutFrame) : Nat :=
  (8 + (if o.op = opRing then 48 else 32) + o.f.payload.length + 4 + 4 + 63) / 64

/-- The class a frame's credits are counted in: its channel, or its partition of the escape channel (R244). -/
def creditClass (f : Frame) : Nat := if f.vc = 4 then 4 + f.eclass else f.vc

/-- The key of the link of port `p` to peer `m`: one link per port in direct framing, one per peer in switched
framing (R240). -/
def State.linkKey (s : State) (p m : Nat) : Nat :=
  p * 65536 + (if s.flag .WN_PORT_CTL_FRAMING p then m else 0)

/-- A link's state. -/
def State.link (s : State) (k : Nat) : Link := Tbl.get Link.fresh s.net.links k

/-- The state with a link changed by `g`. -/
def State.updLink (s : State) (k : Nat) (g : Link → Link) : State :=
  { s with net := { s.net with links := Tbl.upd Link.fresh s.net.links k g } }

/-- The first class with credits to return, and how many a header takes (R240). -/
def owedClass (l : List Nat) : Option (Nat × Nat) :=
  match l.findIdx? fun n => n != 0 with
  | none => none
  | some c => some (c, min 2047 (l.getD c 0))

/-- The link header a frame leaves with (R240): its LSEQ, the last LSEQ taken in order, and returned credits. -/
def Link.header (l : Link) (nak : Bool) (lseq : Nat) : LinkHeader :=
  let ack := (l.rxNext + 65535) % 65536
  match owedClass l.owed with
  | none => ⟨ack, nak, 0, 0, 0, lseq, 0⟩
  | some (c, n) => ⟨ack, nak, if c < 4 then c else 4, n, c - 4, lseq, 0⟩

/-- The link once such a header has left. -/
def Link.headed (l : Link) : Link :=
  match owedClass l.owed with
  | none => l
  | some (c, n) => { l with owed := l.owed.set c (l.owed.getD c 0 - n) }

/-- The Ethernet fields of what port `p` sends to module `m`; none in direct framing (R243). -/
def State.ether (s : State) (p m : Nat) : Option Ether :=
  if s.flag .WN_PORT_CTL_FRAMING p then
    let a (x : Nat) : Nat := s.rd .WN_MAC_PREFIX_PREFIX * 2 ^ 24 + x * 2 ^ 8 + p
    some ⟨a m, a (s.rd .WN_ID_MODULE), s.rd .WN_ETH_ETYPE,
      if s.flag .WN_ETH_TAG_EN 0 then some (s.rd .WN_ETH_PCP * 2 ^ 13 + s.rd .WN_ETH_VID) else none⟩
  else none

/-- Something put out by port `p`. -/
def State.putOut (s : State) (p : Nat) (x : PortOut) : State :=
  { s with net := { s.net with out := s.net.out ++ [(p, x)] } }

/-- A link-control frame of link `k` of port `p` (R246). -/
def State.sendControl (s : State) (p k : Nat) (nak : Bool) : State :=
  (s.putOut p (.control (s.ether p (k % 65536)) ((s.link k).header nak 0))).updLink k Link.headed

/-! ### Link state per peer (R244) -/

/-- The links of port `p`. -/
def State.linksOf (s : State) (p : Nat) : List Nat :=
  s.net.links.filterMap fun e => if e.1 / 65536 = p then some e.1 else none

/-- Link `k` is the one last used. -/
def State.touch (s : State) (k : Nat) : State :=
  { s with net := { s.net with recent := k :: s.net.recent.filter (· != k) } }

/-- Link state for link `k` of port `p`: in switched framing a port keeps it for 4,096 peers, and for a new one reclaims
that of the peer least recently used that has nothing unacknowledged; none where there is none (R244). -/
def State.makeRoom (s : State) (p k : Nat) : Option State :=
  if s.flag .WN_PORT_CTL_FRAMING p then
    let mine := s.net.recent.filter fun j => j / 65536 == p
    if mine.contains k || decide (mine.length < 4096) then some (s.touch k)
    else
      match mine.reverse.find? fun j => (s.link j).unacked.isEmpty && (s.link j).waiting.isEmpty with
      | none => none
      | some j =>
        some (({ s with net := { s.net with links := Tbl.del s.net.links j, recent := s.net.recent.filter (· != j) } } :
          State).touch k)
  else some s

/-! ### Sending (R240, R244 to R246) -/

/-- The bytes of a link frame (R239 to R241). -/
def frameSize (o : OutFrame) : Nat := 8 + (if o.op = opRing then 48 else 32) + o.f.payload.length + 8

/-- The bytes a list of unacknowledged frames takes in a replay buffer. -/
def sentSize (l : List Sent) : Nat := (l.map fun x => frameSize x.out).sum

/-- Has the replay buffer room for frame `o` on link `l` of port `p` (R246): 256 KiB per port in direct framing, 1 MiB
per port shared by its peers in switched framing? -/
def State.replayRoom (s : State) (p : Nat) (l : Link) (o : OutFrame) : Bool :=
  if s.flag .WN_PORT_CTL_FRAMING p then
    decide (((s.linksOf p).map fun k => sentSize (s.link k).unacked).sum + frameSize o ≤ 2 ^ 20)
  else decide (sentSize l.unacked + frameSize o ≤ 2 ^ 18)

/-- May link `l` send frame `o` now (R244, R246)? Direct: credits; switched: fewer than SW_WIN unacknowledged on its
channel; and room in the replay buffer. -/
def State.linkReady (s : State) (p : Nat) (l : Link) (o : OutFrame) : Bool :=
  !l.unreachable && s.rdi .WN_PORT_STAT_STATE p == 3 && s.replayRoom p l o &&
    (if s.flag .WN_PORT_CTL_FRAMING p then
      decide ((l.unacked.filter fun x => creditClass x.out.f == creditClass o.f).length < s.rd .WN_LINK_CFG_SW_WIN)
     else decide (frameUnits o ≤ l.credits.getD (creditClass o.f) 0))

/-- A frame sent on link `k` of port `p`: it takes the next LSEQ and its credits, is kept until acknowledged (R246),
and leaves. -/
def State.transmit (s : State) (p k : Nat) (o : OutFrame) : State :=
  let l := s.link k
  let o : OutFrame := { o with f := { o.f with lh := l.header false l.txNext } }
  let c := creditClass o.f
  let cr := if s.flag .WN_PORT_CTL_FRAMING p then l.credits
    else l.credits.set c (l.credits.getD c 0 - frameUnits o)
  let s := s.updLink k fun l =>
    { l.headed with txNext := (l.txNext + 1) % 65536, unacked := l.unacked ++ [⟨l.txNext, o, 0⟩], credits := cr }
  s.putOut p (.frame (s.ether p o.f.dst) o)

/-- Do two frames go to one queue of one module on one channel? -/
def samePair (a b : OutFrame) : Bool := a.f.dst == b.f.dst && a.f.sq == b.f.sq && creditClass a.f == creditClass b.f

/-- Two acknowledgement counters as one (R245): ACK and RING_ACK add their counts; a TL_ACK, which carries none, counts
in ARG how many more of it are owed. None where the sum does not fit. -/
def addCounters (a b : OutFrame) : Option OutFrame :=
  if a.op ≠ b.op ∨ (a.op ≠ opAck ∧ a.op ≠ opRingAck ∧ a.op ≠ opTlAck) then none
  else
    let n := a.f.arg + b.f.arg + b2n (a.op == opTlAck)
    if a.f.arg % 65536 + b.f.arg % 65536 < 65535 then some { a with f := { a.f with arg := n } } else none

/-- An acknowledgement added to the counter that waits, if nothing else for its queue and module waits behind that. -/
def joinCounter (o : OutFrame) : List OutFrame → Option (List OutFrame)
  | [] => none
  | x :: r =>
    match joinCounter o r with
    | some l => some (x :: l)
    | none => if samePair x o && !(r.any fun y => samePair y o) then (addCounters x o).map (· :: r) else none

/-- What waits on a link with `o` put behind it: acknowledgements are counters and never frames that wait (R245). -/
def addWaiting (l : List OutFrame) (o : OutFrame) : List OutFrame := (joinCounter o l).getD (l ++ [o])

/-- The frames a waiting entry stands for. -/
def counterFrames (o : OutFrame) : List OutFrame :=
  if o.op = opTlAck then List.replicate (o.f.arg + 1) { o with f := { o.f with arg := 0 } } else [o]

/-- A frame put on a link: sent, or waiting behind what waits on its channel (R244); a frame for a new peer without link
state waits for that. -/
def State.putOnLink (s : State) (p k : Nat) (o : OutFrame) : State :=
  match s.makeRoom p k with
  | none => { s with net := { s.net with peerWait := s.net.peerWait ++ [(p, o)] } }
  | some s =>
    let l := s.link k
    if (l.waiting.all fun x => creditClass x.f != creditClass o.f) && s.linkReady p l o then s.transmit p k o
    else s.updLink k fun l => { l with waiting := addWaiting l.waiting o }

/-- What waits on a link, sent as far as credits and window allow (R244). -/
def drainLink (p k : Nat) : List OutFrame → State → State
  | [], s => s
  | o :: r, s => drainLink p k r (s.putOnLink p k o)

/-- The frames of port `p` that wait for link state tried again, in order. -/
def State.retryPeers (s : State) (p : Nat) : State :=
  let l := s.net.peerWait.filter fun x => x.1 == p
  if l.isEmpty then s
  else
    l.foldl (fun s x => s.putOnLink p (s.linkKey p x.2.f.dst) x.2)
      { s with net := { s.net with peerWait := s.net.peerWait.filter fun x => x.1 != p } }

/-- Link `k` of port `p` sends what it now can. -/
def State.kick (s : State) (p k : Nat) : State :=
  let w := (s.link k).waiting
  (drainLink p k (w.flatMap counterFrames) (s.updLink k fun l => { l with waiting := [] })).retryPeers p

/-- The port and escape mark a frame leaves by (R249, R250): none where the entry is not valid, or this module's own, or
the port not UP. -/
def State.route (s : State) (o : OutFrame) : Option (Nat × Bool) :=
  let m := o.f.dst
  if s.flag .WN_ROUTE_VALID m ∧ m ≠ s.rd .WN_ID_MODULE then
    let sel := if o.op = opRing then bits o.f.arg 50 2 else o.f.sq
    let c := sel % (s.rdi .WN_ROUTE_NCH m + 1)
    let p := s.rdi (match c with | 0 => .WN_ROUTE_P0 | 1 => .WN_ROUTE_P1 | 2 => .WN_ROUTE_P2 | _ => .WN_ROUTE_P3) m
    if s.rdi .WN_PORT_STAT_STATE p = 3 then some (p, bit (s.rdi .WN_ROUTE_DL m) c) else none
  else none

/-- A frame sent on its route; none where it has none (R249). -/
def State.send (s : State) (o : OutFrame) : Option State :=
  match s.route o with
  | none => none
  | some (p, dl) =>
    let f := if dl ∧ o.f.vc ≠ 4 then { o.f with vc := 4, eclass := o.f.vc } else o.f
    some (s.putOnLink p (s.linkKey p o.f.dst) { o with f := f })

/-- A frame of this module, its channel set by its OP (R241, R242). -/
def State.mkFrame (s : State) (op q dst tag addr arg : Nat) (payload : List Byte) : Frame :=
  { lh := .bare 0, vc := opChannel op, eclass := 0, hops := s.rd .WN_LINK_CFG_MAX_HOPS, sq := q,
    prov := false, vol := false, digest := false, dset := 0, src := s.rd .WN_ID_MODULE, dst := dst,
    job := s.rd .TL_JOB_TAG, tag := tag, epoch := 0, addr := addr, arg := arg, payload := payload, flags := [],
    rsv := false, intact := true, fec := 0 }

/-! ### Tags (R245) -/

/-- The lowest number from `k` up that a rising list does not hold. -/
def lowestFree : List Nat → Nat → Nat
  | [], k => k
  | x :: r, k => if x = k then lowestFree r (k + 1) else if x < k then lowestFree r k else k

/-- The lowest free tag of a bay; none while all 16,384 are in use. -/
def State.freeTag (s : State) (b : Nat) : Option Nat :=
  let t := lowestFree (s.net.txns.filterMap fun e => if e.1 / 16384 = b then some (e.1 % 16384) else none) 0
  if t < 16384 then some t else none

/-- The key of a bay's tag. -/
def tagKey (b tag : Nat) : Nat := b * 16384 + tag

/-- Instruction `id` of queue `q` changed by `g`. -/
def State.updWork (s : State) (q id : Nat) (g : Work → Work) : State :=
  s.updQueue q fun x => { x with work := x.work.map fun w => if w.id = id then g w else w }

/-! ### The digests of a reduce-scatter (R227) -/

/-- Keyed bytes of several bays put together in the order of their keys. -/
def inOrder (l : List (Nat × List Byte)) : List Byte :=
  (l.foldl (fun t e => Tbl.put t e.1 e.2) []).flatMap Prod.snd

/-- Is a reduce-scatter of SEQ `n` still moving on some bay? -/
def State.rscatMoves (s : State) (n : Nat) : Bool :=
  [48, 49, 50, 51].any fun q => (s.queue q).work.any fun w =>
    w.kind == .rscat && !w.ready && (w.coll.any fun c => c.seq == n)

/-- The digests of SEQ `n` folded, one set after another, once no bay moves it any more (R227). -/
def State.settleDigs (s : State) (n : Nat) : State :=
  if s.rscatMoves n then s
  else
    let l := s.net.digs.filter fun p => p.seq == n
    let s : State := { s with net := { s.net with digs := s.net.digs.filter fun p => p.seq != n } }
    (List.range 8).foldl (fun s d =>
      let k := l.filter fun p => p.set == some d
      (s.foldDigest .rscat d s.succId false (inOrder (k.flatMap DigPart.sent))).foldDigest .rscat d s.predId true
        (inOrder (k.flatMap DigPart.recv))) s

/-- What an instruction of queue `q` that ends leaves for the digests, where it is a reduce-scatter. -/
def State.leaveDigest (s : State) (q : Nat) (w : Work) : State :=
  match w.coll with
  | none => s
  | some c =>
    if w.kind = .rscat then
      let p : DigPart :=
        { seq := c.seq, bay := q - 48, set := if bit w.desc 166 then some (bits w.desc 167 3) else none, sent := c.sentBytes,
          recv := c.recvBytes }
      ({ s with net := { s.net with digs := s.net.digs ++ [p] } } : State).settleDigs c.seq
    else s

/-- Instruction `id` of queue `q` ends in fault `f` (R245, R247, R249, R251): its frames that wait for a tag are
abandoned, its signal is not given, and it stays in progress only until its other transactions have ended. A
reduce-scatter leaves its status record (R223). -/
def State.failWork (s : State) (q id : Nat) (f : EFault) : State :=
  match (s.queue q).work.find? fun x => x.id == id with
  | none => s.engineFault q f (s.rdi .EN_Q_PC_PC q)
  | some x =>
    let s := if x.kind = .rscat then s.writeStatus x f.code.val else s
    let s := { s with net := { s.net with tagWait := s.net.tagWait.filter fun x => !(x.queue == q && x.id == id) } }
    let s := s.updQueue q fun x =>
      { x with work := x.work.filterMap fun w =>
          if w.id = id then
            if w.tags.isEmpty then none
            else some { w with kind := .dead, sigIdx := 0xFFFF, ready := true, packs := [], pieces := [], reads := [], writes := [],
                               coll := none }
          else some w }
    (s.leaveDigest q x).engineFault q f x.pc

/-- The bytes a RING frame folds into digests: for each block its 65 bytes, then its flags (R227). -/
def ringBytes : List Byte → List Nat → List Byte
  | _, [] => []
  | l, x :: r => l.take 65 ++ [BitVec.ofNat 8 x] ++ ringBytes (l.drop 65) r

/-- The transaction a frame of instruction `id` of queue `q` begins at stamp `n`. -/
def mkTxn (q id n : Nat) (o : OutFrame) : Txn :=
  let set := if o.f.digest ∧ o.op ≠ opRdReq then some o.f.dset else none
  let data := if o.op = opRing then ringBytes o.f.payload o.f.flags else o.f.payload
  { queue := q, id := id, op := o.op, dst := o.f.dst, addr := o.f.addr, bound := if o.f.prov then some o.f.epoch else none,
    vol := o.f.vol || o.f.digest, stamp := n,
    size := if o.op = opRing then o.f.flags.length else if o.op = opRdReq then bits o.f.arg 0 11 else o.f.payload.length,
    digest := set, data := if set.isSome then data else [] }

/-- A transaction frame sent under tag `tag`, its instruction holding the tag (R245). Where no route takes it, the
engine faults with E_LINK_DOWN (R249). -/
def State.sendTagged (s : State) (w : TagWait) (tag : Nat) : State :=
  let o : OutFrame := { w.out with f := { w.out.f with tag := tag } }
  match s.send o with
  | none => s.failWork w.queue w.id (.of .linkDown)
  | some s =>
    let x := mkTxn w.queue w.id (s.stamp + 1) o
    let s := { s with stamp := s.stamp + 1, net := { s.net with txns := Tbl.put s.net.txns (tagKey w.bay tag) x } }
    s.updWork w.queue w.id fun y =>
      { y with tags := y.tags ++ [tag],
               pieces := y.pieces.map fun p => if o.op = opRdReq ∧ p.pos = w.pos then { p with tag := tag } else p }

/-- A transaction frame of an instruction: sent under a free tag, or waiting for one (R245). -/
def State.request (s : State) (w : TagWait) : State :=
  match (if s.net.tagWait.any fun x => x.bay == w.bay then none else s.freeTag w.bay) with
  | some tag => s.sendTagged w tag
  | none => { s with net := { s.net with tagWait := s.net.tagWait ++ [w] } }

/-- A tag of a bay is free again: the transaction is forgotten, its instruction lets go of it, and the first frame that
waits for a tag of that bay takes it. -/
def State.releaseTag (s : State) (b tag : Nat) : State :=
  match Tbl.find s.net.txns (tagKey b tag) with
  | none => s
  | some x =>
    let s := { s with net := { s.net with txns := Tbl.del s.net.txns (tagKey b tag) } }
    let s := s.updWork x.queue x.id fun y => { y with tags := y.tags.filter fun t => t != tag }
    match s.net.tagWait.find? fun w => w.bay == b with
    | none => s
    | some w =>
      let s := { s with net := { s.net with tagWait := s.net.tagWait.eraseP fun w => w.bay == b } }
      match s.freeTag b with
      | some t => s.sendTagged w t
      | none => s

end Sys2Proof.Machine
end

