-- ==== Sys2Proof/Machine/Tally.lean ====
section
/-! DEFINITION. The tally instructions (R121, R122), the host operations on tallies, allocation (R119) and the wait
watchdog (R128). -/

namespace Sys2Proof.Machine

/-- A scope 2 signal on its way (R120, R121): its queue issues nothing behind it until the target answers. -/
def State.sendSignal (s : State) (q : Nat) (i : Ins) : State :=
  let x := s.queue q
  let w := newWork x i .remoteSignal (s.bindEpoch i)
  let f := s.mkFrame opTlSig q (bits i.operand 48 16) 0 (bits i.operand 0 16) (bits i.operand 16 16) []
  (s.goOn q i w).request ⟨qBay q, q, w.id, 0, ⟨opTlSig, f⟩⟩

/-- TL.SIGNAL (R121, R122): acts once the queue's earlier writes are released, and under HOSTFENCE visible. Check 6 is
made at each attempt to issue, so that a tally freed meanwhile faults as UNALLOC (DESIGN CHOICE, assumption log entry
92). -/
def execTlSignal (q : Fin 52) (s : State) : Host.Outcome State Fault Refusal :=
  .next (issue q 0x08 s fun i s =>
    if !s.fenceDone q i then s.fenceWait q i
    else
      match s.localTally q i with
      | some u => (if bits i.operand 16 16 = 0 then s else s.signal u (bits i.operand 16 16)).retire q i
      | none => s.sendSignal q i)

/-- TL.WAIT (R121, R125): joins the waiters of its tally; a count of 0 completes at once. -/
def execTlWait (q : Fin 52) (s : State) : Host.Outcome State Fault Refusal :=
  .next (issue q 0x09 s fun i s =>
    let u := operandTally q i.operand
    let n := bits i.operand 16 16
    if n = 0 then s.retire q i
    else
      let w := newWork (s.queue q) i .plain (s.bindEpoch i)
      ((s.countIssue q).updQueue q fun x => { x with work := x.work ++ [w], nextId := x.nextId + 1 }).beginWait q u n
        true)

/-- TL.ARM (R121). -/
def execTlArm (q : Fin 52) (s : State) : Host.Outcome State Fault Refusal :=
  .next (issue q 0x0A s fun i s => (s.arm (operandTally q i.operand) (bits i.operand 16 16)).retire q i)

/-- TL.READ (R102, R121, R122): the count goes to CR, zero-extended. It is a volatile read, whose completion is an
ordering point (R186). -/
def execTlRead (q : Fin 52) (s : State) : Host.Outcome State Fault Refusal :=
  .next (issue q 0x0B s fun i s =>
    ((s.orderPoint q).wri .EN_Q_CR_CR q (s.tally (operandTally q i.operand))).retire q i)

/-! ### Host operations (R121, R126) -/

/-- The registers a host operation leaves (TL_HOST_OP, TL_HOST_CTL.OP); GO clears when it has taken effect. -/
def State.hostOp (s : State) (u n op : Nat) : State :=
  ((s.wr .TL_HOST_OP_TALLY u).wr .TL_HOST_OP_COUNT n).wr .TL_HOST_CTL_OP op

/-- May the host operate on tally `u` (R126)? -/
def State.hostMay (s : State) (u : Nat) : Bool := s.allocated u && !s.bayFaulted (tallyBay u)

/-- A host operation takes effect, where it is no misuse by now: a signal, or an arm. -/
def State.hostEffect (s : State) (arm : Bool) (u n : Nat) : State :=
  if s.hostMay u then (if arm then s.arm u n else if n = 0 then s else s.signal u n) else s.wr .TL_HOST_CTL_REFUSED 1

/-- A write of 1 to TL_HOST_CTL.GO (R121, R126, R191): ignored while GO is 1; a misuse is refused; behind window writes
that wait, the operation waits with GO at 1. -/
def State.hostGo (s : State) (arm : Bool) (u n : Nat) : State :=
  let s := s.hostOp u n (b2n arm)
  if s.flag .TL_HOST_CTL_GO 0 then s
  else if s.writesHeld && s.hostMay u then (s.wr .TL_HOST_CTL_GO 1).holdAccess (.tallyOp arm u n)
  else s.hostEffect arm u n

/-- TL_HOST_CTL.GO with OP = 0 (R121, R191). -/
def execHostSignal (tally : Fin 65536) (count : Nat) (s : State) : Host.Outcome State Fault Refusal :=
  if count < 65536 then .next (s.byHost fun s => s.leaveIdle.hostGo false tally count) else .refused .illFormed

/-- TL_HOST_CTL.GO with OP = 1 (R121, R191). -/
def execHostArm (tally : Fin 65536) (count : Nat) (s : State) : Host.Outcome State Fault Refusal :=
  if count < 65536 then .next (s.byHost fun s => s.leaveIdle.hostGo true tally count) else .refused .illFormed

/-! ### Allocation (R119, R126) -/

/-- A tally starts or ends its allocation: count 0, overflow flag cleared (R119, R123). -/
def State.clearTally (s : State) (u : Nat) : State :=
  (s.setTally u 0).wri .TL_OVF_BITS (u / 32) (setBits (s.rdi .TL_OVF_BITS (u / 32)) (u % 32) 1 0)

/-- The engines waiting on a freed tally fault, reason FREED (R126). -/
def State.faultWaiters (s : State) (u : Nat) : State :=
  (s.waitersOf u).foldl (fun s w => s.engineFault w.queue ⟨.tallyMisuse, .misuse u 2⟩ (s.rdi .EN_Q_PC_PC w.queue)) s

/-- A freed tally leaves every checkpoint (R207). -/
def State.uncheck (s : State) (u : Nat) : State :=
  { s with prov := { s.prov with checks := s.prov.checks.map fun e => (e.1, e.2.filter fun c => c.1 != u) } }

/-- Bit `i` of TL_ALLOC[w] brought from what it was to what the write gives it. -/
def State.allocBit (s : State) (w old new i : Nat) : State :=
  if bit old i = bit new i then s
  else
    let s := s.clearTally (32 * w + i)
    if bit old i then (s.uncheck (32 * w + i)).faultWaiters (32 * w + i) else s

/-- A write of TL_ALLOC[w] (R119). The bits take effect in ascending order, and so the waiters of tallies freed by one
write fault tally by tally (DESIGN CHOICE, assumption log entry 93). -/
def execTlAllocWrite (w : Fin 2048) (value : Nat) (s : State) : Host.Outcome State Fault Refusal :=
  if value < 2 ^ 32 then
    .next (s.byHost fun s =>
      let old := s.rdi .TL_ALLOC_BITS w
      (List.range 32).foldl (fun s i => s.allocBit w old value i) (s.wri .TL_ALLOC_BITS w value))
  else .refused .illFormed

/-! ### The wait watchdog (R128, R129) -/

/-- The watchdog of queue `q` fires on its head's wait (R128). -/
def State.fireWdog (s : State) (q : Nat) : State :=
  ((s.leaveWait q).wr .TL_STAT_WDOG_FIRED 1).engineFault q (.of .waitTimeout) (s.rdi .EN_Q_PC_PC q)

/-- PERIOD and EN of TL_WDOG[q] written, field by field (R128, R358). -/
def State.setWdog (s : State) (q value : Nat) : State :=
  let p := bits value 0 26
  (if 1 ≤ p ∧ p ≤ 60000000 then s.wri .TL_WDOG_PERIOD q p else s.wr .TL_STAT_CFG_REFUSED 1).wri .TL_WDOG_EN q
    (bits value 31 1)

/-- Has the wait of queue `q`'s head lasted its watchdog's period (R128)? -/
def State.wdogDue (s : State) (q : Nat) : Bool :=
  match (s.queue q).wait with
  | none => false
  | some h => s.flag .TL_WDOG_EN q && decide (s.rdi .TL_WDOG_PERIOD q ≤ h.elapsed)

/-- A write of TL_WDOG[q] (R128): it takes effect at once against the time the wait has lasted. -/
def execTlWdogWrite (q : Fin 52) (value : Nat) (s : State) : Host.Outcome State Fault Refusal :=
  if value < 2 ^ 32 then
    .next (s.byHost fun s =>
      let s := s.setWdog q value
      if s.wdogDue q then s.fireWdog q else s)
  else .refused .illFormed

/-- The head's wait of queue `q` has lasted PERIOD (R128); a served wait is no longer one (R129). -/
def execWaitTimeout (q : Fin 52) (s : State) : Host.Outcome State Fault Refusal :=
  if s.wdogDue q then .next (s.fireWdog q) else .next s

end Sys2Proof.Machine
end

