-- ==== Sys2Proof/Machine/Target.lean ====
section
/-! DEFINITION. This module as the target of remote accesses: the checks of R359, the epoch cases of R206, the writing
and reading of what they let through (R141, R242), writes held for a closed epoch (R205), and the answers (R242, R251). -/

namespace Sys2Proof.Machine

/-! ### What a frame names -/

/-- The space a frame names: 1 a loft, 0 HBM. -/
def frSpace (f : Frame) : Nat := bits f.addr 45 1
/-- The loft it names; 0 for HBM. -/
def frThr (f : Frame) : Nat := if bit f.addr 45 then bits f.addr 42 3 else 0
/-- The address it names there. -/
def frAt (f : Frame) : Nat := bits f.addr 0 42

/-- The span of the `n` bytes a frame names; none where it names none. -/
def frSpan (f : Frame) (n : Nat) : Option Span := spanOf (frSpace f) (frThr f) (frAt f) n []

/-- The payload as bytes, every 64 bytes whose poison bit is set poisoned (R242), all of them where the end-to-end
CRC-32C fails (R248). -/
def frData (f : Frame) : List PByte :=
  (List.range f.payload.length).zip f.payload |>.map fun x => ⟨x.2, !f.intact || bit f.arg (x.1 / 64)⟩

/-- The poison mask of bytes on their way out: one bit per 64 of them (R242). -/
def poisonMask (l : List PByte) : Nat :=
  (List.range ((l.length + 63) / 64)).foldl
    (fun m i => if anyBad ((l.drop (64 * i)).take 64) then m + 2 ^ i else m) 0

/-! ### The checks of R359 -/

/-- What the checks decide: a refusal with its reason, a write acknowledged and discarded (R206), or an access with the
view it has of memory. -/
inductive Verdict where
  | refuse (reason : Nat) | discard | go (view : View)
  deriving DecidableEq, Repr

/-- Does the job of a frame have access (check 1)? -/
def State.jobOk (s : State) (f : Frame) : Bool := s.flag .TL_JOB_REMOTE_EN 0 && f.job == s.rd .TL_JOB_TAG

/-- Does a span lie on no faulted bay (check 2)? -/
def State.bayOk (s : State) (x : Span) : Bool :=
  if x.space = 1 then !s.bayFaulted (thrBay x.sub)
  else (stacksOf s.interleave x.lo.toNat x.hi.toNat).all fun k => !s.bayFaulted (stackBay k)

/-- Does a span pass the region table, at its name and at its B addresses (check 3; R196)? -/
def State.remoteOk (s : State) (x : Span) (write : Bool) : Bool :=
  let a := if write then Attr.rwr else Attr.rrd
  s.regionReason x a == 0 && ((s.vregs.filter fun r => !r.scratch && r.meetsName x).all fun r => s.regionReason (r.atB x) a == 0)

/-- Checks 1 to 4, as the reason of the first that fails. -/
def State.remoteReason (s : State) (f : Frame) (x : Option Span) (write : Bool) : Option Nat :=
  if !s.jobOk f then some 2
  else
    match x with
    | none => none
    | some x =>
      if !s.bayOk x || !s.remoteOk x write then some 1
      else match s.checkThere (some x) with
        | .ok _ => none
        | .error _ => some 1

/-- Does an unbound access meet a granule that R204 would fault (check 8)? -/
def State.viewFault (s : State) (x : Span) (write : Bool) : Bool :=
  (s.vregs.filter fun r => (write || r.scratch) && r.meetsName x).any fun r => (r.granulesOf x).any (s.liveTag r.v)

/-- Checks 6 to 8 of an access with a view; `unbound` says whether R204's unbound rows judge it. -/
def State.versionReason (s : State) (x : Option Span) (view : View) (unbound write : Bool) : Option Nat :=
  match x with
  | none => none
  | some x =>
    if s.vregs.any fun r => r.meetsBSpan x then some 8
    else if write && view != .unbound && !allVersioned s.vregs x then some 6
    else if unbound && s.viewFault x write then some 7
    else none

/-- Is an epoch above every epoch opened here (R206)? -/
def State.aheadEpoch (s : State) (e : Nat) : Bool := !s.prov.opened || decide (s.rd .PS_EPOCH_LAST_EPOCH < e)

/-- The decision on an access of a span that a frame asks for (R206, R359). -/
def State.judgeSpan (s : State) (f : Frame) (x : Option Span) (write : Bool) : Verdict :=
  match s.remoteReason f x write with
  | some r => .refuse r
  | none =>
    let go (view : View) (unbound : Bool) : Verdict := match s.versionReason x view unbound write with
      | some r => .refuse r
      | none => .go view
    if f.prov then
      if s.live f.epoch then go (.live f.epoch) false
      else if s.squashed f.epoch then (if write then .discard else go .unbound false)
      else if s.aheadEpoch f.epoch then (if write then .refuse 6 else go (.live f.epoch) false)
      else go .unbound true
    else go .unbound true

/-- The decision on a frame that reads or writes `n` bytes. -/
def State.judge (s : State) (f : Frame) (n : Nat) (write : Bool) : Verdict := s.judgeSpan f (frSpan f n) write

/-- Does a bound write meet a granule of the closed epoch (R205)? -/
def State.closedWrite (s : State) (f : Frame) (n : Nat) : Bool :=
  f.prov && s.heldBy205 (some f.epoch) [⟨frSpan f n, true, 1⟩]

/-! ### Serving -/

/-- A refusal counted (R141, R359). -/
def State.countRefusal (s : State) : State := (s.addSat .LF_REMOTE_REFUSE_CNT_COUNT 0 1).wr .LF_STAT_REMOTE_REFUSED 1

/-- The digest set a frame folds into (R227). -/
def frSet (f : Frame) : Option Nat := if f.digest then some f.dset else none

/-- A WR frame taken: its bytes written, discarded, or refused with the reason (R242, R359); what is acknowledged is
folded (R227). The answer says whether it was written poisoned. -/
def State.takeWr (s : State) (f : Frame) : State × Except Nat Bool :=
  match s.judge f f.payload.length true with
  | .refuse r => (s.countRefusal, .error r)
  | .discard =>
    ((s.addWrap .PS_DISCARD_CNT_COUNT 0 1).foldIn (.peer f.sq) (frSet f) f.src true f.payload, .ok false)
  | .go view =>
    ((s.writeAt view (frSpace f) (frThr f) (frAt f) (frData f)).foldIn (.peer f.sq) (frSet f) f.src true f.payload,
      .ok (anyBad (frData f)))

/-- A read request served: the bytes it gets, or the reason of its refusal. -/
def State.takeRd (s : State) (f : Frame) : State × Except Nat (List PByte) :=
  let n := bits f.arg 0 11
  match s.judge f n false with
  | .go view =>
    let s := (s.senseAt view (frSpace f) (frThr f) (frAt f) n).leaveAt view (frSpace f) (frThr f) (frAt f) n
    let l := s.readOut view (frSpace f) (frThr f) (frAt f) n
    (s.foldIn (.peer f.sq) (frSet f) f.src false (l.map PByte.val), .ok l)
  | .refuse r => (s.countRefusal, .error r)
  | .discard => (s, .error 6)

/-! ### Answers -/

/-- An answer to the source of a frame, under its tag, where a route takes it; without one it is lost. -/
def State.reply (s : State) (f : Frame) (op arg : Nat) (payload : List Byte) : State :=
  match s.send ⟨op, s.mkFrame op f.sq f.src f.tag 0 arg payload⟩ with
  | none => s
  | some s => s

/-- A REFUSE to the source of a frame (R247, R251). -/
def State.refuse (s : State) (f : Frame) (reason : Nat) : State := s.reply f opRefuse (reason + f.tag % 2 ^ 16 * 2 ^ 16) []

/-- The TAG of a frame whose source holds no tag for it (R245; DESIGN CHOICE, assumption log entry 94): none of the
16,384 of a bay. -/
def noTag : Nat := 0xFFFF

/-- The TAG a REFUSE names an answer by, whose own TAG is another module's (DESIGN CHOICE, assumption log entry 94). -/
def answerTag : Nat := 0xFFFE

/-- A REFUSE to the source of a frame in transit (R247, R249, R250). A health frame holds no tag at its source (R245);
an answer's TAG is another module's. -/
def State.refuseTransit (s : State) (op : Nat) (f : Frame) (reason : Nat) : State :=
  let tag := if op = opWr ∨ op = opRdReq ∨ op = opRing ∨ op = opTlSig then f.tag else if op = opHealth then noTag else answerTag
  s.refuse { f with tag := tag } reason

/-- A WR frame answered: ACK with its count and whether it was written poisoned, or REFUSE (R242). -/
def State.answerWr (s : State) (f : Frame) (r : Except Nat Bool) : State :=
  match r with
  | .ok bad => s.reply f opAck (1 + b2n bad * 2 ^ 16) []
  | .error r => s.refuse f r

/-- A read request answered: RD_CPL with data and poison mask, or REFUSE. -/
def State.answerRd (s : State) (f : Frame) (r : Except Nat (List PByte)) : State :=
  match r with
  | .ok l => s.reply f opRdCpl (poisonMask l) (l.map PByte.val)
  | .error r => s.refuse f r

/-! ### Receive buffers (R224, R244) -/

/-- The key of the link a frame came in by: the peer of a switched port is its source (R240). -/
def State.keyOf (s : State) (p : Nat) (f : Frame) : Nat := s.linkKey p f.src

/-- A frame leaves the receive buffer of port `p`, and in direct framing its credits go back (R244). -/
def State.emptied (s : State) (p op : Nat) (f : Frame) : State :=
  if s.flag .WN_PORT_CTL_FRAMING p then s
  else
    s.updLink (s.keyOf p f) fun l =>
      { l with owed := l.owed.set (creditClass f) (l.owed.getD (creditClass f) 0 + frameUnits ⟨op, f⟩) }

/-- The units of channel `c` that frames held in the receive buffers of port `p` take. -/
def State.bufferUse (s : State) (p c : Nat) : Nat :=
  let units (op : Nat) (h : HeldFrame) : Nat :=
    if h.port = p ∧ creditClass h.f = c then frameUnits ⟨op, h.f⟩ else 0
  let access (a : HeldAccess) : Nat := match a with
    | .frame q op f => units op ⟨q, f⟩
    | _ => 0
  (s.net.held.map (units opRing) ++ s.net.heldWr.map (units opWr) ++ s.host.accesses.map access).sum

/-- Has the receive buffer of port `p` no room for a frame (R244)? -/
def State.bufferFull (s : State) (p op : Nat) (f : Frame) : Bool :=
  decide (Link.fresh.credits.getD (creditClass f) 0 < s.bufferUse p (creditClass f) + frameUnits ⟨op, f⟩)

/-- Is a write to come behind a held one of the same module and queue (R189)? -/
def behindHeld (l : List HeldFrame) (f : Frame) : Bool := l.any fun h => h.f.src == f.src && h.f.sq == f.sq

/-- A WR frame for this module taken and answered, or held where it meets a closed epoch's granule, or stands behind
one that does (R189, R205). -/
def State.receiveWr (s : State) (p : Nat) (f : Frame) : State :=
  let wait : State := { s with net := { s.net with heldWr := s.net.heldWr ++ [⟨p, f⟩] } }
  if behindHeld s.net.heldWr f then wait
  else if s.judge f f.payload.length true == .go (.live f.epoch) && s.closedWrite f f.payload.length then
    wait.addWrap .PS_STALL_CNT_COUNT 0 1
  else
    match s.takeWr f with
    | (s, r) => (s.emptied p opWr f).answerWr f r

/-- The held writes tried again, in order. -/
def releaseHeld : List HeldFrame → State → State
  | [], s => s
  | h :: r, s => releaseHeld r (s.receiveWr h.port h.f)

/-- The held writes go on after a confirm or squash, as far as they can (R205). -/
def State.releaseWrites (s : State) : State :=
  releaseHeld s.net.heldWr { s with net := { s.net with heldWr := [] } }

end Sys2Proof.Machine
end

