-- ==== Sys2Proof/WellFormed.lean ====
section
/-! DEFINITION. The commands a sender can form: numbers within the width of the register, field or header that carries
them, byte strings within the length a frame, a packet or an aperture takes. Operands that are indices are bounded by
their types. -/

namespace Sys2Proof

/-- Are a link header's fields within their widths (R240)? -/
def LinkHeader.wf (h : LinkHeader) : Bool :=
  decide (h.ack < 65536) && decide (h.crVc < 8) && decide (h.crN ≤ 2047) && decide (h.crClass < 4) &&
    decide (h.lseq < 65536) && decide (h.rsv < 1024)

/-- Are a frame's header fields within their widths, and is its payload at most 1,040 bytes (R240, R241)? -/
def Frame.wf (f : Frame) : Bool :=
  f.lh.wf && decide (f.vc < 8) && decide (f.eclass < 4) && decide (f.hops < 16) && decide (f.sq < 52) &&
    decide (f.dset < 8) && decide (f.src < 65536) && decide (f.dst < 65536) && decide (f.job < 65536) &&
    decide (f.tag < 65536) && decide (f.epoch < 2 ^ 32) && decide (f.addr < 2 ^ 64) && decide (f.arg < 2 ^ 64) &&
    decide (f.payload.length ≤ 1040) && decide (f.flags.length ≤ 16) && (f.flags.all fun b => decide (b < 256)) &&
    decide (f.fec < 2 ^ 48)

/-- A frame without ring flags, as every OP but RING carries (R241). -/
def Frame.plainWf (f : Frame) : Bool := f.wf && f.flags.isEmpty

/-- A RING frame: whole blocks of 65 bytes, one flags byte each (R218, R241). -/
def Frame.ringWf (f : Frame) : Bool :=
  f.wf && decide (1 ≤ f.flags.length) && decide (f.payload.length = 65 * f.flags.length)

/-- What a discarded frame brings: a reserved OP comes with a frame of its own. -/
def BadFrame.wf : BadFrame → Bool
  | .strange f => f.wf
  | _ => true

/-- A carrier record within the widths of R341: every field a byte or two, one budget for each of the 16 ports. -/
def Fru.wf : Fru → Bool
  | .absent => true
  | .invalid => true
  | .record cls slot budget ports =>
    decide (cls < 256) && decide (slot < 256) && decide (budget < 65536) && decide (ports.length = 16) && ports.all fun n => decide (n < 256)

/-- A GPIO command's function code (R315, R334). -/
def GpioAct.wf : GpioAct → Bool
  | .claim fn => decide (fn < 8)
  | _ => true

/-- Are the port masks of a wake 16 bits wide (R262)? -/
def WakeSeen.wf (w : WakeSeen) : Bool := decide (w.pattern < 65536) && decide (w.energy < 65536)

/-- Can a sender form this command? Everything without a case here, always. -/
def Instr.wf : Instr → Bool
  | .enContractWrite v => decide (v < 65536)
  | .queueDoorbell _ v | .groupDoorbell v => decide (v < 2 ^ 64)
  | .tlAllocWrite _ v | .tlWdogWrite _ v => decide (v < 2 ^ 32)
  | .hostSignal _ n | .hostArm _ n => decide (n < 65536)
  | .regionWrite _ _ v | .rlistEntry v | .mwinOffsetWrite v => decide (v < 2 ^ 64)
  | .psVregWrite _ w v => decide (v < if w = .cfg then 2 ^ 32 else 2 ^ 64)
  | .wr _ f | .rdReq _ f | .rdCpl _ f | .ack _ f | .tlSig _ f | .tlAck _ f | .ringAck _ f | .health _ f
  | .refuse _ f => f.plainWf
  | .ring _ f => f.ringWf
  | .linkControl _ _ h => h.wf
  | .portQualify _ c => decide (c.power < 4096) && decide (c.lanes < 256)
  | .badCrcOrGap _ _ b => b.wf
  | .portBudgetWrite _ v | .pwProfileWrite v | .pwCapWrite v | .pwPrioWrite v | .evtHeadWrite v | .evtCfgWrite v
  | .gpioWrite _ v => decide (v < 2 ^ 32)
  | .setProfile v | .setCap v | .setScrub v | .alertAck v => decide (v < 2 ^ 32)
  | .sensorSample _ t _ => decide (t < 4096)
  | .wake w => w.wf
  | .capLoopPeriod l => decide (l.length = 21)
  | .calibrationTick l => decide (l.length = 21)
  | .meterDone _ n => decide (n < 2 ^ 64)
  | .erResetKey k | .softReset k => decide (k < 65536)
  | .stagingWrite o d => decide (o + d.length ≤ 2 ^ 23)
  | .fwGo n => decide (n < 2 ^ 24)
  | .fruRead r => r.wf
  | .memoryWindowRead a n => decide (1 ≤ n) && decide (n ≤ 4096) && decide (a + n ≤ 2 ^ 42)
  | .memoryWindowWrite a d _ => decide (1 ≤ d.length) && decide (d.length ≤ 512) && decide (a + d.length ≤ 2 ^ 42)
  | .barResize n => decide (30 ≤ n) && decide (n ≤ 42)
  | .mailboxDone t _ => decide (t < 256)
  | .gpio _ a => a.wf
  | .setEndpointId e => decide (e < 256)
  | .getSensorReading n | .getStateSensorReadings n => decide (n < 65536)
  | .negotiateAlgorithms a h => decide (a < 2 ^ 32) && decide (h < 2 ^ 32)
  | .getCertificate o n => decide (o < 65536) && decide (n < 65536)
  | .challenge n => decide (n.length = 32)
  | .getMeasurements i n => decide (i < 256) && decide (n.length = 32)
  | .registerWrite o w v => decide (o < 2 ^ 27) && decide (v < if w then 2 ^ 64 else 2 ^ 32)
  | _ => true

end Sys2Proof
end

