-- ==== Sys2Proof/Machine/Ports.lean ====
section
/-! DEFINITION. Ports and links: port states (R234 to R238), replay and link control (R246, R247), frames discarded,
tags that time out (R245), framing and the wake pattern (R16, R253). -/

namespace Sys2Proof.Machine

/-! ### Port states -/

/-- WN_PORT_STAT[p].STATE: 0 DISABLED, 1 QUALIFYING, 2 TRAINING, 3 UP, 4 DOWN, 5 REFUSED. -/
def State.portState (s : State) (p : Nat) : Nat := s.rdi .WN_PORT_STAT_STATE p

/-- A port's STATE and REASON, with vector 4 where STATE changes (R324). -/
def State.setPort (s : State) (p st reason : Nat) : State :=
  let s' := (s.wri .WN_PORT_STAT_STATE p st).wri .WN_PORT_STAT_REASON p reason
  if s.portState p = st then s' else s'.msix 4

/-- Is the SerDes domain of port `p` on (R257)? -/
def State.portOn (s : State) (p : Nat) : Bool := !s.domainOff (serdesDomain (portBay p))

/-- Does port `p` stay DOWN until reset (R307, R308)? -/
def State.portDead (s : State) (p : Nat) : Bool := s.bayFaulted (portBay p) || s.fatal

/-- Is the module in Full service, so that ports run at 200 Gb/s per lane (R234)? -/
def State.fullService (s : State) : Bool := s.rd .ER_SERVICE_STATE == 3

/-! ### Frames discarded (R247, R307) -/

/-- The instructions of bay `b` that wait for the answer of its tag: queue and number. A read that joined another's
request waits for that one's answer (R186). -/
def State.readersOf (s : State) (b tag : Nat) : List (Nat × Nat) :=
  (upFrom (12 * b) 12 ++ [48 + b]).flatMap fun q =>
    ((s.queue q).work.filter fun w => w.pieces.any fun p => p.tag == tag && p.data.isNone).map fun w => (q, w.id)

/-- The transaction of a frame this module originated ends in fault `e` (R245, R247, R251). -/
def State.failTxn (s : State) (b tag : Nat) (e : EFault) : State :=
  match Tbl.find s.net.txns (tagKey b tag) with
  | none => s
  | some x =>
    let l := if x.op = opRdReq then s.readersOf b tag else [(x.queue, x.id)]
    l.foldl (fun s r => s.failWork r.1 r.2 e) (s.releaseTag b tag)

/-- Does a frame of this OP belong to an instruction of its source queue? -/
def isRequest (op : Nat) : Bool := op == opWr || op == opRdReq || op == opRing || op == opTlSig

/-- The WN.HEALTH of queue `q` that a SEQ names, or any for none, ends in E_LINK_DOWN. -/
def State.failHealth (s : State) (q : Nat) (seq : Option Nat) : State :=
  match (s.queue q).work.find? fun w =>
      w.kind == .health && !w.ready && (w.coll.any fun c => seq.all fun n => c.seq == n) with
  | none => s
  | some w => s.failWork q w.id (.of .linkDown)

/-- An unacknowledged frame discarded (R247): its engine faults, or its source is told. -/
def State.discardFrame (s : State) (o : OutFrame) : State :=
  if o.f.src = s.rd .WN_ID_MODULE then
    if isRequest o.op then s.failTxn (qBay o.f.sq) o.f.tag (.of .linkDown)
    else if o.op = opHealth then s.failHealth o.f.sq (some (bits o.f.arg 0 16))
    else s
  else s.refuseTransit o.op o.f 4

/-- Everything a link holds is discarded; the link starts afresh (R247). -/
def State.discardLink (s : State) (k : Nat) : State :=
  let l := s.link k
  let fs := l.unacked.map Sent.out ++ l.waiting
  let s := s.updLink k fun _ => Link.fresh
  if fs.isEmpty then s else fs.foldl State.discardFrame (s.wr .WN_STAT_LINK_DOWN 1)

/-- A port of a faulted bay or fatal module (R307, R308): DOWN with REASON FAULT, its frames discarded at once. -/
def State.killPort (s : State) (p : Nat) : State :=
  let s := s.setPort p 4 7
  (s.linksOf p).foldl State.discardLink s

/-! ### Replay (R246, R247) -/

/-- Every unacknowledged frame of link `k` of port `p` sent again, in LSEQ order. -/
def State.resend (s : State) (p k : Nat) : State :=
  let l := s.link k
  let s := (s.addSat .WN_PORT_ERR_REPLAY p 1).updLink k fun l =>
    { l with unacked := l.unacked.map fun x => { x with replays := x.replays + 1 } }
  l.unacked.foldl (fun s x =>
    s.putOut p (.frame (s.ether p x.out.f.dst) { x.out with f := { x.out.f with lh := l.header false x.lseq } })) s

/-- The replay limit (R247): a direct port goes DOWN, a switched peer becomes unreachable. -/
def State.replayLimit (s : State) (p k : Nat) : State :=
  if s.flag .WN_PORT_CTL_FRAMING p then s.updLink k fun l => { l with unreachable := true }
  else (s.setPort p 4 6).raise .portDown 5 p 0 0 6

/-- A replay of link `k` begins, or its limit is reached (R246, R247); `nak` says what asks for it. A NAK and an expiry
of the timer that meet start one replay: the second of the two finds the first one's still going out. -/
def State.replay (s : State) (p k : Nat) (nak : Bool) : State :=
  let l := s.link k
  if l.unacked.isEmpty || l.replaying == some (!nak) then s
  else if l.unacked.any fun x => decide (8 ≤ x.replays) then s.replayLimit p k
  else (s.resend p k).updLink k fun l => { l with replaying := some nak }

/-- The unacknowledged frames once an ACK covers LSEQ `a` (R240). -/
def afterAck (a : Nat) (l : List Sent) : List Sent :=
  match l.findIdx? fun x => x.lseq == a with
  | none => l
  | some n => l.drop (n + 1)

/-- The credits of a class after `n` come back, at most the buffer of R244. -/
def creditBack (l : List Nat) (c n : Nat) : List Nat :=
  l.set c (min (Link.fresh.credits.getD c 0) (l.getD c 0 + n))

/-- The credits of a link once a header has returned some: none pass in switched framing, and no channel but 0 to 4 has
any (R240, R244). -/
def State.creditsAfter (s : State) (p : Nat) (l : List Nat) (h : LinkHeader) : List Nat :=
  if s.flag .WN_PORT_CTL_FRAMING p ∨ 4 < h.crVc then l
  else creditBack l (if h.crVc = 4 then 4 + h.crClass else h.crVc) h.crN

/-- A link header's ACK, NAK and credits take effect (R240, R244, R246). -/
def State.takeHeader (s : State) (p k : Nat) (h : LinkHeader) : State :=
  let s := s.updLink k fun l =>
    { l with unacked := afterAck h.ack l.unacked, credits := s.creditsAfter p l.credits h }
  let s := if h.nak then s.replay p k true else s
  s.kick p k

/-- A frame discarded and counted (R241, R243, R244). -/
def State.dropFrame (s : State) (p : Nat) : State := s.addSat .WN_PORT_DROP_FRAMES p 1

/-- LINK_CONTROL (R246): a link-control frame arrives on an UP port. One with a reserved bit set is discarded (R241). -/
def execLinkControl (p : Fin 16) (peer : Fin 65536) (lh : LinkHeader) (s : State) :
    Host.Outcome State Fault Refusal :=
  if lh.wf then
    .next (
      if s.portState p = 3 then
        let s := s.leaveIdle
        let k := s.linkKey p peer
        if lh.rsv ≠ 0 then s.dropFrame p
        else
          match s.makeRoom p k with
          | none => s
          | some s => s.takeHeader p k lh
      else s)
  else .refused .illFormed

/-- LINK_CONTROL_TIMER (R246): an UP port sends a link-control frame. A replay begun before it has gone out by then. -/
def execLinkControlTimer (p : Fin 16) (peer : Fin 65536) (s : State) : Host.Outcome State Fault Refusal :=
  let k := s.linkKey p peer
  .next (
    if s.portState p = 3 then (s.sendControl p k false).updLink k fun l => { l with replaying := none } else s)

/-- REPLAY_TIMEOUT (R246): no ACK has advanced. -/
def execReplayTimeout (p : Fin 16) (peer : Fin 65536) (s : State) : Host.Outcome State Fault Refusal :=
  .next (if s.portState p = 3 then s.replay p (s.linkKey p peer) false else s)

/-- LINK_HOLD_EXPIRY (R247): the port or peer is not back in time. -/
def execLinkHoldExpiry (p : Fin 16) (peer : Fin 65536) (s : State) : Host.Outcome State Fault Refusal :=
  let k := s.linkKey p peer
  .next (if s.portState p ≠ 3 ∨ (s.link k).unreachable then s.discardLink k else s)

/-- TXN_TIMEOUT (R245): the engine faults and the tag is free. -/
def execTxnTimeout (b : Fin 4) (tag : Fin 16384) (s : State) : Host.Outcome State Fault Refusal :=
  .next (s.failTxn b tag (.of .remoteTimeout))

/-! ### Commands on a port (R234 to R238) -/

/-- PORT_ENABLE (R236, R238): a DISABLED, DOWN or REFUSED port begins to qualify; else the write has no effect. -/
def execPortEnable (p : Fin 16) (s : State) : Host.Outcome State Fault Refusal :=
  .next (s.byHost fun s =>
    if s.portOn p then
      let st := s.portState p
      let s := s.wri .WN_PORT_CTL_EN p 1
      if (st = 0 ∨ st = 4 ∨ st = 5) ∧ ¬ s.portDead p then s.setPort p 1 0 else s
    else s)

/-- The first check of R237 that fails, as its REASON; 0 where all pass. -/
def State.cmisReason (s : State) (p : Nat) (c : Cmis) : Nat :=
  if !c.present then 1
  else if !c.identityOk then 2
  else if c.lanes ≠ 4 ∨ ¬ (if s.fullService then c.fullRate else c.halfRate) then 3
  else if (if c.passive then decide (1 ≤ s.rdi .WN_PORT_BUDGET_BUDGET p)
    else decide (c.power ≤ s.rdi .WN_PORT_BUDGET_BUDGET p)) then 0
  else 4

/-- PORT_QUALIFY (R236, R237): firmware reads CMIS; the port is refused with a reason, or begins to train. -/
def execPortQualify (p : Fin 16) (cmis : Cmis) (s : State) : Host.Outcome State Fault Refusal :=
  if cmis.power < 4096 then
    .next (s.byFw fun s =>
      if s.portState p = 1 then
        let s := if cmis.present && cmis.identityOk then s.wri .WN_PORT_BUDGET_MODULE_PWR p cmis.power else s
        let r := s.cmisReason p cmis
        if r = 0 then s.setPort p 2 0 else s.setPort p 5 r
      else s)
  else .refused .illFormed

/-- May a port come UP: it trains, or firmware retrains it after a retrain or REPLAY_LIMIT (R234, R236, R247)? -/
def State.portTrains (s : State) (p : Nat) : Bool :=
  s.flag .WN_PORT_CTL_EN p && s.portOn p && !s.portDead p &&
    (s.portState p == 2 ||
      (s.portState p == 4 && (s.rdi .WN_PORT_STAT_REASON p == 0 || s.rdi .WN_PORT_STAT_REASON p == 6)))

/-- Does the SerDes island of port `p` run from a source other than SAFE, on which no port trains (R283)? -/
def State.portClocked (s : State) (p : Nat) : Bool := s.rdi .CK_ISL_STAT_CUR (36 + portBay p) != 2

/-- A port comes UP at the rate of the service; frames held for it are replayed (R236, R247). -/
def State.comeUp (s : State) (p : Nat) : State :=
  let s := (s.setPort p 3 0).wri .WN_PORT_STAT_RATE p (b2n s.fullService)
  (s.linksOf p).foldl (fun s k => (if (s.link k).unacked.isEmpty then s else s.resend p k).kick p k) s

/-- PORT_UP (R236): training locks and the partner's first link-control frame is in. -/
def execPortUp (p : Fin 16) (s : State) : Host.Outcome State Fault Refusal :=
  .next (s.byFw fun s => if s.portTrains p && s.portClocked p then s.comeUp p else s)

/-- TRAIN_FAIL (R236): step 5 fails, also for a port that firmware retrains (R234, R247). -/
def execTrainFail (p : Fin 16) (s : State) : Host.Outcome State Fault Refusal :=
  .next (s.byFw fun s => if s.portTrains p then s.setPort p 4 5 else s)

/-- PORT_DISABLE (R238): stops the port at once. -/
def execPortDisable (p : Fin 16) (s : State) : Host.Outcome State Fault Refusal :=
  .next (s.byHost fun s =>
    if s.portOn p then
      let s := s.wri .WN_PORT_CTL_EN p 0
      if s.portDead p then s else s.setPort p 0 0
    else s)

/-- PLUGGABLE_REMOVED (R238): an UP port goes DOWN. No module is present then that could advertise a power. -/
def execPluggableRemoved (p : Fin 16) (s : State) : Host.Outcome State Fault Refusal :=
  .next (
    let s := s.wri .WN_PORT_BUDGET_MODULE_PWR p 0
    if s.portState p = 3 then s.setPort p 4 1 else s)

/-- The budget the carrier record loaded for port `p`; one unit before any (R342). -/
def State.loadedBudget (s : State) (p : Nat) : Nat := Tbl.get 1 s.boot.budgets p

/-- PORT_BUDGET_WRITE (R237, R238, R254): host software may lower the budget, not raise it above the loaded value. -/
def execPortBudgetWrite (p : Fin 16) (value : Nat) (s : State) : Host.Outcome State Fault Refusal :=
  if value < 2 ^ 32 then
    .next (s.byHost fun s =>
      if s.portOn p then
        let n := bits value 0 12
        if s.loadedBudget p < n then s.wr .WN_STAT_CFG_REFUSED 1
        else
          let s := s.wri .WN_PORT_BUDGET_BUDGET p n
          if n < s.rdi .WN_PORT_BUDGET_MODULE_PWR p then s.wri .WN_PORT_STAT_OVER_BUDGET p 1 else s
      else s)
  else .refused .illFormed

/-- A port takes on a framing; the links of another framing are given up (R240). -/
def State.setFraming (s : State) (p framing : Nat) : State :=
  if s.rdi .WN_PORT_CTL_FRAMING p = framing then s
  else
    let s := (s.linksOf p).foldl State.discardLink s
    ({ s with net := { s.net with recent := s.net.recent.filter fun k => k / 65536 != p } } : State).wri
      .WN_PORT_CTL_FRAMING p framing

/-- FRAMING_WRITE (R16, R18, R254): refused while the port is enabled, or while an earlier change is still to take
effect. -/
def execFramingWrite (p : Fin 16) (framing : Fin 2) (s : State) : Host.Outcome State Fault Refusal :=
  .next (s.byHost fun s =>
    if s.portOn p then
      if s.flag .WN_PORT_CTL_EN p ∨ s.modeBusy (.framing p 0) then s.wri .WN_PORT_STAT_BUSY p 1
      else s.orAfter (.framing p framing) fun s => s.setFraming p framing
    else s)

/-- Does firmware retrain port `p`: DOWN without a reason of its own, with a clock to train on (R234, R283)? -/
def State.retraining (s : State) (p : Nat) : Bool :=
  s.portState p == 4 && s.rdi .WN_PORT_STAT_REASON p == 0 && s.portClocked p

/-- PORT_RETRAIN (R234): after entry to Full service firmware retrains an UP port that runs at 100 Gb/s per lane, one
port at a time. -/
def execPortRetrain (p : Fin 16) (s : State) : Host.Outcome State Fault Refusal :=
  .next (s.byFw fun s =>
    if s.fullService && s.portState p == 3 && s.rdi .WN_PORT_STAT_RATE p == 0 && !((List.range 16).any s.retraining)
    then s.setPort p 4 0 else s)

/-- WAKE_SEND (R253): the wake pattern goes out once on a DISABLED or DOWN port. -/
def execWakeSend (p : Fin 16) (s : State) : Host.Outcome State Fault Refusal :=
  .next (s.byHost fun s =>
    if s.portOn p && (s.portState p == 0 || s.portState p == 4) then s.putOut p .wake else s)

end Sys2Proof.Machine
end

