-- ==== Sys2Proof/Machine/Clock.lean ====
section
/-! DEFINITION. Clock islands: frequencies and switches (R283 to R287), the frequency meters (R289), the REFCLK monitor
and what a failure does (R282, R290 to R292), the restore (R293), the cycle counters (R295), and the 2 µs that pass
when nothing is commanded (assumption log entry 5). -/

namespace Sys2Proof.Machine

/-! ### Islands (R283, R284) -/

/-- The power domain an island lies in; none for AO (R255). -/
def islandDomain (i : Nat) : Option Nat :=
  if i < 8 then some (thrDomain i)
  else if i < 12 then some (coreDomain (i - 8))
  else if i < 36 then some (granDomain (stackBay (i - 12)))
  else if i < 40 then some (serdesDomain (i - 36))
  else if i < 42 then some 2
  else none

/-- The safe clock of an island in MHz. -/
def safeMhz (i : Nat) : Nat := if i = 41 then 200 else 100

/-- The frequency output `o` of island `i`'s PLL is set to, in MHz; thresher outputs stand at 700 (P5) until set. -/
def State.outMhz (s : State) (i o : Nat) : Nat :=
  if i < 8 then Tbl.get 700 s.clock.settings (2 * i + o)
  else if i < 12 then 1200
  else if i < 36 then 2000
  else if i < 40 then 1062
  else if i = 40 then 1000
  else if i = 41 then 800
  else 100

/-- The frequency of island `i` on source `c`: 0 OUT0, 1 OUT1, 2 SAFE. -/
def State.srcMhz (s : State) (i c : Nat) : Nat := if c = 2 then safeMhz i else s.outMhz i c

/-- A PLL output of a thresher island set to a frequency. -/
def State.setOut (s : State) (i o mhz : Nat) : State :=
  { s with clock := { s.clock with settings := Tbl.set 700 s.clock.settings (2 * i + o) mhz } }

/-- Does island `i` run: powered, its domain on, not gated in Idle (R260)? -/
def State.islandRuns (s : State) (i : Nat) : Bool :=
  s.boot.phase != .off && !(decide (i < 12) && s.flag .PW_STATE_IDLE 0) &&
    match islandDomain i with
    | none => true
    | some d => !s.domainOff d

/-- The islands whose clock the Floor state divides, with those of which `g` holds (R288). -/
def State.keepDivided (s : State) (g : Nat → Bool) : State :=
  { s with clock := { s.clock with divided := s.clock.divided.filter g } }

/-- Island `i` runs from source `c`: a switch counted, the divider released (R288), and, where the island runs at all,
32 cycles of the old clock and 32 of the new (R286, R295). -/
def State.switchTo (s : State) (i c : Nat) : State :=
  let s := (((s.wri .CK_ISL_STAT_CUR i c).wri .CK_ISL_STAT_MHZ i (s.srcMhz i c)).wri .CK_ISL_STAT_SWITCHING i 0).addSat
    .CK_ISL_SWITCHES_COUNT i 1
  let s := s.keepDivided fun x => x != i
  if s.islandRuns i then s.addWrap .CK_ISL_CYCLES_COUNT i 64 else s

/-! ### What an island's units do on its safe clock (R283) -/

/-- Stack `k` goes into self-refresh, where it is online: its accesses wait. -/
def State.sleepStack (s : State) (k : Nat) : State :=
  if s.online k && !s.gran.asleep.contains k then { s with gran := { s.gran with asleep := s.gran.asleep ++ [k] } } else s

/-- Stack `k` leaves self-refresh. -/
def State.wakeStack (s : State) (k : Nat) : State :=
  { s with gran := { s.gran with asleep := s.gran.asleep.filter fun x => x != k } }

/-- An UP port goes DOWN (R283, R292). -/
def State.portOut (s : State) (p : Nat) : State := if s.portState p = 3 then s.setPort p 4 0 else s

/-- What the units of island `i` do once it runs on its safe clock: a stack in self-refresh, ports DOWN, the PCIe link
down. -/
def State.unitsSafe (s : State) (i : Nat) : State :=
  if 12 ≤ i ∧ i < 36 then s.sleepStack (i - 12)
  else if 36 ≤ i ∧ i < 40 then (upFrom (4 * (i - 36)) 4).foldl State.portOut s
  else if i = 40 then { s with host := { s.host with linkUp := false } }
  else s

/-- What they do once it is back on a normal source: a stack leaves self-refresh; ports and the PCIe link retrain. -/
def State.unitsNormal (s : State) (i : Nat) : State :=
  if 12 ≤ i ∧ i < 36 then s.wakeStack (i - 12)
  else if i = 40 then { s with host := { s.host with linkUp := s.host.linkUp || s.boot.phase == .up } }
  else s

/-- Island `i` switches to source `c`, and its units follow. -/
def State.moveIsland (s : State) (i c : Nat) : State :=
  let s := if s.rdi .CK_ISL_STAT_CUR i = c then s.wri .CK_ISL_STAT_SWITCHING i 0 else s.switchTo i c
  if c = 2 then s.unitsSafe i else s.unitsNormal i

/-! ### Frequency meters (R289) -/

/-- Is a clock code one a meter can take: an island, REFCLK or SOSC? -/
def clockCode (c : Nat) : Bool := decide (c ≤ 42) || c == 62 || c == 63

/-- METER_GO (R289, R358): meter 0 is the monitor's, and a running meter is not restarted. -/
def execMeterGo (m : Fin 3) (meas gate : Fin 64) (s : State) : Host.Outcome State Fault Refusal :=
  .next (s.byHost fun s =>
    if m.val = 0 ∨ s.flag .CK_METER_CTL_GO m then s.wr .CK_STAT_BUSY 1
    else
      let s := if clockCode meas then s.wri .CK_METER_CTL_MEAS m meas else s
      let s := if clockCode gate then s.wri .CK_METER_CTL_GATE m gate else s
      (s.wri .CK_METER_CTL_GO m 1).wri .CK_METER_CTL_STATUS m 1)

/-- The edges meter `m` counts: none of an island that does not run (R289). -/
def State.edges (s : State) (m count : Nat) : Nat :=
  let c := s.rdi .CK_METER_CTL_MEAS m
  if c < 43 ∧ ¬ s.islandRuns c then 0 else count

/-- METER_DONE (R289): the gate has ended with `count` measured edges. -/
def execMeterDone (m : Fin 3) (count : Nat) (s : State) : Host.Outcome State Fault Refusal :=
  if count < 2 ^ 64 then
    .next (
      if s.flag .CK_METER_CTL_GO m then
        ((s.wri .CK_METER_CNT_COUNT m (s.edges m count)).wri .CK_METER_CTL_STATUS m 0).wri .CK_METER_CTL_GO m 0
      else s)
  else .refused .illFormed

/-- NO_GATE (R289): the meter ends with the edges seen so far, a number the event does not carry: a free value. -/
def execNoGate (m : Fin 3) (s : State) : Host.Outcome State Fault Refusal :=
  .next (
    if s.flag .CK_METER_CTL_GO m then
      let (n, s) := s.takeFree
      ((s.wri .CK_METER_CNT_COUNT m n).wri .CK_METER_CTL_STATUS m 2).wri .CK_METER_CTL_GO m 0
    else s)

/-- CK_SNAP (R295): every island's cycle count is latched. -/
def execCkSnap (s : State) : Host.Outcome State Fault Refusal :=
  .next (s.byHost fun s =>
    ((List.range 43).foldl (fun s i => s.wri .CK_ISL_SNAP_COUNT i (s.rdi .CK_ISL_CYCLES_COUNT i)) s).wr .CK_SNAP_VALID 1)

/-! ### The REFCLK monitor (R282, R290 to R292) -/

/-- Every island goes to its safe clock, held by the fallback; no PLL output is ready, stacks are in self-refresh, ports
and the PCIe link are down (R283, R291, R292). -/
def State.fallBack (s : State) : State :=
  (List.range 43).foldl
    (fun s i => (((s.moveIsland i 2).wri .CK_ISL_STAT_OWNER i 3).wri .CK_ISL_STAT_READY0 i 0).wri .CK_ISL_STAT_READY1 i 0) s

/-- The source island `i` is to have once no episode holds it: the one in force, or the one host software has chosen
where that is its safe clock or a switch to it is in progress. -/
def State.ownSource (s : State) (i : Nat) : Nat :=
  if s.rdi .CK_ISL_STAT_CUR i = 2 ∨ s.flag .CK_ISL_STAT_SWITCHING i then s.rdi .CK_ISL_CTL_SRC i else s.rdi .CK_ISL_STAT_CUR i

/-- A REFCLK failure begins an episode (R291, R292, R336). -/
def State.beginEpisode (s : State) : State :=
  let own := (List.range 43).map fun i => (i, s.ownSource i)
  let s := { s with clock := { s.clock with before := own, elapsed := 0 } }
  let s := ((s.wr .CK_STAT_EPISODE 1).addSat .CK_FAIL_STAT_EPISODES 0 1).wr .HI_ALERT_CLKFAIL 1
  (s.raise .refclkFail 9 0 0 0 0).fallBack

/-! ### The restore (R293) -/

/-- The source an island returns to: the one before the episode, or the one host software chose. -/
def State.homeSource (s : State) (i : Nat) : Nat :=
  match Tbl.find s.clock.before i with
  | some c => c
  | none => s.rdi .CK_ISL_CTL_SRC i

/-- One island back on its source, its PLL outputs ready and nobody's. -/
def State.restoreIsland (s : State) (i : Nat) : State :=
  (((s.moveIsland i (s.homeSource i)).wri .CK_ISL_STAT_OWNER i 0).wri .CK_ISL_STAT_READY0 i 1).wri .CK_ISL_STAT_READY1 i
    (b2n (decide (i ≠ 42)))

/-- The order of R293: AO, the MC and bay cores, the HBM PHYs, the threshers, SerDes groups and PCIe. -/
def restoreOrder : List Nat :=
  [42, 41] ++ upFrom 8 4 ++ upFrom 12 24 ++ upFrom 0 8 ++ upFrom 36 4 ++ [40]

/-- The PLLs lock to a qualified REFCLK and the islands return; an episode ends. -/
def State.restoreClocks (s : State) : State :=
  let s := restoreOrder.foldl State.restoreIsland s
  let s := if s.flag .CK_STAT_EPISODE 0 then
    (s.wr .CK_STAT_EPISODE 0).wr .CK_FAIL_STAT_LAST_MS (s.clock.elapsed / 1000) else s
  { s with clock := { s.clock with before := [] } }

/-- Do the PLLs have a lock to make: REFCLK qualified, and the MC's not ready? -/
def State.pllDue (s : State) : Bool := s.clock.passes == 100 && s.rdi .CK_ISL_STAT_READY0 41 == 0

/-- MONITOR_WINDOW (R282, R290, R291, R293): the window is judged. The 100th pass in a row qualifies REFCLK, and AO
returns to it. A failing window of an armed monitor begins an episode, or, in one, takes back to its safe clock what
had left it. -/
def execMonitorWindow (count : Nat) (s : State) : Host.Outcome State Fault Refusal :=
  .next (
    if s.boot.phase = .off then s
    else
      let ok := decide (88 ≤ count) && decide (count ≤ 112)
      let was := s.clock.passes
      let n := if ok then min 100 (was + 1) else 0
      let s := { s with clock := { s.clock with passes := n } }
      let s := ((s.wr .CK_MON_LAST (min 255 count)).wri .CK_METER_CNT_COUNT 0 count).wr .CK_STAT_REFCLK_OK (b2n ok)
      if ok then (if n = 100 ∧ was ≠ 100 then (s.wr .CK_STAT_ARMED 1).restoreIsland 42 else s)
      else if s.flag .CK_STAT_EPISODE 0 then s.fallBack
      else if s.flag .CK_STAT_ARMED 0 then s.beginEpisode
      else s)

/-! ### Time (R295, R128; assumption log entry 5) -/

/-- The cycles island `i` makes in 2 µs: a SerDes group on its normal clock runs at 1,062.5 MHz (R283), and the Floor
state's divider takes a quarter of a thresher's clock (R288). -/
def State.cyclesOf2us (s : State) (i : Nat) : Nat :=
  if 36 ≤ i ∧ i < 40 ∧ s.rdi .CK_ISL_STAT_CUR i ≠ 2 then 2125
  else if s.clock.divided.contains i then s.rdi .CK_ISL_STAT_MHZ i / 2
  else 2 * s.rdi .CK_ISL_STAT_MHZ i

/-- 2 µs pass: island counters run, the waits of queues grow older, held turners count, an episode lasts longer. -/
def State.tick (s : State) : State :=
  let s := (List.range 43).foldl
    (fun s i => if s.islandRuns i then s.addWrap .CK_ISL_CYCLES_COUNT i (s.cyclesOf2us i) else s) s
  let s := (List.range 8).foldl
    (fun s t => if s.islandRuns t && s.flag .TN_STAT_OWNER t then s.addWrap .TN_HELD_CNT_COUNT t (s.cyclesOf2us t) else s)
    s
  let s := (List.range 52).foldl
    (fun s q => if (s.queue q).wait.isSome then
      s.updQueue q fun x => { x with wait := x.wait.map fun h => { h with elapsed := h.elapsed + 2 } } else s) s
  { s with clock := { s.clock with elapsed := s.clock.elapsed + 2 } }

end Sys2Proof.Machine
end

