-- ==== Sys2Proof/Machine/Pstep.lean ====
section
/-! DEFINITION. Provisional steps: PSTEP.OPEN, CONFIRM and SQUASH (R198 to R203), the restore and the fold, the
versioned-region entries (R195), PS_CFG.EN (R16), and the flag banks (R208). -/

namespace Sys2Proof.Machine

/-! ### Flag banks (R208) -/

/-- The bank an instruction's flags go to: 0 committed, 1 open epoch, 2 closed epoch, 3 none (a squashed epoch's bank
is discarded). -/
def State.bankOf (s : State) (bound : Option Nat) : Nat :=
  match bound with
  | none => 0
  | some e =>
    if s.flag .PS_STAT_OPEN 0 ∧ s.rd .PS_EPOCH_OPEN_EPOCH = e then 1
    else if s.flag .PS_STAT_CLOSED 0 ∧ s.rd .PS_EPOCH_CLOSED_EPOCH = e then 2
    else if s.squashed e then 3 else 0

/-- OVF and NAN of thresher `t` raised in a bank (R32, R208). -/
def State.raiseNum (s : State) (t bank : Nat) (ovf nan : Bool) : State :=
  let s := if ovf then match bank with
    | 0 => s.wri .PS_NUMFLAG_OVF_C t 1
    | 1 => s.wri .PS_NUMFLAG_OVF_O t 1
    | 2 => s.wri .PS_NUMFLAG_OVF_A t 1
    | _ => s
    else s
  if nan then match bank with
    | 0 => s.wri .PS_NUMFLAG_NAN_C t 1
    | 1 => s.wri .PS_NUMFLAG_NAN_O t 1
    | 2 => s.wri .PS_NUMFLAG_NAN_A t 1
    | _ => s
  else s

/-- ESC_EXH raised in a bank (R208, R221). -/
def State.raiseEsc (s : State) (bank : Nat) : State :=
  match bank with
  | 0 => s.wr .PS_ESC_FLAG_ESC_C 1
  | 1 => s.wr .PS_ESC_FLAG_ESC_O 1
  | 2 => s.wr .PS_ESC_FLAG_ESC_A 1
  | _ => s

/-- A flag ORed from one bank field into another for every thresher, the source cleared. -/
def State.moveFlag (s : State) (src dst : F) : State :=
  (List.range 8).foldl (fun s t => if s.flag src t then (s.wri dst t 1).wri src t 0 else s) s

/-- A flag cleared for every thresher. -/
def State.dropFlag (s : State) (f : F) : State := (List.range 8).foldl (fun s t => s.wri f t 0) s

/-- The open banks become the closed banks (R208). -/
def State.closeBanks (s : State) : State :=
  let s := (s.moveFlag .PS_NUMFLAG_OVF_O .PS_NUMFLAG_OVF_A).moveFlag .PS_NUMFLAG_NAN_O .PS_NUMFLAG_NAN_A
  if s.flag .PS_ESC_FLAG_ESC_O 0 then (s.wr .PS_ESC_FLAG_ESC_A 1).wr .PS_ESC_FLAG_ESC_O 0 else s

/-- The banks of the confirmed epoch, closed or open, ORed into the committed ones (R201, R208). -/
def State.confirmBanks (s : State) (closed : Bool) : State :=
  if closed then
    let s := (s.moveFlag .PS_NUMFLAG_OVF_A .PS_NUMFLAG_OVF_C).moveFlag .PS_NUMFLAG_NAN_A .PS_NUMFLAG_NAN_C
    if s.flag .PS_ESC_FLAG_ESC_A 0 then (s.wr .PS_ESC_FLAG_ESC_C 1).wr .PS_ESC_FLAG_ESC_A 0 else s
  else
    let s := (s.moveFlag .PS_NUMFLAG_OVF_O .PS_NUMFLAG_OVF_C).moveFlag .PS_NUMFLAG_NAN_O .PS_NUMFLAG_NAN_C
    if s.flag .PS_ESC_FLAG_ESC_O 0 then (s.wr .PS_ESC_FLAG_ESC_C 1).wr .PS_ESC_FLAG_ESC_O 0 else s

/-- The banks of every live epoch discarded (R202, R208). -/
def State.dropBanks (s : State) : State :=
  ((((((s.dropFlag .PS_NUMFLAG_OVF_O).dropFlag .PS_NUMFLAG_NAN_O).dropFlag .PS_NUMFLAG_OVF_A).dropFlag
    .PS_NUMFLAG_NAN_A).wr .PS_ESC_FLAG_ESC_O 0).wr .PS_ESC_FLAG_ESC_A 0)

/-! ### Open (R198 to R200) -/

/-- The ended epochs that still fold (R203). -/
def State.unfolded (s : State) : List Ended := s.prov.ended.filter fun e => !e.folded

/-- Rows 1 to 4 of R199, shared by the three instructions; `op` is the opcode. -/
def State.pstepCheck (s : State) (t op : Nat) : Chk Unit := do
  need (s.rd .PS_CFG_CTL_T == t) .provOwner
  need (s.flag .PS_CFG_EN 0) .provOff
  need (!(op == 0x21 && s.flag .PS_STAT_OPEN 0 && s.flag .PS_STAT_CLOSED 0)) .provDepth
  need (!(op == 0x22 && s.liveEpochs.isEmpty)) .provNone

/-- The numbers of a packed list of 16-bit values. -/
def halves : Nat → List Byte → List Nat
  | 0, _ => []
  | n + 1, l => leNat (l.take 2) :: halves n (l.drop 2)

/-- TALLY_N of an epoch descriptor (R200). -/
def tallyCount (w : Nat) : Nat := bits (fld w 4 4) 0 11

/-- TALLY_LIST of an epoch descriptor (R200). -/
def tallyList (w : Nat) : Nat := bits (fld w 8 8) 0 28

/-- Rows 5 to 7 of R199 over an epoch descriptor up to the span of its tally list. The two spans of the instruction keep
the rules of R196 and R204 as those of any engine do, behind the span check of row 7 (DEDUCED: R199 gives those rules no
row; assumption log entry 95). -/
def State.openCheck (s : State) (t : Nat) (d : Desc) : Chk Unit := do
  let w := d.word
  need (bits (fld w 4 4) 11 21 == 0 && bits (fld w 8 8) 28 36 == 0 && fld w 16 48 == 0 && decide (tallyCount w ≤ 1024))
    .encoding
  need (!s.prov.opened || decide (s.rd .PS_EPOCH_LAST_EPOCH < fld w 0 4)) .provOrder
  let x := spanOf 1 t (tallyList w) (2 * tallyCount w) []
  s.checkSpan x .rd 2
  s.checkVersions none [d.use, ⟨x, false, 2⟩]
  s.checkThere x

/-- Row 7 of R199 over the bytes of the tally list: the tallies it names. -/
def State.openTallies (s : State) (t w : Nat) : Chk (List Nat) := do
  let l := s.readAt .unbound 1 t (tallyList w) (2 * tallyCount w)
  need (!anyBad l) .poison
  let us := halves (tallyCount w) (l.map PByte.val)
  Chk.all us fun u => match s.tallyFault (thrQ t 0) u with
    | none => .ok ()
    | some f => .error f
  .ok us

/-- The new epoch opens (R200): the open one becomes closed, the listed counts are recorded. -/
def State.openEpoch (s : State) (e : Nat) (us : List Nat) : State :=
  let s := if s.flag .PS_STAT_OPEN 0 then
    ((s.closeBanks.wr .PS_STAT_CLOSED 1).wr .PS_EPOCH_CLOSED_EPOCH (s.rd .PS_EPOCH_OPEN_EPOCH)) else s
  let s := { s with prov := { s.prov with
    checks := Tbl.put s.prov.checks e (us.map fun u => (u, s.tally u)), opened := true } }
  ((s.wr .PS_STAT_OPEN 1).wr .PS_EPOCH_OPEN_EPOCH e).wr .PS_EPOCH_LAST_EPOCH e

/-- PSTEP.OPEN (R200). It stalls while four epochs are live or still folding. -/
def execPstepOpen (t : Fin 8) (s : State) : Host.Outcome State Fault Refusal :=
  .next (issue (thrQ t 0) 0x21 s fun i s =>
    match s.pstepCheck t 0x21 with
    | .error f => s.engineFault (thrQ t 0) f i.pc
    | .ok _ => withDesc (thrQ t 0) i s fun d s =>
        match s.openCheck t d with
        | .error f => s.engineFault (thrQ t 0) f i.pc
        | .ok _ =>
          let s := s.senseAt .unbound 1 t (tallyList d.word) (2 * tallyCount d.word)
          match s.openTallies t d.word with
          | .error f => s.engineFault (thrQ t 0) f i.pc
          | .ok us =>
            if 4 ≤ s.liveEpochs.length + s.unfolded.length then s
            else (s.openEpoch (fld d.word 0 4) us).retire (thrQ t 0) i)

/-! ### Confirm (R201) -/

/-- A live epoch ends: it is folded later (R203). -/
def State.endEpoch (s : State) (e : Nat) (squashed : Bool) : State :=
  let x : Ended := { epoch := e, squashed := squashed, folded := false }
  let s : State := { s with prov := { s.prov with ended := s.prov.ended ++ [x] } }
  (s.wr .PS_STAT_FOLDING 1).wr .PS_STAT_LAST_SQUASHED (b2n squashed)

/-- The checkpoint of an epoch discarded. -/
def State.dropCheck (s : State) (e : Nat) : State :=
  { s with prov := { s.prov with checks := Tbl.del s.prov.checks e } }

/-- The older live epoch is confirmed (R201). -/
def State.confirmEpoch (s : State) : State :=
  let closed := s.flag .PS_STAT_CLOSED 0
  let e := if closed then s.rd .PS_EPOCH_CLOSED_EPOCH else s.rd .PS_EPOCH_OPEN_EPOCH
  let s := ((s.confirmBanks closed).dropCheck e).endEpoch e false
  (if closed then s.wr .PS_STAT_CLOSED 0 else s.wr .PS_STAT_OPEN 0).addSat .PS_CONFIRM_CNT_COUNT 0 1

/-! ### Squash and restore (R202, R207) -/

/-- The word of the instruction at the head of queue `q`. -/
def State.headWord (s : State) (q : Nat) : Nat :=
  match (s.queue q).buf.find? fun e => e.1 == s.rdi .EN_Q_PC_PC q with
  | none => 0
  | some e => e.2.word

/-- Queue `q` begins to skip (R202): a head with PROV that waits on its tally is abandoned. -/
def State.beginSkip (s : State) (q : Nat) : State :=
  if s.qState q = 1 ∨ s.qState q = 2 ∨ s.qState q = 3 then
    let s := s.updQueue q fun x => { x with skipping := true }
    let i := Ins.ofWord 0 (s.headWord q)
    if s.qState q = 2 ∧ i.prov ∧ provCounts i.opcode then
      let s := s.leaveWait q
      s.setQState q (s.runState q)
    else s
  else s

/-- Every live epoch is squashed (R202, steps 1 and 2). -/
def State.squashEpochs (s : State) : State :=
  let l := s.liveEpochs
  let s := { s with prov := { s.prov with squashing := s.prov.squashing ++ l.head?.toList } }
  let s := l.foldl (fun s e => s.endEpoch e true) s
  let s := (l.drop 1).foldl State.dropCheck s
  let s := ((s.dropBanks.wr .PS_STAT_OPEN 0).wr .PS_STAT_CLOSED 0).addSat .PS_SQUASH_CNT_COUNT 0 l.length
  (List.range 52).foldl State.beginSkip s

/-- Has every instruction bound to a squashed epoch completed (R202, step 3)? -/
def State.squashDrained (s : State) : Bool :=
  (List.range 52).all fun q => (s.queue q).work.all fun w => w.done || !s.lostEpoch w.bound

/-- The queue and number of the PSTEP.SQUASH in progress whose oldest squashed epoch is `e`. PS_CFG.CTL_T may have changed
since it issued, so every sequencer is looked at. -/
def State.squasher (s : State) (e : Nat) : Option (Nat × Nat) :=
  (List.range 8).findSome? fun t =>
    ((s.queue (thrQ t 0)).work.find? fun w => w.kind == .squash && w.desc == e).map fun w => (thrQ t 0, w.id)

/-- The restore of R202 (steps 4 and 5, R207): each listed tally still allocated returns to its checkpoint, waiters
being served, and the SQUASH completes. -/
def execSquashRestore (s : State) : Host.Outcome State Fault Refusal :=
  match s.prov.squashing with
  | [] => .next s
  | e :: r =>
    if s.squashDrained then
      let l := Tbl.get [] s.prov.checks e
      let s := l.foldl (fun s c => if s.allocated c.1 then s.setTally c.1 c.2 else s) s
      let s := l.foldl (fun s c => s.serve c.1) s
      let s := s.dropCheck e
      let s := { s with prov := { s.prov with squashing := r } }
      match s.squasher e with
      | none => .next s
      | some (q, id) => .next ((s.complete q id).settleEnd q)
    else .next s

/-! ### Fold (R203) -/

/-- One granule folded: its side and tag as the fold leaves them, a squashed SCRATCH granule poisoned. -/
def State.foldGranule (s : State) (k : Nat) : State :=
  let r := s.vregAt (k / 2 ^ 23)
  let g := k % 2 ^ 23
  let x := s.settled r (s.granule r.v g)
  let s := s.setGranule r.v g x.1
  if x.2 then s.poisonRun (s.phys r.space r.thr (r.a + g * granSize r.space)) (granSize r.space) else s

/-- The fold of the oldest ended epoch completes (R203). -/
def execEpochFold (s : State) : Host.Outcome State Fault Refusal :=
  match s.unfolded.head? with
  | none => .next s
  | some e =>
    let ks := s.prov.granules.filterMap fun x => if x.2.tag = some e.epoch then some x.1 else none
    let s := ks.foldl State.foldGranule s
    let s := { s with prov := { s.prov with
      ended := s.prov.ended.map fun (y : Ended) => if y.epoch = e.epoch then { y with folded := true } else y } }
    .next (s.wr .PS_STAT_FOLDING (b2n (!s.unfolded.isEmpty)))

/-! ### Versioned-region entries and PS_CFG.EN (R16, R195) -/

/-- Do two address ranges of one space meet? -/
def rangesMeet (a n b m : Nat) : Bool := decide (a < b + m) && decide (b < a + n)

/-- The copies of a region: lowest addresses. -/
def Vreg.copies (r : Vreg) : List Nat := if r.scratch then [r.a] else [r.a, r.b]

/-- Do copies of two regions meet (R195)? -/
def Vreg.clash (r x : Vreg) : Bool :=
  r.space == x.space && r.thr == x.thr &&
    r.copies.any fun a => x.copies.any fun b => rangesMeet a r.bytes b x.bytes

/-- The end of a space a region may lie in. -/
def spaceEnd (space : Nat) : Nat := if space = 0 then Config.hbmBytes else Config.loftBytes

/-- May entry `v`, as the registers of `s` hold it, be valid (R195)? -/
def State.vregOk (s : State) (v : Nat) : Bool :=
  let a := s.rdi .PS_VREG_A_BASE v
  let b := s.rdi .PS_VREG_B_BASE v
  let r := s.vregAt v
  let others := s.vregs.filter fun x => x.v != v
  let all := r :: others
  let z := granSize r.space
  decide (bits a 62 2 ≤ 1) && epReservedOk a && decide (1 ≤ r.granules) &&
    (if r.scratch then b == 0
     else bits b 62 2 == bits a 62 2 && epReservedOk b && (r.space == 0 || bits b 32 3 == bits a 32 3) &&
       r.b % z == 0 && decide (r.b + r.bytes ≤ spaceEnd r.space) && !rangesMeet r.a r.bytes r.b r.bytes) &&
    r.a % z == 0 && decide (r.a + r.bytes ≤ spaceEnd r.space) && (others.all fun x => !r.clash x) &&
    decide (((all.filter fun x => x.space == 0).map Vreg.granules).sum ≤ 4194304) &&
    (List.range 8).all fun t =>
      decide (((all.filter fun x => x.space == 1 && x.thr == t).map Vreg.granules).sum ≤ 131072)

/-- The granules of an entry that becomes valid: committed side A, no tag (R197). -/
def State.freshGranules (s : State) (v : Nat) : State :=
  { s with prov := { s.prov with granules := s.prov.granules.filter fun x => x.1 / 2 ^ 23 != v } }

/-- Does a write of a versioned-region entry's word lie within its fields' ranges (R358): GRANULES at least 1? -/
def vregInRange (w : VregWord) (value : Nat) : Bool := w != .cfg || bits value 0 23 != 0

/-- A word of a versioned-region entry as a write leaves it, unjudged; GRANULES 0 keeps the old number (R358). -/
def State.putVreg (s : State) (v : Nat) (w : VregWord) (value : Nat) : State :=
  match w with
  | .a => s.wri .PS_VREG_A_BASE v value
  | .b => s.wri .PS_VREG_B_BASE v value
  | .cfg =>
    let s' := ((s.wri .PS_VREG_CFG_GRANULES v
      (if bits value 0 23 = 0 then s.rdi .PS_VREG_CFG_GRANULES v else bits value 0 23)).wri .PS_VREG_CFG_KIND v (bits value 23 1)).wri
      .PS_VREG_CFG_V v (bits value 24 1)
    if bits value 24 1 = 1 ∧ ¬ s.flag .PS_VREG_CFG_V v then s'.freshGranules v else s'

/-- A write of a versioned-region entry, refused unless its conditions hold (R195). -/
def State.writeVreg (s : State) (v : Nat) (w : VregWord) (value : Nat) : State :=
  let s' := s.putVreg v w value
  if s.flag .PS_CFG_EN 0 ∨ ¬ s.allIdle ∨ (s'.flag .PS_VREG_CFG_V v ∧ ¬ s'.vregOk v) then
    s.wr .PS_STAT_CFG_REFUSED 1
  else if vregInRange w value then s' else s'.wr .PS_STAT_CFG_REFUSED 1

/-- PS_VREG_WRITE (R195). -/
def execPsVregWrite (v : Fin 64) (w : VregWord) (value : Nat) (s : State) : Host.Outcome State Fault Refusal :=
  if value < (if w = .cfg then 2 ^ 32 else 2 ^ 64) then .next (s.byHost fun s => s.writeVreg v w value)
  else .refused .illFormed

/-- A write of PS_CFG.EN (R16, R18): refused while an epoch is live or an earlier change of it takes effect. -/
def execPsCfgEn (en : Bool) (s : State) : Host.Outcome State Fault Refusal :=
  .next (s.byHost fun s =>
    if s.liveEpochs.isEmpty && !s.modeBusy (.provisional en) then
      s.orAfter (.provisional en) fun s => s.wr .PS_CFG_EN (b2n en)
    else s.wr .PS_STAT_BUSY 1)

end Sys2Proof.Machine
end

