-- ==== Sys2Proof/Machine/Numerics.lean ====
section
/-! DEFINITION. The numeric contract (02_numeric_contract.md): formats (R25 to R29), rounding and draws (R38 to R40), the
scale recipes (R41, R43, R44, R220, R221), chunk and column results (R34, R36, R79), and the GS16 adders (R217, R219).
A value is exact: a sign and a magnitude m × 2^e. -/

namespace Sys2Proof.Machine

/-- A value of the numeric contract: a finite number ±m × 2^e (m = 0: a signed zero), an infinity, a NaN, poison. -/
inductive Fp where
  | num (neg : Bool) (m : Nat) (e : Int)
  | inf (neg : Bool)
  | nan
  | poison
  deriving DecidableEq, Repr

/-- Plus zero. -/
def Fp.zero : Fp := .num false 0 0

/-- A finite value. -/
def Fp.finite : Fp → Bool
  | .num _ _ _ => true
  | _ => false

/-- The sign of a value. -/
def Fp.isNeg : Fp → Bool
  | .num s _ _ => s
  | .inf s => s
  | _ => false

/-- A zero of either sign. -/
def Fp.isZero : Fp → Bool
  | .num _ m _ => m == 0
  | _ => false

/-- The value with its sign changed. -/
def Fp.flip : Fp → Fp
  | .num s m e => .num (!s) m e
  | .inf s => .inf (!s)
  | x => x

/-- The value with the sign `s`. -/
def Fp.signed (s : Bool) : Fp → Fp
  | .num _ m e => .num s m e
  | .inf _ => .inf s
  | x => x

/-- The value times 2^k. -/
def Fp.scale (k : Int) : Fp → Fp
  | .num s m e => .num s m (e + k)
  | x => x

/-- floor(log2 (m × 2^e)) of a magnitude that is not 0. -/
def flog2 (m : Nat) (e : Int) : Int := (Nat.log2 m : Int) + e

/-! ### Formats (R25, R28) -/

/-- An element format: its width, mantissa width, bias, the code of its largest finite magnitude, and whether it is
FP32 or BF16 (overflow gives infinity, and the pattern of all ones below the sign is poison). -/
structure Fmt where
  width : Nat
  man : Nat
  bias : Nat
  top : Nat
  wide : Bool
  deriving DecidableEq, Repr

/-- FP32. -/
def fp32Fmt : Fmt := ⟨32, 23, 127, 0x7F7FFFFF, true⟩
/-- BF16. -/
def bf16Fmt : Fmt := ⟨16, 7, 127, 0x7F7F, true⟩

/-- The element format of a format code of R105; GS16 (8) and raw (0) have none of their own. -/
def fmtOf (c : Nat) : Fmt :=
  match c with
  | 2 => bf16Fmt
  | 3 => ⟨8, 3, 7, 0x7E, false⟩
  | 4 => ⟨8, 2, 15, 0x7B, false⟩
  | 5 => ⟨6, 3, 1, 0x1F, false⟩
  | 6 => ⟨6, 2, 3, 0x1F, false⟩
  | 7 => ⟨4, 1, 1, 0x7, false⟩
  | _ => fp32Fmt

/-- The weight of the lowest mantissa bit of a subnormal element, as a power of two. -/
def Fmt.qmin (f : Fmt) : Int := 1 - (f.bias : Int) - f.man

/-- Is a format code an MX element type? -/
def isMx (c : Nat) : Bool := decide (3 ≤ c) && decide (c ≤ 7)

/-- Does a format come in blocks of 32 (R27)? -/
def isBlock (c : Nat) : Bool := decide (3 ≤ c) && decide (c ≤ 8)

/-- Bytes of one unit of a format (R27, R145). -/
def unitBytes (c : Nat) : Nat :=
  match c with
  | 1 => 4
  | 2 => 2
  | 3 | 4 => 33
  | 5 | 6 => 25
  | 7 => 17
  | 8 => 65
  | _ => 1

/-- Elements of one unit (R145). -/
def unitElems (c : Nat) : Nat := if isBlock c then 32 else 1

/-- The value of an element code (R25, R28). -/
def Fmt.value (f : Fmt) (c : Nat) : Fp :=
  let s := bit c (f.width - 1)
  let mag := c % 2 ^ (f.width - 1)
  let x := mag / 2 ^ f.man
  let m := mag % 2 ^ f.man
  if f.top < mag then
    if m = 0 then .inf s else if f.wide ∧ c = 2 ^ (f.width - 1) - 1 then .poison else .nan
  else if x = 0 then .num s m f.qmin
  else .num s (m + 2 ^ f.man) (f.qmin + x - 1)

/-! ### Rounding (R39) -/

/-- m × 2^e as a number of units of 2^q: by RNE, or by SR with a draw. -/
def roundMag (m : Nat) (e q : Int) (draw : Option Nat) : Nat :=
  if q ≤ e then m * 2 ^ (e - q).toNat
  else
    let k := (q - e).toNat
    let r := m / 2 ^ k
    let f := m % 2 ^ k
    match draw with
    | none => if 2 ^ k < 2 * f ∨ (2 * f = 2 ^ k ∧ r % 2 = 1) then r + 1 else r
    | some u => if u < f * 2 ^ 32 / 2 ^ k then r + 1 else r

/-- The magnitude code m × 2^e rounds to, before the largest finite value is considered. -/
def Fmt.magCode (f : Fmt) (m : Nat) (e : Int) (draw : Option Nat) : Nat :=
  let q := max (flog2 m e - f.man) f.qmin
  (q - f.qmin).toNat * 2 ^ f.man + roundMag m e q draw

/-- The code of a magnitude: SR only below the largest finite value, beyond it RNE (R39). Beyond it an MX element
saturates and a wide one is infinite (R38). -/
def Fmt.finiteCode (f : Fmt) (m : Nat) (e : Int) (draw : Option Nat) : Nat :=
  if m = 0 then 0
  else
    let c := if f.top ≤ f.magCode m e (some (2 ^ 32)) then f.magCode m e none else f.magCode m e draw
    if f.top < c then (if f.wide then f.top + 1 else f.top) else c

/-- The sign bit of a format. -/
def Fmt.signBit (f : Fmt) (s : Bool) : Nat := if s then 2 ^ (f.width - 1) else 0

/-- The code of a value. NaN and poison are the patterns of R28; the MX recipe keeps them and infinities out. -/
def Fmt.code (f : Fmt) (x : Fp) (draw : Option Nat) : Nat :=
  match x with
  | .num s m e => f.signBit s + f.finiteCode m e draw
  | .inf s => f.signBit s + (if f.wide then f.top + 1 else f.top)
  | .nan => f.top + 1 + 2 ^ (f.man - 1)
  | .poison => 2 ^ (f.width - 1) - 1

/-- A value rounded to FP32 by RNE. -/
def Fp.round32 (x : Fp) : Fp := fp32Fmt.value (fp32Fmt.code x none)

/-- An FP32 pattern's value. -/
def f32 (c : Nat) : Fp := fp32Fmt.value c

/-- The nearest integer under RNE, or under SR with a draw, of ±m × 2^e (R29). -/
def roundInt (s : Bool) (m : Nat) (e : Int) (draw : Option Nat) : Int :=
  if s then -(roundMag m e 0 draw : Int) else roundMag m e 0 draw

/-! ### Exact arithmetic -/

/-- The exact sum of two values; poison wins over NaN (R30), and an exact zero is +0 unless both are −0. -/
def Fp.add (a b : Fp) : Fp :=
  match a, b with
  | .poison, _ | _, .poison => .poison
  | .nan, _ | _, .nan => .nan
  | .inf s, .inf t => if s = t then .inf s else .nan
  | .inf s, _ | _, .inf s => .inf s
  | .num s m e, .num t n f =>
    let q := min e f
    let x := (if s then -1 else 1) * (m * 2 ^ (e - q).toNat : Int) + (if t then -1 else 1) * (n * 2 ^ (f - q).toNat : Int)
    if x = 0 then .num (s && t) 0 0 else .num (decide (x < 0)) x.natAbs q

/-- The exact product of two values. -/
def Fp.mul (a b : Fp) : Fp :=
  match a, b with
  | .poison, _ | _, .poison => .poison
  | .nan, _ | _, .nan => .nan
  | .inf s, .inf t => .inf (s != t)
  | .inf s, .num t n _ => if n = 0 then .nan else .inf (s != t)
  | .num s m _, .inf t => if m = 0 then .nan else .inf (s != t)
  | .num s m e, .num t n f => .num (s != t) (m * n) (e + f)

/-- FP32 sum, rounded once (R36, R45). -/
def Fp.add32 (a b : Fp) : Fp := (a.add b).round32

/-- FP32 product, rounded once. -/
def Fp.mul32 (a b : Fp) : Fp := (a.mul b).round32

/-- FP32 a × b + c, rounded once. -/
def Fp.fma32 (a b c : Fp) : Fp := ((a.mul b).add c).round32

/-! ### Chunks and columns (R34, R36, R79) -/

/-- One position of a chunk: the operands, and the sum of their scale exponents. A poisoned block's operands are
poison. -/
structure Term where
  x : Fp
  w : Fp
  k : Int
  deriving DecidableEq, Repr

/-- The highest exponent of the products that are not zero. -/
def topExp : List Fp → Option Int
  | [] => none
  | .num _ m e :: r => if m = 0 then topExp r else some (match topExp r with
      | none => flog2 m e
      | some t => max (flog2 m e) t)
  | _ :: r => topExp r

/-- The products in units of 2^q, each truncated toward zero, summed. -/
def truncSum (q : Int) : List Fp → Int
  | [] => 0
  | .num s m e :: r =>
    let t : Int := if q ≤ e then m * 2 ^ (e - q).toNat else (m / 2 ^ (q - e).toNat : Nat)
    (if s then -t else t) + truncSum q r
  | _ :: r => truncSum q r

/-- The result of one chunk (R34, with the per-position scales of R79), over its unmasked positions (R63). -/
def chunkResult (l : List Term) : Fp :=
  if l.any fun t => t.x == .poison || t.w == .poison then .poison
  else
    let ps := l.map fun t => (t.x.mul t.w).scale t.k
    if ps.any fun p => p == .nan then .nan
    else
      match ps.any fun p => p == .inf false, ps.any fun p => p == .inf true with
      | true, true => .nan
      | true, false => .inf false
      | false, true => .inf true
      | false, false =>
        match topExp ps with
        | none => .zero
        | some t =>
          let s := truncSum (t - 60) ps
          if s = 0 then .zero else Fp.round32 (.num (decide (s < 0)) s.natAbs (t - 60))

/-- A column's result: the chunk results added to the partial in ascending order (R36). -/
def columnResult (init : Fp) (chunks : List (List Term)) : Fp :=
  chunks.foldl (fun acc c => acc.add32 (chunkResult c)) init

/-! ### Draws (R40) -/

/-- One round of Philox-4×32. -/
def philoxRound (k : Nat × Nat) (c : Nat × Nat × Nat × Nat) : Nat × Nat × Nat × Nat :=
  let p0 := 0xD2511F53 * c.1
  let p1 := 0xCD9E8D57 * c.2.2.1
  (Nat.xor (Nat.xor (p1 / 2 ^ 32) c.2.1) k.1, p1 % 2 ^ 32, Nat.xor (Nat.xor (p0 / 2 ^ 32) c.2.2.2) k.2, p0 % 2 ^ 32)

/-- `n` rounds, the key advancing between them. -/
def philox : Nat → Nat × Nat → Nat × Nat × Nat × Nat → Nat × Nat × Nat × Nat
  | 0, _, c => c
  | n + 1, k, c => philox n ((k.1 + 0x9E3779B9) % 2 ^ 32, (k.2 + 0xBB67AE85) % 2 ^ 32) (philoxRound k c)

/-- The draws of one SR conversion: the job seed, STREAM and DRAW_BASE. -/
structure Draws where
  seed : Nat
  stream : Nat
  base : Nat
  deriving DecidableEq, Repr

/-- The draw of element `j` (R40). -/
def Draws.at (d : Draws) (j : Nat) : Nat :=
  let n := (d.base + j / 2048) % 2 ^ 48
  (philox 10 (d.seed % 2 ^ 32, d.seed / 2 ^ 32) (n % 2 ^ 32, n / 2 ^ 32, j % 2048, d.stream)).1

/-- The draw of element `j` where the conversion is SR; none under RNE. -/
def drawOf (d : Option Draws) (j : Nat) : Option Nat := d.map fun d => d.at j

/-- The draws an instruction's RND bit and AUX field name (R40, R105). -/
def State.draws (s : State) (rnd : Bool) (aux : Nat) : Option Draws :=
  if rnd then
    some ⟨s.rd .EN_RNG_SEED_LO_SEED + 2 ^ 32 * s.rd .EN_RNG_SEED_HI_SEED, bits aux 0 16, bits aux 16 48⟩
  else none

/-! ### Reading units (R26, R27, R29, R38, R135) -/

/-- Element `i` of a packed block. -/
def blockElem (c v i : Nat) : Nat :=
  let w := if c = 8 then 16 else (fmtOf c).width
  bits v (w * i) w

/-- The element values of a unit before they are FP32 values: a unit with a poisoned byte, and a block with the poison
mark, is poison throughout. -/
def unitRaw (c : Nat) (l : List PByte) : List Fp :=
  let v := pNat l
  let k := bits v (8 * (unitBytes c - 1)) 8
  if anyBad l ∨ (isBlock c ∧ k = 0xFF) then List.replicate (unitElems c) .poison
  else if c = 8 then
    (List.range 32).map fun i =>
      let m := signed 16 (blockElem 8 v i)
      .num (decide (m < 0)) m.natAbs ((k : Int) - 141)
  else if isBlock c then (List.range 32).map fun i => ((fmtOf c).value (blockElem c v i)).scale ((k : Int) - 127)
  else [(fmtOf c).value v]

/-- The exact FP32 values of a unit (R38), overflow at extreme scales becoming infinite. -/
def unitValues (c : Nat) (l : List PByte) : List Fp := (unitRaw c l).map Fp.round32

/-- Does reading a unit overflow FP32 somewhere (R38)? -/
def unitOvf (c : Nat) (l : List PByte) : Bool :=
  (unitRaw c l).any fun x => x.finite && !x.round32.finite

/-! ### Writing units (R30, R38, R41, R220, R221) -/

/-- Element codes packed at width `w`, element 0 lowest (R27). -/
def packElems (w : Nat) : List Nat → Nat
  | [] => 0
  | x :: r => x + 2 ^ w * packElems w r

/-- The bytes of a block: its elements, then the scale or exponent byte (R27). -/
def blockBytes (c : Nat) (elems : List Nat) (k : Nat) : List Byte :=
  leBytes (unitBytes c - 1) (packElems (if c = 8 then 16 else (fmtOf c).width) elems) ++ [BitVec.ofNat 8 k]

/-- A poisoned block: mark 0xFF, element bits 0 (R30). -/
def poisonBlock (c : Nat) : List Byte := blockBytes c (List.replicate 32 0) 0xFF

/-- What a conversion writes, and what it reports: OVF, NAN (R32), a saturated GS16 block (R221), an escalated one
(R220). -/
structure Conv where
  bytes : List Byte
  ovf : Bool
  nan : Bool
  sat : Bool
  esc : Bool
  deriving DecidableEq, Repr

/-- A result that reports nothing. -/
def Conv.plain (l : List Byte) : Conv := ⟨l, false, false, false, false⟩

/-- A poisoned block as a result. -/
def Conv.poisoned (c : Nat) : Conv := ⟨poisonBlock c, false, true, false, false⟩

/-- The largest magnitude among values, as m × 2^e. -/
def amax : List Fp → Nat × Int
  | [] => (0, 0)
  | .num _ m e :: r =>
    let (n, f) := amax r
    if m = 0 then (n, f)
    else if n = 0 then (m, e)
    else
      let q := min e f
      if n * 2 ^ (f - q).toNat ≤ m * 2 ^ (e - q).toNat then (m, e) else (n, f)
  | _ :: r => amax r

/-- emax of an MX element type (R25): the exponent of its largest finite value. -/
def emaxOf (c : Nat) : Int :=
  match c with
  | 3 => 8
  | 4 => 15
  | 5 => 2
  | 6 => 4
  | _ => 2

/-- The MX block of 32 values (R41); `dr` gives each element's draw. -/
def mxBlock (c guard : Nat) (dr : Nat → Option Nat) (vs : List Fp) : Conv :=
  if vs.any fun v => !v.finite then .poisoned c
  else
    let f := fmtOf c
    let (m, e) := amax vs
    if m = 0 then .plain (blockBytes c (vs.map fun v => f.signBit v.isNeg) 0)
    else
      let s := flog2 m e - emaxOf c + guard + 127
      let k := (max 0 (min 254 s)).toNat
      let es := (List.range vs.length).zip vs |>.map fun x => f.code (x.2.scale (127 - (k : Int))) (dr x.1)
      { bytes := blockBytes c es k, ovf := decide (254 < s), nan := false, sat := false, esc := false }

/-- A two's complement 16-bit code. -/
def code16 (m : Int) : Nat := (m % 65536).toNat

/-- A value as a number of GS16 units at exponent E, `draw` its draw (R29). -/
def gsInt (e : Int) (draw : Option Nat) : Fp → Int
  | .num s m x => roundInt s m (x + 141 - e) draw
  | _ => 0

/-- The elements of a block at exponent E (R29). -/
def gsElems (e : Int) (dr : Nat → Option Nat) (vs : List Fp) : List Int :=
  (List.range vs.length).zip vs |>.map fun x => gsInt e (dr x.1) x.2

/-- Do elements fit (R29)? -/
def gsFits (l : List Int) : Bool := l.all fun m => decide (m.natAbs ≤ 32767)

/-- An element clamped to ±32,767 (R221). -/
def gsClamp (m : Int) : Int := max (-32767) (min 32767 m)

/-- The natural exponent of R43, which is negative for a magnitude below 2^−128. -/
def eNat (m : Nat) (e : Int) : Int := if m = 0 then 0 else min 254 (flog2 m e + 128)

/-- The exponent code of the first-step rule (R44, R220). Where the formula falls below 0, which no code holds, the spec
states no value: a free one (assumption log entry 45). -/
def firstExp (m : Nat) (e : Int) (log2p : Nat) : Nat :=
  let n := min 254 (eNat m e + log2p)
  if n < 0 then (Config.lowExponent n).toNat % 255 else n.toNat

/-- The GS16 block of 32 values at the agreed exponent `entry` (R220, R221). -/
def gsBlock (entry log2p : Nat) (dr : Nat → Option Nat) (vs : List Fp) : Conv :=
  if entry = 0xFF ∨ (vs.any fun v => !v.finite) then .poisoned 8
  else
    let a := amax vs
    let e := if entry = 0 then firstExp a.1 a.2 log2p else entry
    match (List.range (255 - e)).find? fun k => gsFits (gsElems ((e + k : Nat) : Int) dr vs) with
    | some k =>
      { bytes := blockBytes 8 ((gsElems ((e + k : Nat) : Int) dr vs).map code16) (e + k), ovf := false, nan := false,
        sat := false, esc := decide (0 < k) }
    | none =>
      { bytes := blockBytes 8 ((gsElems 254 dr vs).map fun m => code16 (gsClamp m)) 254, ovf := false, nan := false,
        sat := true, esc := false }

/-- One FP32 or BF16 element written (R38): NAN when the result is poison, OVF when a finite value becomes infinite. -/
def wideElem (c : Nat) (draw : Option Nat) (v : Fp) : Conv :=
  let f := fmtOf c
  let k := f.code v (if c = 2 then draw else none)
  { bytes := leBytes (unitBytes c) k, ovf := v.finite && !(f.value k).finite, nan := v == .poison, sat := false,
    esc := false }

/-- One unit of format `c` from its values (R38, R41, R220): `entry` and `log2p` for GS16, `guard` for MX; `dr` gives
each element's draw. -/
def encodeUnit (c guard entry log2p : Nat) (dr : Nat → Option Nat) (vs : List Fp) : Conv :=
  if c = 8 then gsBlock entry log2p dr vs
  else if isMx c then mxBlock c guard dr vs
  else
    match vs with
    | v :: _ => wideElem c (dr 0) v
    | [] => .plain []

/-- A unit of poison in a destination format (R30, R75): FP32 poison, BF16 0x7FFF, or a poisoned block. -/
def poisonUnit (c : Nat) : List Byte :=
  if isBlock c then poisonBlock c else leBytes (unitBytes c) ((fmtOf c).code .poison none)

/-- The counts and flags a conversion of thresher `t` leaves (R32, R208, R220, R221). -/
def State.noteConv (s : State) (t bank : Nat) (r : Conv) : State :=
  let s := s.raiseNum t bank r.ovf r.nan
  let s := if r.esc then s.addSat .WN_ESC_CNT_CONV (thrBay t) 1 else s
  if r.sat then (s.raiseEsc bank).addSat .WN_SAT_CNT_COUNT 0 1 else s

/-! ### GS16 adders (R217, R219, R221, R222) -/

/-- rne(w / 2^k), k possibly negative. -/
def rneShift (w : Int) (k : Int) : Int := roundInt (decide (w < 0)) w.natAbs (-k) none

/-- An element of exponent code Em widened to units of 2^(E − 164) (R217). -/
def widen (m : Nat) (em e : Nat) : Int := rneShift (signed 16 m) (((e - em : Nat) : Int) - 23)

/-- The widened sums of two blocks at the larger exponent. -/
def widenSums (a b : GBlock) : List Int :=
  let e := max a.exp b.exp
  (a.elems.zip b.elems).map fun x => widen x.1 a.exp e + widen x.2 b.exp e

/-- A poisoned block (R222): ESC carried, SAT 0. -/
def GBlock.poisoned (esc : Bool) : GBlock := ⟨List.replicate 32 0, 0xFF, esc, false⟩

/-- A block saturated in an adder (R221). -/
def saturate (w : List Int) (e : Nat) : GBlock :=
  ⟨w.map fun x => code16 (gsClamp (rneShift x (277 - (e : Int)))), 254, true, true⟩

/-- The smallest k in 0 to 2 that fits (R217). -/
def escalation (w : List Int) : Nat :=
  if gsFits (w.map fun x => rneShift x 23) then 0 else if gsFits (w.map fun x => rneShift x 24) then 1 else 2

/-- What an adder did beside its block: whether it escalated (k ≥ 1), whether it saturated. -/
structure Added where
  block : GBlock
  esc : Bool
  sat : Bool
  deriving DecidableEq, Repr

/-- The GS16 adder (R217) of an incoming and a local block. SAT of the incoming block is carried (R221). -/
def gsAdd (a b : GBlock) : Added :=
  if a.exp = 0xFF ∨ b.exp = 0xFF then ⟨.poisoned a.esc, false, false⟩
  else
    let e := max a.exp b.exp
    let w := widenSums a b
    let k := escalation w
    if 254 < e + k then ⟨saturate w e, true, true⟩
    else
      ⟨⟨w.map fun x => code16 (rneShift x ((23 + k : Nat) : Int)), e + k, a.esc || decide (0 < k), a.sat⟩, decide (0 < k), false⟩

/-- The owner's combination in tightest form (R219); the second value says whether it saturated there. -/
def gsDeliver (a b : GBlock) : GBlock × Bool :=
  if a.exp = 0xFF ∨ b.exp = 0xFF then (.poisoned a.esc, false)
  else
    let e := max a.exp b.exp
    let w := widenSums a b
    let at' (d : Nat) : List Int := w.map fun x => rneShift x (23 + (d : Int) - e)
    match (List.range 255).find? fun d => gsFits (at' d) with
    | some d => (⟨(at' d).map code16, d, a.esc || decide (e < d), a.sat⟩, false)
    | none => (saturate w e, true)

/-- The GS16 block that 65 bytes hold; poison-marked bytes make it poisoned (R135, R222). -/
def gsOfBytes (l : List PByte) (esc sat : Bool) : GBlock :=
  let v := pNat l
  if anyBad l then ⟨List.replicate 32 0, 0xFF, esc, sat⟩
  else ⟨(List.range 32).map (blockElem 8 v), bits v 512 8, esc, sat⟩

/-- The 65 bytes of a block (R27). -/
def GBlock.bytes (b : GBlock) : List Byte := blockBytes 8 b.elems b.exp

end Sys2Proof.Machine
end

