-- ==== Sys2Proof/Machine/Vecmath.lean ====
section
/-! DEFINITION. Vector-engine arithmetic (R45), the reduction tree (R46) and the algorithms of exp2, log2, tanh and erf
(R47), on FP32 values. -/

namespace Sys2Proof.Machine

/-! ### Reciprocal and roots, correctly rounded (R45) -/

/-- A quotient or root of `r` units of 2^q, not exact where `sticky`: half a unit more rounds as the true value does. -/
def roundSticky (s : Bool) (r : Nat) (q : Int) (sticky : Bool) : Fp :=
  Fp.round32 (.num s (2 * r + b2n sticky) (q - 1))

/-- The square root of `n` rounded down, bit by bit from bit `k - 1`. -/
def isqrtFrom (n : Nat) : Nat → Nat → Nat
  | 0, r => r
  | k + 1, r => if (r + 2 ^ k) * (r + 2 ^ k) ≤ n then isqrtFrom n k (r + 2 ^ k) else isqrtFrom n k r

/-- The square root of `n` < 2^240 rounded down. -/
def isqrt (n : Nat) : Nat := isqrtFrom n 120 0

/-- The reciprocal, rounded once. -/
def fpRcp (x : Fp) : Fp :=
  match x with
  | .num s m e =>
    if m = 0 then .inf s else roundSticky s (2 ^ 90 / m) (-90 - e) (2 ^ 90 % m != 0)
  | .inf s => .num s 0 0
  | y => y

/-- The square root, rounded once. -/
def fpSqrt (x : Fp) : Fp :=
  match x with
  | .num s m e =>
    if m = 0 then .num s 0 0
    else if s then .nan
    else
      let m := if e % 2 = 0 then m else 2 * m
      let e := if e % 2 = 0 then e else e - 1
      let r := isqrt (m * 2 ^ 64)
      roundSticky false r (e / 2 - 32) (r * r != m * 2 ^ 64)
  | .inf s => if s then .nan else .inf false
  | y => y

/-- The reciprocal square root, rounded once. -/
def fpRsqrt (x : Fp) : Fp :=
  match x with
  | .num s m e =>
    if m = 0 then .inf s
    else if s then .nan
    else
      let m := if e % 2 = 0 then m else 2 * m
      let e := if e % 2 = 0 then e else e - 1
      let r := isqrt (2 ^ 160 / m)
      roundSticky false r (-80 - e / 2) (r * r * m != 2 ^ 160)
  | .inf s => if s then .nan else .num false 0 0
  | y => y

/-! ### Minimum and maximum (R45) -/

/-- Is `a` below `b`, −0 below +0? Of finite values and infinities. -/
def Fp.below (a b : Fp) : Bool :=
  match a, b with
  | .inf s, .inf t => s && !t
  | .inf s, _ => s
  | _, .inf t => !t
  | _, _ =>
    match a.add b.flip with
    | .num d m _ => if m = 0 then a.isNeg && !b.isNeg else d
    | _ => false

/-- IEEE minimum; NaN and poison propagate, poison first. -/
def fpMin (a b : Fp) : Fp :=
  if a = .poison ∨ b = .poison then .poison else if a = .nan ∨ b = .nan then .nan else if b.below a then b else a

/-- IEEE maximum; NaN and poison propagate, poison first. -/
def fpMax (a b : Fp) : Fp :=
  if a = .poison ∨ b = .poison then .poison else if a = .nan ∨ b = .nan then .nan else if a.below b then b else a

/-! ### exp2, log2, tanh, erf (R47) -/

/-- E[i]. -/
def coefE : List Nat := [0x3F800000, 0x3F317218, 0x3E75FDF0, 0x3D635847, 0x3C1D955B, 0x3AAEC3FF, 0x39218489, 0x377FE5FE]
/-- L[i]. -/
def coefL : List Nat := [0x4038AA3B, 0x3F76384F, 0x3F13BB63, 0x3ED30BB1, 0x3EA4258A]
/-- H[i]. -/
def coefH : List Nat := [0x3F800000, 0xBEAAAAAB, 0x3E088889, 0xBD5D0DD1, 0x3CB327A4, 0xBC11371B]
/-- F[i]. -/
def coefF : List Nat :=
  [0x3F906EBB, 0xBEC093A3, 0x3DE71791, 0xBCDC1672, 0x3BAB2DE7, 0xBA6016DA, 0x38FCD193, 0xB77A692E, 0x35DCF365,
    0xB42FBA17, 0x327E62B9]
/-- G[j][i]. -/
def coefG (j : Nat) : List Nat :=
  match j with
  | 0 => [0x3F636D69, 0x3EA2F4CE, 0xBEB75368, 0x3E2659E8, 0x3CE52842, 0xBD7B2E8B, 0x3C7E8E36, 0x3C1D663C, 0xBBC5A1E2]
  | 1 => [0x3F72BB46, 0x3E2E72CB, 0xBE6FDDD7, 0x3E21BA6C, 0xBCF9DC6B, 0xBCFAB962, 0x3CB58B7B, 0xBAB9FFD5, 0xBB8BA024]
  | 2 => [0x3F7A7B4A, 0x3DA4CEA4, 0xBE05E7E5, 0x3DEB318F, 0xBD4BA602, 0xBB0BEA18, 0x3C6C2BF9, 0xBBCAA558, 0xBA1721F7]
  | 3 => [0x3F7DF30F, 0x3D09675A, 0xBD80D0E4, 0x3D8A1E8E, 0xBD2D18B3, 0x3C3BCD8F, 0x3B8684CE, 0xBBA17E5D, 0x3ABB7FAC]
  | 4 => [0x3F7F5211, 0x3C4A3127, 0xBCD6D43A, 0x3D07523B, 0xBCD7F2AA, 0x3C4CB9DA, 0xBAEEBC77, 0xBAF501DE, 0x3AB55160]
  | 5 => [0x3F7FCCB0, 0x3B8348C6, 0xBC1BE66B, 0x3C60F608, 0xBC572CB1, 0x3C08ED72, 0xBB4C1594, 0x390141F0, 0x3A1BBE23]
  | 6 => [0x3F7FF28A, 0x3A96744C, 0xBB4578A4, 0x3BA03FDF, 0xBBB16A63, 0x3B8A3626, 0xBB133F9E, 0x3A327C49, 0x38114F78]
  | 7 => [0x3F7FFCDD, 0x399829C8, 0xBA5ABC0F, 0x3AC4F0BE, 0xBAF6A564, 0x3AE08F94, 0xBA956E8E, 0x3A0A8FBC, 0xB90E3200]
  | 8 => [0x3F7FFF5A, 0x3887CF0E, 0xB9543385, 0x39D1B9BF, 0xBA122A28, 0x3A173F3B, 0xB9ED24B7, 0x398BB67B, 0xB8E95636]
  | 9 => [0x3F7FFFE2, 0x3755F04F, 0xB83482C3, 0x38C22918, 0xB914C7C7, 0x392BBABC, 0xB9198556, 0x38D64CCC, 0xB8660ABC]
  | 10 => [0x3F7FFFFB, 0x3614B538, 0xB706C43B, 0x379CA590, 0xB802BB05, 0x38260FF2, 0xB825CC10, 0x38042E08, 0xB7A8851E]
  | _ => [0x3F7FFFFF, 0x34B670D5, 0xB5B0BD4E, 0x365CAFD2, 0xB6C70FE2, 0x3709B8B9, 0xB7175948, 0x3706C61B, 0xB6C442B5]

/-- A polynomial by Horner's rule, one fma a step, the last coefficient first. -/
def horner (x : Fp) : List Nat → Fp
  | [] => .zero
  | [c] => f32 c
  | c :: r => (horner x r).fma32 x (f32 c)

/-- One. -/
def fpOne : Fp := f32 0x3F800000

/-- exp2 of a value that is not NaN or poison. -/
def fpExp2 (x : Fp) : Fp :=
  match x with
  | .num s m e =>
    if !x.below (.num false 128 0) then .inf false
    else if x.below (.num true 150 0) then .zero
    else
      let n := roundInt s m e none
      let f := x.add (.num (decide (0 < n)) n.natAbs 0)
      ((horner f coefE).scale n).round32
  | .inf s => if s then .zero else .inf false
  | y => y

/-- log2 of a value that is not NaN or poison. -/
def fpLog2 (x : Fp) : Fp :=
  match x with
  | .num s m e =>
    if m = 0 then .inf true
    else if s then .nan
    else
      let k : Int := Nat.log2 m
      let half := (f32 0x3FB504F3).below (.num false m (-k))
      let y : Fp := .num false m (if half then -k - 1 else -k)
      let ex : Int := if half then e + k + 1 else e + k
      let t := (y.add32 fpOne.flip).mul32 (fpRcp (y.add32 fpOne))
      (horner (t.mul32 t) coefL).fma32 t (.num (decide (ex < 0)) ex.natAbs 0)
  | .inf s => if s then .nan else .inf false
  | y => y

/-- Is a magnitude at least `n` quarters? -/
def atLeast (n : Nat) (a : Fp) : Bool := !a.below (.num false n (-2))

/-- tanh of a value that is not NaN or poison. -/
def fpTanh (x : Fp) : Fp :=
  let a := x.signed false
  let r :=
    if atLeast 40 a then fpOne
    else if atLeast 1 a then
      let y := fpExp2 (((f32 0x40000000).mul32 a).mul32 (f32 0x3FB8AA3B))
      (f32 0xC0000000).fma32 (fpRcp (y.add32 fpOne)) fpOne
    else (horner (a.mul32 a) coefH).mul32 a
  r.signed x.isNeg

/-- floor(4a) of a finite magnitude. -/
def quarters : Fp → Nat
  | .num _ m e => if 0 ≤ e + 2 then m * 2 ^ (e + 2).toNat else m / 2 ^ (-(e + 2)).toNat
  | _ => 0

/-- erf of a value that is not NaN or poison. -/
def fpErf (x : Fp) : Fp :=
  let a := x.signed false
  let r :=
    if atLeast 16 a then fpOne
    else if atLeast 4 a then
      let j := quarters a - 4
      horner (a.add (.num true (9 + 2 * j) (-3))) (coefG j)
    else (horner (a.mul32 a) coefF).mul32 a
  r.signed x.isNeg

/-! ### One element, and the reductions -/

/-- An elementwise operation with the rules of R28, R30 and R47 for poison and NaN around it. -/
def guarded (g : List Fp → Fp) (l : List Fp) : Fp :=
  if l.any fun x => x == .poison then .poison else if l.any fun x => x == .nan then .nan else g l

/-- The reduction operators of R46. -/
inductive RedOp where
  | sum | max | min
  deriving DecidableEq, Repr

/-- The identity of a reduction. -/
def RedOp.unit : RedOp → Fp
  | .sum => .num true 0 0
  | .max => .inf true
  | .min => .inf false

/-- One node of a reduction. -/
def RedOp.node : RedOp → Fp → Fp → Fp
  | .sum => Fp.add32
  | .max => fpMax
  | .min => fpMin

/-- One level of the tree: neighbours by index. -/
def pairUp (o : RedOp) : List Fp → List Fp
  | a :: b :: r => o.node a b :: pairUp o r
  | l => l

/-- `k` levels of the tree. -/
def reduceLevels (o : RedOp) : Nat → List Fp → List Fp
  | 0, l => l
  | k + 1, l => reduceLevels o k (pairUp o l)

/-- The number of levels over `n` leaves: the exponent of the smallest power of two at or above `n`. -/
def levels (n : Nat) : Nat := if n ≤ 1 then 0 else Nat.log2 (n - 1) + 1

/-- The reduction of R46. -/
def reduce (o : RedOp) (l : List Fp) : Fp :=
  let k := levels l.length
  if l.isEmpty then o.unit
  else (reduceLevels o k (l ++ List.replicate (2 ^ k - l.length) o.unit)).headD o.unit

/-- OVF of a result (R32): infinite, from finite operands. -/
def newInf (args : List Fp) (r : Fp) : Bool :=
  (match r with | .inf _ => true | _ => false) && args.all Fp.finite

/-- NAN of a result (R32): poisoned, or NaN from operands that are not. -/
def newNan (args : List Fp) (r : Fp) : Bool := r == .poison || (r == .nan && args.all fun x => x != .nan)

end Sys2Proof.Machine
end

