-- ==== Sys2Proof/Machine/Turner.lean ====
section
/-! DEFINITION. The turner: ownership (R86), availability (R87), disabling and the self-test (R88). -/

namespace Sys2Proof.Machine

/-- TN_STAT.REASON of turner `t` (R87): 0 none, 1 REDUCED, 2 DISABLED, 3 TEST, 4 FAILED. -/
def State.turnerReason (s : State) (t : Nat) : Nat :=
  if (s.turner t).failed then 4
  else if s.rd .ER_SERVICE_STATE ≠ 3 then 1
  else if s.flag .TN_CTL_DISABLE t then 2
  else if s.flag .TN_CTL_TEST t then 3
  else 0

/-- TN_STAT.AVAIL of turner `t` (R87). -/
def State.turnerAvail (s : State) (t : Nat) : Bool := s.turnerReason t == 0

/-- Is an instruction in progress turner-routed: W_TURN for the weight engine, X_TURN for the feed engine (R106)? -/
def turnRouted (q : Nat) (w : Work) : Bool :=
  w.kind == .pass && bit (fld w.desc 4 4) (if qClass q = 2 then 24 else 25)

/-- Has every turner-routed instruction of queue `q` that has issued delivered its last row (R86)? -/
def State.turnedAll (s : State) (q : Nat) : Bool :=
  (s.queue q).work.all fun w => w.done || w.ready || !turnRouted q w

/-- A refused TURN.HOLD (R86). -/
def State.refuseHold (s : State) (t q : Nat) (c : E) (pc : Nat) : State :=
  (s.addSat .TN_REFUSE_CNT_COUNT t 1).engineFault q (.of c) pc

/-- TURN.HOLD of queue `q` of thresher `t` (R86). -/
def State.hold (s : State) (t q : Nat) (i : Ins) : State :=
  let me := ownerCode (qClass q)
  let o := s.rdi .TN_STAT_OWNER t
  if o = me then s.retire q i
  else if o ≠ 0 then s.refuseHold t q .turnerBusy i.pc
  else if s.turnerAvail t then (s.wri .TN_STAT_OWNER t me).retire q i
  else s.refuseHold t q .turnerOff i.pc

/-- TURN.FREE of queue `q` of thresher `t` (R86): by the owner, once its turner-routed instructions have delivered. -/
def State.free (s : State) (t q : Nat) (i : Ins) : State :=
  if s.rdi .TN_STAT_OWNER t = ownerCode (qClass q) then
    if s.turnedAll q then (s.wri .TN_STAT_OWNER t 0).retire q i else s
  else (s.wri .TN_STAT_STRAY_FREE t 1).retire q i

/-- May instruction `id` of queue `q` use the turner: has every earlier turner-routed one of the queue done so (R86)? -/
def State.mayTurn (s : State) (q id : Nat) : Bool :=
  (s.queue q).work.all fun w => decide (id ≤ w.id) || w.done || w.ready || !turnRouted q w

/-- What the SECDED of a turner's banks finds in one square: counted and logged (R89). -/
def countCode (t : Nat) (s : State) (c : Code) : State :=
  match c with
  | .clean => s
  | .corrected => (s.addSat .TN_ECC_CE t 1).raise .turnerCe 7 t 0 0 0
  | .uncorrectable => (s.addSat .TN_ECC_UE t 1).raise .turnerUe 7 t 0 0 0

/-- `n` squares pass turner `t`: what its banks find in them, the first square first (R89), and the state behind. -/
def State.passBanks (s : State) (t n : Nat) : List Code × State :=
  let l := (s.turner t).banks.take n
  (l, (l.foldl (countCode t) s).updTurner t fun x => { x with banks := x.banks.drop n })

/-- TURN.HOLD of the feed engine (R86). -/
def execTurnHoldFeed (t : Fin 8) (s : State) : Host.Outcome State Fault Refusal :=
  .next (issue (thrQ t 1) 0x31 s fun i s => s.hold t (thrQ t 1) i)

/-- TURN.FREE of the feed engine (R86). -/
def execTurnFreeFeed (t : Fin 8) (s : State) : Host.Outcome State Fault Refusal :=
  .next (issue (thrQ t 1) 0x32 s fun i s => s.free t (thrQ t 1) i)

/-- TURN.HOLD of the weight engine (R86). -/
def execTurnHoldWeight (t : Fin 8) (s : State) : Host.Outcome State Fault Refusal :=
  .next (issue (thrQ t 2) 0x41 s fun i s => s.hold t (thrQ t 2) i)

/-- TURN.FREE of the weight engine (R86). -/
def execTurnFreeWeight (t : Fin 8) (s : State) : Host.Outcome State Fault Refusal :=
  .next (issue (thrQ t 2) 0x42 s fun i s => s.free t (thrQ t 2) i)

/-- A host write that reaches the registers of thresher `t`, whose domain is on (R257). -/
def State.byThrHost (s : State) (t : Nat) (k : State → State) : State :=
  s.byHost fun s => if s.domainOff (thrDomain t) then s else k s

/-- A write of TN_CTL.DISABLE (R88). -/
def execTnDisable (t : Fin 8) (disable : Bool) (s : State) : Host.Outcome State Fault Refusal :=
  .next (s.byThrHost t fun s =>
    if disable && s.flag .TN_STAT_OWNER t then s.wri .TN_STAT_CTL_REFUSED t 1
    else s.wri .TN_CTL_DISABLE t (b2n disable))

/-- A write of 1 to TN_CTL.TEST (R88). -/
def execTnTest (t : Fin 8) (s : State) : Host.Outcome State Fault Refusal :=
  .next (s.byThrHost t fun s =>
    if s.flag .TN_STAT_OWNER t then s.wri .TN_STAT_CTL_REFUSED t 1 else s.wri .TN_CTL_TEST t 1)

/-- The self-test of turner `t` ends (R88): its result, and FAILED until reset where it failed. -/
def execTurnerTestDone (t : Fin 8) (pass : Bool) (s : State) : Host.Outcome State Fault Refusal :=
  .next (
    if s.flag .TN_CTL_TEST t then
      let s := (s.wri .TN_CTL_TEST t 0).wri .TN_STAT_TEST_PASS t (b2n pass)
      if pass then s else s.updTurner t fun x => { x with failed := true }
    else s)

end Sys2Proof.Machine
end

