-- ==== Sys2Proof/Machine/Passes.lean ====
section
/-! DEFINITION. The data of a pass: its descriptor (R106), the placement of its operands (R78 to R80, R85), their reading
with masks (R62, R63) and poison (R30, R135), the column results (R34, R36, R79), and what the drain writes (R42, R81,
R82, R106, R220). -/

namespace Sys2Proof.Machine

/-! ### The pass descriptor (R106) -/

/-- The fields of a pass descriptor. -/
structure PassDesc where
  part : Nat
  wFmt : Nat
  xFmt : Nat
  outFmt : Nat
  steps : Nat
  wTurn : Bool
  xTurn : Bool
  wTurned : Bool
  xTurned : Bool
  sumEn : Bool
  rnd : Bool
  guard : Bool
  out2 : Bool
  kOrigin : Nat
  kExt : Nat
  nExt : Nat
  wSrc : Nat
  wStride : Nat
  xSrc : Nat
  xStride : Nat
  out : Nat
  outStride : Nat
  sumin : Nat
  exp : Nat
  out2At : Nat
  aux : Nat
  deriving DecidableEq, Repr

/-- The fields of a 64-byte pass descriptor. -/
def PassDesc.ofWord (w : Nat) : PassDesc :=
  { part := bits w 0 10, wFmt := bits w 16 4, xFmt := bits w 20 4, outFmt := bits w 24 4, steps := fld w 4 3,
    wTurn := bit w 56, xTurn := bit w 57, wTurned := bit w 58, xTurned := bit w 59, sumEn := bit w 60,
    rnd := bit w 61, guard := bit w 62, out2 := bit w 63, kOrigin := fld w 8 4, kExt := fld w 12 2,
    nExt := fld w 14 2, wSrc := fld w 16 4, wStride := fld w 20 4, xSrc := fld w 24 4, xStride := fld w 28 4,
    out := fld w 32 8, outStride := fld w 40 4, sumin := fld w 44 4, exp := fld w 48 4, out2At := fld w 52 4,
    aux := fld w 56 8 }

/-- The number of pieces of 32 in `n`. -/
def blocksOf (n : Nat) : Nat := (n + 31) / 32

/-- Bytes of one line: an MX block, or 32 elements of BF16 (R78). -/
def lineBytes (c : Nat) : Nat := if c = 2 then 64 else unitBytes c

/-- An operand as its channel reads it: format, first line's loft offset, stride, the extents across lines and along
them, and whether its source is turned squares. Lines (or squares) follow one another with the blocks of one line of the
tensor first (assumption log entry 40). -/
structure Operand where
  fmt : Nat
  src : Nat
  stride : Nat
  outer : Nat
  inner : Nat
  turned : Bool
  deriving DecidableEq, Repr

/-- The stationary operand (R79, R80): along, a line runs along the contraction of one column; across, along the
columns of one contraction position. -/
def PassDesc.weights (d : PassDesc) : Operand :=
  if d.wTurn || d.wTurned then ⟨d.wFmt, d.wSrc, d.wStride, d.kExt, d.nExt, d.wTurned⟩
  else ⟨d.wFmt, d.wSrc, d.wStride, d.nExt, d.kExt, false⟩

/-- The feed: along, a line runs along the contraction of one step; across, along the steps of one contraction
position. -/
def PassDesc.feed (d : PassDesc) : Operand :=
  if d.xTurn || d.xTurned then ⟨d.xFmt, d.xSrc, d.xStride, d.kExt, d.steps, d.xTurned⟩
  else ⟨d.xFmt, d.xSrc, d.xStride, d.steps, d.kExt, false⟩

/-- Lines, or squares, an operand has, and the bytes of each. -/
def Operand.shape (o : Operand) : Nat × Nat :=
  if o.turned then (blocksOf o.outer * blocksOf o.inner, 32 * lineBytes o.fmt)
  else (o.outer * blocksOf o.inner, lineBytes o.fmt)

/-- The span of an operand in the loft of thresher `t` (R140). -/
def Operand.span (o : Operand) (t : Nat) : Option Span :=
  spanOf 1 t o.src o.shape.2 [(o.shape.1, (o.stride : Int))]

/-- Squares of an operand. -/
def Operand.squares (o : Operand) : Nat := blocksOf o.outer * blocksOf o.inner

/-! ### Reading operands -/

/-- The parity of a number's bits, which a weight register keeps beside it (R51; even parity is a DESIGN CHOICE,
assumption log entry 96). -/
def codeParity (c : Nat) : Bool := (List.range 16).foldl (fun b i => b != bit c i) false

/-- A cell as it is read. -/
def Cell.read (code scale : Nat) (bad : Bool) : Cell := ⟨code, scale, bad, codeParity code⟩

/-- A cell that holds +0 (R57). -/
def Cell.zero : Cell := .read 0 127 false

/-- Does a cell's parity bit hold (R74)? -/
def Cell.sound (x : Cell) : Bool := x.parity == codeParity x.code

/-- The 32 cells of a line (R26, R27, R135). -/
def lineCells (c : Nat) (l : List PByte) : List Cell :=
  let v := pNat l
  if c = 2 then (List.range 32).map fun i => Cell.read (bits v (16 * i) 16) 127 (anyBad ((l.drop (2 * i)).take 2))
  else
    let k := bits v (8 * (unitBytes c - 1)) 8
    (List.range 32).map fun i => Cell.read (blockElem c v i) k (anyBad l)

/-- The bytes of a field of a turned square, and its elements' width (R85). -/
def fieldShape (c : Nat) : Nat × Nat := if c = 2 then (64, 16) else (unitBytes c - 1, (fmtOf c).width)

/-- Line `i` of a turned square (R85): element `i` of each of its 32 fields, and for MX its scale byte; poison is carried
line by line, for BF16 element by element. -/
def turnedLine (c i : Nat) (l : List PByte) : List Cell :=
  let (n, w) := fieldShape c
  let b := w * i / 8
  let m := (w * i + w - 1) / 8 + 1 - b
  let field (j : Nat) : List PByte := (l.drop (n * j)).take n
  let sc : List PByte := if c = 2 then [] else (l.drop (32 * n + i)).take 1
  let bad (j : Nat) : Bool := anyBad (((field j).drop b).take m)
  let line := anyBad sc || (List.range 32).any bad
  (List.range 32).map fun j =>
    .read (bits (pNat (field j)) (w * i) w) (if c = 2 then 127 else pNat sc) (if c = 2 then bad j else line)

/-- The offset of line or square `k`. -/
def Operand.at (o : Operand) (k : Nat) : Nat := o.src + k * o.stride

/-- The cells of outer position `a`, along its lines (R62: positions beyond the extents are not read). -/
def State.readLines (s : State) (view : View) (t : Nat) (o : Operand) (a : Nat) : List Cell :=
  let n := blocksOf o.inner
  ((List.range n).flatMap fun b =>
    if o.turned then turnedLine o.fmt (a % 32) (s.readAt view 1 t (o.at (a / 32 * n + b)) o.shape.2)
    else lineCells o.fmt (s.readAt view 1 t (o.at (a * n + b)) o.shape.2)).take o.inner

/-- Every line of an operand checked as it is read (R134). -/
def State.senseOperand (s : State) (view : View) (t : Nat) (o : Operand) : State :=
  if s.flaws.isEmpty then s
  else (List.range o.shape.1).foldl (fun s k => s.senseAt view 1 t (o.at k) o.shape.2) s

/-- An operand's cells by outer position. -/
def State.readGrid (s : State) (view : View) (t : Nat) (o : Operand) : List (List Cell) :=
  (List.range o.outer).map (s.readLines view t o)

/-- A grid with every cell poisoned whose square the turner delivers poisoned (R89): the squares in the order of
`Operand`. -/
def Operand.spoil (o : Operand) (codes : List Code) (g : List (List Cell)) : List (List Cell) :=
  if codes.isEmpty then g
  else
    (List.range g.length).zip g |>.map fun r => (List.range r.2.length).zip r.2 |>.map fun x =>
      if codes.getD (r.1 / 32 * blocksOf o.inner + x.1 / 32) .clean == .uncorrectable then { x.2 with bad := true } else x.2

/-- An operand read by its channel (R134): by outer position, with its squares through the turner where it is
turner-routed (R83, R89); and the state behind. -/
def State.takeOperand (s : State) (view : View) (t : Nat) (o : Operand) (routed : Bool) : List (List Cell) × State :=
  let s := s.senseOperand view t o
  let g := s.readGrid view t o
  if routed then
    let x := s.passBanks t o.squares
    (o.spoil x.1 g, x.2.addWrap .TN_SQUARE_CNT_COUNT t o.squares)
  else (g, s)

/-- Columns of a grid as rows. -/
def turnGrid (n : Nat) (g : List (List Cell)) : List (List Cell) :=
  (List.range n).map fun i => g.map fun r => r.getD i Cell.zero

/-- The stationary operand, from its grid, by contraction position. -/
def PassDesc.tileOf (d : PassDesc) (g : List (List Cell)) : Tile :=
  ⟨d.wFmt, if d.wTurn || d.wTurned then g else turnGrid d.kExt g⟩

/-- The feed, from its grid, by stream step. -/
def PassDesc.stepsOf (d : PassDesc) (g : List (List Cell)) : List (List Cell) :=
  if d.xTurn || d.xTurned then turnGrid d.steps g else g

/-- Is a cell's operand poisoned as read (R26, R28, R31, R135)? -/
def cellPoisoned (c : Nat) (x : Cell) : Bool := x.bad || if c = 2 then x.code == 0x7FFF else x.scale == 0xFF

/-- Does a grid hold a poisoned operand? -/
def gridPoisoned (c : Nat) (g : List (List Cell)) : Bool := g.any fun r => r.any (cellPoisoned c)

/-- The first row of a grid with a poisoned operand; the number of rows where there is none. -/
def firstPoisoned (c : Nat) : List (List Cell) → Nat
  | [] => 0
  | r :: g => if r.any (cellPoisoned c) then 0 else firstPoisoned c g + 1

/-- The operand value of a cell in a chunk: an MX element that encodes NaN or infinity is poison there (R30). -/
def cellValue (c : Nat) (x : Cell) : Fp :=
  if cellPoisoned c x then .poison
  else
    match (fmtOf c).value x.code with
    | .num s m e => .num s m e
    | y => if c = 2 then y else .poison

/-- The scale exponent of a cell; BF16 takes zero (R34). -/
def cellExp (x : Cell) : Int := (x.scale : Int) - 127

/-! ### Column results (R36) -/

/-- The terms of column `n` at one stream step, in contraction order. -/
def stepTerms (xf : Nat) (xs : List Cell) (w : Tile) (n : Nat) : List Term :=
  List.zipWith (fun x r =>
    let y := r.getD n Cell.zero
    ⟨cellValue xf x, cellValue w.fmt y, cellExp x + cellExp y⟩) xs w.rows

/-- A column result, and the flags of R32 it raises: OVF, NAN. -/
structure ColOut where
  val : Fp
  ovf : Bool
  nan : Bool
  deriving DecidableEq, Repr

/-- The chunks of a column: those of its positions, and, where a tile row of MXFP4 weights has its second slot all masked,
that chunk, which contributes +0 (R53, R63). -/
def columnChunks (wf : Nat) (ts : List Term) : List (List Term) :=
  let l := chunksOf 32 (blocksOf ts.length) ts
  if wf = 7 ∧ l.length % 2 = 1 then l ++ [[]] else l

/-- The result of column `n` at one step from its partial (R36). -/
def columnAt (xf : Nat) (xs : List Cell) (w : Tile) (init : Fp) (n : Nat) : ColOut :=
  let ts := stepTerms xf xs w n
  let r := columnResult init (columnChunks w.fmt ts)
  let args := init :: (ts.map Term.x ++ ts.map Term.w)
  ⟨r, newInf args r, newNan args r⟩

/-- The results of a pass by step and column. -/
def passResults (d : PassDesc) (w : Tile) (xs : List (List Cell)) (init : Nat → Nat → Fp) : List (List ColOut) :=
  (List.range xs.length).zip xs |>.map fun x => (List.range d.nExt).map fun n => columnAt d.xFmt x.2 w (init x.1 n) n

/-! ### What the drain writes -/

/-- A unit of output: the last of the positions (step by step, column by column) it is made of, where its bytes go, and
what it reports. -/
structure OutUnit where
  last : Nat
  space : Nat
  thr : Nat
  addr : Nat
  conv : Conv
  deriving DecidableEq, Repr

/-- The number of the position of step `t` and column `n` (R106). -/
def PassDesc.pos (d : PassDesc) (t n : Nat) : Nat := t * d.nExt + n

/-- The last position of a block of 32 steps of column `n`. -/
def PassDesc.blockEnd (d : PassDesc) (n b : Nat) : Nat := d.pos (min (32 * b + 31) (d.steps - 1)) n

/-- The value of a column at a step; zero beyond the extents (R81, R82). -/
def valueAt (y : List (List Fp)) (t n : Nat) : Fp := (y.getD t []).getD n .zero

/-- 32 consecutive values along the columns of step `t`. -/
def alongN (y : List (List Fp)) (t b : Nat) : List Fp := (List.range 32).map fun i => valueAt y t (32 * b + i)

/-- 32 consecutive values along the steps of column `n`. -/
def alongT (y : List (List Fp)) (n b : Nat) : List Fp := (List.range 32).map fun i => valueAt y (32 * b + i) n

/-- The units of OUT (R42, R82, R106): steps in rows of OUT_STRIDE, or GS16 blocks column by column. Draws count the
positions step by step, column by column (R106). -/
def PassDesc.outUnits (d : PassDesc) (dr : Option Draws) (entry : Nat → Nat) (log2p : Nat) (y : List (List Fp)) :
    List OutUnit :=
  let e := Ep.ofWord d.out
  let nb := blocksOf d.nExt
  let tb := blocksOf d.steps
  if d.outFmt = 8 then
    (List.range d.nExt).flatMap fun n => (List.range tb).map fun b =>
      ⟨d.blockEnd n b, e.space, e.thr, e.addr + 65 * (n * tb + b),
        gsBlock (entry (n * tb + b)) log2p (fun i => drawOf dr ((32 * b + i) * d.nExt + n)) (alongT y n b)⟩
  else if isMx d.outFmt then
    (List.range d.steps).flatMap fun t => (List.range nb).map fun b =>
      ⟨d.pos t (min (32 * b + 31) (d.nExt - 1)), e.space, e.thr, e.addr + t * d.outStride + b * unitBytes d.outFmt,
        mxBlock d.outFmt (b2n d.guard) (fun i => drawOf dr ((t * nb + b) * 32 + i)) (alongN y t b)⟩
  else
    (List.range d.steps).flatMap fun t => (List.range d.nExt).map fun n =>
      ⟨d.pos t n, e.space, e.thr, e.addr + t * d.outStride + n * unitBytes d.outFmt,
        wideElem d.outFmt (drawOf dr (d.pos t n)) (valueAt y t n)⟩

/-- The units of OUT2, the token-layout copy (R81, R106): column by column, its draws after those of OUT. -/
def PassDesc.out2Units (d : PassDesc) (t : Nat) (dr : Option Draws) (y : List (List Fp)) : List OutUnit :=
  let tb := blocksOf d.steps
  if d.out2 then
    (List.range d.nExt).flatMap fun n => (List.range tb).map fun b =>
      ⟨d.blockEnd n b, 1, t, d.out2At + unitBytes d.outFmt * (n * tb + b),
        mxBlock d.outFmt (b2n d.guard) (fun i => drawOf dr (d.steps * (32 * blocksOf d.nExt) + (n * tb + b) * 32 + i))
          (alongT y n b)⟩
  else []

/-- Bytes an engine puts out one after another. -/
structure Run where
  space : Nat
  thr : Nat
  addr : Nat
  data : List PByte
  deriving DecidableEq, Repr

/-- A run put before others, joined to the first where that follows it at once: what an engine puts out without a gap
counts as one write (R136; DESIGN CHOICE, assumption log entry 97). -/
def joinRun (r : Run) : List Run → List Run
  | [] => [r]
  | x :: l =>
    if x.space = r.space ∧ x.thr = r.thr ∧ x.addr = r.addr + r.data.length then { r with data := r.data ++ x.data } :: l
    else r :: x :: l

/-- Results written run by run (R73, R136). -/
def State.writeRuns (s : State) (view : View) (l : List Run) : State :=
  (l.foldr joinRun []).foldl (fun s r => s.writeResult view r.space r.thr r.addr r.data) s

/-- Units written, and what they report (R32, R220, R221). -/
def State.writeUnits (s : State) (view : View) (t bank : Nat) (l : List OutUnit) : State :=
  l.foldl (fun s u => s.noteConv t bank u.conv)
    (s.writeRuns view (l.map fun u => ⟨u.space, u.thr, u.addr, clean u.conv.bytes⟩))

/-- GS16 blocks a drain writes; none in another format. -/
def PassDesc.gsBlocks (d : PassDesc) : Nat := if d.outFmt = 8 then d.nExt * blocksOf d.steps else 0

/-- Bytes of sum-in a drain reads. -/
def PassDesc.sumBytes (d : PassDesc) : Nat := if d.sumEn then 4 * (d.steps * d.nExt) else 0

/-- The bytes of one step's output. -/
def PassDesc.rowBytes (d : PassDesc) : Nat :=
  if isMx d.outFmt then blocksOf d.nExt * unitBytes d.outFmt else d.nExt * unitBytes d.outFmt

/-- The exponent entry of a block (R220): a poisoned one is taken as 0xFF. -/
def entryOf (l : List PByte) (k : Nat) : Nat :=
  match l[k]? with
  | some b => if b.bad then 0xFF else b.val.toNat
  | none => 0

/-- The partial of step `t` and column `n` (R106, R135). -/
def partialOf (d : PassDesc) (l : List PByte) (t n : Nat) : Fp :=
  if d.sumEn then (unitValues 1 ((l.drop (4 * d.pos t n)).take 4)).headD .zero else .zero

/-- Poison over the whole destination range of a drain, in its format (R75, R76, R107). -/
def State.poisonDrain (s : State) (t : Nat) (bound : Option Nat) (d : PassDesc) : State :=
  let y := List.replicate d.steps (List.replicate d.nExt Fp.poison)
  s.writeUnits (s.viewOf bound) t (s.bankOf bound) (d.outUnits none (fun _ => 0) 0 y ++ d.out2Units t none y)

end Sys2Proof.Machine
end

