-- ==== Sys2Proof/Machine/Thresher.lean ====
section
/-! DEFINITION. Threshers: organisations (R55 to R58), the pass instructions with their checks and the forming of passes
(R106, R107), the swap with its stream and drain (R64), partition faults, drops and clears (R71, R74 to R77). -/

namespace Sys2Proof.Machine

/-! ### Organisations (R55 to R57) -/

/-- The place of partition `p` of thresher `t` in the organisation in force; none where it is not in force (R58). -/
def State.rectOf (s : State) (t p : Nat) : Option Rect :=
  if s.flag .TH_ORG_CUR_MODE t then (if p < 576 then Tbl.find s.org (partKey t p) else none) else if p = 0 then some ⟨0, 0, 24, 24⟩ else none

/-- Is a partition faulted? -/
def State.partFaulted (s : State) (t p : Nat) : Bool := s.rdi .TH_PART_STAT_STATE (partKey t p) == 3

/-- The staged entry `p` (R56). -/
def State.stagedRect (s : State) (t p : Nat) : Rect :=
  let k := partKey t p
  ⟨s.rdi .TH_PART_CFG_ROW_ORG k, s.rdi .TH_PART_CFG_COL_ORG k, s.rdi .TH_PART_CFG_HEIGHT k, s.rdi .TH_PART_CFG_WIDTH k⟩

/-- The enabled staged entries, in ascending order. -/
def State.stagedEntries (s : State) (t : Nat) : List (Nat × Rect) :=
  (List.range 576).filterMap fun p =>
    if s.flag .TH_PART_CFG_EN (partKey t p) then some (p, s.stagedRect t p) else none

/-- Does a rectangle lie within the grid (R55)? -/
def Rect.inGrid (r : Rect) : Bool :=
  decide (1 ≤ r.height) && decide (1 ≤ r.width) && decide (r.row + r.height ≤ 24) && decide (r.col + r.width ≤ 24)

/-- Do two rectangles share a tile? -/
def Rect.meets (a b : Rect) : Bool :=
  decide (a.row < b.row + b.height) && decide (b.row < a.row + a.height) && decide (a.col < b.col + b.width) &&
    decide (b.col < a.col + a.width)

/-- Do two rectangles of a list share a tile? -/
def anyMeet : List Rect → Bool
  | [] => false
  | r :: l => l.any r.meets || anyMeet l

/-- TH_ORG.STATUS of a commit (R56): the first check that fails, or OK. An earlier commit of the thresher that has not
taken effect makes it BUSY (R18). -/
def State.commitStatus (s : State) (t mode : Nat) : Nat :=
  let es := (s.stagedEntries t).map Prod.snd
  if !s.idleAll (upFrom (6 * t) 6) || s.modeBusy (.organisation t 0 []) then 1
  else if s.flag .TH_STAT_NFAULT t then 5
  else if mode = 0 then 0
  else if !es.all Rect.inGrid then 3
  else if anyMeet es then 2
  else if es.isEmpty then 4
  else 0

/-- The entries of a table without those of thresher `t`. -/
def dropThresher {α : Type} (t : Nat) (l : List (Nat × α)) : List (Nat × α) := l.filter fun e => e.1 / 576 != t

/-- An accepted commit (R57): every partition READY with +0 weights and no pass, freeze counters zero, tiles outside
every partition gated. `es` are the staged entries as the commit found them. -/
def State.applyOrg (s : State) (t mode : Nat) (es : List (Nat × Rect)) : State :=
  let es := if mode = 0 then [] else es
  let on (p : Nat) : Nat := if mode = 0 then b2n (p == 0) else b2n (es.any fun e => e.1 == p)
  let s : State := { s with
    org := es.foldl (fun o e => Tbl.put o (partKey t e.1) e.2) (dropThresher t s.org),
    parts := dropThresher t s.parts }
  let s := (List.range 576).foldl
    (fun s p => ((s.wri .TH_PART_STAT_STATE (partKey t p) (on p)).wri .TH_PART_STAT_CODE (partKey t p) 0).wri
      .TH_PART_FREEZE_COUNT (partKey t p) 0) s
  ((s.wri .TH_ORG_CUR_MODE t mode).wri .TH_ORG_NPART t (if mode = 0 then 1 else es.length)).wri .TH_STAT_GATED t
    (if mode = 0 then 0 else 576 - (es.map fun e => e.2.height * e.2.width).sum)

/-- A write of 1 to TH_ORG.COMMIT with MODE beside it (R56). -/
def execThOrgCommit (t : Fin 8) (mode : Fin 2) (s : State) : Host.Outcome State Fault Refusal :=
  .next (s.byThrHost t fun s =>
    let s := s.wri .TH_ORG_MODE t mode
    let st := s.commitStatus t mode
    let s := s.wri .TH_ORG_STATUS t st
    let es := s.stagedEntries t
    if st = 0 then s.orAfter (.organisation t mode es) fun s => s.applyOrg t mode es else s)

/-! ### Instructions of a pass in progress -/

/-- The part of a pass an engine plays. -/
inductive Role where
  | load | feed | drain
  deriving DecidableEq, Repr

/-- The queue of a role in thresher `t`. -/
def Role.queue (r : Role) (t : Nat) : Nat :=
  match r with
  | .load => thrQ t 2
  | .feed => thrQ t 1
  | .drain => thrQ t 3

/-- The instruction of a role in a pass. -/
def Pass.get (x : Pass) : Role → Option PassPart
  | .load => x.load
  | .feed => x.feed
  | .drain => x.drain

/-- The pass with the instruction of a role set. -/
def Pass.set (x : Pass) (r : Role) (p : PassPart) : Pass :=
  match r with
  | .load => { x with load := some p }
  | .feed => { x with feed := some p }
  | .drain => { x with drain := some p }

/-- Have all three instructions of a pass come? -/
def Pass.whole (x : Pass) : Bool := x.load.isSome && x.feed.isSome && x.drain.isSome

/-- How many instructions of a role have named the partition. -/
def Part.count (x : Part) : Role → Nat
  | .load => x.loads
  | .feed => x.feeds
  | .drain => x.drains

/-- One more instruction of a role has named the partition. -/
def Part.counted (x : Part) (r : Role) : Part :=
  match r with
  | .load => { x with loads := x.loads + 1 }
  | .feed => { x with feeds := x.feeds + 1 }
  | .drain => { x with drains := x.drains + 1 }

/-- Instruction `id` of queue `q` in progress. -/
def State.workOf (s : State) (q id : Nat) : Option Work := (s.queue q).work.find? fun w => w.id == id

/-- An instruction has done its part: it may complete (R96). -/
def State.markReady (s : State) (q id : Nat) : State := s.updWork q id fun w => { w with ready := true }

/-- An instruction discarded without a signal (R107); an END behind it may end the stream. -/
def State.dropWork (s : State) (q id : Nat) : State :=
  (s.updQueue q fun x => { x with work := x.work.filter fun w => w.id != id }).settleEnd q

/-- An instruction of a pass that ended in another's fault (R107): a drain writes poison, each completes and signals. -/
def State.endPart (s : State) (t : Nat) (r : Role) (id : Nat) : State :=
  match s.workOf (r.queue t) id with
  | none => s
  | some w =>
    let s := if r = .drain then s.poisonDrain t w.bound (.ofWord w.desc) else s
    s.markReady (r.queue t) id

/-- Every instruction of a pass that has come and has not done its part ends so. -/
def State.endPass (s : State) (t : Nat) (x : Pass) : State :=
  [Role.load, Role.feed, Role.drain].foldl
    (fun s r => match x.get r with
      | some p => if p.done then s else s.endPart t r p.id
      | none => s) s

/-- Every instruction of a pass that has come and has not completed is discarded (R107). -/
def State.discardPass (s : State) (t : Nat) (x : Pass) : State :=
  [Role.load, Role.feed, Role.drain].foldl
    (fun s r => match x.get r with
      | some p => (match s.workOf (r.queue t) p.id with
        | some w => if w.done || p.done then s else s.dropWork (r.queue t) p.id
        | none => s)
      | none => s) s

/-- A pass whose instructions all count as done, so that nothing acts on them again. -/
def Pass.settled (x : Pass) (m : PassMode) : Pass :=
  let d (p : PassPart) : PassPart := { p with done := true }
  { x with mode := m, load := x.load.map d, feed := x.feed.map d, drain := x.drain.map d }

/-- The ended passes at the head of a list that all three instructions have come to. -/
def endedHead : List Pass → Nat
  | [] => 0
  | x :: r => if x.mode ≠ .active ∧ x.whole then endedHead r + 1 else 0

/-- Ended passes at the head leave (R107). -/
def State.popPasses (s : State) (t p : Nat) : State :=
  let n := endedHead (s.part t p).passes
  s.updPart t p fun x => { x with passes := x.passes.drop n, base := x.base + n }

/-- The pass at the head replaced. -/
def State.setHead (s : State) (t p : Nat) (x : Pass) : State :=
  s.updPart t p fun y => { y with passes := x :: y.passes.drop 1 }

/-! ### The weight part (R51, R65, R66, R96) -/

/-- The head pass's tile goes into the shadow registers, which no earlier pass needs any more; with HALT_ON_POISON a
poisoned operand ends the pass before the swap (R31, R107). -/
def State.loadHead (s : State) (t p : Nat) (x : Pass) (w : Work) : State :=
  let d := PassDesc.ofWord w.desc
  let view := s.viewOf w.bound
  let (g, s) := s.takeOperand view t d.weights d.wTurn
  let tile := d.tileOf g
  if w.hop && gridPoisoned d.wFmt tile.rows then
    let s := (s.setHead t p (x.settled .faulted)).failWork (thrQ t 2) w.id (.of .poison)
    s.endPass t { x with load := none }
  else
    let s := s.updPart t p fun y => { y with shadow := some tile }
    (s.setHead t p (x.set .load ⟨w.id, true⟩)).markReady (thrQ t 2) w.id

/-- May an instruction of queue `q` take its operand: it is not turner-routed, or its turn at the turner has come (R86)? -/
def State.turnCome (s : State) (q : Nat) (w : Work) : Bool := !turnRouted q w || s.mayTurn q w.id

/-- What a partition does of itself: ended passes leave, and the oldest pass's tile is loaded, through the turner when its
turn has come. -/
def advancePart (t p : Nat) : Nat → State → State
  | 0, s => s
  | n + 1, s =>
    let s := s.popPasses t p
    match (s.part t p).passes with
    | [] => s
    | x :: _ =>
      match x.mode, x.load with
      | .active, some l =>
        if l.done then s
        else
          match s.workOf (thrQ t 2) l.id with
          | none => s
          | some w => if s.turnCome (thrQ t 2) w then advancePart t p n (s.loadHead t p x w) else s
      | _, _ => s

/-- The partition goes on as far as it can. -/
def State.advanceOne (s : State) (t p : Nat) : State := advancePart t p ((s.part t p).passes.length + 1) s

/-- The weight engine's oldest turner-routed load that has not delivered. -/
def State.turnNext (s : State) (t : Nat) : Option Work :=
  (s.queue (thrQ t 2)).work.find? fun w => !w.done && !w.ready && turnRouted (thrQ t 2) w

/-- The partitions whose loads the turner serves next go on, one after another (R86). -/
def advanceTurned (t : Nat) : Nat → State → State
  | 0, s => s
  | n + 1, s =>
    match s.turnNext t with
    | none => s
    | some w =>
      let s' := s.advanceOne t w.part
      if (s'.turnNext t).any fun x => x.id == w.id then s' else advanceTurned t n s'

/-- A partition goes on as far as it can, and then those whose turner-routed loads waited for it (R86). -/
def State.advancePasses (s : State) (t p : Nat) : State :=
  advanceTurned t ((s.queue (thrQ t 2)).work.length + 1) (s.advanceOne t p)

/-! ### Forming passes (R107) -/

/-- The pass the next instruction of a role forms, where one of its instructions has come. -/
def Part.nextPass (x : Part) (r : Role) : Option Pass := x.passes[x.count r - x.base]?

/-- Does an instruction's descriptor address differ from the address of the first of its pass? -/
def Part.mismatch (x : Part) (r : Role) (addr : Nat) : Bool :=
  match x.nextPass r with
  | none => false
  | some y => y.addr != addr

/-- The pass list with an instruction of a role put into its pass. -/
def Part.joined (x : Part) (r : Role) (addr : Nat) (q : PassPart) : Part :=
  let k := x.count r - x.base
  let l := match x.passes[k]? with
    | some y => x.passes.set k (y.set r q)
    | none => x.passes ++ [Pass.set ⟨addr, none, none, none, .active⟩ r q]
  { x.counted r with passes := l }

/-- An instruction that brings another address (R107): the others of its pass are discarded, and the pass ends. -/
def State.passMismatch (s : State) (t p : Nat) (r : Role) (addr : Nat) : State :=
  let x := s.part t p
  let s := match x.nextPass r with
    | none => s
    | some y => if y.mode = PassMode.active then s.discardPass t y else s
  let k := x.count r - x.base
  let s := s.updPart t p fun x => x.joined r addr ⟨0, true⟩
  let s := s.updPart t p fun x =>
    { x with passes := match x.passes[k]? with
        | some y => x.passes.set k (if y.mode = PassMode.active then y.settled .mismatched else y)
        | none => x.passes }
  s.advancePasses t p

/-- An instruction of a partition in force that another check of R101 ends (R107): it is counted in its pass, whose other
instructions end as for a fault, and one that has yet to come ends so when it comes. -/
def State.passError (s : State) (t p : Nat) (r : Role) (addr : Nat) : State :=
  let x := s.part t p
  let s := match x.nextPass r with
    | none => s
    | some y => if y.mode = PassMode.active then s.endPass t y else s
  let k := x.count r - x.base
  let s := s.updPart t p fun x => x.joined r addr ⟨0, true⟩
  let s := s.updPart t p fun x =>
    { x with passes := match x.passes[k]? with
        | some y => x.passes.set k (if y.mode = PassMode.active then y.settled .faulted else y)
        | none => x.passes }
  s.advancePasses t p

/-- A fault of a pass instruction at issue, in its pass (R107): where it names a partition in force that is not faulted. -/
def State.passFault (s : State) (t p : Nat) (r : Role) (addr : Nat) (c : E) : State :=
  if (s.rectOf t p).isNone || s.partFaulted t p then s
  else if c = .passMismatch then s.passMismatch t p r addr
  else s.passError t p r addr

/-- An issued instruction joins its pass (R107); a pass that has ended discards it, or ends it as R107 says. -/
def State.joinPass (s : State) (t p : Nat) (r : Role) (addr id : Nat) : State :=
  let y := (s.part t p).nextPass r
  let m : PassMode := match y with
    | some y => y.mode
    | none => .active
  let s := s.updPart t p fun x => x.joined r addr ⟨id, m != PassMode.active⟩
  let s := match m with
    | PassMode.active => s
    | .mismatched => s.dropWork (r.queue t) id
    | .faulted => s.endPart t r id
  s.advancePasses t p

/-! ### The checks (R106, R142) -/

/-- Items 4 to 6 of R142 for a pass descriptor. -/
def passFields (t : Nat) (r : Role) (w : Nat) : Chk Unit := do
  let d := PassDesc.ofWord w
  need (bits w 10 6 == 0 && bits w 28 4 == 0) .encoding
  match r with
  | .load => need (!(d.wTurn && d.wTurned) && decide (d.wSrc < 2 ^ 28)) .encoding
  | .feed => need (!(d.xTurn && d.xTurned) && decide (d.xSrc < 2 ^ 28)) .encoding
  | .drain =>
    let e := Ep.ofWord d.out
    need (epReservedOk d.out) .encoding
    need (e.space == 0 || (e.space == 1 && e.thr == t)) .descSpace
    need (decide (1 ≤ d.outFmt) && decide (d.outFmt ≤ 8) && (!d.out2 || (isMx d.outFmt && d.guard)) &&
      (!d.rnd || decide (2 ≤ d.outFmt)) && (!d.guard || isMx d.outFmt)) .descConv

/-- Is a format one of the operand formats 2 to 7? -/
def operandFmt (c : Nat) : Bool := decide (2 ≤ c) && decide (c ≤ 7)

/-- Item 7 of R142: the partition, the pairing (R33), the extents (R59), the chunk alignment (R37, R84), the pass. R84
names the origin in either dimension of the source tensor; the descriptor holds K_ORIGIN only, and it alone is judged
(DEDUCED, assumption log entry 98). -/
def State.passShape (s : State) (t : Nat) (r : Role) (addr : Nat) (d : PassDesc) : Chk Unit := do
  match s.rectOf t d.part with
  | none => .error (.of .partNone)
  | some z =>
    need (operandFmt d.wFmt && operandFmt d.xFmt && ((d.wFmt == 2) == (d.xFmt == 2))) .formatPair
    need (r == .drain || (decide (1 ≤ d.kExt) && decide (d.kExt ≤ (if d.wFmt = 7 then 64 else 32) * z.height))) .encoding
    need (r == .feed || (decide (1 ≤ d.nExt) && decide (d.nExt ≤ 32 * z.width))) .encoding
    need (r == .drain || d.kOrigin % 32 == 0) .chunkAlign
    need (s.partFaulted t d.part || !(s.part t d.part).mismatch r addr) .passMismatch

/-- The spans of a pass instruction, in the order of item 8 of R142. -/
def PassDesc.uses (d : PassDesc) (t : Nat) (r : Role) : List Use :=
  match r with
  | .load => [⟨d.weights.span t, false, 0⟩]
  | .feed => [⟨d.feed.span t, false, 0⟩]
  | .drain =>
    let e := Ep.ofWord d.out
    let out := if d.outFmt = 8 then spanOf e.space e.sub e.addr (65 * d.gsBlocks) []
      else spanOf e.space e.sub e.addr d.rowBytes [(d.steps, (d.outStride : Int))]
    [⟨spanOf 1 t d.sumin d.sumBytes [], false, 0⟩, ⟨out, true, 1⟩,
     ⟨if d.out2 then spanOf 1 t d.out2At (d.nExt * blocksOf d.steps * unitBytes d.outFmt) [] else none, true, 1⟩,
     ⟨spanOf 1 t d.exp d.gsBlocks [], false, 2⟩]

/-- Is the instruction turner-routed? -/
def PassDesc.turned (d : PassDesc) : Role → Bool
  | .load => d.wTurn
  | .feed => d.xTurn
  | .drain => false

/-- The address a pass instruction brings (R107): its effective descriptor address, with its space. -/
def Desc.key (d : Desc) : Nat := d.space * 2 ^ 42 + d.addr

/-- Check 7 of R101 for a pass instruction, after items 1 to 3. -/
def State.passCheck (s : State) (t : Nat) (r : Role) (bound : Option Nat) (x : Desc) : Chk Unit := do
  let d := PassDesc.ofWord x.word
  passFields t r x.word
  s.passShape t r x.key d
  s.checkUses bound (d.uses t r ++ [x.use]) (.ok ())
  need (!d.turned r || s.rdi .TN_STAT_OWNER t == ownerCode (qClass (r.queue t))) .turnerNotHeld

/-- Is a channel at a limit of R97: 4 in progress per partition, 64 per channel? -/
def State.channelFull (s : State) (q p : Nat) : Bool :=
  let l := (s.queue q).work.filter fun w => w.kind == .pass && !w.done
  decide (64 ≤ l.length) || decide (4 ≤ (l.filter fun w => w.part == p).length)

/-- A write that R205 holds: counted once per head instruction. -/
def State.hold205 (s : State) (q : Nat) : State :=
  if (s.queue q).held then s else (s.addWrap .PS_STALL_CNT_COUNT 0 1).updQueue q fun x => { x with held := true }

/-- A pass instruction that names a faulted partition (R76): nothing is read, a drain writes poison, DROP is set. -/
def State.dropPass (s : State) (t p : Nat) (r : Role) (id : Nat) : State :=
  (s.wri .TH_PART_STAT_DROP (partKey t p) 1).endPart t r id

/-- A pass instruction of thresher `t` (R106): its checks, its stalls (R97, R182, R205), then it is in progress. -/
def passIssue (t : Nat) (r : Role) (op : Nat) (s : State) : State :=
  let q := r.queue t
  issue q op s fun i s => withDesc q i s fun x s =>
    let bound := s.bindEpoch i
    let d := PassDesc.ofWord x.word
    match s.passCheck t r bound x with
    | .error f =>
      (s.passFault t d.part r x.key f.code).engineFault q f i.pc
    | .ok _ =>
      let us := d.uses t r
      let reads := usesSpans false (us ++ [x.use])
      if s.heldBy205 bound us then s.hold205 q
      else if s.mustStall q reads (usesSpans true us) (some d.part) || s.channelFull q d.part then s
      else
        let w := { newWork (s.queue q) i .pass bound with
          ready := false, desc := x.word, part := d.part, reads := usesSpans false us, writes := usesSpans true us }
        let s := s.goOn q i w
        if s.partFaulted t d.part then s.dropPass t d.part r w.id else s.joinPass t d.part r x.key w.id

/-- FE.FEED (R106). -/
def execFeFeed (t : Fin 8) (s : State) : Host.Outcome State Fault Refusal := .next (passIssue t .feed 0x30 s)

/-- WE.LOAD (R66, R106). -/
def execWeLoad (t : Fin 8) (s : State) : Host.Outcome State Fault Refusal := .next (passIssue t .load 0x40 s)

/-- DE.DRAIN (R106). -/
def execDeDrain (t : Fin 8) (s : State) : Host.Outcome State Fault Refusal := .next (passIssue t .drain 0x50 s)

/-! ### Swap, stream and drain (R64) -/

/-- A pass ready to swap: its tile is in the shadow registers, all its instructions have come, and a turner-routed feed
has its turn (R86). -/
structure Swap where
  pass : Pass
  feed : Work
  drain : Work
  deriving DecidableEq, Repr

/-- The pass of a partition that may swap now. -/
def State.swapOf (s : State) (t p : Nat) : Option Swap :=
  if s.partFaulted t p then none
  else
    match (s.part t p).passes with
    | [] => none
    | x :: _ =>
      match x.mode, x.load, x.feed, x.drain with
      | .active, some l, some f, some e =>
        if l.done then
          match s.workOf (thrQ t 1) f.id, s.workOf (thrQ t 3) e.id with
          | some f, some e => if s.turnCome (thrQ t 1) f then some ⟨x, f, e⟩ else none
          | _, _ => none
        else none
      | _, _, _, _ => none

/-- The tile is swapped in (R51): the old active contents are discarded, and the pass leaves the list. -/
def State.swapTile (s : State) (t p : Nat) : State :=
  s.updPart t p fun x =>
    { x with active := x.shadow, shadow := none, passes := x.passes.drop 1, base := x.base + 1 }

/-- The first position whose result a poisoned partial or exponent entry spoils, among those of the first `halt` steps
(R31, R220). -/
def PassDesc.firstBad (d : PassDesc) (halt : Nat) (sums exps : List PByte) : Option Nat :=
  let ps := (List.range halt).flatMap fun a => (List.range d.nExt).filterMap fun n =>
    if partialOf d sums a n == .poison then some (d.pos a n) else none
  let tb := blocksOf d.steps
  let es := (List.range d.gsBlocks).filterMap fun k =>
    let e := d.blockEnd (k / tb) (k % tb)
    if (exps[k]?).any PByte.bad && decide (e < d.pos halt 0) then some e else none
  (ps ++ es).min?

/-- A column result that is never formed: its step was not streamed (R107). -/
def ColOut.lost : ColOut := ⟨.poison, false, true⟩

/-- The drain part once the feed has streamed its first `halt` steps (R36, R61, R106): the columns are computed from their
partials, and the results written; those of the other steps are poison (R107). Where HALT_ON_POISON ends it at a
position, the results before it are written and the others not (R31). Every partial is read before any result is
written (DESIGN CHOICE for a result that falls on a later partial, assumption log entry 99). -/
def State.drainPass (s : State) (t : Nat) (w : Work) (tile : Tile) (xs : List (List Cell)) (halt : Nat)
    (sums exps : List PByte) (cut : Option Nat) : State :=
  let d := PassDesc.ofWord w.desc
  let bank := s.bankOf w.bound
  let before (k : Nat) : Bool := match cut with
    | none => true
    | some c => decide (k < c)
  let ys := passResults d tile (xs.take halt) (partialOf d sums) ++
    List.replicate (xs.length - halt) (List.replicate d.nExt ColOut.lost)
  let seen := ys.flatten.zip (List.range (d.pos d.steps 0)) |>.filter fun x => before x.2
  let s := s.raiseNum t bank (seen.any fun x => x.1.ovf) (seen.any fun x => x.1.nan)
  let y := ys.map fun r => r.map ColOut.val
  let dr := s.draws d.rnd d.aux
  let us := d.outUnits dr (entryOf exps) (s.rd .WN_RANK_CTL_LOG2P) y ++ d.out2Units t dr y
  s.writeUnits (s.viewOf w.bound) t bank (us.filter fun u => before u.last)

/-- A tile of +0 weights. -/
def Tile.none : Tile := ⟨2, []⟩

/-- Does the parity of every weight register of a tile hold (R74)? -/
def Tile.sound (x : Tile) : Bool := x.rows.all fun r => r.all Cell.sound

/-- The stream and the drain of a pass whose tile has been swapped in (R64): a feed halted at a poisoned operand ends the
stream there, a drain halted ends its writes; the other of the two completes (R31, R107). -/
def State.stream (s : State) (t : Nat) (tile : Tile) (x : Swap) : State :=
  let d := PassDesc.ofWord x.feed.desc
  let (g, s) := s.takeOperand (s.viewOf x.feed.bound) t d.feed d.xTurn
  let xs := d.stepsOf g
  let halt := if x.feed.hop then firstPoisoned d.xFmt xs else xs.length
  let e := PassDesc.ofWord x.drain.desc
  let view := s.viewOf x.drain.bound
  let s := s.senseAt view 1 t e.sumin e.sumBytes
  let s := s.senseAt view 1 t e.exp e.gsBlocks
  let sums := s.readAt view 1 t e.sumin e.sumBytes
  let exps := s.readAt view 1 t e.exp e.gsBlocks
  let cut := if x.drain.hop then e.firstBad halt sums exps else none
  let s := s.drainPass t x.drain tile xs halt sums exps cut
  if cut.isSome then (s.markReady (thrQ t 1) x.feed.id).failWork (thrQ t 3) x.drain.id (.of .poison)
  else
    let s := s.markReady (thrQ t 3) x.drain.id
    if halt < xs.length then s.failWork (thrQ t 1) x.feed.id (.of .poison) else s.markReady (thrQ t 1) x.feed.id

/-- The swap of a ready pass, and the stream and the drain behind it (R64). -/
def State.doSwap (s : State) (t p : Nat) (x : Swap) : State :=
  let s := s.swapTile t p
  (s.stream t ((s.part t p).active.getD .none) x).advancePasses t p

/-! ### Partition faults (R71, R74 to R77) -/

/-- An instruction of a pass that has not begun ends under R76: DROP is set. -/
def State.dropUnbegun (s : State) (t p : Nat) (x : Pass) : State :=
  let l := [Role.load, Role.feed, Role.drain].filter fun r => match x.get r with
    | some q => !q.done
    | none => false
  if l.isEmpty then s else (s.wri .TH_PART_STAT_DROP (partKey t p) 1).endPass t x

/-- A partition faults (R75). A pass that could swap is taken to have begun: its tile is in, its results poison. -/
def State.faultPart (s : State) (t p : Nat) (c : E) : State :=
  let k := partKey t p
  let begun := (s.swapOf t p).isSome
  let l := (s.part t p).passes
  let s := (((s.wri .TH_PART_STAT_STATE k 3).wri .TH_PART_STAT_CODE k c.val).addWrap .TH_STAT_NFAULT t 1).raise c 0 t p 0 0
  let s := if begun then s.swapTile t p else s
  let s := match begun, l with
    | true, x :: _ => s.endPass t x
    | _, _ => s
  let s := (if begun then l.drop 1 else l).foldl (fun s x => s.dropUnbegun t p x) s
  (s.updPart t p fun x => { x with passes := [] }).advancePasses t p

/-- SWAP (R64, R107): the pass whose shadow is complete swaps and runs; where the parity of a weight register that would
become active fails, the partition faults (R74). A drain that R205 holds waits, and one whose stack a safe clock holds in
self-refresh (R292). -/
def execSwap (t : Fin 8) (part : Fin 576) (s : State) : Host.Outcome State Fault Refusal :=
  match s.swapOf t part with
  | none => .next s
  | some x =>
    let us := (PassDesc.ofWord x.drain.desc).uses t .drain
    .next (
      if s.heldBy205 x.drain.bound us then s.hold205 (thrQ t 3)
      else if (usesSpans true us).any s.sleeps then s
      else if !((s.part t part).shadow.getD .none).sound then s.faultPart t part .cellParity
      else s.doSwap t part x)

/-- The code of a check of R74. -/
def causeCode : PartCause → E
  | .cellParity => .cellParity
  | .accResidue => .accResidue

/-- PARTITION_FAULT (R74, R75): a parity or residue check of a partition in force fails. -/
def execPartitionFault (t : Fin 8) (part : Fin 576) (cause : PartCause) (s : State) :
    Host.Outcome State Fault Refusal :=
  if (s.rectOf t part).isSome ∧ ¬ s.partFaulted t part then .next (s.faultPart t part (causeCode cause)) else .next s

/-- PART_STALL (R71): a streaming partition has been frozen for longer than TH_FREEZE_LIMIT; 0 disables the check. -/
def execPartStall (t : Fin 8) (part : Fin 576) (s : State) : Host.Outcome State Fault Refusal :=
  match s.swapOf t part with
  | none => .next s
  | some x =>
    if s.flag .TH_FREEZE_LIMIT_LIMIT t ∧ (PassDesc.ofWord x.feed.desc).steps ≠ 0 then
      .next (s.faultPart t part .partStall)
    else .next s

/-- TH_PART_CTL[p].CLEAR (R77, R309): a faulted partition has +0 weights, no pass, and is READY; its passes are numbered
afresh. -/
def execThPartClear (t : Fin 8) (part : Fin 576) (s : State) : Host.Outcome State Fault Refusal :=
  .next (s.byThrHost t fun s =>
    if s.partFaulted t part ∧ ¬ s.bayFaulted (thrBay t) ∧ ¬ s.fatal then
      let k := partKey t part
      let s := s.updPart t part fun _ => Part.empty
      ((s.wri .TH_PART_STAT_STATE k 1).wri .TH_PART_STAT_CODE k 0).wri .TH_STAT_NFAULT t (s.rdi .TH_STAT_NFAULT t - 1)
    else s)

end Sys2Proof.Machine
end

