-- ==== Sys2Proof/Machine/Vector.lean ====
section
/-! DEFINITION. The vector engine: its descriptor and checks (R108, R142), elementwise operations (R45, R47), reductions
(R46) and V.CVT (R38 to R42, R220), element by element in ascending order with HALT_ON_POISON (R31). -/

namespace Sys2Proof.Machine

/-- The fields of a vector descriptor (R108). -/
structure VecDesc where
  a : Nat
  b : Nat
  c : Nat
  d : Nat
  count : Nat
  srcFmt : Nat
  dstFmt : Nat
  rnd : Bool
  guard : Bool
  bImm : Option Nat
  cImm : Option Nat
  aStep : Int
  bStep : Int
  cStep : Int
  dStep : Int
  exp : Nat
  aux : Nat
  deriving DecidableEq, Repr

/-- The fields of a 64-byte vector descriptor. -/
def VecDesc.ofWord (w : Nat) : VecDesc :=
  { a := fld w 0 4, b := fld w 4 4, c := fld w 8 4, d := fld w 12 4, count := fld w 16 4, srcFmt := bits w 160 4,
    dstFmt := bits w 164 4, rnd := bit w 168, guard := bit w 169,
    bImm := if bit w 170 then some (fld w 24 4) else none, cImm := if bit w 171 then some (fld w 28 4) else none,
    aStep := sfld w 32, bStep := sfld w 36, cStep := sfld w 40, dStep := sfld w 44, exp := fld w 48 4, aux := fld w 56 8 }

/-- Are the reserved bits of a vector descriptor zero? -/
def vecReservedOk (w : Nat) : Bool := bits w 172 20 == 0 && fld w 52 4 == 0

/-- The address of element or block `i` of an operand of format `c` (R108). -/
def vecAt (base : Nat) (step : Int) (c i : Nat) : Nat := ((base : Int) + (i : Int) * (step * unitBytes c)).toNat

/-- The span of `n` units of an operand in the loft of thresher `t`. -/
def vecSpan (t base : Nat) (step : Int) (c n : Nat) : Option Span :=
  spanOf 1 t base (unitBytes c) [(n, step * unitBytes c)]

/-- A data operand: an address with its step, or a broadcast value. -/
inductive VecSrc where
  | at (base : Nat) (step : Int) | imm (v : Nat)
  deriving DecidableEq, Repr

/-- The data operands of an operation of `n` operands: A, then B and C unless immediate (R108). -/
def VecDesc.sources (d : VecDesc) (n : Nat) : List VecSrc :=
  let b : VecSrc := match d.bImm with
    | some v => .imm v
    | none => .at d.b d.bStep
  let c : VecSrc := match d.cImm with
    | some v => .imm v
    | none => .at d.c d.cStep
  [VecSrc.at d.a d.aStep, b, c].take n

/-- The FP32 value of element `i` of an operand (R135). -/
def State.vecValue (s : State) (view : View) (t i : Nat) : VecSrc → Fp
  | .at b st => (unitValues 1 (s.readAt view 1 t (vecAt b st 1 i) 4)).headD .zero
  | .imm v => (f32 v).round32

/-- Results on their way out: the state without those an engine still holds back, and those, which follow one another
without a gap and count as one write (R136; assumption log entry 97). -/
structure Sink where
  st : State
  pend : Option Run

/-- Everything held back is written. -/
def Sink.flush (x : Sink) (view : View) : Sink :=
  match x.pend with
  | none => x
  | some r => ⟨x.st.writeResult view r.space r.thr r.addr r.data, none⟩

/-- `n` bytes at an address of loft `t` are about to be read: what is held back of them is written first, and their words
are checked (R134). -/
def Sink.reading (x : Sink) (view : View) (t a n : Nat) : Sink :=
  let hit := x.pend.any fun r => r.space == 1 && r.thr == t && decide (a < r.addr + r.data.length) && decide (r.addr < a + n)
  let x := if hit then x.flush view else x
  { x with st := x.st.senseAt view 1 t a n }

/-- A result put behind what is held back, where it follows that at once. -/
def Sink.put (x : Sink) (view : View) (t a : Nat) (l : List Byte) : Sink :=
  match x.pend with
  | some r =>
    if r.space = 1 ∧ r.thr = t ∧ a = r.addr + r.data.length then { x with pend := some { r with data := r.data ++ clean l } }
    else { x.flush view with pend := some ⟨1, t, a, clean l⟩ }
  | none => { x with pend := some ⟨1, t, a, clean l⟩ }

/-- What a vector instruction does with its descriptor: the instruction's part of an issue that passed its checks. It
answers whether HALT_ON_POISON ended it (R31). -/
abbrev VecRun := Nat → VecDesc → Bool → View → Nat → State → State × Bool

/-- Element `i` of an operand is about to be read. -/
def Sink.readSrc (x : Sink) (view : View) (t i : Nat) : VecSrc → Sink
  | .at b st => x.reading view t (vecAt b st 1 i) 4
  | .imm _ => x

/-- Steps in ascending order until one halts; what they put out is written then. -/
def runSteps (view : View) (step : Nat → Sink → Sink × Bool) : List Nat → Sink → State × Bool
  | [], x => ((x.flush view).st, false)
  | i :: r, x =>
    match step i x with
    | (x, true) => ((x.flush view).st, true)
    | (x, false) => runSteps view step r x

/-- A result put out to an address of D, with its flags (R32). -/
def Sink.vecPut (x : Sink) (view : View) (t bank addr : Nat) (args : List Fp) (r : Fp) : Sink :=
  let x := x.put view t addr (leBytes 4 (fp32Fmt.code r none))
  { x with st := x.st.raiseNum t bank (newInf args r) (newNan args r) }

/-- An elementwise operation of `n` operands (R45, R47). -/
def vecMap (n : Nat) (g : List Fp → Fp) : VecRun := fun t d hop view bank s =>
  let srcs := d.sources n
  runSteps view (fun i x =>
    let x := srcs.foldl (fun x v => x.readSrc view t i v) x
    let args := srcs.map (x.st.vecValue view t i)
    if hop && (args.any fun x => x == .poison) then (x, true)
    else (x.vecPut view t bank (vecAt d.d d.dStep 1 i) args (guarded g args), false)) (List.range d.count) ⟨s, none⟩

/-- A reduction (R46): D[0] takes the value of the tree over the elements of A. With COUNT 0 the identity of V.RMAX or
V.RMIN, an infinity, counts as one from finite operands and sets OVF (DESIGN CHOICE, assumption log entry 100). -/
def vecReduce (o : RedOp) : VecRun := fun t d hop view bank s =>
  let x : VecSrc := .at d.a d.aStep
  let k := (List.range d.count).foldl (fun k i => k.readSrc view t i x) (Sink.mk s none)
  let args := (List.range d.count).map fun i => k.st.vecValue view t i x
  if hop && (args.any fun x => x == .poison) then (k.st, true)
  else (((k.vecPut view t bank d.d args (reduce o args)).flush view).st, false)

/-- Is a unit poisoned as read (R26, R28, R135)? -/
def unitPoisoned (c : Nat) (l : List PByte) : Bool :=
  anyBad l || if isBlock c then bits (pNat l) (8 * (unitBytes c - 1)) 8 == 0xFF else unitRaw c l == [.poison]

/-- Elements converted together: a block where either format has blocks, else one (R108). -/
def groupElems (a b : Nat) : Nat := if isBlock a || isBlock b then 32 else 1

/-- A group of values written in a format: a block, or one element after another (R38); `dr` gives each draw. -/
def encodeGroup (c guard entry log2p : Nat) (dr : Nat → Option Nat) (vs : List Fp) : List Conv :=
  if isBlock c then [encodeUnit c guard entry log2p dr vs]
  else (List.range vs.length).zip vs |>.map fun x => wideElem c (dr x.1) x.2

/-- OVF of a conversion through FP32 (R32, R38): an infinite FP32 or BF16 result whose element was finite before. -/
def groupOvf (c : Nat) (ls : List (List PByte)) (k : Nat) : Bool := !isBlock c && ls.any (unitOvf k)

/-- V.CVT (R38 to R42, R108, R220). -/
def vecConvert : VecRun := fun t d hop view bank s =>
  let g := groupElems d.srcFmt d.dstFmt
  let ns := g / unitElems d.srcFmt
  let nd := g / unitElems d.dstFmt
  let dr := s.draws d.rnd d.aux
  let log2p := s.rd .WN_RANK_CTL_LOG2P
  runSteps view (fun j x =>
    let addrs := (List.range ns).map fun k => vecAt d.a d.aStep d.srcFmt (j * ns + k)
    let x := addrs.foldl (fun x a => x.reading view t a (unitBytes d.srcFmt)) x
    let x := if d.dstFmt = 8 then x.reading view t (d.exp + j) 1 else x
    let s := x.st
    let ls := addrs.map fun a => s.readAt view 1 t a (unitBytes d.srcFmt)
    let e := if d.dstFmt = 8 then s.readAt view 1 t (d.exp + j) 1 else []
    if hop && (ls.any (unitPoisoned d.srcFmt) || anyBad e) then (x, true)
    else
      let vs := ls.flatMap (unitValues d.srcFmt)
      let cs := encodeGroup d.dstFmt (b2n d.guard) (entryOf e 0) log2p (fun i => drawOf dr (j * g + i)) vs
      let x := ((List.range nd).zip cs).foldl (fun x c =>
        let x := x.put view t (vecAt d.d d.dStep d.dstFmt (j * nd + c.1)) c.2.bytes
        { x with st := x.st.noteConv t bank c.2 }) x
      ({ x with st := x.st.raiseNum t bank (groupOvf d.dstFmt ls d.srcFmt) false }, false)) (List.range (d.count / g)) ⟨s, none⟩

/-! ### Checks and issue -/

/-- Items 4 and 6 of R142 for an arithmetic, transcendental or reduction opcode: FP32 only, no rounding field (R108). -/
def vecPlainCheck (w : Nat) : Chk Unit := do
  let d := VecDesc.ofWord w
  need (vecReservedOk w) .encoding
  need (d.srcFmt == 1 && d.dstFmt == 1 && !d.rnd && !d.guard) .descConv

/-- Items 4 and 6 of R142 for V.CVT (R108). -/
def vecCvtCheck (w : Nat) : Chk Unit := do
  let d := VecDesc.ofWord w
  let ok (c : Nat) : Bool := decide (1 ≤ c) && decide (c ≤ 8)
  need (vecReservedOk w) .encoding
  need (ok d.srcFmt && ok d.dstFmt && (!d.rnd || decide (2 ≤ d.dstFmt)) && (!d.guard || isMx d.dstFmt) &&
    d.count % groupElems d.srcFmt d.dstFmt == 0) .descConv

/-- The use of an operand. -/
def vecUse (t n : Nat) : VecSrc → Use
  | .at b st => ⟨vecSpan t b st 1 n, false, 0⟩
  | .imm _ => ⟨none, false, 0⟩

/-- The uses of an elementwise operation. -/
def mapUses (n t : Nat) (d : VecDesc) : List Use :=
  (d.sources n).map (vecUse t d.count) ++ [⟨vecSpan t d.d d.dStep 1 d.count, true, 1⟩]

/-- The uses of a reduction. -/
def reduceUses (t : Nat) (d : VecDesc) : List Use :=
  [⟨vecSpan t d.a d.aStep 1 d.count, false, 0⟩, ⟨spanOf 1 t d.d 4 [], true, 1⟩]

/-- The uses of V.CVT. -/
def cvtUses (t : Nat) (d : VecDesc) : List Use :=
  [⟨vecSpan t d.a d.aStep d.srcFmt (d.count / unitElems d.srcFmt), false, 0⟩,
   ⟨vecSpan t d.d d.dStep d.dstFmt (d.count / unitElems d.dstFmt), true, 1⟩,
   ⟨if d.dstFmt = 8 then spanOf 1 t d.exp (d.count / 32) [] else none, false, 2⟩]

/-- A vector instruction of thresher `t`: its checks, its stalls (R97, R182, R205), then its work, in progress until it
completes in issue order. -/
def vecIssue (t op : Nat) (chk : Nat → Chk Unit) (uses : Nat → VecDesc → List Use) (run : VecRun) (s : State) : State :=
  let q := thrQ t 4
  issue q op s fun i s => withDesc q i s fun x s =>
    let bound := s.bindEpoch i
    let d := VecDesc.ofWord x.word
    let us := uses t d
    match (do chk x.word; s.checkUses bound (us ++ [x.use]) (.ok ()) : Chk Unit) with
    | .error f => s.engineFault q f i.pc
    | .ok _ =>
      if s.heldBy205 bound us then s.hold205 q
      else if s.mustStall q (usesSpans false (us ++ [x.use])) (usesSpans true us) none ||
          decide (8 ≤ ((s.queue q).work.filter fun w => w.kind == .vector && !w.done).length) then s
      else
        let w := { newWork (s.queue q) i .vector bound with
          desc := x.word, reads := usesSpans false us, writes := usesSpans true us }
        let s := s.goOn q i w
        match run t d i.hop (s.viewOf bound) (s.bankOf bound) s with
        | (s, true) => s.failWork q w.id (.of .poison)
        | (s, false) => s

/-- An elementwise vector instruction of `n` operands. -/
def vecArith (t op n : Nat) (g : List Fp → Fp) (s : State) : Host.Outcome State Fault Refusal :=
  .next (vecIssue t op vecPlainCheck (mapUses n) (vecMap n g) s)

/-- Operand `i` of a list. -/
def arg (l : List Fp) (i : Nat) : Fp := l.getD i .zero

/-- V.ADD (R45). -/
def execVAdd (t : Fin 8) (s : State) : Host.Outcome State Fault Refusal :=
  vecArith t 0x60 2 (fun l => (arg l 0).add32 (arg l 1)) s

/-- V.SUB (R45). -/
def execVSub (t : Fin 8) (s : State) : Host.Outcome State Fault Refusal :=
  vecArith t 0x61 2 (fun l => (arg l 0).add32 (arg l 1).flip) s

/-- V.MUL (R45). -/
def execVMul (t : Fin 8) (s : State) : Host.Outcome State Fault Refusal :=
  vecArith t 0x62 2 (fun l => (arg l 0).mul32 (arg l 1)) s

/-- V.FMA (R45): rounded once. -/
def execVFma (t : Fin 8) (s : State) : Host.Outcome State Fault Refusal :=
  vecArith t 0x63 3 (fun l => (arg l 0).fma32 (arg l 1) (arg l 2)) s

/-- V.MIN (R45). -/
def execVMin (t : Fin 8) (s : State) : Host.Outcome State Fault Refusal :=
  vecArith t 0x64 2 (fun l => fpMin (arg l 0) (arg l 1)) s

/-- V.MAX (R45). -/
def execVMax (t : Fin 8) (s : State) : Host.Outcome State Fault Refusal :=
  vecArith t 0x65 2 (fun l => fpMax (arg l 0) (arg l 1)) s

/-- V.DIV (R45): a product with the correctly rounded reciprocal. -/
def execVDiv (t : Fin 8) (s : State) : Host.Outcome State Fault Refusal :=
  vecArith t 0x66 2 (fun l => (arg l 0).mul32 (fpRcp (arg l 1))) s

/-- V.RCP (R45). -/
def execVRcp (t : Fin 8) (s : State) : Host.Outcome State Fault Refusal := vecArith t 0x67 1 (fun l => fpRcp (arg l 0)) s

/-- V.SQRT (R45). -/
def execVSqrt (t : Fin 8) (s : State) : Host.Outcome State Fault Refusal := vecArith t 0x68 1 (fun l => fpSqrt (arg l 0)) s

/-- V.RSQRT (R45). -/
def execVRsqrt (t : Fin 8) (s : State) : Host.Outcome State Fault Refusal :=
  vecArith t 0x69 1 (fun l => fpRsqrt (arg l 0)) s

/-- V.EXP2 (R47). -/
def execVExp2 (t : Fin 8) (s : State) : Host.Outcome State Fault Refusal := vecArith t 0x6A 1 (fun l => fpExp2 (arg l 0)) s

/-- V.LOG2 (R47). -/
def execVLog2 (t : Fin 8) (s : State) : Host.Outcome State Fault Refusal := vecArith t 0x6B 1 (fun l => fpLog2 (arg l 0)) s

/-- V.TANH (R47). -/
def execVTanh (t : Fin 8) (s : State) : Host.Outcome State Fault Refusal := vecArith t 0x6C 1 (fun l => fpTanh (arg l 0)) s

/-- V.ERF (R47). -/
def execVErf (t : Fin 8) (s : State) : Host.Outcome State Fault Refusal := vecArith t 0x6D 1 (fun l => fpErf (arg l 0)) s

/-- V.ABS (R102): the sign bit cleared. -/
def execVAbs (t : Fin 8) (s : State) : Host.Outcome State Fault Refusal :=
  vecArith t 0x6E 1 (fun l => (arg l 0).signed false) s

/-- V.CVT (R108). -/
def execVCvt (t : Fin 8) (s : State) : Host.Outcome State Fault Refusal :=
  .next (vecIssue t 0x70 vecCvtCheck cvtUses vecConvert s)

/-- V.RSUM (R46). -/
def execVRsum (t : Fin 8) (s : State) : Host.Outcome State Fault Refusal :=
  .next (vecIssue t 0x71 vecPlainCheck reduceUses (vecReduce .sum) s)

/-- V.RMAX (R46). -/
def execVRmax (t : Fin 8) (s : State) : Host.Outcome State Fault Refusal :=
  .next (vecIssue t 0x72 vecPlainCheck reduceUses (vecReduce .max) s)

/-- V.RMIN (R46). -/
def execVRmin (t : Fin 8) (s : State) : Host.Outcome State Fault Refusal :=
  .next (vecIssue t 0x73 vecPlainCheck reduceUses (vecReduce .min) s)

end Sys2Proof.Machine
end

