-- ==== Sys2Proof/Machine/Copy.lean ====
section
/-! DEFINITION. Copies: the copy descriptor (R105), plain, converting and transposing copies and fills (R143 to R147),
gleaner gathers (R148, R159 to R161), copies from and to remote modules (R141, R186 to R189, R245) and the host (R135,
R192). -/

namespace Sys2Proof.Machine

/-! ### The descriptor (R105) -/

/-- The fields of a copy descriptor. -/
structure CopyDesc where
  src : Nat
  dst : Nat
  len : Nat
  c1 : Nat
  c2 : Nat
  c3 : Nat
  srcFmt : Nat
  dstFmt : Nat
  rnd : Bool
  guard : Bool
  transpose : Bool
  glean : Nat
  digest : Bool
  dset : Nat
  s1 : Int
  s2 : Int
  s3 : Int
  d1 : Int
  d2 : Int
  d3 : Int
  aux : Nat
  deriving DecidableEq, Repr

/-- The fields of a 64-byte copy descriptor. -/
def CopyDesc.ofWord (w : Nat) : CopyDesc :=
  { src := fld w 0 8, dst := fld w 8 8, len := fld w 16 4, c1 := bits w 160 24, c2 := bits w 192 24, c3 := bits w 224 24,
    srcFmt := bits w 184 4, dstFmt := bits w 188 4, rnd := bit w 216, guard := bit w 217, transpose := bit w 218,
    glean := bits w 219 2, digest := bit w 248, dset := bits w 249 3, s1 := sfld w 32, s2 := sfld w 36, s3 := sfld w 40,
    d1 := sfld w 44, d2 := sfld w 48, d3 := sfld w 52, aux := fld w 56 8 }

/-- Are the reserved bits of a copy descriptor zero? -/
def copyReservedOk (w : Nat) : Bool := bits w 221 3 == 0 && bits w 252 4 == 0

/-- Does the copy convert (R145)? -/
def CopyDesc.converts (d : CopyDesc) : Bool := d.srcFmt != d.dstFmt

/-- Is a length or count 0 (R143)? -/
def CopyDesc.empty (d : CopyDesc) : Bool := d.len == 0 || d.c1 == 0 || d.c2 == 0 || d.c3 == 0

/-- The item size of a gather (R148). -/
def CopyDesc.item (d : CopyDesc) : Nat := if d.glean = 1 then 8 else 16

/-- Elements of one run of a converting copy. -/
def CopyDesc.runElems (d : CopyDesc) : Nat := d.len / unitBytes d.srcFmt * unitElems d.srcFmt

/-- Destination blocks or elements of one run of a converting copy. -/
def CopyDesc.runUnits (d : CopyDesc) : Nat := d.runElems / unitElems d.dstFmt

/-- Bytes of one destination run, or square (R145, R146, R148). -/
def CopyDesc.dstLen (d : CopyDesc) : Nat :=
  if d.glean ≠ 0 then d.len / 4 * d.item
  else if d.transpose then 32 * d.len
  else if d.converts then d.runUnits * unitBytes d.dstFmt
  else d.len

/-- The source span (R140); `e` is the source endpoint. -/
def CopyDesc.srcSpan (d : CopyDesc) (e : Ep) : Option Span :=
  spanOf e.space e.sub e.addr d.len [(d.c1, d.s1), (d.c2, d.s2), (d.c3, d.s3)]

/-- The destination span (R140, R146). -/
def CopyDesc.dstSpan (d : CopyDesc) (e : Ep) : Option Span :=
  if d.empty then none
  else spanOf e.space e.sub e.addr d.dstLen [(if d.transpose then 1 else d.c1, d.d1), (d.c2, d.d2), (d.c3, d.d3)]

/-- The span of the exponent array (R145), in the loft of thresher `t`. -/
def CopyDesc.expSpan (d : CopyDesc) (t : Nat) : Option Span :=
  if d.converts ∧ d.dstFmt = 8 ∧ ¬ d.empty then spanOf 1 t (bits d.aux 0 28) (d.runUnits * (d.c1 * d.c2 * d.c3)) [] else none

/-! ### Checks 4 to 6 of R142 -/

/-- The AUX bits a copy without gather uses (R105). -/
def CopyDesc.auxOk (d : CopyDesc) : Bool := d.rnd || (if d.dstFmt = 8 then bits d.aux 28 36 == 0 else d.aux == 0)

/-- Formats, rounding, guard, lengths and conversion units (R105, R145, R146). -/
def CopyDesc.convOk (d : CopyDesc) : Bool :=
  decide (d.srcFmt ≤ 8) && decide (d.dstFmt ≤ 8) &&
    (if d.glean ≠ 0 then d.srcFmt == 0 && d.dstFmt == 0 && !d.rnd && !d.guard && !d.transpose && d.len % 4 == 0
     else if d.converts then
       d.srcFmt != 0 && d.dstFmt != 0 && d.len % unitBytes d.srcFmt == 0 &&
         (!(isBlock d.srcFmt || isBlock d.dstFmt) || d.runElems % 32 == 0) &&
         (!d.rnd || d.dstFmt == 2 || isMx d.dstFmt) && (!d.guard || isMx d.dstFmt) && !d.transpose
     else if d.transpose then
       !d.rnd && !d.guard && (d.srcFmt == 2 || isMx d.srcFmt) && d.len == lineBytes d.srcFmt && d.c1 == 32 && d.d1 == 0
     else !d.rnd && !d.guard)

/-- The formats a fill takes (R147). -/
def CopyDesc.fillOk (d : CopyDesc) : Bool :=
  d.srcFmt == 0 && d.dstFmt == 0 && !d.rnd && !d.guard && !d.transpose && d.glean == 0

/-- Checks 4 to 6 of CE.COPY; a gather's TABLE alignment, item 1, before them. -/
def copyCheck (t w : Nat) : Chk Unit := do
  let d := CopyDesc.ofWord w
  let a := Ep.ofWord d.src
  let b := Ep.ofWord d.dst
  let gather := d.glean == 1 || d.glean == 2
  need (!gather || bits d.aux 0 42 % d.item == 0) .descAlign
  need (copyReservedOk w && d.glean != 3 && epReservedOk d.src && epReservedOk d.dst &&
    (if gather then bits d.aux 42 22 == 0 else d.auxOk)) .encoding
  need (if gather then a.space == 1 && a.thr == t && (b.space == 0 || b.space == 1) else !(a.space == 2 && b.space == 2))
    .descSpace
  need d.convOk .descConv

/-- Checks 4 to 6 of CE.FILL (R147): what RND, DST_FMT or GLEAN let AUX hold (R105, R148) is judged with them, at item 6. -/
def fillCheck (w : Nat) : Chk Unit := do
  let d := CopyDesc.ofWord w
  need (copyReservedOk w && epReservedOk d.dst && (if d.glean = 1 ∨ d.glean = 2 then bits d.aux 42 22 == 0 else d.auxOk))
    .encoding
  need d.fillOk .descConv

/-! ### Runs (R143) -/

/-- One piece of work of a copy: the offsets of the runs it reads, from SRC, and of what it writes, from DST. -/
structure Job where
  srcs : List Int
  dst : Int
  deriving DecidableEq, Repr

/-- The pieces of a copy in iteration order: single runs, or the 32 lines of a square (R143, R146). -/
def CopyDesc.jobs (d : CopyDesc) : List Job :=
  (List.range d.c3).flatMap fun (i3 : Nat) => (List.range d.c2).flatMap fun (i2 : Nat) =>
    let s0 := (i2 : Int) * d.s2 + (i3 : Int) * d.s3
    let d0 := (i2 : Int) * d.d2 + (i3 : Int) * d.d3
    if d.transpose then [⟨(List.range d.c1).map fun (i : Nat) => (i : Int) * d.s1 + s0, d0⟩]
    else (List.range d.c1).map fun (i : Nat) => ⟨[(i : Int) * d.s1 + s0], (i : Int) * d.d1 + d0⟩

/-- Where a copy's bytes come from: an address of HBM or a loft; the host; the bytes a remote module has answered, run
after run; a fill pattern. -/
inductive Source where
  | at (space thr addr : Nat) | host | got (l : List PByte) | pattern (w : Nat)
  deriving DecidableEq, Repr

/-- Bytes that come from the host: the spec fixes neither their values nor whether they come poisoned. -/
def freeBytes : Nat → State → List PByte × State
  | 0, s => ([], s)
  | n + 1, s =>
    let (v, s) := s.takeFree
    let (l, s) := freeBytes n s
    (⟨BitVec.ofNat 8 v, bit v 8⟩ :: l, s)

/-- Run `k` of a copy read: its `n` bytes at an offset from the source (R149); `out` says whether they go to the wain. -/
def State.readRun (s : State) (view : View) (x : Source) (out : Bool) (k : Nat) (off : Int) (n : Nat) : List PByte × State :=
  match x with
  | .at space t a =>
    let p := ((a : Int) + off).toNat
    let s := s.senseAt view space t p n
    if out then
      let s := s.leaveAt view space t p n
      (s.readOut view space t p n, s)
    else (s.readAt view space t p n, s)
  | .host => freeBytes n s
  | .got l => ((l.drop (k * n)).take n, s)
  | .pattern w => ((List.range n).map fun j => ⟨BitVec.ofNat 8 (w / 2 ^ (8 * (j % 8))), false⟩, s)

/-- Several runs read in turn, the first with number `k`. -/
def State.readRuns (s : State) (view : View) (x : Source) (out : Bool) (n : Nat) : Nat → List Int → List (List PByte) × State
  | _, [] => ([], s)
  | k, o :: r =>
    let (l, s) := s.readRun view x out k o n
    let (ls, s) := s.readRuns view x out n (k + 1) r
    (l :: ls, s)

/-! ### What a run becomes (R30, R31, R85, R135, R145) -/

/-- Is a unit of a plain copy poisoned: by a mark, or by its own format? Units count from the start of a run, and one that
the run's end cuts is judged by marks alone (DESIGN CHOICE, assumption log entry 101). -/
def unitBad (c : Nat) (l : List PByte) : Bool :=
  if c = 0 ∨ l.length < unitBytes c then anyBad l else unitPoisoned c l

/-- The bytes a plain copy writes: all, or under HALT_ON_POISON those of the units before the first poisoned one. The
second value says whether there is one. -/
def plainOut (hop : Bool) (c : Nat) (l : List PByte) : List PByte × Bool :=
  if hop then
    let us := chunksOf (unitBytes c) l.length l
    let k := us.takeWhile fun u => !unitBad c u
    (k.flatten, decide (k.length < us.length))
  else (l, false)

/-- A line of a square: its 32 element codes and its scale byte, as a transposing copy carries them (R85). -/
def turnLine (c : Nat) (l : List PByte) : List Nat × Nat :=
  let v := pNat l
  if c = 2 then
    ((List.range 32).map fun i => if anyBad ((l.drop (2 * i)).take 2) then 0x7FFF else bits v (16 * i) 16, 0)
  else if anyBad l then (List.replicate 32 0, 0xFF)
  else ((List.range 32).map (blockElem c v), bits v (8 * (unitBytes c - 1)) 8)

/-- A turned square from its 32 lines (R85). -/
def turnSquare (c : Nat) (ls : List (List PByte)) : List Byte :=
  let xs := ls.map (turnLine c)
  let w := (fmtOf c).width
  ((List.range 32).flatMap fun j => leBytes (4 * w) (packElems w (xs.map fun x => x.1.getD j 0))) ++
    (if c = 2 then [] else xs.map fun x => BitVec.ofNat 8 x.2)

/-- Does a line hold a poisoned operand (R31)? -/
def lineBad (c : Nat) (l : List PByte) : Bool :=
  if c = 2 then (turnLine 2 l).1.any fun x => x == 0x7FFF else unitPoisoned c l

/-- What a copy works with: its queue and number, its thresher, its flags and view, its flag bank, its descriptor. -/
structure CopyRun where
  q : Nat
  id : Nat
  t : Nat
  hop : Bool
  view : View
  bank : Nat
  bound : Option Nat
  d : CopyDesc
  deriving DecidableEq, Repr

/-- The groups of a run converted, the first being group `k` of the copy: the bytes, and whether HALT_ON_POISON ended
it (R31, R38, R145, R220). -/
def convertGroups (c : CopyRun) : Nat → List (List PByte) → State → List PByte × Bool × State
  | _, [], s => ([], false, s)
  | k, l :: r, s =>
    let d := c.d
    let g := groupElems d.srcFmt d.dstFmt
    let a := bits d.aux 0 28 + k
    let s := if d.dstFmt = 8 then s.senseAt c.view 1 c.t a 1 else s
    let e := if d.dstFmt = 8 then s.readAt c.view 1 c.t a 1 else []
    let us := chunksOf (unitBytes d.srcFmt) 32 l
    if c.hop && (us.any (unitPoisoned d.srcFmt) || anyBad e) then ([], true, s)
    else
      let dr := s.draws d.rnd d.aux
      let cs := encodeGroup d.dstFmt (b2n d.guard) (entryOf e 0) (s.rd .WN_RANK_CTL_LOG2P) (fun i => drawOf dr (k * g + i))
        (us.flatMap (unitValues d.srcFmt))
      let s := cs.foldl (fun s x => s.noteConv c.t c.bank x) s
      let s := s.raiseNum c.t c.bank (groupOvf d.dstFmt us d.srcFmt) false
      match convertGroups c (k + 1) r s with
      | (o, h, s) => (clean (cs.flatMap Conv.bytes) ++ o, h, s)

/-- What piece `k` of a copy writes, and whether HALT_ON_POISON ended it. -/
def copyOut (c : CopyRun) (k : Nat) (ls : List (List PByte)) (s : State) : List PByte × Bool × State :=
  let d := c.d
  if d.transpose then
    if c.hop && ls.any (lineBad d.srcFmt) then ([], true, s) else (clean (turnSquare d.srcFmt ls), false, s)
  else if d.converts then
    let g := groupElems d.srcFmt d.dstFmt
    let l := ls.flatten
    convertGroups c (k * (d.runElems / g)) (chunksOf (g / unitElems d.srcFmt * unitBytes d.srcFmt) l.length l) s
  else
    match plainOut c.hop d.srcFmt ls.flatten with
    | (l, h) => (l, h, s)

/-! ### Where the bytes go -/

/-- The pieces of a host write: what lies in a poisoned 64 B unit apart from the rest (R135). -/
def hostPieces : List (Nat × List PByte) → List (Nat × List PByte × Bool)
  | [] => []
  | (a, l) :: r =>
    if anyBad l then (a, l, true) :: hostPieces r
    else match hostPieces r with
      | (_, m, false) :: t => (a, l ++ m, false) :: t
      | t => (a, l, false) :: t

/-- Bytes put into the endpoint's posted egress queue (R15, R135). -/
def State.writeHost (s : State) (a : Nat) (l : List PByte) : State :=
  (hostPieces (splitBy (cutRun 64 (l.length / 64 + 2) a l.length) l)).foldl
    (fun s p => s.emit (.write p.1 (p.2.1.map PByte.val) p.2.2)) s

/-- The address word of a place in a remote module, as frames carry it (R242). -/
def remoteAddr (e : Ep) (a : Nat) : Nat := a % 2 ^ 42 + e.thr * 2 ^ 42 + b2n e.rloft * 2 ^ 45

/-- A WR or RD_REQ frame of an instruction (R206, R242). -/
def State.accessFrame (s : State) (c : CopyRun) (op : Nat) (e : Ep) (a arg : Nat) (vol : Bool) (payload : List Byte) : Frame :=
  { s.mkFrame op c.q e.mod 0 (remoteAddr e a) arg payload with
    prov := c.bound.isSome, epoch := c.bound.getD 0, vol := vol, digest := c.d.digest,
    dset := if c.d.digest then c.d.dset else 0 }

/-- The fault a REFUSE ends its source instruction with (R251): `op` the frame refused, `word` its place. -/
def refusalFault (op reason word : Nat) : EFault :=
  match reason with
  | 1 => if op = opTlSig then ⟨.tallyMisuse, .misuse word 3⟩ else ⟨.descBounds, .bounds 6 (if op = opWr then 1 else 0) word⟩
  | 2 => if op = opTlSig then ⟨.tallyMisuse, .misuse word 3⟩ else ⟨.descBounds, .bounds 6 (if op = opWr then 1 else 0) word⟩
  | 3 => ⟨.tallyMisuse, .misuse word 3⟩
  | 6 => .of .provEscape
  | 7 => .of .provView
  | 8 => .of .vregDirect
  | _ => .of .linkDown

/-- The endpoint word of a remote place (R104). -/
def remoteWord (m addr : Nat) : Nat := 2 * 2 ^ 62 + m * 2 ^ 46 + addr % 2 ^ 46

/-- Is instruction `id` of queue `q` still at work? -/
def State.stillOn (s : State) (q id : Nat) : Bool := (s.queue q).work.any fun w => w.id == id && w.kind != .dead

/-- Bytes sent to a remote module as WR frames, in ascending order (R189). A frame for this module itself takes no link;
its refusal is the fault. -/
def sendWrites (c : CopyRun) (e : Ep) : List (Nat × List PByte) → State → State × Option EFault
  | [], s => (s, none)
  | (a, l) :: r, s =>
    let f := s.accessFrame c opWr e a (poisonMask l) false (l.map PByte.val)
    if e.mod = s.rd .WN_ID_MODULE then
      match s.takeWr f with
      | (s, .error x) => (s, some (refusalFault opWr x (remoteWord e.mod f.addr)))
      | (s, .ok _) => sendWrites c e r s
    else if s.stillOn c.q c.id then sendWrites c e r (s.request ⟨qBay c.q, c.q, c.id, 0, ⟨opWr, f⟩⟩)
    else (s, none)

/-- What a copy writes put at an offset from its destination. A remote run is cut at the multiples of 1,024 bytes, so that
each aligned word goes in one frame (R181, R241). -/
def State.putRun (s : State) (c : CopyRun) (e : Ep) (off : Int) (l : List PByte) : State × Option EFault :=
  let a := ((e.addr : Int) + off).toNat
  match e.space with
  | 2 => sendWrites c e (splitBy (cutRun 1024 (l.length / 1024 + 2) a l.length) l) s
  | 3 => (s.writeHost a l, none)
  | _ => (s.writeAt c.view e.space e.thr a l, none)

/-- The pieces of a copy done in iteration order, until one ends it: `k` is the number of the piece, `n` the runs each
reads. -/
def runJobs (c : CopyRun) (x : Source) (e : Ep) (n : Nat) : Nat → List Job → State → State × Option EFault
  | _, [], s => (s, none)
  | k, j :: r, s =>
    let (ls, s) := s.readRuns c.view x (e.space == 2) c.d.len (k * n) j.srcs
    match copyOut c k ls s with
    | (l, h, s) =>
      match s.putRun c e j.dst l with
      | (s, some f) => (s, some f)
      | (s, none) => if h then (s, some (.of .poison)) else runJobs c x e n (k + 1) r s

/-- A copy's bytes moved from source to destination; a fault ends the instruction (R31, R251). -/
def moveBytes (c : CopyRun) (x : Source) (s : State) : State :=
  match runJobs c x (Ep.ofWord c.d.dst) (if c.d.transpose then 32 else 1) 0 c.d.jobs s with
  | (s, none) => s
  | (s, some f) => s.failWork c.q c.id f

/-! ### Remote reads (R186, R245) -/

/-- The request in the coalescer that a read of `n` bytes at `addr` of module `m` may join (R186): its tag, and where
the bytes lie in its answer. It was made for the same epoch after the queue's latest ordering point, and nothing of it
is volatile or folded into a digest. -/
def State.joinable (s : State) (q m addr n : Nat) (bound : Option Nat) : Option (Nat × Nat) :=
  (s.net.txns.find? fun e =>
    e.1 / 16384 == qBay q && e.2.op == opRdReq && e.2.dst == m && !e.2.vol && e.2.bound == bound &&
      decide ((s.queue q).ordPoint < e.2.stamp) && decide (e.2.addr ≤ addr) && decide (addr + n ≤ e.2.addr + e.2.size)).map
    fun e => (e.1 % 16384, addr - e.2.addr)

/-- One part of a remote read asked for: it joins a request, or sends its own. -/
def State.askPiece (s : State) (c : CopyRun) (e : Ep) (vol : Bool) (pos a n : Nat) : State :=
  let add (off tag : Nat) (s : State) : State :=
    s.updWork c.q c.id fun w => { w with pieces := w.pieces ++ [⟨pos, n, off, tag, none⟩] }
  match (if vol || c.d.digest then none else s.joinable c.q e.mod (remoteAddr e a) n c.bound) with
  | some (tag, off) => add off tag s
  | none => (add 0 16384 s).request ⟨qBay c.q, c.q, c.id, pos, ⟨opRdReq, s.accessFrame c opRdReq e a n vol []⟩⟩

/-- A run of a remote read asked for, sector by sector, from position `pos` of the stream. -/
def State.askRun (s : State) (c : CopyRun) (e : Ep) (vol : Bool) (pos a n : Nat) : State :=
  (cutRun 64 (n / 64 + 2) a n).foldl
    (fun s p => if s.stillOn c.q c.id then s.askPiece c e vol (pos + (p.1 - a)) p.1 p.2 else s) s

/-- Runs of this module's own memory read as a remote module would be (R141): the bytes, or the refusal. -/
def ownReads (c : CopyRun) (e : Ep) (n : Nat) : List Int → State → State × Except EFault (List PByte)
  | [], s => (s, .ok [])
  | o :: r, s =>
    let f := s.accessFrame c opRdReq e ((e.addr : Int) + o).toNat n false []
    match s.judge f n false with
    | .go view =>
      let s := s.senseAt view (frSpace f) (frThr f) (frAt f) n
      let l := s.readAt view (frSpace f) (frThr f) (frAt f) n
      match ownReads c e n r s with
      | (s, .ok m) => (s, .ok (l ++ m))
      | x => x
    | .refuse x => (s.countRefusal, .error (refusalFault opRdReq x (remoteWord e.mod f.addr)))
    | .discard => (s, .error (.of .provEscape))

/-- The remote source of a copy: from this module itself at once, else asked for run by run. -/
def State.readRemote (s : State) (c : CopyRun) (vol : Bool) : State :=
  let e := Ep.ofWord c.d.src
  let offs := c.d.jobs.flatMap Job.srcs
  if e.mod = s.rd .WN_ID_MODULE then
    match ownReads c e c.d.len offs s with
    | (s, .ok l) => moveBytes c (.got l) (s.updWork c.q c.id fun w => { w with ready := true })
    | (s, .error f) => s.failWork c.q c.id f
  else
    ((List.range offs.length).zip offs).foldl
      (fun s o => s.askRun c e vol (o.1 * c.d.len) ((e.addr : Int) + o.2).toNat c.d.len) s

/-! ### Host destinations (R192) -/

/-- A copy into host space recorded until a flush read covers it; with 256 unflushed, the oldest is flushed first. -/
def State.noteHostCopy (s : State) (q id addr : Nat) : State :=
  let un := (s.queue q).copies.filter fun c => !c.flushing
  let s := match (if 256 ≤ un.length then un.head? else none) with
    | none => s
    | some c => (s.emit (.flush q c.id c.addr)).updQueue q fun x =>
        { x with copies := x.copies.map fun (y : HostCopy) => if y.id = c.id then { y with flushing := true } else y }
  s.updQueue q fun x => { x with copies := x.copies ++ [⟨id, addr / 4 * 4, false⟩] }

/-- The last byte a copy writes in iteration order. -/
def CopyDesc.lastByte (d : CopyDesc) (e : Ep) : Nat :=
  match d.jobs.getLast? with
  | none => e.addr
  | some j => ((e.addr : Int) + j.dst + d.dstLen - 1).toNat

/-! ### Issue -/

/-- Does a remote span leave the addresses a frame can carry (R140, R141)? -/
def outside (x : Option Span) : Bool :=
  match x with
  | none => false
  | some x => x.space == 2 && (decide (x.lo < 0) || decide (2 ^ 42 ≤ x.hi))

/-- Item 9 of R142 (R144). LF_BOUNDS_LAST records the destination side and its lowest byte (DESIGN CHOICE, assumption log
entry 102). -/
def overlapCheck (a b : Option Span) : Chk Unit :=
  match a, b with
  | some x, some y => needBounds (!x.meets y) 4 1 y.word
  | _, _ => .ok ()

/-- Is every slot of the copy engine of queue `q` taken (R97)? -/
def State.copiesFull (s : State) (q : Nat) : Bool :=
  decide (16 ≤ ((s.queue q).work.filter fun w => w.kind == .copy && !w.done).length)

/-- This module's own place that a remote span with its module ID names. -/
def State.ownSpan (s : State) (x : Option Span) : Option Span :=
  match x with
  | none => none
  | some x => if x.space = 2 ∧ x.sub / 16 = s.rd .WN_ID_MODULE then
      some ⟨bits x.sub 3 1, if bit x.sub 3 then x.sub % 8 else 0, x.lo, x.hi⟩ else none

/-- The uses of a copy or fill, in the order of item 8 of R142. -/
def CopyDesc.uses (d : CopyDesc) (fill : Bool) (t : Nat) : List Use :=
  (if fill then [] else [⟨d.srcSpan (Ep.ofWord d.src), false, 0⟩]) ++
    [⟨d.dstSpan (Ep.ofWord d.dst), true, 1⟩, ⟨if fill then none else d.expSpan t, false, 2⟩]

/-- Items 8 to 11 of R142 over a copy. -/
def State.copySpans (s : State) (bound : Option Nat) (d : CopyDesc) (fill : Bool) (us : List Use) : Chk Unit := do
  let a := d.srcSpan (Ep.ofWord d.src)
  let b := d.dstSpan (Ep.ofWord d.dst)
  s.checkUses bound us (if fill then .ok () else overlapCheck a b)
  needBounds (fill || !outside a) 6 0 (match a with
    | some x => x.word
    | none => 0)
  needBounds (!outside b) 6 1 (match b with
    | some x => x.word
    | none => 0)

/-- What this module as its own remote target says to a whole copy, before any byte of it is read or written (R141): the
fault of the refusal. -/
def State.ownRefusal (s : State) (c : CopyRun) : Option EFault :=
  let judge (op word : Nat) (x : Option Span) (write : Bool) : Option EFault :=
    let e := Ep.ofWord word
    match s.ownSpan x with
    | none => none
    | some y =>
      match s.judgeSpan (s.accessFrame c op e e.addr 0 false []) (some y) write with
      | .refuse r => some (refusalFault op r (remoteWord e.mod (remoteAddr e y.lo.toNat)))
      | _ => none
  match judge opRdReq c.d.src (c.d.srcSpan (Ep.ofWord c.d.src)) false with
  | some f => some f
  | none => judge opWr c.d.dst (c.d.dstSpan (Ep.ofWord c.d.dst)) true

/-- A copy or fill of thresher `t` whose descriptor passed checks 1 to 6. -/
def copyBody (t : Nat) (fill : Bool) (i : Ins) (x : Desc) (s : State) : State :=
  let q := thrQ t 5
  let d : CopyDesc := if fill then { CopyDesc.ofWord x.word with digest := false } else CopyDesc.ofWord x.word
  let bound := s.bindEpoch i
  let us := d.uses fill t
  match s.copySpans bound d fill (us ++ [x.use]) with
  | .error f => s.engineFault q f i.pc
  | .ok _ =>
    let own : Use := ⟨s.ownSpan (d.dstSpan (Ep.ofWord d.dst)), true, 1⟩
    if s.heldBy205 bound (own :: us) then s.hold205 q
    else if s.mustStall q (usesSpans false (us ++ [x.use])) (usesSpans true us) none || s.copiesFull q ||
        (own.span.toList ++ (s.ownSpan (if fill then none else d.srcSpan (Ep.ofWord d.src))).toList).any s.sleeps then s
    else
      let e := Ep.ofWord d.src
      let remote := !fill && e.space == 2 && !d.empty
      let w := { newWork (s.queue q) i .copy bound with
        desc := x.word, reads := usesSpans false us, writes := usesSpans true us, ready := !remote }
      let s := s.goOn q i w
      let s := if (Ep.ofWord d.dst).space = 3 ∧ ¬ d.empty then s.noteHostCopy q w.id (d.lastByte (Ep.ofWord d.dst)) else s
      let c : CopyRun := ⟨q, w.id, t, i.hop && !fill, s.viewOf bound, s.bankOf bound, bound, d⟩
      if d.empty then s
      else
        match s.ownRefusal (if fill then { c with d := { d with src := 0 } } else c) with
        | some f => s.countRefusal.failWork q w.id f
        | none =>
          if remote then s.readRemote c i.vol
          else moveBytes c (if fill then .pattern d.src else if e.space = 3 then .host else .at e.space e.thr e.addr) s

/-! ### Gleaner gathers (R148, R159 to R161) -/

/-- The table region of a gather (R148): the lowest-numbered valid entry that contains TABLE and has RD. -/
def State.tableRegion (s : State) (table : Nat) : Option Span :=
  match s.validRegions.find? fun r => s.regionHas ⟨0, 0, table, table⟩ r && s.flag .LF_REGION_SIZE_RD r with
  | none => none
  | some r =>
    let a := (Ep.ofWord (s.rdi .LF_REGION_BASE_BASE r)).addr
    some ⟨0, 0, a, (a : Int) + s.rdi .LF_REGION_SIZE_SIZE r - 1⟩

/-- The indices a run of the index array holds; none where the index was read poisoned. -/
def indices (l : List PByte) : List (Option Nat) :=
  (chunksOf 4 l.length l).map fun x => if anyBad x then none else some (pNat x)

/-- Every index of a gather, run by run. -/
def State.gatherIndices (s : State) (view : View) (t : Nat) (d : CopyDesc) : List (List (Option Nat)) :=
  d.jobs.map fun j => j.srcs.flatMap fun o =>
    indices (s.readAt view 1 t (((Ep.ofWord d.src).addr : Int) + o).toNat d.len)

/-- The index array of a gather read: errors found in it are acted on (R134). -/
def State.senseIndices (s : State) (view : View) (t : Nat) (d : CopyDesc) : State :=
  d.jobs.foldl (fun s j => j.srcs.foldl
    (fun s o => s.senseAt view 1 t (((Ep.ofWord d.src).addr : Int) + o).toNat d.len) s) s

/-- The span of item `i` of a gather. -/
def CopyDesc.itemSpan (d : CopyDesc) (i : Nat) : Span :=
  let a := bits d.aux 0 42 + i * d.item
  ⟨0, 0, a, (a : Int) + d.item - 1⟩

/-- The check of every item against the table region (R148, reason INDEX). -/
def itemsCheck (table : Option Span) (xs : List Span) : Chk Unit :=
  match table with
  | none => .ok ()
  | some r => Chk.all xs fun x => needBounds (decide (r.lo ≤ x.lo) && decide (x.hi ≤ r.hi)) 5 2 x.word

/-- Items 8 to 11 of R142 over a gather: index array, destination, table region, items. -/
def State.gatherSpans (s : State) (bound : Option Nat) (d : CopyDesc) (us : List Use) (xs : List Span) : Chk Unit := do
  Chk.all us fun u => s.checkSpan u.span u.attr u.side
  let table := s.tableRegion (bits d.aux 0 42)
  needBounds (d.empty || table.isSome) 2 2 (bits d.aux 0 42)
  itemsCheck table xs
  overlapCheck (d.srcSpan (Ep.ofWord d.src)) (d.dstSpan (Ep.ofWord d.dst))
  let all := us ++ xs.map fun x => (⟨some x, false, 2⟩ : Use)
  s.checkVersions bound all
  Chk.all all fun u => s.checkThere u.span

/-- A gather as far as it has gone: the stacks its items came from, whether one of them ended it. -/
structure Gather where
  st : State
  served : List Nat
  halted : Bool

/-- An item that is not read: its index was poisoned, or changed to one outside the table region. -/
def lostItem (d : CopyDesc) : List PByte := List.replicate d.item ⟨0, true⟩

/-- One item read by the gleaner of the stack that holds it (R159, R161): the burst's own half of the sector is checked,
and the packet's check is that of the line; its bytes are all poisoned where any is. Counted at its stack. -/
def State.fetchItem (s : State) (view : View) (d : CopyDesc) (i : Nat) : List PByte × Nat × State :=
  let a := bits d.aux 0 42 + i * d.item
  let p := (s.readPlace s.vregs view 0 0 a).phys
  let k := p / 2 ^ 37
  let s := if s.flaws.isEmpty then s else (s.senseHbm (unitOf p) [cwOf p]).leaveLine (lineOf p)
  let s := s.addWrap .GL_ITEMS_COUNT k 1
  let l := s.readAt view 0 0 a d.item
  if anyBad l then (l.map fun b => ⟨b.val, true⟩, k, (s.addSat .GL_POISON_COUNT k 1).raise .gatherPoison 4 k 0 a 0)
  else (l, k, s)

/-- Does item `i` lie outside the table region? -/
def CopyDesc.outOf (d : CopyDesc) (table : Option Span) (i : Nat) : Bool :=
  match table with
  | none => false
  | some r => let x := d.itemSpan i; decide (x.lo < r.lo) || decide (r.hi < x.hi)

/-- The items of a run fetched one after another, the index as the first pass and as the second found it beside each
(R148); HALT_ON_POISON ends it. The bytes before that are the run's. -/
def gatherItems (c : CopyRun) (table : Option Span) : List (Option Nat × Option Nat) → Gather → List PByte × Gather
  | [], g => ([], g)
  | (i, j) :: r, g =>
    let (l, g) := match j with
      | none => (lostItem c.d, g)
      | some k =>
        if i ≠ j ∧ c.d.outOf table k then (lostItem c.d, { g with st := g.st.wr .LF_STAT_GATHER_RACE 1 })
        else
          let (l, stack, s) := g.st.fetchItem c.view c.d k
          (l, { g with st := s, served := g.served ++ [stack] })
    if c.hop && anyBad l then ([], { g with halted := true })
    else
      let (m, g) := gatherItems c table r g
      (l ++ m, g)

/-- The runs of a gather in iteration order: each reads its indices a second time, fetches its items, and writes them in
one piece (R148). -/
def gatherRuns (c : CopyRun) (e : Ep) (table : Option Span) : List (Job × List (Option Nat)) → Gather → Gather
  | [], g => g
  | (j, is) :: r, g =>
    let o := fun (o : Int) => (((Ep.ofWord c.d.src).addr : Int) + o).toNat
    let js := j.srcs.flatMap fun x => indices (g.st.readAt c.view 1 c.t (o x) c.d.len)
    let (l, g) := gatherItems c table (is.zip js) g
    let g := { g with st := g.st.writeAt c.view e.space e.thr ((e.addr : Int) + j.dst).toNat l }
    if g.halted then g else gatherRuns c e table r g

/-- The packets the items of a gather have left in (R160): full ones, or under VOL one for each item; of a gather that has
ended the partial ones too. The second value is the stacks that keep a partial one. -/
def Gather.packets (g : Gather) (d : CopyDesc) (vol : Bool) : State × List Nat :=
  let per := if vol then 1 else 64 / d.item
  ((List.range 24).foldl (fun s k =>
      s.addWrap .GL_PACKETS_COUNT k ((g.served.count k + (if g.halted then per - 1 else 0)) / per)) g.st,
    (List.range 24).filter fun k => !g.halted && g.served.count k % per != 0)

/-- A gather of thresher `t` whose descriptor passed checks 1 to 6 (R148). -/
def gatherBody (t : Nat) (i : Ins) (x : Desc) (s : State) : State :=
  let q := thrQ t 5
  let d := CopyDesc.ofWord x.word
  let bound := s.bindEpoch i
  let e := Ep.ofWord d.dst
  let us : List Use := [⟨d.srcSpan (Ep.ofWord d.src), false, 0⟩, ⟨d.dstSpan e, true, 1⟩]
  let table := if d.empty then none else s.tableRegion (bits d.aux 0 42)
  let first := Chk.all us fun u => s.checkSpan u.span u.attr u.side
  let there := table.isSome && (match first with
    | .ok _ => true
    | .error _ => false)
  if there && s.mustStall q (usesSpans false us) [] none then s
  else
    let s := if there then s.senseIndices (s.viewOf bound) t d else s
    let runs := if there then s.gatherIndices (s.viewOf bound) t d else []
    match s.gatherSpans bound d (us ++ [x.use]) ((runs.flatten.filterMap id).map d.itemSpan) with
    | .error f => s.engineFault q f i.pc
    | .ok _ =>
      if s.heldBy205 bound us then s.hold205 q
      else if s.mustStall q (table.toList ++ usesSpans false (us ++ [x.use])) (usesSpans true us) none || s.copiesFull q then s
      else
        let w := { newWork (s.queue q) i .copy bound with
          desc := x.word, reads := table.toList ++ usesSpans false us, writes := usesSpans true us }
        let s := s.goOn q i w
        let c : CopyRun := ⟨q, w.id, t, i.hop, s.viewOf bound, s.bankOf bound, bound, d⟩
        let g := gatherRuns c e table (d.jobs.zip runs) ⟨s, [], false⟩
        let (s, packs) := g.packets d i.vol
        if g.halted then s.failWork q w.id (.of .poison) else s.updWork q w.id fun w => { w with packs := packs }

/-- CE.COPY (R105, R143 to R149). -/
def execCeCopy (t : Fin 8) (s : State) : Host.Outcome State Fault Refusal :=
  .next (issue (thrQ t 5) 0xA0 s fun i s => withDesc (thrQ t 5) i s fun x s =>
    match copyCheck t x.word with
    | .error f => s.engineFault (thrQ t 5) f i.pc
    | .ok _ => if (CopyDesc.ofWord x.word).glean = 0 then copyBody t false i x s else gatherBody t i x s)

/-- CE.FILL (R147). -/
def execCeFill (t : Fin 8) (s : State) : Host.Outcome State Fault Refusal :=
  .next (issue (thrQ t 5) 0xA1 s fun i s => withDesc (thrQ t 5) i s fun x s =>
    match fillCheck x.word with
    | .error f => s.engineFault (thrQ t 5) f i.pc
    | .ok _ => copyBody t true i x s)

end Sys2Proof.Machine
end

