-- ==== Sys2Proof/Machine/Collectives.lean ====
section
/-! DEFINITION. The collectives of the wain: the rank list (R212), WN.RSCAT with its mesh and ring stages, delivery and
status record (R214 to R224), WN.GATHER (R228, R229), WN.HEALTH (R209, R210). -/

namespace Sys2Proof.Machine

/-! ### The rank list (R212) -/

/-- ceil(log2 p). -/
def log2Up (p : Nat) : Nat := if p ≤ 1 then 0 else Nat.log2 (p - 1) + 1

/-- The rank list as it stands in HBM. -/
def State.readRanks (s : State) : List PByte := s.readAt .unbound 0 0 (s.rd .WN_RANK_BASE_BASE) (2 * s.rd .WN_RANK_COUNT_COUNT)

/-- Is a rank list bad (check 2)? -/
def State.badList (s : State) (l : List PByte) (ids : List Nat) : Bool :=
  let p := s.rd .WN_RANK_COUNT_COUNT
  p == 0 || decide (65536 < p) || decide (Config.hbmBytes < s.rd .WN_RANK_BASE_BASE + 2 * p) || anyBad l ||
    !decide ids.Nodup

/-- The list put in force. -/
def State.setRanks (s : State) (ids : List Nat) (self : Nat) : State :=
  let s : State := { s with net := { s.net with ranks := ids, rankSelf := self } }
  ((s.wr .WN_RANK_CTL_STATUS 0).wr .WN_RANK_CTL_VALID 1).wr .WN_RANK_CTL_LOG2P (log2Up ids.length)

/-- The commit (R212). -/
def State.commitRanks (s : State) : State :=
  if !s.wainIdle then s.wr .WN_RANK_CTL_STATUS 1
  else
    let p := s.rd .WN_RANK_COUNT_COUNT
    let r := s.rd .WN_RANK_SELF_RANK
    if p = 0 ∨ 65536 < p ∨ Config.hbmBytes < s.rd .WN_RANK_BASE_BASE + 2 * p then s.wr .WN_RANK_CTL_STATUS 2
    else
      let s := s.senseAt .unbound 0 0 (s.rd .WN_RANK_BASE_BASE) (2 * p)
      let l := s.readRanks
      let ids := halves p (l.map PByte.val)
      if s.badList l ids then s.wr .WN_RANK_CTL_STATUS 2
      else if p ≤ r ∨ ids.getD r 0 ≠ s.rd .WN_ID_MODULE then s.wr .WN_RANK_CTL_STATUS 3
      else s.setRanks ids r

/-- RANK_COMMIT (R212): WN_RANK_CTL.COMMIT. -/
def execRankCommit (s : State) : Host.Outcome State Fault Refusal := .next (s.byHost State.commitRanks)

/-- The number of ranks in force. -/
def State.rankCount (s : State) : Nat := s.net.ranks.length

/-! ### Checks the collectives share -/

/-- Is an endpoint in HBM or in a loft of bay `b` (R209, R214)? -/
def onBay (b : Nat) (e : Ep) : Bool := e.space == 0 || (e.space == 1 && thrBay e.thr == b)

/-- The use of `n` bytes at an endpoint word. -/
def wordUse (word n : Nat) (write : Bool) (side : Nat) : Use :=
  let e := Ep.ofWord word
  ⟨spanOf e.space e.sub e.addr n [], write, side⟩

/-- Are eight collectives in progress on queue `q` (R97)? -/
def State.collFull (s : State) (q : Nat) : Bool :=
  decide (8 ≤ ((s.queue q).work.filter fun w => w.coll.isSome && !w.done).length)

/-- Is another collective of a SEQ in progress on queue `q` (R224)? A WN.HEALTH joins one of its own kind (R209). -/
def State.seqBusy (s : State) (q seq : Nat) (health : Bool) : Bool :=
  (s.queue q).work.any fun w => !w.done && (w.coll.any fun c => c.seq == seq) && !(health && w.kind == .health)

/-- Must what an instruction in progress writes wait: for the closed epoch (R205), or for a stack in self-refresh
(R292)? -/
def State.landHeld (s : State) (w : Work) : Bool :=
  s.heldBy205 w.bound (w.writes.map fun x => ⟨some x, true, 1⟩) || w.writes.any s.sleeps

/-- A write of an instruction in progress that waits: counted where the closed epoch holds it (R205). -/
def State.landStall (s : State) (w : Work) : State :=
  if s.heldBy205 w.bound (w.writes.map fun x => ⟨some x, true, 1⟩) then s.addWrap .PS_STALL_CNT_COUNT 0 1 else s

/-- A collective's field of `Work` changed by `g`. -/
def State.updColl (s : State) (q id : Nat) (g : Coll → Coll) : State :=
  s.updWork q id fun w => { w with coll := w.coll.map g }

/-- Instruction `id` of queue `q`. -/
def State.workAt (s : State) (q id : Nat) : Option Work := (s.queue q).work.find? fun w => w.id == id

/-! ### WN.RSCAT: its descriptor (R214) -/

/-- Rings of a bay. -/
def RscatDesc.rings (d : RscatDesc) : Nat := 2 ^ d.ringN
/-- Blocks of the bay's part of a shard. -/
def RscatDesc.part (d : RscatDesc) : Nat := d.s / 4

/-- Checks 4, 5 and 7 of R142 (R214, R215). -/
def rscatCheck (b w : Nat) : Chk Unit := do
  let d := RscatDesc.ofWord w
  let es := [d.src, d.dst, d.escMap, d.nextExp, d.status]
  need (bits w 170 6 == 0 && fld w 48 16 == 0 && d.ringN != 3 && es.all epReservedOk) .encoding
  need (es.all fun e => onBay b (Ep.ofWord e)) .descSpace
  need (d.s != 0 && d.s % (4 * d.rings) == 0) .collShape

/-- Its uses (R214): `p` ranks. -/
def RscatDesc.uses (d : RscatDesc) (p : Nat) : List Use :=
  [wordUse d.src (p * d.s * 65) false 0, wordUse d.dst (d.part * 65) true 1, wordUse d.escMap ((d.part + 7) / 8) true 2,
    wordUse d.nextExp d.part true 2, wordUse d.status 32 true 2]

/-- The reduce-scatter of a SEQ that still moves on queue `q`. -/
def State.rscatOf (s : State) (q seq : Nat) : Option Work :=
  (s.queue q).work.find? fun w => w.kind == .rscat && !w.ready && (w.coll.any fun c => c.seq == seq)

/-! ### The status record and the end (R221, R223, R224) -/

/-- The flag of WN_COLL_STAT a code sets (R232). -/
def State.collFlag (s : State) (e : E) : State :=
  match e with
  | .collTimeout => s.wr .WN_COLL_STAT_TIMEOUT 1
  | .collMismatch => s.wr .WN_COLL_STAT_MISMATCH 1
  | .gradOverflow => s.wr .WN_COLL_STAT_OVERFLOW 1
  | _ => s

/-- A reduce-scatter of queue `q` ends in a fault of R215 or R224: its record carries the code. -/
def State.endRscat (s : State) (q : Nat) (w : Work) (e : E) : State :=
  (s.collFlag e).failWork q w.id (.of e)

/-- A reduce-scatter that has delivered every block and whose every partial is acknowledged writes its record and is
ready to complete (R221, R223). -/
def State.finishRscat (s : State) (q id : Nat) : State :=
  match s.workAt q id with
  | none => s
  | some w =>
    match w.coll with
    | none => s
    | some c =>
      let n := (RscatDesc.ofWord w.desc).part
      if w.kind = .rscat ∧ !w.ready ∧ c.started ∧ c.delivered = n ∧ c.sent = (s.rankCount - 1) * n ∧ w.tags.isEmpty ∧
          (s.net.tagWait.all fun x => !(x.queue == q && x.id == id)) ∧ !s.landHeld w then
        let s := if c.satBlocks = 0 then s.writeStatus w 0
          else ((s.collFlag .gradOverflow).raise .gradOverflow 1 q 0 0 0).writeStatus w E.gradOverflow.val
        (s.updWork q id fun w => { w with ready := true }).leaveDigest q w
      else s

/-! ### Adders (R216, R217, R221) -/

/-- A saturation in an adder of an instruction's bay counted (R208, R221). -/
def State.countSat (s : State) (w : Work) : State := (s.raiseEsc (s.bankOf w.bound)).addSat .WN_SAT_CNT_COUNT 0 1

/-- An incoming block added to a local one on queue `q` (R217), counted. -/
def State.addBlocks (s : State) (q : Nat) (w : Work) (a b : GBlock) : GBlock × State :=
  let r := gsAdd a b
  let s := if r.esc then
    (s.addSat .WN_ESC_CNT_ADDER (q - 48) 1).updColl q w.id fun c => { c with addsEsc := c.addsEsc + 1 } else s
  (r.block, if r.sat then s.countSat w else s)

/-- Block `g` of the contribution of the bay whose reduce-scatter is `w`. -/
def State.srcBlock (s : State) (w : Work) (g : Nat) : GBlock × State :=
  let e := Ep.ofWord (RscatDesc.ofWord w.desc).src
  let view := s.viewOf w.bound
  let s := s.senseAt view e.space e.thr (e.addr + 65 * g) 65
  (gsOfBytes (s.readAt view e.space e.thr (e.addr + 65 * g) 65) false false, s)

/-- A block of zeros at an exponent (R216, R218). -/
def GBlock.zeros (e : Nat) : GBlock := ⟨List.replicate 32 0, e, false, false⟩

/-- The later bays' blocks added to a running sum (R216). -/
def meshRest (q : Nat) (w : Work) (g : Nat) : List Work → GBlock → State → GBlock × State
  | [], a, s => (a, s)
  | x :: r, a, s =>
    let (b, s) := s.srcBlock x g
    let (a, s) := s.addBlocks q w a b
    meshRest q w g r a s

/-- The mesh sum of block `g` on queue `q` over the reduce-scatters of the bays in BAY_MASK (R216). -/
def meshBlock (q : Nat) (w : Work) (ws : List Work) (g : Nat) (s : State) : GBlock × State :=
  match ws with
  | [] => (.zeros 0, s)
  | x :: r =>
    let (a, s) := s.srcBlock x g
    meshRest q w g r a s

/-- The mesh sums of a list of blocks. -/
def meshBlocks (q : Nat) (w : Work) (ws : List Work) : List Nat → State → List GBlock × State
  | [], s => ([], s)
  | g :: r, s =>
    let (a, s) := meshBlock q w ws g s
    let (l, s) := meshBlocks q w ws r s
    (a :: l, s)

/-- The global index of block `i` of bay `b`'s part of shard `o` (R213). -/
def RscatDesc.blockNo (d : RscatDesc) (b o i : Nat) : Nat := o * d.s + b * d.part + i

/-- The mesh stage of queue `q` (R216): the sums of its parts of every shard. -/
def State.meshStage (s : State) (ws : List Work) (q : Nat) (w : Work) : State :=
  let d := RscatDesc.ofWord w.desc
  let gs := (List.range s.rankCount).flatMap fun o => (List.range d.part).map fun i => d.blockNo (q - 48) o i
  let src := ((List.range 4).zip ws).filterMap fun x => if bit d.mask x.1 then some x.2 else none
  match meshBlocks q w src gs s with
  | (l, s) => s.updColl q w.id fun c => { c with started := true, mesh := l }

/-! ### The ring stage (R218) and delivery (R219) -/

/-- The flags byte of a block (R218). -/
def GBlock.flagsByte (a : GBlock) : Nat := b2n a.esc + 2 * b2n a.sat

/-- A RING frame of queue `q`: blocks from global index `g` up, at ring step `j` on a ring. -/
def State.ringFrame (s : State) (q : Nat) (d : RscatDesc) (j g ring : Nat) (l : List GBlock) : Frame :=
  let f := s.mkFrame opRing q s.succId 0 (g % 2 ^ 32 + j * 2 ^ 32) (d.s + d.seq * 2 ^ 32 + d.ringN * 2 ^ 48 + ring * 2 ^ 50)
    (l.flatMap GBlock.bytes)
  { f with digest := d.digest, dset := if d.digest then d.dset else 0, flags := l.map GBlock.flagsByte }

/-- Partials sent to the successor (R218). -/
def State.sendRing (s : State) (q id : Nat) (d : RscatDesc) (j g ring : Nat) (l : List GBlock) : State :=
  if s.stillOn q id then
    (s.updColl q id fun c => { c with sent := c.sent + l.length }).request
      ⟨qBay q, q, id, 0, ⟨opRing, s.ringFrame q d j g ring l⟩⟩
  else s

/-- The first partials of queue `q`: its mesh sums for the shard of rank r − 1, slice by slice, at most 16 blocks in a
frame (R218, R241). -/
def State.firstPartials (s : State) (q : Nat) (w : Work) : State :=
  let d := RscatDesc.ofWord w.desc
  let p := s.rankCount
  let o := (s.net.rankSelf + p - 1) % p
  let mesh := match s.workAt q w.id with
    | some w => (w.coll.getD (Coll.fresh 0)).mesh
    | none => []
  let n := d.part / d.rings
  (List.range d.rings).foldl (fun s k =>
    (List.range ((n + 15) / 16)).foldl (fun s i =>
      let at' := k * n + 16 * i
      s.sendRing q w.id d 1 (d.blockNo (q - 48) o at') k ((mesh.drop (o * d.part + at')).take (min 16 (n - 16 * i)))) s) s

/-- One bit of the ESC_MAP set or cleared. -/
def State.setEscBit (s : State) (w : Work) (word i : Nat) (b : Bool) : State :=
  let e := Ep.ofWord word
  let v := pNat (s.readAt (s.viewOf w.bound) e.space e.thr (e.addr + i / 8) 1)
  s.collWrite w word (i / 8) (leBytes 1 (setBits v (i % 8) 1 (b2n b)))

/-- Block `i` of the bay's own part delivered (R219, R221, R222): the owner's mesh sum `m` and the incoming block. -/
def State.deliver (s : State) (q : Nat) (w : Work) (i : Nat) (a m : GBlock) : State :=
  let d := RscatDesc.ofWord w.desc
  let (x, sat) := gsDeliver a m
  let s := if sat then s.countSat w else s
  let s := s.collWrite w d.dst (65 * i) x.bytes
  let s := s.setEscBit w d.escMap i x.esc
  let s := s.collWrite w d.nextExp i (leBytes 1 (if x.exp = 0xFF then 0 else min 254 (x.exp + 1)))
  s.updColl q w.id fun c =>
    { c with delivered := c.delivered + 1, escBlocks := c.escBlocks + b2n x.esc, satBlocks := c.satBlocks + b2n x.sat,
             poisonBlocks := c.poisonBlocks + b2n (x.exp == 0xFF) }

/-- With one rank, every block delivered at once (R218), where the writes need not wait. -/
def State.deliverOwn (s : State) (q : Nat) (w : Work) : State :=
  if s.landHeld w then s.landStall w
  else
  let mesh := match s.workAt q w.id with
    | some w => (w.coll.getD (Coll.fresh 0)).mesh
    | none => []
  ((List.range mesh.length).zip mesh).foldl (fun s x => s.deliver q w x.1 (.zeros x.2.exp) x.2) s

/-- Incoming blocks added to the mesh sums, in turn. -/
def addRun (q : Nat) (w : Work) : List (GBlock × GBlock) → State → List GBlock × State
  | [], s => ([], s)
  | (a, m) :: r, s =>
    let (x, s) := s.addBlocks q w a m
    let (l, s) := addRun q w r s
    (x :: l, s)

/-- The blocks a RING frame carries, poisoned where its end-to-end CRC-32C fails (R248). -/
def ringBlocks (f : Frame) : List GBlock :=
  ((chunksOf 65 f.flags.length f.payload).zip f.flags).map fun x =>
    gsOfBytes (x.1.map fun b => ⟨b, !f.intact⟩) (bit x.2 0) (bit x.2 1)

/-- A RING frame consumed by the reduce-scatter it belongs to (R215, R218): added and sent on, or delivered by the
owner, then acknowledged. Frames of another shape end the collective; frames that fit no step of it are discarded. -/
def State.consumeRing (s : State) (p q : Nat) (w : Work) (c : Coll) (f : Frame) : State :=
  let d := RscatDesc.ofWord w.desc
  let s := s.emptied p opRing f
  if bits f.arg 0 32 ≠ d.s ∨ bits f.arg 48 2 ≠ d.ringN then s.endRscat q w .collMismatch
  else
    let k := s.rankCount
    let j := bits f.addr 32 16
    let g := bits f.addr 0 32
    let o := (s.net.rankSelf + 2 * k - 1 - j) % k
    let i := (g + 2 ^ 32 - d.blockNo (q - 48) o 0 % 2 ^ 32) % 2 ^ 32
    let l := ringBlocks f
    if j = 0 ∨ k ≤ j ∨ f.src ≠ s.predId ∨ d.part < i + l.length then s
    else
      let s := s.updColl q w.id fun c => { c with recvBytes := c.recvBytes ++ [(f.addr, ringBytes f.payload f.flags)] }
      let pairs := l.zip (c.mesh.drop (o * d.part + i))
      let s := if j + 1 = k then
          ((List.range pairs.length).zip pairs).foldl (fun s x => s.deliver q w (i + x.1) x.2.1 x.2.2) s
        else
          match addRun q w pairs s with
          | (out, s) => s.sendRing q w.id d (j + 1) g (bits f.arg 50 2) out
      (s.reply f opRingAck l.length []).finishRscat q w.id

/-- A RING frame for this module taken: consumed, or held until its reduce-scatter has issued on every bay (R224) and may
write. -/
def State.receiveRing (s : State) (p : Nat) (f : Frame) : State :=
  let q := 48 + qBay f.sq
  match s.rscatOf q (bits f.arg 32 16) with
  | none => { s with net := { s.net with held := s.net.held ++ [⟨p, f⟩] } }
  | some w =>
    match w.coll with
    | none => s
    | some c =>
      let wait : State := { s with net := { s.net with held := s.net.held ++ [⟨p, f⟩] } }
      if !c.started then wait
      else if s.landHeld w then wait.landStall w
      else s.consumeRing p q w c f

/-- Is a held frame a RING frame of a SEQ? A HEALTH frame carries no payload. -/
def ringOf (seq : Nat) (h : HeldFrame) : Bool := !h.f.payload.isEmpty && bits h.f.arg 32 16 == seq

/-- The held RING frames of a SEQ taken (R224). -/
def State.takeHeld (s : State) (seq : Nat) : State :=
  let l := s.net.held.filter (ringOf seq)
  let s : State := { s with net := { s.net with held := s.net.held.filter fun h => !ringOf seq h } }
  l.foldl (fun s h => s.receiveRing h.port h.f) s

/-! ### WN.RSCAT issues (R214, R215) -/

/-- The reduce-scatters of a SEQ that have issued on the four bays and not begun, where all have (R215). -/
def State.rscatGroup (s : State) (seq : Nat) : Option (List Work) :=
  [48, 49, 50, 51].mapM fun q =>
    match s.rscatOf q seq with
    | some w => if w.coll.any fun c => c.started then none else some w
    | none => none

/-- Do the descriptors agree (R215)? -/
def rscatAgree (a b : Work) : Bool :=
  let x := RscatDesc.ofWord a.desc
  let y := RscatDesc.ofWord b.desc
  x.s == y.s && x.mask == y.mask && x.ringN == y.ringN

/-- The fourth reduce-scatter of a SEQ has issued: the four compare, and begin (R215, R216, R218). -/
def State.beginRscat (s : State) (seq : Nat) (ws : List Work) : State :=
  let l := [48, 49, 50, 51].zip ws
  if ws.all fun w => rscatAgree w (ws.getD 0 w) then
    let s := s.settleDigs seq
    let s := l.foldl (fun s x => s.meshStage ws x.1 x.2) s
    let s := l.foldl (fun s x => if s.rankCount = 1 then s.deliverOwn x.1 x.2 else s.firstPartials x.1 x.2) s
    l.foldl (fun s x => s.finishRscat x.1 x.2.id) (s.takeHeld seq)
  else l.foldl (fun s x => s.endRscat x.1 x.2 .collMismatch) s

/-- The reduce-scatters of a SEQ begin once the last bay's has issued, and no memory of theirs is in self-refresh. -/
def State.tryRscat (s : State) (seq : Nat) : State :=
  match s.rscatGroup seq with
  | none => s
  | some ws => if ws.any fun w => (w.reads ++ w.writes).any s.sleeps then s else s.beginRscat seq ws

/-- A reduce-scatter of a SEQ already in progress on its queue (R223, R224). -/
def State.dupRscat (s : State) (q : Nat) (i : Ins) (w : Nat) : State :=
  let x := { newWork (s.queue q) i .rscat (s.bindEpoch i) with desc := w }
  ((s.collFlag .collMismatch).writeStatus x E.collMismatch.val).engineFault q (.of .collMismatch) i.pc

/-- WN.RSCAT (R214 to R224). -/
def execWnRscat (b : Fin 4) (s : State) : Host.Outcome State Fault Refusal :=
  let q := 48 + b.val
  .next (issue q 0xB1 s fun i s =>
    if !s.flag .WN_RANK_CTL_VALID 0 then s.engineFault q (.of .rankNone) i.pc
    else withDesc q i s fun x s =>
      let d := RscatDesc.ofWord x.word
      let bound := s.bindEpoch i
      let us := d.uses s.rankCount
      match (do rscatCheck b x.word; s.checkUses bound (us ++ [x.use]) (.ok ()) : Chk Unit) with
      | .error f => s.engineFault q f i.pc
      | .ok _ =>
        if s.seqBusy q d.seq false then s.dupRscat q i x.word
        else if s.heldBy205 bound us then s.hold205 q
        else if s.mustStall q (usesSpans false (us ++ [x.use])) (usesSpans true us) none || s.collFull q then s
        else
          let w := { newWork (s.queue q) i .rscat bound with
            desc := x.word, reads := usesSpans false us, writes := usesSpans true us, ready := false,
            coll := some (Coll.fresh d.seq) }
          (s.goOn q i w).tryRscat d.seq)

/-! ### WN.GATHER (R228, R229) -/

/-- The fields of a gather descriptor. -/
structure GatherDesc where
  src : Nat
  dst : Nat
  stride : Nat
  bytes : Nat
  mask : Nat
  digest : Bool
  dset : Nat
  seq : Nat
  j0 : Nat
  prog : Nat
  jn : Nat
  deriving DecidableEq, Repr

/-- The fields of its 64 bytes. -/
def GatherDesc.ofWord (w : Nat) : GatherDesc :=
  { src := fld w 0 8, dst := bits w 64 28, stride := fld w 12 4, bytes := fld w 16 4, mask := bits w 160 8,
    digest := bit w 168, dset := bits w 169 3, seq := bits w 176 16, j0 := fld w 24 2, prog := fld w 26 2, jn := bits w 224 17 }

/-- Checks 4, 5 and 7 of R142 (R228); `p` ranks. -/
def gatherCheck (p w : Nat) : Chk Unit := do
  let d := GatherDesc.ofWord w
  need (bits w 92 4 == 0 && bits w 172 4 == 0 && bits w 241 15 == 0 && fld w 32 32 == 0 && epReservedOk d.src) .encoding
  need (decide ((Ep.ofWord d.src).space ≤ 1)) .descSpace
  need (d.bytes != 0 && d.mask != 0 && decide (d.j0 < p) && decide (1 ≤ d.jn) && decide (d.jn ≤ p) && decide (d.bytes ≤ d.stride))
    .collShape

/-- The threshers whose lofts take the slots. -/
def GatherDesc.lofts (d : GatherDesc) : List Nat := (List.range 8).filter (bit d.mask)

/-- Its uses (R228). -/
def GatherDesc.uses (d : GatherDesc) (p : Nat) : List Use :=
  wordUse d.src d.bytes false 0 :: d.lofts.map fun t => ⟨spanOf 1 t d.dst ((p - 1) * d.stride + d.bytes) [], true, 1⟩

/-- The rank whose shard has offset `j` (R229). -/
def State.gatherRank (s : State) (j : Nat) : Nat := (s.net.rankSelf + j) % s.rankCount

/-- The place of the shard at every peer: SRC in the remote form. -/
def peerEp (src m : Nat) : Ep :=
  let e := Ep.ofWord src
  ⟨2, e.thr, e.addr, m, e.space == 1⟩

/-- What the reads of a gather are made with. -/
def gatherRun (q : Nat) (w : Work) (view : View) (bank : Nat) (d : GatherDesc) : CopyRun :=
  ⟨q, w.id, 0, false, view, bank, w.bound, { CopyDesc.ofWord 0 with digest := d.digest, dset := d.dset }⟩

/-- The shards of a gather asked for, in ascending offset (R229); the own shard is not. -/
def State.askShards (s : State) (q : Nat) (w : Work) (vol : Bool) : State :=
  let d := GatherDesc.ofWord w.desc
  (List.range d.jn).foldl (fun s k =>
    let j := d.j0 + k
    if j % s.rankCount = 0 then s
    else
      let e := peerEp d.src (s.rankId (s.gatherRank j))
      s.askRun (gatherRun q w (s.viewOf w.bound) 0 d) e vol (k * d.bytes) e.addr d.bytes) s

/-- The bytes of shard `k` of a gather, where they are there: this module's own memory, or every part of its reads. -/
def State.shardBytes (s : State) (w : Work) (d : GatherDesc) (k : Nat) : Option (List PByte) :=
  if (d.j0 + k) % s.rankCount = 0 then
    let e := Ep.ofWord d.src
    if w.reads.any s.sleeps then none else some (s.readAt (s.viewOf w.bound) e.space e.thr e.addr d.bytes)
  else
    ((w.pieces.filter fun p => p.pos / d.bytes == k).mapM Piece.data).map List.flatten

/-- The own shard's words checked as they are read (R134). -/
def State.senseShard (s : State) (w : Work) (d : GatherDesc) (k : Nat) : State :=
  let e := Ep.ofWord d.src
  if (d.j0 + k) % s.rankCount = 0 then s.senseAt (s.viewOf w.bound) e.space e.thr e.addr d.bytes else s

/-- Shard `k` written to its slot in every loft, and folded (R227, R229). -/
def State.landShard (s : State) (q : Nat) (w : Work) (d : GatherDesc) (k : Nat) (l : List PByte) : State :=
  let r := s.gatherRank (d.j0 + k)
  let s := d.lofts.foldl (fun s t => s.writeAt (s.viewOf w.bound) 1 t (d.dst + r * d.stride) l) s
  let s := if d.digest ∧ (d.j0 + k) % s.rankCount ≠ 0 then s.foldDigest (.own q w.id) d.dset (s.rankId r) true (l.map PByte.val) else s
  s.updColl q w.id fun c => { c with delivered := c.delivered + 1 }

/-- The shards from offset `k` up that are there land, in order; the first that is not, or must wait, ends it. -/
def landShards (q id : Nat) : List Nat → State → State
  | [], s => s
  | k :: r, s =>
    match s.workAt q id with
    | none => s
    | some w =>
      let d := GatherDesc.ofWord w.desc
      let s := s.senseShard w d k
      match s.shardBytes w d k with
      | none => s
      | some l => if s.landHeld w then s.landStall w else landShards q id r (s.landShard q w d k l)

/-- A gather goes on: shards land, and are signalled (R229). -/
def State.gatherGo (s : State) (q id : Nat) : State :=
  match s.workAt q id with
  | none => s
  | some w =>
    let c := w.coll.getD (Coll.fresh 0)
    let s := landShards q id (upFrom c.delivered ((GatherDesc.ofWord w.desc).jn - c.delivered)) s
    match s.workAt q id with
    | none => s
    | some w => s.progGo q w

/-- WN.GATHER (R228, R229). -/
def execWnGather (b : Fin 4) (s : State) : Host.Outcome State Fault Refusal :=
  let q := 48 + b.val
  .next (issue q 0xB0 s fun i s =>
    if !s.flag .WN_RANK_CTL_VALID 0 then s.engineFault q (.of .rankNone) i.pc
    else withDesc q i s fun x s =>
      let d := GatherDesc.ofWord x.word
      let bound := s.bindEpoch i
      let us := d.uses s.rankCount
      let tally : Chk Unit := match (if d.prog = 0xFFFF then none else s.tallyFault q d.prog) with
        | none => .ok ()
        | some f => .error f
      match (do gatherCheck s.rankCount x.word; s.checkUses bound (us ++ [x.use]) (.ok ()); tally : Chk Unit) with
      | .error f => s.engineFault q f i.pc
      | .ok _ =>
        if s.seqBusy q d.seq false then (s.collFlag .collMismatch).engineFault q (.of .collMismatch) i.pc
        else if s.heldBy205 bound us then s.hold205 q
        else if s.mustStall q (usesSpans false (us ++ [x.use])) (usesSpans true us) none || s.collFull q then s
        else
          let w := { newWork (s.queue q) i .gather bound with
            desc := x.word, reads := usesSpans false us, writes := usesSpans true us, ready := false,
            coll := some (Coll.fresh d.seq) }
          ((s.goOn q i w).askShards q w i.vol).gatherGo q w.id)

/-- COLL_TIMEOUT (R224): a reduce-scatter or gather still in progress ends. -/
def execCollTimeout (b : Fin 4) (id : Nat) (s : State) : Host.Outcome State Fault Refusal :=
  let q := 48 + b.val
  match s.workAt q id with
  | none => .next s
  | some w =>
    .next (
      if w.ready then s
      else if w.kind = .rscat then s.endRscat q w .collTimeout
      else if w.kind = .gather then (s.collFlag .collTimeout).failWork q id (.of .collTimeout)
      else s)

/-! ### WN.HEALTH (R209, R210) -/

/-- The fields of a health descriptor. -/
structure HealthDesc where
  result : Nat
  epochLe : Nat
  seq : Nat
  clear : Bool
  user : Bool
  deriving DecidableEq, Repr

/-- The fields of its 64 bytes. -/
def HealthDesc.ofWord (w : Nat) : HealthDesc :=
  { result := fld w 0 8, epochLe := fld w 8 4, seq := fld w 12 2, clear := bit w 112, user := bit w 113 }

/-- Checks 4 and 5 of R142 (R209). -/
def State.healthCheck (s : State) (b w : Nat) : Chk Unit := do
  let d := HealthDesc.ofWord w
  let x := (wordUse d.result 8 true 1).span
  need (bits w 114 14 == 0 && fld w 16 48 == 0 && epReservedOk d.result) .encoding
  need (onBay b (Ep.ofWord d.result) && !(s.vregs.any fun r => x.any r.meetsName)) .descSpace

/-- The flag banks a health check samples (R209): the committed ones, and those of the live epochs up to one. -/
def State.healthBanks (s : State) (le : Nat) : List Nat :=
  0 :: ((if s.flag .PS_STAT_OPEN 0 ∧ s.rd .PS_EPOCH_OPEN_EPOCH ≤ le then [1] else []) ++
    (if s.flag .PS_STAT_CLOSED 0 ∧ s.rd .PS_EPOCH_CLOSED_EPOCH ≤ le then [2] else []))

/-- The fields of a bank: OVF, NAN, ESC_EXH (R208, R211). -/
def bankFields : Nat → F × F × F
  | 0 => (.PS_NUMFLAG_OVF_C, .PS_NUMFLAG_NAN_C, .PS_ESC_FLAG_ESC_C)
  | 1 => (.PS_NUMFLAG_OVF_O, .PS_NUMFLAG_NAN_O, .PS_ESC_FLAG_ESC_O)
  | _ => (.PS_NUMFLAG_OVF_A, .PS_NUMFLAG_NAN_A, .PS_ESC_FLAG_ESC_A)

/-- The module's contribution (R209). -/
def State.sample (s : State) (d : HealthDesc) : Nat :=
  let l := (s.healthBanks d.epochLe).map bankFields
  let any (g : F × F × F → F) : Bool := l.any fun b => (List.range 8).any fun t => s.flag (g b) t
  b2n (any fun b => b.1) + 2 * b2n (any fun b => b.2.1) + 4 * b2n (l.any fun b => s.flag b.2.2 0) + 8 * b2n d.user

/-- The sampled flags cleared (R209). -/
def State.clearBanks (s : State) (d : HealthDesc) : State :=
  ((s.healthBanks d.epochLe).map bankFields).foldl
    (fun s b => (((s.dropFlag b.1).dropFlag b.2.1).wr b.2.2 0)) s

/-- What rank `r` of `p` does (R210), in order: send (true) or receive, its partner, the round number. Round i of the
doubling carries the number i, the first round log2 Q, the last log2 Q + 1. -/
def healthSteps (p r : Nat) : List (Bool × Nat × Nat) :=
  let k := Nat.log2 p
  let q := 2 ^ k
  if q ≤ r then [(true, r - q, k), (false, r - q, k + 1)]
  else
    (if r + q < p then [(false, r + q, k)] else []) ++
      ((List.range k).flatMap fun i => [(true, Nat.xor r (2 ^ i), i), (false, Nat.xor r (2 ^ i), i)]) ++
      (if r + q < p then [(true, r + q, k + 1)] else [])

/-- The result word (R209). -/
def healthWord (v seq : Nat) : Nat := v + seq * 2 ^ 32

/-- The health checks of a SEQ in progress: queue and instruction. -/
def State.healthsOf (s : State) (seq : Nat) : List (Nat × Work) :=
  [48, 49, 50, 51].flatMap fun q =>
    ((s.queue q).work.filter fun w => w.kind == .health && !w.ready && (w.coll.any fun c => c.seq == seq)).map fun w => (q, w)

/-- Is a held frame a HEALTH frame of a SEQ? -/
def healthOf (seq : Nat) (h : HeldFrame) : Bool := h.f.payload.isEmpty && bits h.f.arg 0 16 == seq

/-- The health check of a SEQ ends with a value: every instruction that joined it writes its result (R209, R210). -/
def State.endHealth (s : State) (seq v : Nat) : State :=
  let s := (s.healthsOf seq).foldl (fun s x =>
    (s.collWrite x.2 (HealthDesc.ofWord x.2.desc).result 0 (leBytes 8 (healthWord v seq))).updWork x.1 x.2.id fun w =>
      { w with ready := true }) s
  let l := s.net.held.filter (healthOf seq)
  let s : State := { s with net := { s.net with held := s.net.held.filter fun h => !healthOf seq h } }
  l.foldl (fun s h => s.emptied h.port opHealth h.f) s

/-- The steps from the `k`-th on taken as far as the frames that are in allow (R210): `v` is the value so far. -/
def healthGo (q id seq : Nat) : Nat → List (Bool × Nat × Nat) → Nat → State → State
  | _, [], v, s => s.endHealth seq v
  | k, (true, peer, rnd) :: r, v, s =>
    let f := s.mkFrame opHealth q (s.rankId peer) noTag 0 (seq + rnd * 2 ^ 16 + v * 2 ^ 21) []
    match s.send ⟨opHealth, f⟩ with
    | none => s.failWork q id (.of .linkDown)
    | some s => healthGo q id seq (k + 1) r v s
  | k, (false, peer, rnd) :: r, v, s =>
    let mine (h : HeldFrame) : Bool := healthOf seq h && bits h.f.arg 16 5 == rnd && h.f.src == s.rankId peer
    match s.net.held.find? mine with
    | none => s.updColl q id fun c => { c with value := v, round := k }
    | some h =>
      let s : State := { s with net := { s.net with held := s.net.held.eraseP mine } }
      healthGo q id seq (k + 1) r (Nat.lor v (bits h.f.arg 21 5)) (s.emptied h.port opHealth h.f)

/-- The health check of a SEQ goes on, where one that leads it is in progress. -/
def State.healthOn (s : State) (seq : Nat) : State :=
  match (s.healthsOf seq).find? fun x => x.2.coll.any fun c => c.started with
  | none => s
  | some (q, w) =>
    let c := w.coll.getD (Coll.fresh seq)
    healthGo q w.id seq c.round ((healthSteps s.rankCount s.net.rankSelf).drop c.round) c.value s

/-- A HEALTH frame for this module taken: it waits for its round (R210, R224). -/
def State.receiveHealth (s : State) (p : Nat) (f : Frame) : State :=
  ({ s with net := { s.net with held := s.net.held ++ [⟨p, f⟩] } } : State).healthOn (bits f.arg 0 16)

/-- WN.HEALTH (R209, R210). -/
def execWnHealth (b : Fin 4) (s : State) : Host.Outcome State Fault Refusal :=
  let q := 48 + b.val
  .next (issue q 0xB2 s fun i s =>
    if !s.flag .WN_RANK_CTL_VALID 0 then s.engineFault q (.of .rankNone) i.pc
    else withDesc q i s fun x s =>
      let d := HealthDesc.ofWord x.word
      let bound := s.bindEpoch i
      let us := [wordUse d.result 8 true 1]
      match (do s.healthCheck b x.word; s.checkUses bound (us ++ [x.use]) (.ok ()) : Chk Unit) with
      | .error f => s.engineFault q f i.pc
      | .ok _ =>
        if s.seqBusy q d.seq true then (s.collFlag .collMismatch).engineFault q (.of .collMismatch) i.pc
        else if s.heldBy205 bound us then s.hold205 q
        else if s.mustStall q (usesSpans false [x.use]) (usesSpans true us) none || s.collFull q then s
        else
          let lead := (s.healthsOf d.seq).isEmpty
          let c : Coll := { Coll.fresh d.seq with started := lead, value := if lead then s.sample d else 0 }
          let w := { newWork (s.queue q) i .health bound with
            desc := x.word, writes := usesSpans true us, ready := false, coll := some c }
          let s := if lead ∧ d.clear then s.clearBanks d else s
          let s := s.goOn q i w
          if lead then s.healthOn d.seq else s)

/-- HEALTH_TIMEOUT (R210): the result is written with what this module has, MISSING set. -/
def execHealthTimeout (b : Fin 4) (id : Nat) (s : State) : Host.Outcome State Fault Refusal :=
  match s.workAt (48 + b.val) id with
  | none => .next s
  | some w =>
    if w.kind = .health ∧ !w.ready then
      let seq := (HealthDesc.ofWord w.desc).seq
      let v := match (s.healthsOf seq).find? fun x => x.2.coll.any fun c => c.started with
        | some (_, x) => (x.coll.getD (Coll.fresh seq)).value
        | none => 0
      .next (s.endHealth seq (Nat.lor v 16))
    else .next s

end Sys2Proof.Machine
end

