-- ==== Sys2Proof/Machine/Crypto.lean ====
section
/-! DEFINITION. The algorithms the spec names by their standards: SHA-512 (FIPS 180-4) and the verification of Ed25519
signatures (RFC 8032), which R329, R330 and R338 to R340 use. -/

namespace Sys2Proof.Machine

/-! ### SHA-512 -/

/-- A 64-bit word rotated right. -/
def rotr (n x : Nat) : Nat := (x / 2 ^ n + x * 2 ^ (64 - n)) % 2 ^ 64

/-- Exclusive or of three words. -/
def xor3 (a b c : Nat) : Nat := Nat.xor (Nat.xor a b) c

/-- The primes below 410: the first 80, which FIPS 180-4 takes its constants from. -/
def shaPrimes : List Nat :=
  (List.range 410).filter fun n => decide (2 ≤ n) && (List.range 19).all fun d => n == d + 2 || n % (d + 2) != 0

/-- The greatest number from `x` up to `x + 2 ^ bits - 1` whose `k`-th power is at most `v`, bit by bit. -/
def rootUp (k v : Nat) : Nat → Nat → Nat
  | 0, x => x
  | bits + 1, x => rootUp k v bits (if (x + 2 ^ bits) ^ k ≤ v then x + 2 ^ bits else x)

/-- The first 64 bits behind the point of the `k`-th root of `p`. -/
def rootWord (k p : Nat) : Nat := rootUp k (p * 2 ^ (64 * k)) 67 0 % 2 ^ 64

/-- The round constants of SHA-512: from the cube roots of the first 80 primes. -/
def shaK : List Nat := shaPrimes.map (rootWord 3)

/-- The initial hash value of SHA-512: from the square roots of the first eight primes. -/
def shaInit : List Nat := (shaPrimes.take 8).map (rootWord 2)

/-- The next word of the message schedule, the newest word of `w` first. -/
def shaNext (w : List Nat) : Nat :=
  let a := w.getD 14 0
  let b := w.getD 1 0
  (xor3 (rotr 19 b) (rotr 61 b) (b / 2 ^ 6) + w.getD 6 0 + xor3 (rotr 1 a) (rotr 8 a) (a / 2 ^ 7) + w.getD 15 0)
    % 2 ^ 64

/-- The message schedule of a block, newest word first, `n` words more. -/
def shaSchedule : Nat → List Nat → List Nat
  | 0, w => w
  | n + 1, w => shaSchedule n (shaNext w :: w)

/-- Exclusive or of a word's rotations. -/
def rotSum (x : Nat) (l : List Nat) : Nat := l.foldl (fun y n => Nat.xor y (rotr n x)) 0

/-- The bits of `f` where `e` has a one, those of `g` where it has a zero. -/
def chosen (e f g : Nat) : Nat := Nat.xor g (Nat.land e (Nat.xor f g))

/-- The bits that two or three words have. -/
def majority (a b c : Nat) : Nat := Nat.lor (Nat.land a b) (Nat.land c (Nat.lor a b))

/-- One round on the eight working words. -/
def shaRound (v : List Nat) (kw : Nat) : List Nat :=
  match v with
  | [a, b, c, d, e, f, g, h] =>
    let x := kw + h + chosen e f g + rotSum e [14, 18, 41]
    [(x + majority a b c + rotSum a [28, 34, 39]) % 2 ^ 64, a, b, c, (d + x) % 2 ^ 64, e, f, g]
  | _ => v

/-- The number a big-endian byte string spells. -/
def beNat (l : List Byte) : Nat := leNat l.reverse

/-- One 128-byte block folded into the hash value. -/
def shaBlock (h : List Nat) (b : List Byte) : List Nat :=
  let w := (shaSchedule 64 ((chunksOf 8 16 b).map beNat).reverse).reverse
  let v := ((shaK.zip w).map fun e => e.1 + e.2).foldl shaRound h
  (h.zip v).map fun e => (e.1 + e.2) % 2 ^ 64

/-- SHA-512 of a byte string: 64 bytes. -/
def sha512 (m : List Byte) : List Byte :=
  let pad := m ++ 0x80 :: List.replicate ((239 - m.length % 128) % 128) 0 ++ (leBytes 16 (8 * m.length)).reverse
  ((chunksOf 128 (pad.length / 128) pad).foldl shaBlock shaInit).flatMap fun w => (leBytes 8 w).reverse

/-! ### Ed25519 verification -/

/-- The prime 2^255 − 19. -/
def edP : Nat := 2 ^ 255 - 19

/-- The order of the base point. -/
def edL : Nat := 2 ^ 252 + 27742317777372353535851937790883648493

/-- `b ^ e` modulo `m`, by squaring over `fuel` bits of `e`. -/
def powMod (m : Nat) : Nat → Nat → Nat → Nat
  | 0, _, _ => 1
  | n + 1, b, e =>
    let r := powMod m n (b * b % m) (e / 2)
    if e % 2 = 1 then b * r % m else r

/-- The inverse modulo the prime. -/
def edInv (x : Nat) : Nat := powMod edP 256 (x % edP) (edP - 2)

/-- The constant d of the curve: −121665 / 121666. -/
def edD : Nat := (edP - 121665) * edInv 121666 % edP

/-- A point in extended coordinates. -/
structure EdPoint where
  x : Nat
  y : Nat
  z : Nat
  t : Nat
  deriving DecidableEq, Repr

/-- The sum of two points. -/
def EdPoint.add (p q : EdPoint) : EdPoint :=
  let a := (p.y + edP - p.x) * (q.y + edP - q.x) % edP
  let b := (p.y + p.x) * (q.y + q.x) % edP
  let c := 2 * p.t * q.t * edD % edP
  let d := 2 * p.z * q.z % edP
  let e := b + edP - a
  let f := d + edP - c
  let g := d + c
  let h := b + a
  ⟨e * f % edP, g * h % edP, f * g % edP, e * h % edP⟩

/-- A multiple of a point, over `fuel` bits of the number. -/
def EdPoint.mul : Nat → Nat → EdPoint → EdPoint
  | 0, _, _ => ⟨0, 1, 1, 0⟩
  | n + 1, k, p =>
    let r := EdPoint.mul n (k / 2) (p.add p)
    if k % 2 = 1 then p.add r else r

/-- Are two points the same? -/
def EdPoint.same (p q : EdPoint) : Bool :=
  p.x * q.z % edP == q.x * p.z % edP && p.y * q.z % edP == q.y * p.z % edP

/-- The x coordinate of a given parity that goes with `y`; none where there is none. -/
def edRecover (y sign : Nat) : Option Nat :=
  if edP ≤ y then none
  else
    let u := (y * y + edP - 1) % edP
    let v := (edD * y * y + 1) % edP
    let c := u * powMod edP 3 v 3 * powMod edP 256 (u * powMod edP 3 v 7 % edP) ((edP - 5) / 8) % edP
    let x := if v * c * c % edP = u then some c
      else if v * c * c % edP = (edP - u) % edP then some (c * powMod edP 256 2 ((edP - 1) / 4) % edP) else none
    match x with
    | none => none
    | some x => if x = 0 ∧ sign = 1 then none else some (if x % 2 = sign then x else edP - x)

/-- The point a 32-byte string encodes. -/
def edDecode (l : List Byte) : Option EdPoint :=
  let n := leNat l
  let y := n % 2 ^ 255
  (edRecover y (n / 2 ^ 255)).map fun x => ⟨x, y, 1, x * y % edP⟩

/-- The base point. -/
def edBase : EdPoint :=
  let y := 4 * edInv 5 % edP
  let x := (edRecover y 0).getD 0
  ⟨x, y, 1, x * y % edP⟩

/-- Does a 64-byte signature of a message verify under a 32-byte public key (RFC 8032, 5.1.7, with the cofactor)? -/
def edVerify (key sig msg : List Byte) : Bool :=
  match edDecode key, edDecode (sig.take 32) with
  | some a, some r =>
    let s := leNat (sig.drop 32)
    let k := leNat (sha512 (sig.take 32 ++ key ++ msg)) % edL
    decide (s < edL) && ((edBase.mul 256 s).mul 4 8).same ((r.add (a.mul 256 k)).mul 4 8)
  | _, _ => false

end Sys2Proof.Machine
end

