-- ==== Sys2Proof/Machine/Power.lean ====
section
/-! DEFINITION. Power and temperature: domains (R255 to R257), P-states and the policy that sets them (R259, R269,
R275, R277), the cap loop (R263 to R267), droop (R270), the Floor state (R271, R272), sensors and throttling (R274,
R275), Idle (R260). What a domain holds is discarded by `State.dropDomain`. -/

namespace Sys2Proof.Machine

/-! ### Fractions -/

/-- A fraction in lowest terms; zero for a denominator of 0. -/
def Frac.of (n d : Nat) : Frac := if d = 0 then .zero else ⟨n / Nat.gcd n d, d / Nat.gcd n d⟩

/-- Sum of two fractions. -/
def Frac.add (a b : Frac) : Frac := .of (a.num * b.den + b.num * a.den) (a.den * b.den)

/-- Difference of two fractions, zero where it would be negative. -/
def Frac.sub (a b : Frac) : Frac := .of (a.num * b.den - b.num * a.den) (a.den * b.den)

/-- Product of two fractions. -/
def Frac.mul (a b : Frac) : Frac := .of (a.num * b.num) (a.den * b.den)

/-- Is `a` below `b`? -/
def Frac.lt (a b : Frac) : Bool := decide (a.num * b.den < b.num * a.den)

/-- The lesser of two fractions. -/
def Frac.least (a b : Frac) : Frac := if a.lt b then a else b

/-- The greater of two fractions. -/
def Frac.greatest (a b : Frac) : Frac := if a.lt b then b else a

/-- A fraction in 256ths to the nearest, as PW_BUBBLE_FRAC shows it (the example of R269: 0.245 reads 63). -/
def Frac.in256 (a : Frac) : Nat := min 255 ((512 * a.num + a.den) / (2 * a.den))

/-! ### Bubble fractions (R264 to R266, R272) -/

/-- The fraction of a group: 0 links, 1 memory, 2 compute (PW_PRIO). -/
def State.frac (s : State) (g : Nat) : Frac :=
  match g with | 0 => s.power.links | 1 => s.power.memory | _ => s.power.compute

/-- The state with a group's fraction. -/
def State.setFrac (s : State) (g : Nat) (x : Frac) : State :=
  match g with
  | 0 => { s with power := { s.power with links := x } }
  | 1 => { s with power := { s.power with memory := x } }
  | _ => { s with power := { s.power with compute := x } }

/-- The largest fraction of a group (R266). -/
def State.fracMax (s : State) (g : Nat) : Frac :=
  match g with
  | 0 => .of (100 - s.rd .PW_LOOP_CFG_LINK_FLOOR) 100
  | 1 => .of 3 4
  | _ => .of 15 16

/-- Is the Floor state in force (R271, R272)? -/
def State.floorOn (s : State) : Bool := s.power.alertLow || s.power.holding

/-- The fraction in force: in the Floor state memory and links take at least their largest (R272). -/
def State.fracNow (s : State) (g : Nat) : Frac :=
  if s.floorOn && g != 2 then (s.frac g).greatest (s.fracMax g) else s.frac g

/-- The fractions as the registers show them. -/
def State.showFracs (s : State) : State :=
  (((s.wr .PW_BUBBLE_FRAC_LINKS (s.fracNow 0).in256).wr .PW_BUBBLE_FRAC_MEMORY (s.fracNow 1).in256).wr
    .PW_BUBBLE_FRAC_COMPUTE (s.fracNow 2).in256).wr .PW_STAT_CAPPING
    (b2n ((s.fracNow 0).num != 0 || (s.fracNow 1).num != 0 || (s.fracNow 2).num != 0))

/-- A positive change given to groups, the lowest priority first, each up to its largest (R265). -/
def giveFrac : List Nat → Frac → State → State
  | [], _, s => s
  | g :: r, d, s =>
    let x := d.least ((s.fracMax g).sub (s.frac g))
    giveFrac r (d.sub x) (s.setFrac g ((s.frac g).add x))

/-- A negative change taken from groups, the highest priority first, each down to zero (R265). -/
def takeFrac : List Nat → Frac → State → State
  | [], _, s => s
  | g :: r, d, s =>
    let x := d.least (s.frac g)
    takeFrac r (d.sub x) (s.setFrac g ((s.frac g).sub x))

/-- The groups in the order of PW_PRIO, highest first. -/
def State.prio (s : State) : List Nat := [s.rd .PW_PRIO_FIRST, s.rd .PW_PRIO_SECOND, s.rd .PW_PRIO_THIRD]

/-- The effective cap (R263). -/
def State.capNow (s : State) : Nat :=
  let c := min (s.rd .PW_CAP_WATTS) (s.rd .ID_BOARD_BUDGET_W)
  if s.rd .ER_SERVICE_STATE ≤ 2 ∨ ¬ s.flag .PW_STAT_CALIBRATED 0 then min c 1200 else c

/-- The running sum of the compute fraction over 10 µs of thresher `t`, with what earlier periods left (R267). -/
def State.bubbleSum (s : State) (t : Nat) : Frac :=
  (Frac.of ((s.fracNow 2).num * (10 * s.rdi .CK_ISL_STAT_MHZ t)) (s.fracNow 2).den).add (Tbl.get .zero s.power.rest t)

/-- The bubble cycles of 10 µs of thresher `t`: one for every integer the running sum crosses; the rest stays (R267). -/
def State.countBubbles (s : State) (t : Nat) : State :=
  let x := s.bubbleSum t
  { s.addWrap .PW_BUBBLE_CNT_COUNT t (x.num / x.den) with
      power := { s.power with rest := Tbl.set .zero s.power.rest t (.of (x.num % x.den) x.den) } }

/-- Measured power (R264): the estimators of the 20 domains and of AO, each with its gain, in whole watts. -/
def State.measured (s : State) (meas : List Nat) : Nat :=
  let x := ((s.power.gains.zip meas).map fun e => Frac.of (e.1.num * e.2) e.1.den).foldl Frac.add .zero
  min 4095 (x.num / x.den)

/-- One 10 µs period of the cap loop (R263 to R267, R273, R277). Bubbles of the period count with the fraction it ran
at; the new fractions hold from the next. -/
def State.capPeriod (s : State) (meas : List Nat) : State :=
  let w := s.measured meas
  let c := s.capNow
  let s := (s.wr .PW_MEAS_WATTS w).wr .PW_CAP_EFFECTIVE c
  let s := s.addWrap .PW_ENERGY_UJ 0 (10 * w)
  let s := if s.flag .PW_PSTATE_PIN_EN 0 ∧ s.power.compute.num ≠ 0 then s.addSat .PW_POLICY_HELD_COUNT 0 1 else s
  let s := (List.range 8).foldl (fun s t => if s.islandRuns t then s.countBubbles t else s) s
  let gain := s.rd .PW_LOOP_CFG_GAIN
  let s := if c ≤ w then giveFrac s.prio.reverse (.of (gain * (w - c)) (16 * c)) s
    else takeFrac s.prio (.of (gain * (c - w)) (16 * c)) s
  s.showFracs

/-- PW_LOOP_CFG has been written: no group keeps more than its maximum (R266). -/
def State.clampLinks (s : State) : State := (s.setFrac 0 ((s.frac 0).least (s.fracMax 0))).showFracs

/-- The gain of one domain corrected by what is sensed over what is estimated there. -/
def correctGain (g : Frac) (x : Gain) : Frac := if x.estimate = 0 then g else g.mul (.of x.sensed x.estimate)

/-- CALIBRATION_TICK (R264): firmware corrects the gain of each domain, and of AO, against the current sense. -/
def execCalibrationTick (gains : List Gain) (s : State) : Host.Outcome State Fault Refusal :=
  if gains.length = 21 then
    .next (s.byFw fun s =>
      { s.wr .PW_STAT_CALIBRATED 1 with
          power := { s.power with gains := (s.power.gains.zip gains).map fun e => correctGain e.1 e.2 } })
  else .refused .illFormed

/-! ### P-states (R259, R277) -/

/-- The thresher clock of a P-state in MHz (R259). -/
def pstateMhz (p : Nat) : Nat := [1400, 1250, 1100, 950, 800, 700, 525, 350].getD p 350

/-- The thermal limit of thresher `t` as a P-state (R274, R275). -/
def State.heatLimit (s : State) (t : Nat) : Nat :=
  if s.power.dead.contains t then 7 else Tbl.get 0 s.power.heat t

/-- The limits below the thermal one: Reduced service, the ceiling, the pin or the AUTO choice (R277). -/
def State.policyLimit (s : State) (t : Nat) : Nat :=
  let ceil := s.rd .PW_PSTATE_CEIL
  let own := if s.flag .PW_PSTATE_PIN_EN 0 then s.rd .PW_PSTATE_PIN
    else if s.flag .PW_PSTATE_AUTO 0 then Tbl.get 0 s.power.auto t else 0
  max (if s.rd .ER_SERVICE_STATE ≤ 2 then 5 else 0) (max ceil own)

/-- The P-state all limits together give thresher `t` (R277). -/
def State.pstateWanted (s : State) (t : Nat) : Nat :=
  max (if s.floorOn then 7 else 0) (max (s.heatLimit t) (s.policyLimit t))

/-- A flag that vector 5 reports when it goes to 1 (R324). -/
def State.raiseFlag5 (s : State) (f : F) : State := if s.flag f 0 then s else (s.wr f 1).msix 5

/-- PIN_OVERRIDDEN where a limit overrides or clamps the pin (R277): the trip, the Floor state, heat, the ceiling. -/
def State.notePin (s : State) : State :=
  let pin := s.rd .PW_PSTATE_PIN
  if s.flag .PW_PSTATE_PIN_EN 0 &&
      (s.floorOn || s.power.tripOff || decide (pin < s.rd .PW_PSTATE_CEIL) || (List.range 8).any fun t => decide (pin < s.heatLimit t)) then
    s.raiseFlag5 .PW_STAT_PIN_OVERRIDDEN
  else s

/-- THROTTLED of each thresher and TM_STAT.THROTTLING (R274, R275). -/
def State.noteHeat (s : State) : State :=
  let s := (List.range 8).foldl
    (fun s t => s.wri .PW_THR_STAT_THROTTLED t (b2n (decide (s.policyLimit t < s.heatLimit t)))) s
  let hot := (List.range 8).any (fun t => s.heatLimit t != 0) || !s.power.hotStacks.isEmpty ||
    s.power.dead.any fun n => decide (8 ≤ n)
  if hot then s.raiseFlag5 .TM_STAT_THROTTLING else s.wr .TM_STAT_THROTTLING 0

/-- Thresher `t` runs at P-state `p`: its other PLL output is set and its island switches to it (R259, R286). -/
def State.runAt (s : State) (t p : Nat) : State :=
  let o := if s.rdi .CK_ISL_STAT_CUR t = 0 then 1 else 0
  (((s.setOut t o (pstateMhz p)).switchTo t o).wri .PW_THR_STAT_PSTATE t p)

/-- May the P-state logic switch thresher `t`'s island: on a PLL output, neither selected SAFE by host software nor
being switched for it, no episode, its domain on (R283, R287, R292)? -/
def State.pstateFree (s : State) (t : Nat) : Bool :=
  s.rdi .CK_ISL_STAT_CUR t != 2 && s.rdi .CK_ISL_CTL_SRC t != 2 && !s.flag .CK_ISL_STAT_SWITCHING t &&
    !s.flag .CK_STAT_EPISODE 0 && !s.domainOff (thrDomain t)

/-- Has the P-state logic a move of thresher `t` to make? It then owns the island (R287). -/
def State.pstateMoves (s : State) (t : Nat) : Bool := s.pstateFree t && s.pstateWanted t != s.rdi .PW_THR_STAT_PSTATE t

/-- The owner of island `i`'s source (R287): 3 the fallback, 2 the Floor state, 1 the P-state logic, 0 host software. -/
def State.islandOwner (s : State) (i : Nat) : Nat :=
  if s.rdi .CK_ISL_STAT_OWNER i = 0 ∧ i < 8 ∧ s.pstateMoves i = true then 1 else s.rdi .CK_ISL_STAT_OWNER i

/-- CK_ISL_SRC_WRITE (R286, R287): refused with BUSY where the island may not be commanded, and for a target that is
not ready. -/
def execCkIslSrcWrite (i : Fin 43) (src : Fin 4) (s : State) : Host.Outcome State Fault Refusal :=
  .next (s.byHost fun s =>
    if src.val = 3 ∨ 40 ≤ i.val ∨ s.islandOwner i ≠ 0 ∨ s.flag .CK_ISL_STAT_SWITCHING i then
      s.wr .CK_STAT_BUSY 1
    else if s.rdi (match src.val with | 0 => .CK_ISL_STAT_READY0 | 1 => .CK_ISL_STAT_READY1 | _ => .CK_ISL_STAT_READYS) i
        = 0 then
      (s.wr .CK_STAT_REFUSED 1).wr .CK_STAT_REFUSED_ISL i
    else
      let s := s.wri .CK_ISL_CTL_SRC i src
      if s.rdi .CK_ISL_STAT_CUR i = src then s else s.wri .CK_ISL_STAT_SWITCHING i 1)

/-- The P-state logic's switch of an island the Floor state divides: an output set to 350 MHz, and the divider is
released (R288). -/
def State.settleFloor (s : State) (t : Nat) : State :=
  if s.clock.divided.contains t && s.pstateFree t then s.runAt t 7 else s

/-- One step of thresher `t` toward P-state `w`. -/
def State.stepToward (s : State) (t w : Nat) : State :=
  let p := s.rdi .PW_THR_STAT_PSTATE t
  if p < w then s.runAt t (p + 1) else if w < p then s.runAt t (p - 1) else s

/-- PSTATE_CHANGE (R259, R288): thresher `t` moves one P-state toward the one the limits give; up only where no return
from the Floor state is in progress, which has its own pace (R271). In the Floor state it leaves the divider. -/
def execPstateChange (t : Fin 8) (s : State) : Host.Outcome State Fault Refusal :=
  .next (
    if s.floorOn then s.settleFloor t
    else if s.pstateFree t &&
        !(s.power.returning && decide (s.pstateWanted t < s.rdi .PW_THR_STAT_PSTATE t)) then
      s.stepToward t (s.pstateWanted t)
    else s)

/-- The AUTO choice of thresher `t`. -/
def State.setAuto (s : State) (t p : Nat) : State :=
  { s with power := { s.power with auto := Tbl.set 0 s.power.auto t p } }

/-- AUTO_PSTATE_STEP (R269): with AUTO and no pin, one step down above 1/2, one up below 1/8, up to the ceiling. -/
def execAutoPstateStep (t : Fin 8) (s : State) : Host.Outcome State Fault Refusal :=
  .next (
    if s.flag .PW_PSTATE_AUTO 0 && !s.flag .PW_PSTATE_PIN_EN 0 then
      if (Frac.of 1 2).lt s.power.compute then s.setAuto t (min 7 (s.rdi .PW_THR_STAT_PSTATE t + 1))
      else if s.power.compute.lt (.of 1 8) then s.setAuto t (max (s.rd .PW_PSTATE_CEIL) (max (s.rd .PW_PSTATE_CEIL) (Tbl.get 0 s.power.auto t) - 1))
      else s
    else s)

/-! ### Droop (R270) -/

/-- DROOP (R270). -/
def execDroop (t : Fin 8) (s : State) : Host.Outcome State Fault Refusal :=
  .next (
    if s.domainOff (thrDomain t) || s.boot.phase == .off then s
    else
      let l := if s.power.droop.contains t then s.power.droop else s.power.droop ++ [t.val]
      { s.addSat .PW_DROOP_CNT_COUNT t 1 with power := { s.power with droop := l } })

/-- DROOP_HOLD_EXPIRY (R270): the bubbles end. HOLD of them followed the last firing; how many stood before that the
spec leaves to the firings' times, a free value. -/
def execDroopHoldExpiry (t : Fin 8) (s : State) : Host.Outcome State Fault Refusal :=
  .next (
    if s.power.droop.contains t then
      let (n, s) := s.takeFree
      let s := s.addWrap .PW_BUBBLE_CNT_COUNT t (s.rd .PW_DROOP_CFG_HOLD + n)
      { s with power := { s.power with droop := s.power.droop.filter fun x => x != t.val } }
    else s)

/-! ### The alert wire and the Floor state (R271, R272, R288) -/

/-- The Floor state takes thresher `t` (R272, R287, R288): P7, by dividing the clock of its output by four until the
P-state logic switches it; a safe clock is below that already. A thresher whose domain is off is taken when it comes
on. -/
def State.floorThresher (s : State) (t : Nat) : State :=
  if s.domainOff (thrDomain t) then s
  else
    let l := s.clock.divided
    let l := if s.rdi .CK_ISL_STAT_CUR t = 2 ∨ l.contains t = true then l else l ++ [t]
    (({ s with clock := { s.clock with divided := l } } : State).wri .PW_THR_STAT_PSTATE t 7).wri .CK_ISL_STAT_OWNER t 2

/-- The Floor state takes every thresher. -/
def State.enterFloor (s : State) : State := (List.range 8).foldl State.floorThresher s

/-- PW_ALERT_ASSERT (R271, R336): PW_ALERT_N goes low. During an episode Floor entry is held (R292). -/
def execPwAlertAssert (s : State) : Host.Outcome State Fault Refusal :=
  .next (
    if s.power.alertLow || s.boot.phase == .off then s
    else
      let s := { s with power := { s.power with alertLow := true, holding := false, returning := false } }
      let s := ((s.raiseFlag5 .PW_STAT_ALERT).addSat .PW_ALERT_CNT 0 1).wr .HI_ALERT_FLOOR 1
      let s := if s.flag .CK_STAT_EPISODE 0 then s else s.enterFloor
      s.notePin.showFracs)

/-- PW_ALERT_RELEASE (R271): PW_ALERT_N returns high and the hold begins. -/
def execPwAlertRelease (s : State) : Host.Outcome State Fault Refusal :=
  .next (if s.power.alertLow then { s with power := { s.power with alertLow := false, holding := true } } else s)

/-- FLOOR_HOLD_EXPIRY (R271): the Floor state ends, and the P-states begin to return. A switch that the P-state logic has
not made yet is made now (R288). -/
def execFloorHoldExpiry (s : State) : Host.Outcome State Fault Refusal :=
  .next (
    if s.power.holding then
      let s := ((List.range 8).foldl State.settleFloor s).keepDivided fun _ => false
      let s := { s with power := { s.power with holding := false, returning := true } }
      let s := (List.range 8).foldl
        (fun s t => if s.rdi .CK_ISL_STAT_OWNER t = 2 then s.wri .CK_ISL_STAT_OWNER t 0 else s) s
      (s.wr .PW_STAT_ALERT 0).showFracs
    else s)

/-- FLOOR_RETURN_STEP (R271): every thresher one step back toward its policy; the return ends when all are there. -/
def execFloorReturnStep (s : State) : Host.Outcome State Fault Refusal :=
  .next (
    if s.power.returning then
      let s := (List.range 8).foldl
        (fun s t => if s.pstateFree t ∧ s.pstateWanted t < s.rdi .PW_THR_STAT_PSTATE t
          then s.stepToward t (s.pstateWanted t) else s) s
      let more := (List.range 8).any fun t => decide (s.pstateWanted t < s.rdi .PW_THR_STAT_PSTATE t)
      { s with power := { s.power with returning := more } }
    else s)

/-! ### Sensors and throttling (R274, R275) -/

/-- Where a sensor's reading is shown: its TEMP and VALID fields and their instance. -/
def sensorFields : Sensor → F × F × Nat
  | .thresher t i => (.TM_TEMP_TEMP, .TM_TEMP_VALID, 4 * t.val + i.val)
  | .stack k => (.TM_STACK_TEMP_TEMP, .TM_STACK_TEMP_VALID, k.val)

/-- The power domain of a sensor. -/
def sensorDomain : Sensor → Nat
  | .thresher t _ => thrDomain t
  | .stack k => granDomain (stackBay k)

/-- The number of a sensor's unit in `dead`. -/
def sensorUnit : Sensor → Nat
  | .thresher t _ => t.val
  | .stack k => 8 + k.val

/-- The sensors of a sensor's unit. -/
def sensorSiblings : Sensor → List Sensor
  | .thresher t _ => [.thresher t 0, .thresher t 1, .thresher t 2, .thresher t 3]
  | .stack k => [.stack k]

/-- A failed self-check (R274): the sensor is ignored, and a unit left without a valid sensor is held down. -/
def State.failSensor (s : State) (i : Sensor) : State :=
  let bad := if s.power.badSensors.contains i then s.power.badSensors else s.power.badSensors ++ [i]
  let dead := if ((sensorSiblings i).all fun x => bad.contains x) && !s.power.dead.contains (sensorUnit i)
    then s.power.dead ++ [sensorUnit i] else s.power.dead
  { s.wr .TM_STAT_SENSOR_FAIL 1 with power := { s.power with badSensors := bad, dead := dead } }

/-- A stack's throttle follows its sensor (R275). -/
def State.stackHeat (s : State) (k : Nat) (temp : Int) : State :=
  let h := s.power.hotStacks
  let h := if 8 * (s.rd .TM_LIMIT_HBM_THROTTLE : Int) ≤ temp then (if h.contains k then h else h ++ [k])
    else if temp < 8 * ((s.rd .TM_LIMIT_HBM_THROTTLE : Int) - s.rd .TM_LIMIT_HYST) then h.filter fun x => x != k
    else h
  { s with power := { s.power with hotStacks := h } }

/-- SENSOR_SAMPLE (R274, R275): one reading, in eighths of a degree as a 12-bit two's complement number. -/
def execSensorSample (i : Sensor) (temp : Nat) (ok : Bool) (s : State) : Host.Outcome State Fault Refusal :=
  if temp < 4096 then
    .next (
      if s.boot.phase = .off then s
      else
        let (ft, fv, n) := sensorFields i
        if s.domainOff (sensorDomain i) then s.wri fv n 0
        else if ok then
          let s := (s.wri ft n temp).wri fv n 1
          let s := { s with power := { s.power with badSensors := s.power.badSensors.filter fun x => x != i } }
          match i with
          | .thresher _ _ => s.noteHeat
          | .stack k => (s.stackHeat k (signed 12 temp)).noteHeat
        else ((s.wri fv n 0).failSensor i).noteHeat.notePin)
  else .refused .illFormed

/-- The hottest valid sensor of thresher `t`, in eighths of a degree. -/
def State.hottest (s : State) (t : Nat) : Option Int :=
  (List.range 4).foldl
    (fun m i =>
      if s.flag .TM_TEMP_VALID (4 * t + i) then
        let x := signed 12 (s.rdi .TM_TEMP_TEMP (4 * t + i))
        match m with
        | none => some x
        | some y => some (max x y)
      else m)
    none

/-- The thermal limit of thresher `t` set. -/
def State.setHeat (s : State) (t p : Nat) : State :=
  { s with power := { s.power with heat := Tbl.set 0 s.power.heat t p } }

/-- THROTTLE_STEP (R275): a hot thresher one step down, counted, unless the last step down is still held; a cooled one
one step up, to the policy. -/
def execThrottleStep (t : Fin 8) (s : State) : Host.Outcome State Fault Refusal :=
  .next (
    match s.hottest t with
    | none => s
    | some x =>
      let hi : Int := s.rd .TM_LIMIT_THROTTLE
      let p := s.rdi .PW_THR_STAT_PSTATE t
      if 8 * hi ≤ x then
        if p < 7 ∧ Tbl.get 0 s.power.heat t ≤ p then ((s.setHeat t (p + 1)).addSat .TM_THROTTLE_CNT_COUNT 0 1).noteHeat.notePin else s
      else if x < 8 * (hi - s.rd .TM_LIMIT_HYST) then
        let h := Tbl.get 0 s.power.heat t - 1
        (s.setHeat t (if h ≤ s.policyLimit t then 0 else h)).noteHeat
      else s)

/-! ### Host writes (R263, R266, R358) -/

/-- A profile takes effect (R263): it sets the cap and the ceiling. -/
def State.applyProfile (s : State) (p : Nat) : State :=
  match p with
  | 0 => ((s.wr .PW_PROFILE_PROFILE 0).wr .PW_CAP_WATTS 2800).wr .PW_PSTATE_CEIL 0 |>.notePin
  | 1 => ((s.wr .PW_PROFILE_PROFILE 1).wr .PW_CAP_WATTS 2400).wr .PW_PSTATE_CEIL 0 |>.notePin
  | _ => ((s.wr .PW_PROFILE_PROFILE 2).wr .PW_CAP_WATTS 1800).wr .PW_PSTATE_CEIL 2 |>.notePin

/-- A profile is taking effect until the cap loop's next period (R16). -/
def State.beginProfile (s : State) (p : Nat) : State := { s.applyProfile p with modes := [.profile p] }

/-- PW_PROFILE written (R16, R18, R263): a value of 3 is ignored; a second profile, before the cap loop's next period has
ended the first, is refused with BUSY. -/
def State.writeProfile (s : State) (v : Nat) : State :=
  let p := bits v 0 2
  if p = 3 then s.wr .PW_STAT_CFG_REFUSED 1
  else if s.modeBusy (.profile p) then (s.wr .PW_STAT_CFG_REFUSED 1).wr .PW_STAT_BUSY 1
  else s.orAfter (.profile p) fun s => s.beginProfile p

/-- PW_CAP written (R263). -/
def State.writeCap (s : State) (v : Nat) : State :=
  let w := bits v 0 12
  if 900 ≤ w ∧ w ≤ 2800 then s.wr .PW_CAP_WATTS w else s.wr .PW_STAT_CFG_REFUSED 1

/-- PW_PROFILE_WRITE (R263). -/
def execPwProfileWrite (value : Nat) (s : State) : Host.Outcome State Fault Refusal :=
  if value < 2 ^ 32 then .next (s.byHost fun s => s.writeProfile value) else .refused .illFormed

/-- PW_CAP_WRITE (R263). -/
def execPwCapWrite (value : Nat) (s : State) : Host.Outcome State Fault Refusal :=
  if value < 2 ^ 32 then .next (s.byHost fun s => s.writeCap value) else .refused .illFormed

/-- Do three group numbers name each of the three groups once (R266)? -/
def isOrder (a b c : Nat) : Bool := decide (a ≤ 2) && decide (b ≤ 2) && decide (c ≤ 2) && a != b && a != c && b != c

/-- PW_PRIO_WRITE (R266). -/
def execPwPrioWrite (value : Nat) (s : State) : Host.Outcome State Fault Refusal :=
  if value < 2 ^ 32 then
    .next (s.byHost fun s =>
      if isOrder (bits value 0 2) (bits value 2 2) (bits value 4 2) then
        ((s.wr .PW_PRIO_FIRST (bits value 0 2)).wr .PW_PRIO_SECOND (bits value 2 2)).wr .PW_PRIO_THIRD (bits value 4 2)
      else s.wr .PW_STAT_CFG_REFUSED 1)
  else .refused .illFormed

/-! ### Domains (R255 to R257) -/

/-- The domain a register's instance lies in, where its domain can go off outside Dormant (R255). -/
def regDomain (r : Reg) (i : Nat) : Option Nat :=
  let b := r.info.base
  if 0x400000 ≤ b ∧ b < 0x490000 then some (thrDomain (i / r.info.n2))
  else if 0x81000 ≤ b ∧ b < 0x90000 ∨ b = 0x200100 ∨ b = 0x200200 then
    some (if i < 48 then thrDomain (i / 6) else coreDomain (i - 48))
  else if 0x201000 ≤ b ∧ b < 0x210000 then some (coreDomain (i / 512))
  else if 0x210000 ≤ b ∧ b < 0x280000 then some (coreDomain (tallyBay i))
  else if 0x100100 ≤ b ∧ b < 0x100200 then some (thrDomain i)
  else if 0x120100 ≤ b ∧ b < 0x130000 then some (granDomain (stackBay (i / r.info.n2)))
  else if 0x130100 ≤ b ∧ b < 0x140000 then some (granDomain (stackBay i))
  else if 0x301000 ≤ b ∧ b < 0x302000 then some (serdesDomain (portBay i))
  else if b = 0x308040 then some (coreDomain i)
  else none

/-- The fields by their number in the register table's keys. -/
def fieldList : List F := (Reg.blockTH ++ Reg.blockTN ++ Reg.blockID ++ Reg.blockEN ++ Reg.blockTL ++ Reg.blockLF ++
  Reg.blockGN ++ Reg.blockGL ++ Reg.blockPS ++ Reg.blockWN ++ Reg.blockPW ++ Reg.blockTM ++ Reg.blockCK ++
  Reg.blockER ++ Reg.blockHI ++ Reg.blockMC).flatMap Reg.fields

/-- The field of a key of the register table. -/
def keyField (k : Nat) : Option F := fieldList.find? fun f => f.ctorIdx == k % 512

/-- The register table without what domain `d` holds. The identity blocks stand in the base dies' fuses (R24, R176). -/
def dropRegs (d : Nat) (l : List (Nat × Nat)) : List (Nat × Nat) :=
  l.filter fun e =>
    match keyField e.1 with
    | none => true
    | some f => f == .GN_ID_DATA || regDomain f.info.reg (e.1 / 512) != some d

/-- A sparse table without the entries whose numbers lie in a range. -/
def dropRange {α : Type} (lo hi : Nat) (l : List (Nat × α)) : List (Nat × α) :=
  l.filter fun e => decide (e.1 < lo) || decide (hi ≤ e.1)

/-- Memory, marks and waiting errors of a range of places discarded. -/
def State.dropMem (s : State) (lo n : Nat) : State :=
  { s with mem := dropRange lo (lo + n) s.mem, poison := dropRange lo (lo + n) s.poison,
           flaws := dropRange lo (lo + n) s.flaws }

/-- A spare row as its fuses load it (R168, R169). -/
def keptSpare (x : Spare) : Spare :=
  { x with row := if x.hard then x.row else none, retired := x.hardRetired }

/-- What the units of domain `d` hold beside their registers. -/
def State.dropUnits (s : State) (d : Nat) : State :=
  let b := d / 5
  match d % 5 with
  | 2 =>
    let t := s.net.txns.filter fun e => e.1 / 16384 != b
    let w := s.net.tagWait.filter fun e => e.bay != b
    { s with waiters := s.waiters.filter (fun e => tallyBay e.1 != b), queues := Tbl.del s.queues (48 + b),
             net := { s.net with txns := t, tagWait := w } }
  | 3 =>
    let s := (List.range 6).foldl (fun s k => s.dropMem ((6 * b + k) * 2 ^ 37) (2 ^ 37)) s
    let s := (List.range 6).foldl
      (fun s k => (s.wrBit .GN_STACK_TRAINED_STACKS (6 * b + k) false).wri .TM_STACK_TEMP_VALID (6 * b + k) 0) s
    let own (k : Nat) : Bool := decide (6 * b ≤ k) && decide (k < 6 * b + 6)
    let sp (e : Nat × Spare) : Option (Nat × Spare) :=
      if !own (e.1 / 2 ^ 20) then some e
      else if e.2.hard || e.2.hardRetired then some (e.1, keptSpare e.2)
      else none
    let g := s.gran
    let hot := s.power.hotStacks.filter fun k => !own k
    { s with power := { s.power with hotStacks := hot },
             gran := { g with asleep := g.asleep.filter (fun k => !own k), rowErr := g.rowErr.filter (fun e => !own e.1),
                              rowUe := g.rowUe.filter (fun r => !own (r / 2 ^ 27)),
                              scrubPos := g.scrubPos.filter (fun e => !own e.1),
                              retired := g.retired.filter (fun r => !own (r / 2 ^ 27)),
                              spares := g.spares.filterMap sp } }
  | 4 =>
    let off (k : Nat) : Bool := portBay (k / 65536) == b
    { s with net := { s.net with links := s.net.links.filter (fun e => !off e.1), recent := s.net.recent.filter (fun k => !off k),
                                 peerWait := s.net.peerWait.filter (fun e => portBay e.1 != b) } }
  | m =>
    let t := 2 * b + m
    let s := s.dropMem (Config.loftBase t) Config.loftBytes
    let s := (List.range 4).foldl (fun s i => s.wri .TM_TEMP_VALID (4 * t + i) 0) s
    let s := s.keepDivided fun i => i != t
    { s with org := dropRange (partKey t 0) (partKey t 576) s.org, parts := dropRange (partKey t 0) (partKey t 576) s.parts,
             queues := dropRange (6 * t) (6 * t + 6) s.queues,
             power := { s.power with droop := s.power.droop.filter fun x => x != t,
                                     heat := Tbl.del s.power.heat t, auto := Tbl.del s.power.auto t,
                                     rest := Tbl.del s.power.rest t } }

/-- Everything domain `d` holds is discarded (R257). -/
def State.dropDomain (s : State) (d : Nat) : State :=
  let s := s.dropUnits d
  { s with regs := dropRegs d s.regs }

/-- Is a bay's collective in progress (R256)? -/
def State.collRuns (s : State) : Bool :=
  (List.range 4).any fun b => (s.queue (48 + b)).work.any fun w => w.coll.isSome && !w.done

/-- May domain `d` go off (R256)? -/
def State.mayGoOff (s : State) (d : Nat) : Bool :=
  let b := d / 5
  match d % 5 with
  | 2 => decide (b ≠ 0) && s.domainOff (5 * b) && s.domainOff (5 * b + 1) && s.domainOff (5 * b + 3) &&
      s.domainOff (5 * b + 4)
  | 3 => s.allIdle && !s.collRuns
  | 4 => (List.range 4).all fun i => s.portState (4 * b + i) == 0
  | m => s.idleAll (upFrom (6 * (2 * b + m)) 6) && s.rdi .TN_STAT_OWNER (2 * b + m) == 0

/-- May domain `d` come on (R256, R303)? -/
def State.mayComeOn (s : State) (d : Nat) : Bool :=
  let b := d / 5
  match d % 5 with
  | 2 => true
  | 3 => !s.domainOff (coreDomain b)
  | 4 => !s.domainOff (coreDomain b)
  | m => !s.domainOff (coreDomain b) && !s.bitOf .ER_BRINGUP_BIST_FAIL (2 * b + m)

/-- PW_DOM_WRITE (R256): a change of OFF, refused where its condition does not hold. -/
def execPwDomWrite (d : Fin 20) (off : Bool) (s : State) : Host.Outcome State Fault Refusal :=
  .next (s.byHost fun s =>
    if s.flag .PW_DOM_OFF d = off then s
    else if (if off then s.mayGoOff d else s.mayComeOn d) then s.wri .PW_DOM_OFF d (b2n off)
    else s.wri .PW_DOM_REFUSED d 1)

/-- The domain has gone off: everything it holds is discarded, IS_OFF shows it, and what it held of heat is gone. -/
def State.switchOff (s : State) (d : Nat) : State := ((s.dropDomain d).wri .PW_DOM_IS_OFF d 1).noteHeat

/-- The domain has come on; a thresher that comes on in the Floor state is taken by it (R272). -/
def State.switchOn (s : State) (d : Nat) : State :=
  let s := s.wri .PW_DOM_IS_OFF d 0
  if d % 5 < 2 ∧ s.floorOn = true ∧ s.flag .CK_STAT_EPISODE 0 = false then s.floorThresher (2 * (d / 5) + d % 5) else s

/-! ### Outputs at the edge of a domain (R258) -/

/-- An output that floats in some states: transmit lane `l`; the management-bus clock, reset and low-power lines of
port `p`; the HBM-side test outputs of bay `b`; the open-drain outputs of AO; a sideband GPIO pin. -/
inductive EdgeOutput where
  | lane (l : Nat) | mgmtClock (p : Nat) | mgmtReset (p : Nat) | mgmtLowPower (p : Nat) | hbmTest (b : Nat)
  | sbAlert | thermtrip | gpio (n : Nat)
  deriving DecidableEq, Repr

/-- The domain an output leaves; none for AO's. -/
def EdgeOutput.domain : EdgeOutput → Option Nat
  | .lane l => some (serdesDomain (portBay (l / 4)))
  | .mgmtClock p | .mgmtReset p | .mgmtLowPower p => some (serdesDomain (portBay p))
  | .hbmTest b => some (granDomain b)
  | .sbAlert | .thermtrip | .gpio _ => none

/-! ### Idle (R260) -/

/-- Does nothing of the module move, so that it may enter Idle (R260)? -/
def State.quiet (s : State) : Bool :=
  s.allIdle && ((List.range 52).all fun q => s.drained q) && s.net.txns.isEmpty && s.liveEpochs.isEmpty &&
    s.host.accesses.isEmpty

/-- ENTER_IDLE (R260): PW_STATE.REQ = 1. -/
def execEnterIdle (s : State) : Host.Outcome State Fault Refusal :=
  .next (s.byHost fun s => if s.quiet then s.wr .PW_STATE_IDLE 1 else s.wr .PW_STAT_BUSY 1)

/-- LEAVE_IDLE (R260): PW_STATE.REQ = 3, or a waking access. -/
def execLeaveIdle (access : Bool) (s : State) : Host.Outcome State Fault Refusal :=
  .next (if access then s.leaveIdle else s.byHost State.leaveIdle)

end Sys2Proof.Machine
end

