-- ==== Sys2Proof/Machine/Errors.lean ====
section
/-! DEFINITION. Bay faults and module fatal (R307 to R309), the log's pop (R312), the sideband GPIO pins (R314, R315). -/

namespace Sys2Proof.Machine

/-- ER_SERVICE.STATE written, with vector 1 where it changes (R324). -/
def State.setService (s : State) (v : Nat) : State :=
  if s.rd .ER_SERVICE_STATE = v then s else (s.wr .ER_SERVICE_STATE v).msix 1

/-- The 13 queues of bay `b` (R94, R307). -/
def bayQueues (b : Nat) : List Nat := upFrom (12 * b) 12 ++ [48 + b]

/-- The queues of a list that are not in one of the given states fault with `c` where they stand. A queue already FAULTED
keeps its first code, and the fault is logged (R309). -/
def State.faultQueues (s : State) (l spared : List Nat) (c : E) : State :=
  l.foldl (fun s q => if spared.contains (s.qState q) then s else s.engineFault q (.of c) (s.rdi .EN_Q_PC_PC q)) s

/-- Ports go DOWN with REASON FAULT, where their domain is on (R307, R308). -/
def State.killPorts (s : State) (l : List Nat) : State :=
  l.foldl (fun s p => if s.portOn p then s.killPort p else s) s

/-- Module fatal (R308): `c` is recorded; a module not yet fatal faults its running queues, loses its ports and enters
the state `st`. -/
def State.goFatal (s : State) (c : E) (unit inst sub detail st : Nat) : State :=
  let was := s.fatal
  let s := s.raise c unit inst sub 0 detail
  if was then (if st = 4 then s.setService 4 else s)
  else
    let s := (s.setService st).wr .HI_ALERT_FATAL 1
    let s := s.faultQueues (List.range 52) [0] (if st = 4 then .stackFailed else .moduleFatal)
    s.killPorts (List.range 16)

/-- The waiters of other bays on the tallies of bay `b` fault (R307). -/
def State.faultBayWaiters (s : State) (b : Nat) : State :=
  let l := (s.waiters.filter fun e => tallyBay e.1 == b).flatMap fun e => e.2.map Waiter.queue
  s.faultQueues (l.filter fun q => qBay q != b) [] .bayFault

/-- The reduce-scatters of other bays whose BAY_MASK names bay `b` end with E_COLL_TIMEOUT (R307); at the fault, since the
time that passes is left out (assumption log entry 5). -/
def State.endMasked (s : State) (b : Nat) : State :=
  ([48, 49, 50, 51].filter fun q => q != 48 + b).foldl
    (fun s q => ((s.queue q).work.filter fun w => w.kind == .rscat && !w.ready && bit (RscatDesc.ofWord w.desc).mask b).foldl
      (fun s w => s.endRscat q w .collTimeout) s) s

/-- Bay `b` faults with code `c` (R307); a further fault of the bay is only recorded (R309). -/
def State.faultBay (s : State) (b : Nat) (c : E) : State :=
  let s := s.raise c 6 b 0 0 0
  if s.bayFaulted b then s
  else
    let s := if s.rd .ER_BAY_FAULT_BAYS = 0 then s.wr .ER_BAY_FAULT_CODE c.val else s
    let s := (s.wrBit .ER_BAY_FAULT_BAYS b true).wr .HI_ALERT_BAY 1
    let s := (s.faultQueues (bayQueues b) [] .bayFault).faultBayWaiters b |>.endMasked b
    let s := s.killPorts (upFrom (4 * b) 4)
    if b = 0 then s.goFatal .moduleFatal 6 0 0 0 5 else s

/-- Does bay `b` work at all, so that its state can fail? -/
def State.bayPowered (s : State) (b : Nat) : Bool := s.boot.phase == .up && !s.domainOff (coreDomain b)

/-- BAY_FAULT (R307). -/
def execBayFault (b : Fin 4) (cause : BayCause) (s : State) : Host.Outcome State Fault Refusal :=
  .next (
    if s.bayPowered b then s.faultBay b (match cause with | .tallyStore => .tallyStore | .internal => .bayInternal) else s)

/-- MESH_LINK_RETRAIN (R307): a link that still fails faults the bay. -/
def execMeshLinkRetrain (b : Fin 4) (ok : Bool) (s : State) : Host.Outcome State Fault Refusal :=
  .next (s.byFw fun s => if ok || !s.bayPowered b then s else s.faultBay b .meshLink)

/-- MODULE_FATAL (R308): an uncorrectable error in AO or in the PCIe endpoint. -/
def execModuleFatal (cause : FatalCause) (s : State) : Host.Outcome State Fault Refusal :=
  .next (
    if s.boot.phase = .up then
      s.goFatal .aoInternal (match cause with | .ao => 11 | .endpoint => 8) 0 0 0 5
    else s)

/-- MC_WDOG (R308): the watchdog, armed since firmware runs, has not been served. -/
def execMcWdog (s : State) : Host.Outcome State Fault Refusal :=
  .next (s.byFw fun s =>
    let s : State := { s with boot := { s.boot with mcDead := true } }
    s.goFatal .mcWdog 10 0 0 0 5)

/-- LOG_POP (R312): the oldest unread record is discarded. -/
def execLogPop (s : State) : Host.Outcome State Fault Refusal :=
  .next (s.byHost fun s => { s with log := s.log.drop 1 })

/-! ### GPIO pins (R315) -/

/-- Is a pin's fault indicator to be driven low? -/
def State.faultShown (s : State) : Bool := s.flag .ER_STAT_BAY 0 || s.flag .ER_STAT_FATAL 0

/-- The level of pin `n`: what the module drives there, or else what the board gives it (`outside`). -/
def State.pinLevel (s : State) (n : Nat) (outside : Nat) : Nat :=
  match s.rdi .ER_GPIO_FN n with
  | 2 => s.rdi .ER_GPIO_OUT n
  | 3 => if s.faultShown then 0 else outside
  | _ => outside

/-- IN of pin `n` shows its level. -/
def State.showPin (s : State) (n outside : Nat) : State := s.wri .ER_GPIO_IN n (s.pinLevel n outside)

/-- May requester `who` (1 host software, 2 firmware, 3 sideband) give pin `n` function `fn`? -/
def State.pinMay (s : State) (n who fn : Nat) : Bool :=
  decide (fn ≤ 4) && (s.rdi .ER_GPIO_FN n == 0 || s.rdi .ER_GPIO_OWN n == who)

/-- Pin `n` claimed by `who` with function `fn`, or released with 0. -/
def State.setPin (s : State) (n who fn : Nat) : State :=
  (s.wri .ER_GPIO_FN n fn).wri .ER_GPIO_OWN n (if fn = 0 then 0 else who)

/-- A write of FN by host software: a claim, a change or a release, or refused with BUSY (R315). -/
def State.hostFn (s : State) (n fn : Nat) : State :=
  if s.pinMay n 1 fn then s.setPin n 1 fn else s.wr .ER_STAT_GPIO_BUSY 1

/-- A write of OUT by host software, which owned pin `n` before or after the write of FN beside it; refused with BUSY
for anyone but the owner (R315). A write that leaves an unclaimed pin as it is asks for nothing. -/
def State.hostOut (s : State) (n fn out : Nat) (owned : Bool) : State :=
  if owned || s.rdi .ER_GPIO_OWN n == 1 then s.wri .ER_GPIO_OUT n out
  else if fn = 0 ∧ s.rdi .ER_GPIO_FN n = 0 ∧ out = s.rdi .ER_GPIO_OUT n then s
  else s.wr .ER_STAT_GPIO_BUSY 1

/-- A write of ER_GPIO[n] by host software (R315, R358), field by field: ATTN by anyone, FN and OUT by the owner, or by
the claim the write makes. -/
def State.hostPin (s : State) (n v : Nat) : State :=
  let s := if bit v 7 then s.wri .ER_GPIO_ATTN n 0 else s
  ((s.hostFn n (bits v 0 3)).hostOut n (bits v 0 3) (bits v 5 1) (s.rdi .ER_GPIO_OWN n == 1)).showPin n
    (s.rdi .ER_GPIO_IN n)

/-- GPIO_WRITE (R315). -/
def execGpioWrite (n : Fin 4) (value : Nat) (s : State) : Host.Outcome State Fault Refusal :=
  if value < 2 ^ 32 then .next (s.byHost fun s => s.hostPin n value) else .refused .illFormed

/-- ATTENTION_EDGE (R315). -/
def execAttentionEdge (n : Fin 4) (s : State) : Host.Outcome State Fault Refusal :=
  .next (if s.rdi .ER_GPIO_FN n = 4 then (s.wri .ER_GPIO_ATTN n 1).wri .ER_GPIO_IN n 0 else s)

end Sys2Proof.Machine
end

