-- ==== Sys2Proof/Machine/Reset.lean ====
section
/-! DEFINITION. Resets and their causes (R24, R297, R298), power, PERST_N, Dormant and wake (R261, R262), the thermal
trip (R276), the boot ROM (R299), loading firmware (R329 to R331), the carrier record (R341, R342) and the rest of the
climb to Full service (R299 to R305). -/

namespace Sys2Proof.Machine

/-! ### What a reset keeps (R24) -/

/-- The fields that fuses, the one-time memory and the base dies hold. -/
def fuseFields : List F :=
  [.ID_REV_STEPPING, .ID_REV_BOOTROM, .ID_SERIAL_SERIAL, .ID_FUSE_CFG_REVOKED, .ID_FUSE_CFG_MAP, .ID_SVN_SVN,
   .ID_CERT_LEN_LEN, .ID_PUBKEY_DATA, .ID_CERT_DATA, .GN_ID_DATA]

/-- The AO records of the reset cause and the last wake. -/
def recordFields : List F :=
  [.ER_RESET_CAUSE_CAUSE, .ER_RESET_CAUSE_ALSO, .PW_WAKE_LAST_SOURCE, .PW_WAKE_LAST_PORT]

/-- What AO still uses in Dormant beside those: which ports may wake the module (R262). -/
def wakeFields : List F := [.WN_PORT_CTL_WAKE_EN, .WN_PORT_CTL_WAKE_ENERGY]

/-- The fields of the blocks that lie in AO (R255, R296, R344), which go on while the 20 domains are off. -/
def aoFields : List F :=
  (Reg.blockPW ++ Reg.blockTM ++ Reg.blockCK).flatMap Reg.fields ++
    [.HI_ALERT_CLKFAIL, .HI_ALERT_TRIP, .HI_ALERT_BAY, .HI_ALERT_FATAL, .HI_ALERT_FLOOR]

/-- The register table with the fields of a list only. -/
def keepRegs (l : List F) (t : List (Nat × Nat)) : List (Nat × Nat) :=
  t.filter fun e => l.any fun f => f.ctorIdx == e.1 % 512

/-- The spare rows the fuses of the base dies hold (R168, R169). -/
def keptSpares (l : List (Nat × Spare)) : List (Nat × Spare) :=
  l.filterMap fun e => if e.2.hard || e.2.hardRetired then some (e.1, keptSpare e.2) else none

/-- The module with everything lost but the registers of a list, the fuses, the pins, and the thermal-trip record
(R24): held in reset, with no cause yet. The commands that wait and the model's own counter stay. -/
def State.cleared (s : State) (keep : List F) : State :=
  let z := State.reset
  let g : Granary := { z.gran with spares := keptSpares s.gran.spares }
  let w : PowerSt := { z.power with alertLow := s.power.alertLow, tripPin := s.power.tripPin, tripRecord := s.power.tripRecord }
  let b : BootSt := { z.boot with phase := .held, perstLow := s.boot.perstLow, causes := [] }
  { z with regs := keepRegs keep s.regs, freeCtr := s.freeCtr, gran := g, power := w, boot := b, fuses := s.fuses,
           pending := s.pending }

/-- The module held in reset for causes `cs`. TM_STAT.TRIPPED goes on to show the pin (R276). -/
def State.holdFor (s : State) (keep : List F) (cs : List Nat) : State :=
  let s := s.cleared keep
  let s : State := { s with boot := { s.boot with causes := cs } }
  s.wr .TM_STAT_TRIPPED (b2n s.power.tripPin)

/-- A reset with cause `c` begins; while one is in progress already, the cause joins it (R298). -/
def State.resetTo (s : State) (c : Nat) : State :=
  s.holdFor (fuseFields ++ recordFields) (if s.boot.phase = .held then s.boot.causes ++ [c] else [c])

/-! ### Power, PERST_N and the other triggers (R297) -/

/-- POWER_ON (R297): the 48 V input rises; the AO records start afresh. -/
def execPowerOn (s : State) : Host.Outcome State Fault Refusal :=
  .next (if s.boot.phase = .off then s.holdFor fuseFields [0] else s)

/-- POWER_LOSS (R354, R356): every power stage shuts down, AO included, which releases THERMTRIP_N. -/
def execPowerLoss (s : State) : Host.Outcome State Fault Refusal :=
  .next (
    if s.boot.phase = .off then s
    else
      let s := s.holdFor fuseFields []
      { s.wr .TM_STAT_TRIPPED 0 with boot := { s.boot with phase := .off }, power := { s.power with tripPin := false } })

/-- PERST_ASSERT (R276, R294, R297): PERST_N goes low, which releases THERMTRIP_N. -/
def execPerstAssert (s : State) : Host.Outcome State Fault Refusal :=
  .next (
    if s.boot.perstLow then s
    else
      let s : State := { s with boot := { s.boot with perstLow := true } }
      if s.boot.phase = .off then s
      else ({ s with power := { s.power with tripPin := false } } : State).resetTo 1)

/-- PERST_RELEASE (R299): PERST_N goes high; the boot ROM may start. -/
def execPerstRelease (s : State) : Host.Outcome State Fault Refusal :=
  .next { s with boot := { s.boot with perstLow := false } }

/-- HOT_RESET (R297): a Hot Reset is received, or the link leaves DL_Active for more than 1 ms. Neither happens while
the link is down already, as in an episode or in Dormant. -/
def execHotReset (cause : HotCause) (s : State) : Host.Outcome State Fault Refusal :=
  match cause with
  | .hotReset | .linkDown => .next (if s.hostUp then s.resetTo 2 else s)

/-- FLR (R297): the link stays up. -/
def execFlr (s : State) : Host.Outcome State Fault Refusal :=
  .next (s.byHost fun s =>
    let s := s.resetTo 3
    { s with host := { s.host with linkUp := true } })

/-- ER_RESET_KEY (R297). -/
def execErResetKey (key : Nat) (s : State) : Host.Outcome State Fault Refusal :=
  if key < 65536 then .next (s.byHost fun s => if key = 0xD1E5 then s.resetTo 4 else s) else .refused .illFormed

/-- CLK_TIMEOUT (R294): the episode's timeout has run out and REFCLK has not qualified. -/
def execClkTimeout (s : State) : Host.Outcome State Fault Refusal :=
  .next (if s.flag .CK_STAT_EPISODE 0 ∧ s.clock.passes ≠ 100 then s.resetTo 5 else s)

/-! ### Dormant, wake, thermal trip (R261, R262, R276) -/

/-- All 20 domains off, with only the registers of a list kept; AO stays up, the host link and firmware are gone, and
no sensor's reading is valid (R280). -/
def State.allOff (s : State) (keep : List F) : State :=
  let s := (List.range 20).foldl (fun s d => s.wri .PW_DOM_IS_OFF d 1) (s.cleared keep)
  let s := (List.range 32).foldl (fun s i => s.wri .TM_TEMP_VALID i 0) s
  (List.range 24).foldl (fun s k => s.wri .TM_STACK_TEMP_VALID k 0) s

/-- The module enters Dormant (R261). -/
def State.goDormant (s : State) : State :=
  let s := s.allOff (fuseFields ++ recordFields ++ wakeFields)
  { s with power := { s.power with dormant := true } }

/-- ENTER_DORMANT (R261): PW_STATE.REQ = 2. -/
def execEnterDormant (s : State) : Host.Outcome State Fault Refusal :=
  .next (s.byHost fun s => if s.allIdle then s.goDormant else s.wr .PW_STAT_BUSY 1)

/-- The module wakes from Dormant by a source, which AO records (R262): 3 sideband, 2 PCIe, 1 port `p`. -/
def State.wakeBy (s : State) (source p : Nat) : State :=
  ((s.wr .PW_WAKE_LAST_SOURCE source).wr .PW_WAKE_LAST_PORT p).resetTo 7

/-- Does AO take what it detects on port `p` for a wake: the pattern, or signal energy where WAKE_ENERGY is 1 (R262)? -/
def State.portWakes (s : State) (w : WakeSeen) (p : Nat) : Bool :=
  s.flag .WN_PORT_CTL_WAKE_EN p && (bit w.pattern p || (bit w.energy p && s.flag .WN_PORT_CTL_WAKE_ENERGY p))

/-- The source of a wake and its port, first in the order of R262's table: sideband, PCIe, the lowest port. -/
def State.wakeSource (s : State) (w : WakeSeen) : Option (Nat × Nat) :=
  if w.sideband then some (3, 0)
  else if w.pcie then some (2, 0)
  else ((List.range 16).find? (s.portWakes w)).map fun p => (1, p)

/-- WAKE (R262). -/
def execWake (seen : WakeSeen) (s : State) : Host.Outcome State Fault Refusal :=
  if seen.wf then
    .next (
      if s.power.dormant then
        match s.wakeSource seen with
        | some (k, p) => s.wakeBy k p
        | none => s
      else s)
  else .refused .illFormed

/-- THERMTRIP (R276, R277, R336): the trip comparator of a valid sensor finds its threshold reached; a pin is overridden. -/
def execThermtrip (i : Sensor) (s : State) : Host.Outcome State Fault Refusal :=
  let (_, fv, n) := sensorFields i
  .next (
    if s.flag fv n ∧ s.boot.phase ≠ .off then
      let s := s.allOff (fuseFields ++ recordFields ++ aoFields)
      let s := (s.wr .TM_STAT_TRIPPED 1).wr .HI_ALERT_TRIP 1
      let s := if s.flag .PW_PSTATE_PIN_EN 0 then s.wr .PW_STAT_PIN_OVERRIDDEN 1 else s
      { s with boot := { s.boot with phase := .up, mcDead := true },
               power := { s.power with tripPin := true, tripRecord := true, tripOff := true } }
    else s)

/-! ### The boot ROM (R298, R299, R355) -/

/-- The order of R298: THERM, POWER, CLK, PERST, HOTRST, FLR, SOFT, WAKE. -/
def causeOrder : List Nat := [6, 0, 5, 1, 2, 3, 4, 7]

/-- May the boot ROM start? After POWER or PERST it waits for a stable REFCLK (R355). -/
def State.mayBoot (s : State) : Bool :=
  s.boot.phase == .held && !s.power.dormant && !s.boot.perstLow && !s.boot.causes.isEmpty &&
    (s.clock.passes == 100 || !(s.boot.causes.contains 0 || s.boot.causes.contains 1))

/-- The causes of the reset that ends (R298): a set thermal-trip record is one. -/
def State.resetCauses (s : State) : List Nat := s.boot.causes ++ (if s.power.tripRecord then [6] else [])

/-- BOOT_ROM (R298, R299, R338): the cause is recorded, the trip record cleared, and the link trains where the PCIe
island runs on its normal clock (R283); else once it does. -/
def execBootRom (s : State) : Host.Outcome State Fault Refusal :=
  .next (
    if s.mayBoot then
      let l := s.resetCauses
      let c := (causeOrder.find? l.contains).getD 0
      let also := (List.range 8).foldl (fun n k => if l.contains k ∧ k ≠ c then n + 2 ^ k else n) 0
      let s := (s.wr .ER_RESET_CAUSE_CAUSE c).wr .ER_RESET_CAUSE_ALSO also
      { s with boot := { s.boot with phase := .up, causes := [] }, power := { s.power with tripRecord := false },
               host := { s.host with linkUp := s.host.linkUp || s.rdi .CK_ISL_STAT_CUR 40 != 2 } }
    else s)

/-! ### Loading firmware (R329 to R331) -/

/-- Bytes `o` to `o + n - 1` of the staging aperture. -/
def State.staged (s : State) (o n : Nat) : List Byte := (List.range n).map fun i => Tbl.get 0 s.staging (o + i)

/-- STAGING_WRITE (R331): dropped while an image is verified or runs. -/
def execStagingWrite (offset : Nat) (data : List Byte) (s : State) : Host.Outcome State Fault Refusal :=
  if offset + data.length ≤ 2 ^ 23 then
    .next (s.byHost fun s =>
      if s.rd .HI_FW_STAT_STATE = 1 ∨ s.rd .HI_FW_STAT_STATE = 3 then s.wr .HI_FW_STAT_STAGE_DROP 1
      else
        let cells := ((List.range data.length).zip data).foldl (fun t e => Tbl.set 0 t (offset + e.1) e.2) s.staging
        { s with staging := cells })
  else .refused .illFormed

/-- FW_GO (R331): LEN and GO of HI_FW_CTL. -/
def execFwGo (length : Nat) (s : State) : Host.Outcome State Fault Refusal :=
  if length < 2 ^ 24 then
    .next (s.byHost fun s =>
      let s := s.wr .HI_FW_CTL_LEN length
      if s.rd .HI_FW_STAT_STATE = 1 ∨ s.rd .HI_FW_STAT_STATE = 3 then s.wr .HI_FW_STAT_BUSY 1
      else ((s.wr .HI_FW_CTL_GO 1).wr .HI_FW_STAT_STATE 1).wr .HI_FW_STAT_REASON 0)
  else .refused .illFormed

/-- The number in `n` bytes at offset `o` of the staged image. -/
def State.imgNat (s : State) (o n : Nat) : Nat := leNat (s.staged o n)

/-- Are the magic, format, header length and reserved bytes of the staged header right (check 1 of R330)? -/
def State.headerOk (s : State) : Bool :=
  s.imgNat 0 4 == 0x57465354 && s.imgNat 4 2 == 1 && s.imgNat 6 2 == 0x100 && s.imgNat 0x19 0x27 == 0 &&
    s.imgNat 0xA0 0x60 == 0

/-- Are the lengths and the entry of the staged image right (check 2)? -/
def State.lengthOk (s : State) : Bool :=
  let n := s.imgNat 0x10 4
  let e := s.imgNat 0x14 4
  n == s.rd .HI_FW_CTL_LEN && decide (0x100 ≤ n) && decide (n ≤ 0x800000) && e % 4 == 0 && decide (0x100 ≤ e) &&
    decide (e < n)

/-- The unrevoked root key slot whose fused hash is that of the image's key (check 3). -/
def State.keySlot (s : State) : Option Nat :=
  let h := sha512 (s.staged 0x40 32)
  (List.range 4).find? fun k => s.fuses.rootKeys.getD k [] == h && !s.bitOf .ID_FUSE_CFG_REVOKED k

/-- The image digest D (R329): the signature's bytes are taken as zero. -/
def State.imageDigest (s : State) : List Byte :=
  let n := s.imgNat 0x10 4
  sha512 (s.staged 0 0x60 ++ List.replicate 64 0 ++ s.staged 0xA0 (n - 0xA0))

/-- The first check of R330 that fails, as its REASON; 0 where all pass. -/
def State.imageReason (s : State) : Nat :=
  if !s.headerOk then 1
  else if !s.lengthOk then 2
  else if s.keySlot.isNone then 3
  else if s.rd .ID_REV_BOOTROM < s.imgNat 0x0C 4 then 4
  else if s.imgNat 0x18 1 < s.rd .ID_SVN_SVN then 5
  else if !edVerify (s.staged 0x40 32) (s.staged 0x60 64) s.imageDigest then 6
  else 0

/-- The staged image runs (step 5 of R331): its digest, version and key slot are noted. -/
def State.runImage (s : State) : State :=
  let d := s.imageDigest
  let s := (List.range 16).foldl (fun s w => s.wri .ID_FW_DIGEST_DATA w (leNat ((d.drop (4 * w)).take 4))) s
  let s := (s.wr .HI_FW_STAT_STATE 3).wr .MC_FW_VER_VERSION (s.imgNat 8 4)
  let b : BootSt := { s.boot with keySlot := s.keySlot.getD 0, imageSvn := s.imgNat 0x18 1 }
  ({ s with boot := b } : State).setService 1

/-- FW_VERIFY_DONE (R330, R331). -/
def execFwVerifyDone (s : State) : Host.Outcome State Fault Refusal :=
  .next (
    if s.rd .HI_FW_STAT_STATE = 1 then
      let s := s.wr .HI_FW_CTL_GO 0
      let r := s.imageReason
      if r = 0 then s.runImage
      else { (s.wr .HI_FW_STAT_STATE 2).wr .HI_FW_STAT_REASON r with staging := [] }
    else s)

/-! ### The carrier record (R341, R342) -/

/-- Are the fields of a carrier record in range (R341)? -/
def fruOk : Fru → Bool
  | .record cls _ budget _ => decide (1 ≤ cls) && decide (cls ≤ 4) && decide (900 ≤ budget) && decide (budget ≤ 2800)
  | _ => false

/-- The port budgets loaded: each into its register and its loaded value; a port that is UP stays UP (R238, R342). -/
def State.loadBudgets (s : State) (l : List Nat) : State :=
  let b : BootSt := { s.boot with budgets := (List.range 16).zip l }
  ((List.range 16).zip l).foldl
    (fun s e =>
      if s.portOn e.1 then
        let s := s.wri .WN_PORT_BUDGET_BUDGET e.1 e.2
        if s.portState e.1 = 3 ∧ e.2 < s.rdi .WN_PORT_BUDGET_MODULE_PWR e.1 then s.wri .WN_PORT_STAT_OVER_BUDGET e.1 1 else s
      else s)
    { s with boot := b }

/-- The carrier record's values, or the defaults of R342. -/
def State.loadFru (s : State) (r : Fru) : State :=
  let put (s : State) (st cls slot budget : Nat) (l : List Nat) : State :=
    ((((s.wr .ID_BOARD_FRU_STATUS st).wr .ID_BOARD_CLASS cls).wr .ID_BOARD_SLOT slot).wr .ID_BOARD_BUDGET_W budget).loadBudgets l
  match r with
  | .absent => put s 2 0 0 1200 (List.replicate 16 1)
  | .invalid => put s 3 0 0 1200 (List.replicate 16 1)
  | .record cls slot budget ports =>
    if fruOk r then put s 1 cls slot budget ports else put s 3 0 0 1200 (List.replicate 16 1)

/-- Does a long mailbox command with opcode `op` run (R328)? -/
def State.longRuns (s : State) (op : Nat) : Bool := s.mailbox.active.any fun c => c.op == op

/-- FRU_READ (R341, R342): at bring-up, and for a REREAD_FRU. -/
def execFruRead (rec : Fru) (s : State) : Host.Outcome State Fault Refusal :=
  if rec.wf then
    .next (s.byFw fun s => if s.rd .ID_BOARD_FRU_STATUS = 0 ∨ s.longRuns 8 then s.loadFru rec else s)
  else .refused .illFormed

/-! ### The rest of the climb (R299 to R305) -/

/-- LIST_DONE (R300): a write of 1 to ER_BRINGUP.LIST_DONE. -/
def execListDone (s : State) : Host.Outcome State Fault Refusal :=
  .next (s.byHost fun s => s.wr .ER_BRINGUP_LIST_DONE 1)

/-- Has thresher `t` a BIST result? -/
def State.bistKnown (s : State) (t : Nat) : Bool := s.bitOf .ER_BRINGUP_BIST_PASS t || s.bitOf .ER_BRINGUP_BIST_FAIL t

/-- The BIST result of thresher `t` (R303). -/
def State.bistArray (s : State) (t : Nat) (pass : Bool) : State :=
  if pass then s.wrBit .ER_BRINGUP_BIST_PASS t true
  else
    let s := (s.wrBit .ER_BRINGUP_BIST_FAIL t true).raise .bistFail 0 t 0 0 0
    (s.wri .PW_DOM_OFF (thrDomain t) 1).switchOff (thrDomain t)

/-- The BIST result of turner `t` (R303). -/
def State.bistTurner (s : State) (t : Nat) (pass : Bool) : State :=
  if pass then s else (s.updTurner t fun x => { x with failed := true }).raise .bistFail 0 t 1 0 0

/-- BIST_DONE (R303): bit k of each operand is the outcome of thresher 2b + k. -/
def execBistDone (b : Fin 4) (arrays turners : Fin 4) (s : State) : Host.Outcome State Fault Refusal :=
  .next (s.byFw fun s =>
    if s.fatal || s.bistKnown (2 * b) || s.bistKnown (2 * b + 1) then s
    else
      let s := (s.bistTurner (2 * b) (bit turners 0)).bistTurner (2 * b + 1) (bit turners 1)
      (s.bistArray (2 * b) (bit arrays 0)).bistArray (2 * b + 1) (bit arrays 1))

/-- Is stack `k` trained? -/
def State.trained (s : State) (k : Nat) : Bool := s.rdi .GN_STACK_STAT_STATE k == 2

/-- REDUCED (R299, step 8): bay 0's stacks are trained and its threshers have their results. -/
def execReduced (s : State) : Host.Outcome State Fault Refusal :=
  .next (s.byFw fun s =>
    if s.rd .ER_SERVICE_STATE = 1 ∧ (List.range 6).all s.trained ∧ s.bistKnown 0 ∧ s.bistKnown 1 then s.setService 2 else s)

/-- BRINGUP_COMPLETE (R302). -/
def execBringupComplete (s : State) : Host.Outcome State Fault Refusal :=
  .next (s.byFw fun s =>
    if !s.flag .ER_BRINGUP_COMPLETE 0 && !s.fatal && (List.range 24).all s.trained && (List.range 8).all s.bistKnown &&
        (List.range 16).all fun p => !s.flag .WN_PORT_CTL_EN p || (s.portState p != 1 && s.portState p != 2) then
      (s.wr .ER_BRINGUP_COMPLETE 1).msix 1
    else s)

/-- REQ_FULL (R305): a write of 1 to ER_SERVICE.REQ_FULL. -/
def execReqFull (s : State) : Host.Outcome State Fault Refusal :=
  .next (s.byHost fun s =>
    if s.flag .ER_BRINGUP_COMPLETE 0 ∧ s.allIdle ∧ s.rd .ER_SERVICE_STATE = 2 ∧ ¬ s.modeBusy .service then
      s.orAfter .service fun s => s.setService 3
    else s.wr .ER_SERVICE_BUSY 1)

end Sys2Proof.Machine
end

