-- ==== Sys2Proof/Machine/Granary.lean ====
section
/-! DEFINITION. The granary's own work: interleave and scrub changes (R16 to R18, R166), patrol scrub, row repair
(R167 to R171), the repair list (R172, R173), hardening (R169), identity blocks (R176), training and loss of a stack
(R158, R175), the gleaner's partial packets (R160). -/

namespace Sys2Proof.Machine

/-- The state with the granary changed by `g`. -/
def State.updGran (s : State) (g : Granary → Granary) : State := { s with gran := g s.gran }

/-! ### Rows and spares (R168) -/

/-- The number of a row in its stack, as `rowOf` gives it. -/
def rowNo (pch bank row : Nat) : Nat := pch * 2 ^ 21 + bank * 2 ^ 15 + row

/-- The bank of a row number: pseudo-channel and bank. -/
def rowBank (r : Nat) : Nat := r / 2 ^ 15

/-- The key of spare `j` of bank `b` of stack `k`. -/
def spareKey (k b j : Nat) : Nat := k * 2 ^ 20 + b * 4 + j

/-- Spare `j` of a bank. -/
def State.spare (s : State) (k b j : Nat) : Spare := Tbl.get Spare.free s.gran.spares (spareKey k b j)

/-- The state with a spare set. -/
def State.setSpare (s : State) (k b j : Nat) (x : Spare) : State :=
  s.updGran fun g => { g with spares := Tbl.set Spare.free g.spares (spareKey k b j) x }

/-- The spare row `r` of stack `k` lives in. -/
def State.spareOf (s : State) (k r : Nat) : Option Nat :=
  (List.range 4).find? fun j => !(s.spare k (rowBank r) j).retired && (s.spare k (rowBank r) j).row == some r

/-- The lowest spare of a bank that is neither used nor retired. -/
def State.freeSpare (s : State) (k b : Nat) : Option Nat :=
  (List.range 4).find? fun j => !(s.spare k b j).retired && (s.spare k b j).row.isNone

/-- Stack-local address of piece `q` of row `r` (R153). -/
def rowPiece (r q : Nat) : Nat := (r % 2 ^ 15) * 2 ^ 22 + bits r 15 6 * 2 ^ 16 + q * 2 ^ 14 + r / 2 ^ 21 * 2 ^ 8

/-- The first places of a row's 16 sectors. -/
def rowSectors (k r : Nat) : List Nat :=
  (List.range 4).flatMap fun q => (List.range 4).map fun i => k * 2 ^ 37 + rowPiece r q + 64 * i

/-! ### Repair records (R172) -/

/-- A repair record posted (R172, R324): 256 records wait at most, and one that finds no room is lost. -/
def State.postRecord (s : State) (k r kind j : Nat) : State :=
  let w := k + r / 2 ^ 21 * 2 ^ 5 + bits r 15 6 * 2 ^ 11 + (r % 2 ^ 15) * 2 ^ 17 + kind * 2 ^ 32 + j * 2 ^ 34 +
    (s.gran.seq % 2 ^ 16) * 2 ^ 48
  let s := s.updGran fun g => { g with seq := g.seq + 1 }
  if s.gran.records.length < 256 then (s.updGran fun g => { g with records := g.records ++ [w] }).msix 3
  else s.wr .GN_REPAIR_POP_LOST 1

/-- REPAIR_POP (R177). -/
def execRepairPop (s : State) : Host.Outcome State Fault Refusal :=
  .next (s.byHost fun s => s.updGran fun g => { g with records := g.records.drop 1 })

/-- Does a spare wait to be hardened (R169): used and not hardened, or retired and that not hardened? -/
def Spare.pending (x : Spare) : Bool := (x.row.isSome && !x.hard && !x.retired) || (x.retired && !x.hardRetired)

/-- GN_STAT.REPAIR_PENDING and GN_SPARE[k].SOFT as the spares are. -/
def State.noteSpares (s : State) (k : Nat) : State :=
  let soft := s.gran.spares.countP fun e => e.1 / 2 ^ 20 == k && e.2.row.isSome && !e.2.hard && !e.2.retired
  (s.wri .GN_SPARE_SOFT k (min 1023 soft)).wr .GN_STAT_REPAIR_PENDING (b2n (s.gran.spares.any fun e => e.2.pending))

/-! ### Repair and retirement (R168, R170, R171) -/

/-- Row `r` leaves the row error table, and is no candidate any more. -/
def State.forgetRow (s : State) (k r : Nat) : State :=
  s.updGran fun g =>
    { g with rowErr := Tbl.upd [] g.rowErr k fun l => l.filter fun e => e.1 != r,
             rowUe := g.rowUe.filter fun x => x != k * 2 ^ 27 + r }

/-- The address of a row in endpoint form, for log records. -/
def State.rowAddr (s : State) (k r : Nat) : Nat := s.endpointOf (k * 2 ^ 37 + rowPiece r 0)

/-- Row `r` is retired (R171); `post` says whether a record and the event with it are given. -/
def State.retireRow (s : State) (k r : Nat) (post : Bool) : State :=
  let s := if s.rowRetired k r then s
    else (s.updGran fun g => { g with retired := (k * 2 ^ 27 + r) :: g.retired }).addSat .GN_SPARE_RETIRED k 1
  let s := s.forgetRow k r
  if post then (s.postRecord k r 2 0).raise .rowRetired 3 k (r / 2 ^ 21) (s.rowAddr k r) 0 else s

/-- Spare `j` of a bank is retired (R170). -/
def State.retireSpare (s : State) (k b j : Nat) : State :=
  (s.setSpare k b j { s.spare k b j with retired := true }).addSat .GN_SPARE_SPARE_RET k 1

/-- The sectors of a row copied to its spare: read and corrected, or written poisoned (R168, step 4). -/
def State.copyRow (s : State) (k r : Nat) : State :=
  if s.flaws.isEmpty then s else (rowSectors k r).foldl (fun s p => (s.sense p).rewritten p) s

/-- Row `r` moves into the lowest free spare of its bank, or is retired (R168, R171). -/
def State.moveRow (s : State) (k r : Nat) : State :=
  match s.freeSpare k (rowBank r) with
  | none => s.retireRow k r true
  | some j =>
    let s := (s.copyRow k r).forgetRow k r
    let s := s.setSpare k (rowBank r) j { Spare.free with row := some r }
    (s.postRecord k r 0 j).raise .rowRepair 3 k (r / 2 ^ 21) (s.rowAddr k r) 0

/-- A candidate is repaired (R168); where it lives in a spare already, that spare is retired first (R170). -/
def State.repairRow (s : State) (k r : Nat) : State :=
  let s := match s.spareOf k r with
    | none => s
    | some j => (s.retireSpare k (rowBank r) j).postRecord k r 3 j
  (s.moveRow k r).noteSpares k

/-- Is row `r` of stack `k` a repair candidate (R167): its corrected errors reach the threshold, or one was
uncorrectable? -/
def State.candidate (s : State) (k r : Nat) : Bool :=
  !s.rowRetired k r &&
    (s.gran.rowUe.contains (k * 2 ^ 27 + r) ||
      (Tbl.get [] s.gran.rowErr k).any fun e => e.1 == r && decide (s.rd .GN_REPAIR_CFG_THRESH ≤ e.2))

/-- REPAIR_REQUEST (R168, R170, R171). -/
def execRepairRequest (k : Fin 24) (pch bank : Fin 64) (row : Fin 32768) (s : State) :
    Host.Outcome State Fault Refusal :=
  let r := rowNo pch bank row
  .next (s.byFw fun s => if s.online k && s.candidate k r then s.repairRow k r else s)

/-! ### Hardening (R169, R176) -/

/-- One bit of a CRC-32C (reflected). -/
def crc32cBit (c : Nat) : Nat := if c % 2 = 1 then Nat.xor (c / 2) 0x82F63B78 else c / 2

/-- One byte of it. -/
def crc32cByte (c : Nat) (b : Byte) : Nat :=
  crc32cBit (crc32cBit (crc32cBit (crc32cBit (crc32cBit (crc32cBit (crc32cBit (crc32cBit (Nat.xor c b.toNat))))))))

/-- The CRC-32C of a byte string. -/
def crc32c (l : List Byte) : Nat := Nat.xor (l.foldl crc32cByte 0xFFFFFFFF) 0xFFFFFFFF

/-- The CRC-32C over bytes 0x00 to 0x3B of stack `k`'s identity block (R176). -/
def State.idCrc (s : State) (k : Nat) : Nat :=
  crc32c ((List.range 15).flatMap fun w => leBytes 4 (s.rdi .GN_ID_DATA (16 * k + w)))

/-- The identity block of stack `k` once `used` more spares and `ret` more retirements are hardened (R176). -/
def State.refreshId (s : State) (k used ret : Nat) : State :=
  let w7 := s.rdi .GN_ID_DATA (16 * k + 7)
  let w8 := s.rdi .GN_ID_DATA (16 * k + 8)
  let s := s.wri .GN_ID_DATA (16 * k + 7) (setBits w7 0 16 (bits w7 0 16 + used))
  let s := s.wri .GN_ID_DATA (16 * k + 8) (setBits w8 0 16 (bits w8 0 16 + ret))
  s.wri .GN_ID_DATA (16 * k + 15) (s.idCrc k)

/-- One pending spare hardened: a repair with its HARDENED record, or a retirement. -/
def State.hardenSpare (s : State) (e : Nat × Spare) : State :=
  let k := e.1 / 2 ^ 20
  let b := e.1 % 2 ^ 20 / 4
  let j := e.1 % 4
  if e.2.retired then
    (s.setSpare k b j { row := none, hard := false, retired := true, hardRetired := true }).refreshId k
      (b2n (!e.2.hard)) 1
  else
    ((s.setSpare k b j { e.2 with hard := true }).refreshId k 1 0).postRecord k (e.2.row.getD 0) 1 j

/-- Every pending repair and retirement hardened, stack by stack. -/
def State.hardenAll (s : State) : State :=
  let s := (s.gran.spares.filter fun e => e.2.pending).foldl State.hardenSpare s
  (List.range 24).foldl State.noteSpares s

/-- What a hardening of everything would harden. -/
def State.pendingCount (s : State) : Nat := s.gran.spares.countP fun e => e.2.pending

/-- QUIET_POINT (R169). -/
def execQuietPoint (s : State) : Host.Outcome State Fault Refusal :=
  .next (s.byFw fun s => if s.allIdle ∧ s.flag .GN_REPAIR_CFG_AUTO_HARDEN 0 then s.hardenAll else s)

/-! ### The repair list (R173) -/

/-- One entry of the list applied. -/
def State.applyEntry (s : State) (w : Nat) : State :=
  let k := bits w 0 5
  let r := rowNo (bits w 5 6) (bits w 11 6) (bits w 17 15)
  match bits w 32 2 with
  | 0 => if s.rowRetired k r || (s.spareOf k r).isSome then s else (s.moveRow k r).noteSpares k
  | 2 => s.retireRow k r false
  | 3 =>
    let j := bits w 34 2
    if (s.spare k (rowBank r) j).retired then s else (s.retireSpare k (rowBank r) j).noteSpares k
  | _ => s

/-- RLIST_ENTRY (R173): an aligned 8-byte write of one record. -/
def execRlistEntry (record : Nat) (s : State) : Host.Outcome State Fault Refusal :=
  if record < 2 ^ 64 then
    .next (s.byHost fun s =>
      if 4096 ≤ s.rd .GN_RLIST_CTL_COUNT ∨ bits record 36 12 ≠ 0 ∨ 24 ≤ bits record 0 5 then s.wr .GN_RLIST_CTL_REFUSED 1
      else
        let s := (s.updGran fun g => { g with rlist := g.rlist ++ [record] }).addWrap .GN_RLIST_CTL_COUNT 0 1
        if s.trained (bits record 0 5) then s.byFw fun s => s.applyEntry record else s)
  else .refused .illFormed

/-! ### Training and loss of a stack (R175, R257, R299, R300) -/

/-- Stack `k` becomes TRAINED; scrub starts over there. -/
def State.markTrained (s : State) (k : Nat) : State :=
  let s := s.updGran fun g => { g with scrubPos := Tbl.del g.scrubPos k }
  (s.wri .GN_STACK_STAT_STATE k 2).wrBit .GN_STACK_TRAINED_STACKS k true

/-- The code of a failure in GN_STACK_STAT.REASON. -/
def reasonCode : StackReason → Nat
  | .lane => 1
  | .identity => 2
  | .channel => 3
  | .noAnswer => 4

/-- Stack `k` fails (R175). -/
def State.failStack (s : State) (k reason ch : Nat) : State :=
  let ch := if reason = 2 then 0 else ch
  let s := ((s.wri .GN_STACK_STAT_STATE k 3).wri .GN_STACK_STAT_REASON k reason).wri .GN_STACK_STAT_CHANNEL k ch
  let s := ((s.wrBit .GN_STACK_TRAINED_STACKS k false).wrBit .GN_STACK_FAILED_STACKS k true).wr .GN_STAT_FAILED_MEMORY 1
  s.goFatal .stackFailed 3 k 0 reason 4

/-- Training of stack `k` has ended well: TRAINED, its repair entries applied; or, where the CRC of its identity block
fails, FAILED (R173, R175). -/
def State.trainStack (s : State) (k : Nat) : State :=
  if s.rdi .GN_ID_DATA (16 * k + 15) ≠ s.idCrc k then s.failStack k 2 0
  else (s.gran.rlist.filter fun w => bits w 0 5 == k).foldl State.applyEntry (s.markTrained k)

/-- STACK_TRAINING (R173, R299, R300): firmware has trained a stack. -/
def execStackTraining (k : Fin 24) (s : State) : Host.Outcome State Fault Refusal :=
  .next (s.byFw fun s =>
    if s.flag .ER_BRINGUP_LIST_DONE 0 ∧ s.rdi .GN_STACK_STAT_STATE k = 0 ∧ ¬ s.fatal ∧ ¬ s.domainOff (granDomain (stackBay k)) then
      s.trainStack k
    else s)

/-- STACK_FAIL (R175): in training or at run time. -/
def execStackFail (k : Fin 24) (reason : StackReason) (ch : Fin 32) (s : State) : Host.Outcome State Fault Refusal :=
  .next (
    if s.boot.phase = .up ∧ s.rdi .GN_STACK_STAT_STATE k ≠ 3 ∧ ¬ s.domainOff (granDomain (stackBay k)) then
      s.failStack k (reasonCode reason) ch
    else s)

/-- CHANNEL_RETRAIN (R175): errors that persist after it fail the stack. -/
def execChannelRetrain (k : Fin 24) (ch : Fin 32) (ok : Bool) (s : State) : Host.Outcome State Fault Refusal :=
  .next (s.byFw fun s =>
    if s.online k then (if ok then s.raise .stackRetrain 3 k 0 0 0 else s.failStack k 3 ch) else s)

/-! ### Interleave and scrub modes (R16 to R18, R166) -/

/-- INTERLEAVE_CHANGE (R16 to R18): accepted, or refused with BUSY. -/
def execInterleaveChange (mode : Fin 2) (s : State) : Host.Outcome State Fault Refusal :=
  .next (s.byHost fun s =>
    if s.allIdle && ((List.range 52).all fun q => s.drained q) && s.net.txns.isEmpty && !s.modeBusy (.interleave mode) then
      { s with modes := s.modes ++ [.interleave mode] }
    else s.wr .GN_STAT_BUSY 1)

/-- Is a sector being scrubbed, so that a change of mode waits for its end (R166)? -/
def State.scrubRuns (s : State) : Bool := s.rd .GN_CFG_SCRUB != 0 && (List.range 24).any s.online

/-- A request for a scrub mode: at once where no sector is being scrubbed, else at the end of that sector (R16, R166),
and behind the changes accepted before it (R18). -/
def State.askScrub (s : State) (mode : Nat) : State :=
  if mode = 3 ∨ s.modeBusy (.scrub mode) then s.wr .GN_STAT_BUSY 1
  else if s.modes.isEmpty && !s.scrubRuns then s.wr .GN_CFG_SCRUB mode
  else { s with modes := s.modes ++ [.scrub mode] }

/-- SCRUB_CHANGE (R166). -/
def execScrubChange (mode : Fin 4) (s : State) : Host.Outcome State Fault Refusal :=
  .next (s.byHost fun s => s.askScrub mode)

/-- The sector scrub reads next from position `n`, rows that are retired skipped; 2^31 at the end of the pass. -/
def State.nextSector (s : State) (k : Nat) : Nat → Nat → Nat
  | 0, n => n
  | fuel + 1, n => if n < 2 ^ 31 ∧ s.rowRetired k (rowOf (64 * n)) then s.nextSector k fuel (n + 1) else n

/-- Scrub of stack `k` goes on behind sector `n`, or starts a new pass. -/
def State.scrubOn (s : State) (k n : Nat) : State :=
  if n + 1 < 2 ^ 31 then s.updGran fun g => { g with scrubPos := Tbl.set 0 g.scrubPos k (n + 1) }
  else (s.updGran fun g => { g with scrubPos := Tbl.del g.scrubPos k }).addWrap .GN_SCRUB_PASS_COUNT k 1

/-- What scrub finds in a half: the error that stands there, or else the operand's. -/
def State.scrubFinds (s : State) (p : Nat) (x : Finding) : State :=
  if s.foundAt p == ⟨false, .clean⟩ && !s.poisoned p then s.setFlaw p { s.flawAt p with found := x } else s

/-- The sector of stack `k` that scrub stands at is read, and a correction or poison written back (R166). -/
def State.scrubAt (s : State) (k : Nat) (x : SectorFinding) : State :=
  let n := s.nextSector k (16 * s.gran.retired.length) (Tbl.get 0 s.gran.scrubPos k)
  if n < 2 ^ 31 then
    let p := k * 2 ^ 37 + 64 * n
    ((((s.scrubFinds p x.lo).scrubFinds (p + 32) x.hi).sense p).rewritten p).scrubOn k n
  else s.scrubOn k n

/-! ### The gleaner's packets (R160) -/

/-- PACK_TIMEOUT (R160): the partial packet of the queue's oldest gather that has one at stack `k` leaves. -/
def execPackTimeout (q : Fin 52) (k : Fin 24) (s : State) : Host.Outcome State Fault Refusal :=
  match (s.queue q).work.find? fun w => w.packs.contains k.val with
  | none => .next s
  | some w =>
    .next (((s.updWork q w.id fun y => { y with packs := y.packs.filter fun x => x != k.val }).addWrap .GL_PACKETS_COUNT k
      1).addSat .GL_TIMEOUT_CNT_COUNT k 1)

end Sys2Proof.Machine
end

