-- ==== Sys2Proof/Machine/Window.lean ====
section
/-! DEFINITION. The host's windows and events: the memory window (R322, R323, with R158, R190, R196, R204), its offset
and size (R322), the event ring (R325, R326). -/

namespace Sys2Proof.Machine

/-! ### The memory window (R322, R323) -/

/-- A place the window maps: space 0 or 1, thresher, address there; none where it maps nothing (R322). -/
def windowPlace (w : Nat) : Option (Nat × Nat × Nat) :=
  if w < Config.hbmBytes then some (0, 0, w)
  else
    let t := (w - Config.loftBase 0) / 0x10000000
    let a := (w - Config.loftBase 0) % 0x10000000
    if Config.loftBase 0 ≤ w ∧ t < 8 ∧ a < Config.loftBytes then some (1, t, a) else none

/-- A window range cut into pieces that lie in one target each: start and length. -/
def windowPieces (w n : Nat) : List (Nat × Nat) := cutRun 512 (n / 512 + 2) w n

/-- Is every byte of a window range mapped? -/
def windowMapped (w n : Nat) : Bool := (windowPieces w n).all fun p => (windowPlace p.1).isSome

/-- Does a window range touch HBM? -/
def windowHbm (w : Nat) : Bool := w < Config.hbmBytes

/-- Is the target of a window place there (R158, R323)? -/
def State.windowThere (s : State) (space t a : Nat) : Bool :=
  if space = 0 then s.online (hbmPlace s.interleave a).1 else !s.domainOff (thrDomain t)

/-- Is a granule of entry `r` at an address tagged with a live epoch? -/
def State.liveAt (s : State) (r : Vreg) (a : Nat) : Bool := s.liveTag r.v ((a - r.a) / granSize r.space)

/-- Is a window read of a place answered with all-ones (R158, R196, R204, R323)? -/
def State.windowBlind (s : State) (space t a n : Nat) : Bool :=
  !s.windowThere space t a ||
    s.vregs.any fun r => r.meetsB space t a (a + n - 1) || (r.scratch && r.hasName space t a && s.liveAt r a)

/-- Bytes of all-ones that come with EP set. -/
def onesBad (n : Nat) : List PByte := List.replicate n ⟨255, true⟩

/-- One piece of a window read. -/
def State.windowReadPiece (s : State) (p : Nat × Nat) : List PByte :=
  match windowPlace p.1 with
  | none => onesBad p.2
  | some (space, t, a) =>
    if s.windowBlind space t a p.2 then onesBad p.2 else s.readAt .unbound space t a p.2

/-- The checks of the units one piece of a window read touches. -/
def State.windowSense (s : State) (p : Nat × Nat) : State :=
  match windowPlace p.1 with
  | none => s
  | some (space, t, a) => if s.windowBlind space t a p.2 then s else s.senseAt .unbound space t a p.2

/-- A window read of `n` bytes at window address `w` served (R190, R323). -/
def State.serveRead (s : State) (w n : Nat) : State :=
  let put (s : State) (r : WindowReply) : State := { s with host := { s.host with replies := s.host.replies ++ [r] } }
  if windowMapped w n then
    let s := (windowPieces w n).foldl State.windowSense s
    let l := (windowPieces w n).flatMap s.windowReadPiece
    put s ⟨true, anyBad l, l.map PByte.val⟩
  else put s ⟨false, false, []⟩

/-- Does a window write to a place find it versioned and so dropped (R196, R204)? -/
def State.windowVersioned (s : State) (space t a n : Nat) : Bool :=
  s.vregs.any fun r => r.meetsB space t a (a + n - 1) || (r.hasName space t a && !s.liveEpochs.isEmpty)

/-- One piece of a window write; the second value says whether any piece so far was dropped. -/
def windowWritePiece (x : State × Bool) (p : Nat × List PByte) : State × Bool :=
  match windowPlace p.1 with
  | none => (x.1, true)
  | some (space, t, a) =>
    if !x.1.windowThere space t a then (x.1, true)
    else if x.1.windowVersioned space t a p.2.length then (x.1.wr .PS_STAT_HOST_WR_DROP 1, true)
    else (x.1.writeAt .unbound space t a p.2, x.2)

/-- The endpoint form of a window address, for log records (R311). -/
def windowWord (w : Nat) : Nat :=
  match windowPlace w with
  | some (1, t, a) => spanWord 1 t a
  | _ => w

/-- A window write served (R323): dropped whole with Unsupported Request where a byte is unmapped; a dropped part is
logged. -/
def State.serveWrite (s : State) (w : Nat) (data : List Byte) (ep : Bool) : State :=
  if windowMapped w data.length then
    let l := data.map fun b => (⟨b, ep⟩ : PByte)
    let (s, lost) := (splitBy (windowPieces w data.length) l).foldl windowWritePiece (s, false)
    if lost then s.raise .hostWrDrop 8 0 0 (windowWord w) 0 else s
  else s.emit (.aer false)

/-- Must a window access of `n` bytes wait: an HBM access for an interleave change (R17) or for a stack in self-refresh
(R283, R292), any access behind a write that waits (R190)? -/
def State.windowWaits (s : State) (w n : Nat) : Bool :=
  s.writesHeld || (windowHbm w && (s.holdsHbm || s.sleeps ⟨0, 0, w, (w + n - 1 : Nat)⟩))

/-- Does a BAR 2 range lie in the window as it is sized (R319)? -/
def State.inBar (s : State) (addr n : Nat) : Bool := decide (addr + n ≤ 2 ^ s.host.barLog2)

/-- MEMORY_WINDOW_READ (R190, R322, R323): bytes `addr` to `addr + len - 1` of BAR 2. -/
def execMemoryWindowRead (addr len : Nat) (s : State) : Host.Outcome State Fault Refusal :=
  if 1 ≤ len ∧ len ≤ 4096 ∧ addr + len ≤ 2 ^ 42 then
    .next (s.byHost fun s =>
      if s.inBar addr len then
        let s := s.leaveIdle
        let w := s.rd .HI_MWIN_OFFSET_OFFSET + addr
        if s.windowWaits w len then s.holdAccess (.read w len) else s.serveRead w len
      else s)
  else .refused .illFormed

/-- MEMORY_WINDOW_WRITE (R190, R322, R323). A write that carries EP writes poison (R164). -/
def execMemoryWindowWrite (addr : Nat) (data : List Byte) (ep : Bool) (s : State) : Host.Outcome State Fault Refusal :=
  if 1 ≤ data.length ∧ data.length ≤ 512 ∧ addr + data.length ≤ 2 ^ 42 then
    .next (s.byHost fun s =>
      if s.inBar addr data.length then
        let s := s.leaveIdle
        let w := s.rd .HI_MWIN_OFFSET_OFFSET + addr
        if s.windowWaits w data.length then s.holdAccess (.write w data ep) else s.serveWrite w data ep
      else s)
  else .refused .illFormed

/-- MWIN_OFFSET_WRITE (R322): a multiple of the size in force, or refused. -/
def execMwinOffsetWrite (value : Nat) (s : State) : Host.Outcome State Fault Refusal :=
  if value < 2 ^ 64 then
    .next (s.byHost fun s =>
      let v := bits value 0 42
      if v % 2 ^ s.host.barLog2 = 0 then s.wr .HI_MWIN_OFFSET_OFFSET v else s.wr .HI_STAT_CFG_REFUSED 1)
  else .refused .illFormed

/-- BAR_RESIZE (R319, R322). -/
def execBarResize (log2 : Nat) (s : State) : Host.Outcome State Fault Refusal :=
  if 30 ≤ log2 ∧ log2 ≤ 42 then
    .next (s.byHost fun s =>
      { s.wr .HI_MWIN_OFFSET_OFFSET 0 with host := { s.host with barLog2 := log2 } })
  else .refused .illFormed

/-! ### The event ring (R325, R326) -/

/-- The instruction whose event has been dealt with completes, where it is a NOTIFY (R326). -/
def State.eventDone (s : State) (e : EvtRec) : State :=
  if e.kind = 0 then (s.complete e.queue e.id).settleEnd e.queue else s

/-- EVENT_RELEASE (R326): the oldest held event goes into the ring. -/
def execEventRelease (s : State) : Host.Outcome State Fault Refusal :=
  match s.host.held with
  | [] => .next s
  | e :: r =>
    .next (
      if s.flag .HI_EVT_CFG_EN 0 ∧ s.host.linkUp ∧ ¬ s.ringFull then
        (({ s with host := { s.host with held := r } } : State).writeEvent e).eventDone e
      else s)

/-- EVT_HEAD_WRITE (R326): HEAD may move up to TAIL. -/
def execEvtHeadWrite (value : Nat) (s : State) : Host.Outcome State Fault Refusal :=
  if value < 2 ^ 32 then
    .next (s.byHost fun s =>
      let h := s.rd .HI_EVT_HEAD_HEAD
      if (value + 2 ^ 32 - h) % 2 ^ 32 ≤ (s.rd .HI_EVT_TAIL_TAIL + 2 ^ 32 - h) % 2 ^ 32 then s.wr .HI_EVT_HEAD_HEAD value
      else s.wr .HI_STAT_BAD_HEAD 1)
  else .refused .illFormed

/-- The ring is turned off: what is held is discarded and counted, and its instructions complete (R326). -/
def State.dropEvents (s : State) : State :=
  let l := s.host.held
  let s : State := { s with host := { s.host with held := [] } }
  l.foldl (fun s e => (s.addSat .HI_EVT_DROP_COUNT 0 1).eventDone e) (s.wr .HI_EVT_CFG_EN 0)

/-- EVT_CFG_WRITE (R326, R344, R358): LOG2N, judged against EN as it stood, then EN. -/
def execEvtCfgWrite (value : Nat) (s : State) : Host.Outcome State Fault Refusal :=
  if value < 2 ^ 32 then
    .next (s.byHost fun s =>
      let n := bits value 0 5
      let on := s.flag .HI_EVT_CFG_EN 0
      let s :=
        if n < 6 ∨ 16 < n ∨ (on ∧ n ≠ s.rd .HI_EVT_CFG_LOG2N) then s.wr .HI_STAT_CFG_REFUSED 1 else s.wr .HI_EVT_CFG_LOG2N n
      if bit value 31 then
        (if on then s else ((s.wr .HI_EVT_CFG_EN 1).wr .HI_EVT_HEAD_HEAD 0).wr .HI_EVT_TAIL_TAIL 0)
      else if on then s.dropEvents else s)
  else .refused .illFormed

end Sys2Proof.Machine
end

