-- ==== Sys2Proof/Machine/Links.lean ====
section
/-! DEFINITION. Frames that arrive (R240 to R246): what a port takes, what it sends on (R249, R250), and what each
operation of R242 does here, as target and as source; the serving of accesses that waited (R17, R191, R292). -/

namespace Sys2Proof.Machine

/-! ### Fields (R241, R242) -/

/-- Do ADDR, ARG and the payload of an operation hold only what R242 gives it? -/
def operandsOk (op : Nat) (f : Frame) : Bool :=
  match op with
  | 0 => decide (f.addr < 2 ^ 46) && decide (f.arg < 2 ^ 17)
  | 1 => decide (f.addr < 2 ^ 46) && decide (1 ≤ f.arg) && decide (f.arg ≤ 1040) && f.payload.isEmpty
  | 2 => f.addr == 0 && decide (f.arg < 2 ^ 17)
  | 3 => f.addr == 0 && decide (f.arg < 2 ^ 32) && f.payload.isEmpty
  | 4 => decide (f.addr < 2 ^ 16) && decide (f.arg < 2 ^ 16) && f.payload.isEmpty
  | 5 => f.addr == 0 && f.arg == 0 && f.payload.isEmpty
  | 6 => decide (f.addr < 2 ^ 48) && decide (f.arg < 2 ^ 52) && f.flags.all fun b => decide (b < 4)
  | 7 => f.addr == 0 && decide (f.arg < 2 ^ 16) && f.payload.isEmpty
  | 8 => f.addr == 0 && decide (f.arg < 2 ^ 26) && f.payload.isEmpty
  | 9 => f.addr == 0 && decide (f.arg < 2 ^ 32) && bits f.arg 8 8 == 0 && f.payload.isEmpty
  | _ => false

/-- Is the channel of a frame one of R240's, not reserved and not link control? -/
def channelOk (f : Frame) : Bool := decide (f.vc ≤ 4)

/-- Are the OP and the reserved fields of a frame as R240 and R241 have them? -/
def frameOk (op : Nat) (f : Frame) : Bool :=
  operandsOk op f && (f.prov || f.epoch == 0) && !f.rsv && f.lh.rsv == 0 && channelOk f

/-! ### Transactions answered (R245) -/

/-- The oldest transaction of a queue with a module, of an OP: its key. Acknowledgements are counters, in order. -/
def oldestTxn (q dst op : Nat) : List (Nat × Txn) → Option (Nat × Txn)
  | [] => none
  | e :: r =>
    if e.2.queue = q ∧ e.2.dst = dst ∧ e.2.op = op then
      match oldestTxn q dst op r with
      | none => some e
      | some x => if x.2.stamp < e.2.stamp then some x else some e
    else oldestTxn q dst op r

/-- `n` WR frames of queue `q` acknowledged by a module: their tags are free, and their bytes are folded (R227). -/
def ackWrites (q m : Nat) : Nat → State → State
  | 0, s => s
  | n + 1, s =>
    match oldestTxn q m opWr s.net.txns with
    | none => s
    | some (k, x) => ackWrites q m n ((s.foldIn (.own x.queue x.id) x.digest x.dst false x.data).releaseTag (k / 16384) (k % 16384))

/-- The bytes of acknowledged partials noted for the digests (R227). -/
def State.noteSent (s : State) (x : Txn) (l : List Byte) : State :=
  if l.isEmpty then s else s.updColl x.queue x.id fun c => { c with sentBytes := c.sentBytes ++ [(x.addr, l)] }

/-- `n` blocks of queue `q` acknowledged by its successor (R223); a frame acknowledged in part keeps its tag. `fuel`
bounds the frames. -/
def ackRing (q m : Nat) : Nat → Nat → State → State
  | 0, _, s => s
  | fuel + 1, n, s =>
    if n = 0 then s
    else
      match oldestTxn q m opRing s.net.txns with
      | none => s
      | some (k, x) =>
        if x.size ≤ n then
          let s := (s.noteSent x x.data).releaseTag (k / 16384) (k % 16384)
          ackRing q m fuel (n - x.size) (s.finishRscat x.queue x.id)
        else
          let y : Txn := { x with addr := x.addr + n, size := x.size - n, data := x.data.drop (66 * n) }
          let s := s.noteSent x (x.data.take (66 * n))
          { s with net := { s.net with txns := Tbl.put s.net.txns k y } }

/-- The data of an answered read given to every part that waits for the tag (R186). -/
def givePieces (tag : Nat) (l : List PByte) (w : Work) : Work :=
  { w with pieces := w.pieces.map fun p =>
      if p.tag = tag ∧ p.data.isNone then { p with data := some ((l.drop p.off).take p.len) } else p }

/-- A copy whose remote source has answered every part moves its bytes, and folds what came (R141, R227), unless what it
writes must wait (R205, R292). -/
def State.finishRead (s : State) (q id : Nat) : State :=
  match s.workAt q id with
  | none => s
  | some w =>
    match w.pieces.mapM Piece.data with
    | none => s
    | some l =>
      if s.landHeld w then s.landStall w
      else
      let d := CopyDesc.ofWord w.desc
      let c : CopyRun := ⟨q, id, q / 6, w.hop, s.viewOf w.bound, s.bankOf w.bound, w.bound, d⟩
      let s := if d.digest then s.foldDigest (.own q id) d.dset (Ep.ofWord d.src).mod true (l.flatten.map PByte.val) else s
      moveBytes c (.got l.flatten) (s.updWork q id fun w => { w with ready := true })

/-- An instruction that one part more has come for goes on. -/
def State.readOn (s : State) (r : Nat × Nat) : State :=
  match s.workAt r.1 r.2 with
  | none => s
  | some w => if w.kind = .gather then s.gatherGo r.1 r.2 else if w.kind = .copy then s.finishRead r.1 r.2 else s

/-- A read completion of bay `b`'s tag (R242, R245). -/
def State.completeRead (s : State) (b tag m : Nat) (l : List PByte) : State :=
  match Tbl.find s.net.txns (tagKey b tag) with
  | none => s
  | some x =>
    if x.op = opRdReq ∧ x.dst = m ∧ x.size = l.length then
      let rs := s.readersOf b tag
      let s := rs.foldl (fun s r => s.updWork r.1 r.2 (givePieces tag l)) s
      rs.foldl State.readOn (s.releaseTag b tag)
    else s

/-- A refusal of a tag of queue `q` ends its instruction (R251). One that names no tag is of a WN.HEALTH (R249). -/
def State.refused (s : State) (q tag reason : Nat) : State :=
  if tag = noTag then s.failHealth q none
  else
    match Tbl.find s.net.txns (tagKey (qBay q) tag) with
    | none => s
    | some x =>
      if x.queue = q then
        s.failTxn (qBay q) tag (refusalFault x.op reason (if x.op = opTlSig then x.addr else remoteWord x.dst x.addr))
      else s

/-- The acceptance of a remote signal completes it (R121). -/
def State.signalTaken (s : State) (q m : Nat) : State :=
  match oldestTxn q m opTlSig s.net.txns with
  | none => s
  | some (k, x) => ((s.releaseTag (k / 16384) (k % 16384)).complete x.queue x.id).settleEnd x.queue

/-! ### Remote signals here (R120, R359) -/

/-- The reason a TL_SIG frame is refused for; none where it counts. -/
def State.sigReason (s : State) (f : Frame) : Option Nat :=
  if !s.jobOk f then some 2
  else if s.bayFaulted (tallyBay f.addr) || !s.allocated f.addr then some 3
  else none

/-- A TL_SIG frame taken: counted and accepted, or refused (R120, R359). -/
def State.receiveSig (s : State) (f : Frame) : State :=
  match s.sigReason f with
  | none => (if f.arg = 0 then s else s.signal f.addr f.arg).reply f opTlAck 0 []
  | some r =>
    (((s.addSat .TL_REMOTE_REFUSE_CNT_COUNT 0 1).wr .TL_STAT_REMOTE_REFUSED 1).wr .TL_REMOTE_LAST_TALLY f.addr |>.wr
      .TL_REMOTE_LAST_SOURCE f.src).refuse f r

/-! ### What a port takes -/

/-- A read request for this module served and answered. -/
def State.receiveRd (s : State) (p : Nat) (f : Frame) : State :=
  match s.takeRd f with
  | (s, r) => (s.emptied p opRdReq f).answerRd f r

/-- Must an access of HBM wait: for an interleave change (R17), or for a stack in self-refresh (R283, R292)? -/
def State.frameWaits (s : State) (op : Nat) (f : Frame) : Bool :=
  frSpace f == 0 &&
    (s.holdsHbm || (frSpan f (if op = opWr then f.payload.length else bits f.arg 0 11)).any s.sleeps)

/-- Is a write of the same module and queue among the accesses that wait (R189)? -/
def State.pairWaits (s : State) (f : Frame) : Bool :=
  s.host.accesses.any fun a => match a with
    | .frame _ op g => op == opWr && g.src == f.src && g.sq == f.sq
    | _ => false

/-- A WR or RD_REQ for this module: served, or it waits for its HBM, a write also behind an earlier one of its source
and queue that waits (R17, R189, R292). -/
def State.receiveAccess (s : State) (p op : Nat) (f : Frame) : State :=
  if s.frameWaits op f || (op == opWr && s.pairWaits f) then s.holdAccess (.frame p op f)
  else if op = opWr then s.receiveWr p f else s.receiveRd p f

/-- A frame for this module. -/
def State.deliverFrame (s : State) (p op : Nat) (f : Frame) : State :=
  let q := f.sq
  match op with
  | 0 | 1 => s.receiveAccess p op f
  | 2 => (s.emptied p op f).completeRead (qBay q) f.tag f.src (frData f)
  | 3 => ackWrites q f.src (bits f.arg 0 16) (s.emptied p op f)
  | 4 => (s.emptied p op f).receiveSig f
  | 5 => (s.emptied p op f).signalTaken q f.src
  | 6 => s.receiveRing p f
  | 7 => ackRing q f.src (bits f.arg 0 16) (bits f.arg 0 16) (s.emptied p op f)
  | 8 => s.receiveHealth p f
  | _ => (s.emptied p op f).refused q (bits f.arg 16 16) (bits f.arg 0 8)

/-- A frame for another module sent on; one that cannot go on is refused (R249, R250). -/
def State.forward (s : State) (p op : Nat) (f : Frame) : State :=
  let s := s.emptied p op f
  if f.hops = 0 then s.refuseTransit op f 5
  else (s.send ⟨op, { f with hops := f.hops - 1 }⟩).getD (s.refuseTransit op f 4)

/-- An end-to-end failure found here is logged (R248). A frame with no payload is discarded; the payload of another is
delivered poisoned. -/
def State.endCheck (s : State) (p op : Nat) (f : Frame) : State :=
  if f.intact then s.deliverFrame p op f
  else
    let s := s.raise .fabricPoison 5 p 0 0 0
    if f.payload.isEmpty then s.emptied p op f else s.deliverFrame p op f

/-- One NAK for a gap, or for a frame discarded as if it had left one (R244, R246). -/
def State.nakOnce (s : State) (p k : Nat) : State :=
  if (s.link k).nakSent then s else (s.sendControl p k true).updLink k fun l => { l with nakSent := true }

/-- A frame in order taken: its header takes effect; reserved fields discard the rest (R240, R241). -/
def State.takeFrame (s : State) (p op : Nat) (f : Frame) : State :=
  let k := s.keyOf p f
  let s := (s.updLink k fun l => { l with rxNext := (l.rxNext + 1) % 65536, nakSent := false }).takeHeader p k f.lh
  if !frameOk op f then (if channelOk f then s.emptied p op f else s).dropFrame p
  else if f.dst = s.rd .WN_ID_MODULE then s.endCheck p op f
  else s.forward p op f

/-- A link frame that passed its link CRC-32, on a link with state: taken where its LSEQ is the next; after a gap
discarded with one NAK; one behind it is a frame taken before, sent again (R246). -/
def State.inOrder (s : State) (p op : Nat) (f : Frame) : State :=
  let k := s.keyOf p f
  let ahead := (f.lh.lseq + 65536 - (s.link k).rxNext) % 65536
  if ahead = 0 then
    if s.flag .WN_PORT_CTL_FRAMING p && channelOk f && s.bufferFull p op f then (s.nakOnce p k).dropFrame p
    else s.takeFrame p op f
  else if ahead < 32768 then s.nakOnce p k
  else s

/-- A frame whose link CRC-32 is good arrives on port `p` (R240 to R246, R249). -/
def State.receive (s : State) (p op : Nat) (f : Frame) : State :=
  if s.portState p ≠ 3 then s
  else
    let s := s.leaveIdle.addSat .WN_PORT_FEC_CE p f.fec
    if s.flag .WN_PORT_CTL_FRAMING p && f.dst != s.rd .WN_ID_MODULE then s.dropFrame p
    else
      match s.makeRoom p (s.keyOf p f) with
      | none => s.dropFrame p
      | some s => s.inOrder p op f

/-- What a frame that is not taken does on an UP port (R235, R241, R243, R244, R246, R248). FCS, EtherType, addresses,
PAUSE frames and a full buffer are those of switched framing. -/
def State.badFrame (s : State) (p peer : Nat) (bad : BadFrame) : State :=
  let k := s.linkKey p peer
  let switched := s.flag .WN_PORT_CTL_FRAMING p
  match bad with
  | .crc ue => ((if ue then s.addSat .WN_PORT_FEC_UE p 1 else s).addSat .WN_PORT_ERR_CRC p 1).nakOnce p k
  | .gap => s.nakOnce p k
  | .fcs => if switched then ((s.addSat .WN_PORT_ERR_CRC p 1).dropFrame p).nakOnce p k else s
  | .foreign => if switched then s.dropFrame p else s
  | .full => if switched then (s.dropFrame p).nakOnce p k else s
  | .pause => if switched then s.addSat .WN_PORT_DROP_PAUSE p 1 else s
  | .strange f => s.receive p 10 f

/-- BAD_CRC_OR_GAP (R235, R241, R243, R244, R246, R248): a frame the receiver does not take. -/
def execBadCrcOrGap (p : Fin 16) (peer : Fin 65536) (bad : BadFrame) (s : State) : Host.Outcome State Fault Refusal :=
  if bad.wf then .next (if s.portState p = 3 then s.leaveIdle.badFrame p peer bad else s) else .refused .illFormed

/-- What a received-frame command does. -/
def frameIn (p op : Nat) (f : Frame) (s : State) : Host.Outcome State Fault Refusal :=
  if f.plainWf then .next (s.receive p op f) else .refused .illFormed

/-- WR (R141, R206, R242, R359). -/
def execWr (p : Fin 16) (f : Frame) (s : State) : Host.Outcome State Fault Refusal := frameIn p opWr f s

/-- RD_REQ (R141, R206, R242, R359). -/
def execRdReq (p : Fin 16) (f : Frame) (s : State) : Host.Outcome State Fault Refusal := frameIn p opRdReq f s

/-- RD_CPL (R242, R245). -/
def execRdCpl (p : Fin 16) (f : Frame) (s : State) : Host.Outcome State Fault Refusal := frameIn p opRdCpl f s

/-- ACK (R242, R245). -/
def execAck (p : Fin 16) (f : Frame) (s : State) : Host.Outcome State Fault Refusal := frameIn p opAck f s

/-- TL_SIG (R120, R121, R359). -/
def execTlSig (p : Fin 16) (f : Frame) (s : State) : Host.Outcome State Fault Refusal := frameIn p opTlSig f s

/-- TL_ACK (R121). -/
def execTlAck (p : Fin 16) (f : Frame) (s : State) : Host.Outcome State Fault Refusal := frameIn p opTlAck f s

/-- RING (R215, R218, R224). -/
def execRing (p : Fin 16) (f : Frame) (s : State) : Host.Outcome State Fault Refusal :=
  if f.ringWf then .next (s.receive p opRing f) else .refused .illFormed

/-- RING_ACK (R223). -/
def execRingAck (p : Fin 16) (f : Frame) (s : State) : Host.Outcome State Fault Refusal := frameIn p opRingAck f s

/-- HEALTH (R210). -/
def execHealth (p : Fin 16) (f : Frame) (s : State) : Host.Outcome State Fault Refusal := frameIn p opHealth f s

/-- REFUSE (R251). -/
def execRefuse (p : Fin 16) (f : Frame) (s : State) : Host.Outcome State Fault Refusal := frameIn p opRefuse f s

/-! ### Accesses that waited (R17, R191, R292) -/

/-- One held access served. -/
def State.serveHeld (s : State) (a : HeldAccess) : State :=
  match a with
  | .frame p op f => s.receiveAccess p op f
  | .read w n => if s.windowWaits w n then s.holdAccess a else s.serveRead w n
  | .write w l ep => if s.windowWaits w l.length then s.holdAccess a else s.serveWrite w l ep
  | .tallyOp arm u n => if s.writesHeld then s.holdAccess a else (s.wr .TL_HOST_CTL_GO 0).hostEffect arm u n
  | .doorbell q v => if s.writesHeld then s.holdAccess a else s.ringDoorbell q v
  | .group v => if s.writesHeld then s.holdAccess a else s.ringGroup v

/-- The held accesses tried again, in their order: what must still wait stands in that order again. -/
def State.serveAccesses (s : State) : State :=
  s.host.accesses.foldl State.serveHeld { s with host := { s.host with accesses := [] } }

end Sys2Proof.Machine
end

