-- ==== Sys2Proof/Machine/Epochs.lean ====
section
/-! DEFINITION. PSTEP.CONFIRM and PSTEP.SQUASH (R201, R202), and what goes on once an epoch has ended or a stack has left
self-refresh: instructions whose remote data is here but had to wait to be written (R205, R292). -/

namespace Sys2Proof.Machine

/-- A started reduce-scatter goes on: with one rank it delivers; else it takes the RING frames held for it. -/
def State.resumeRscat (s : State) (q : Nat) (w : Work) (c : Coll) : State :=
  let s := if s.rankCount = 1 ∧ c.delivered = 0 then s.deliverOwn q w else s
  (s.takeHeld c.seq).finishRscat q w.id

/-- An instruction that waits to write what has come for it tries again. -/
def State.resumeWork (s : State) (q id : Nat) : State :=
  match s.workAt q id with
  | none => s
  | some w =>
    if w.ready || s.landHeld w then s
    else
      match w.kind, w.coll with
      | .copy, _ => if w.pieces.isEmpty then s else s.finishRead q id
      | .gather, _ => s.gatherGo q id
      | .rscat, some c => if c.started then s.resumeRscat q w c else s.tryRscat c.seq
      | _, _ => s

/-- Every instruction in progress tries again, queue by queue. -/
def State.resume (s : State) : State :=
  (List.range 52).foldl (fun s q => ((s.queue q).work.map Work.id).foldl (fun s id => s.resumeWork q id) s) s

/-- PSTEP.CONFIRM (R201). -/
def execPstepConfirm (t : Fin 8) (s : State) : Host.Outcome State Fault Refusal :=
  .next (issue (thrQ t 0) 0x22 s fun i s =>
    match s.pstepCheck t 0x22 with
    | .error f => s.engineFault (thrQ t 0) f i.pc
    | .ok _ => s.confirmEpoch.releaseWrites.resume.retire (thrQ t 0) i)

/-- PSTEP.SQUASH (R199, R202): it completes once the restore has run; with no live epoch, at once. -/
def execPstepSquash (t : Fin 8) (s : State) : Host.Outcome State Fault Refusal :=
  .next (issue (thrQ t 0) 0x23 s fun i s =>
    match s.pstepCheck t 0x23 with
    | .error f => s.engineFault (thrQ t 0) f i.pc
    | .ok _ =>
      if s.liveEpochs.isEmpty then s.retire (thrQ t 0) i
      else
        let s := s.goOn (thrQ t 0) i { newWork (s.queue (thrQ t 0)) i .squash none with desc := s.liveEpochs.headD 0 }
        s.squashEpochs.releaseWrites.resume)

end Sys2Proof.Machine
end

