-- ==== Sys2Proof/Machine/Mailbox.lean ====
section
/-! DEFINITION. The mailbox: what GO does (R327), the answers of firmware to the commands of R328, and the completion of
long commands. -/

namespace Sys2Proof.Machine

/-- The state with the mailbox changed by `g`. -/
def State.updMbx (s : State) (g : Mailbox → Mailbox) : State := { s with mailbox := g s.mailbox }

/-- An answer: STATUS and TAG, GO cleared, vector 2 (R324, R327). -/
def State.answerMbx (s : State) (tag status : Nat) : State :=
  ((((s.updMbx fun m => { m with waiting := none }).wr .MC_MBX_STAT_STATUS status).wr .MC_MBX_STAT_TAG tag).wr
    .MC_MBX_CTL_GO 0).msix 2

/-- A write of 1 to MC_MBX_CTL.GO (R327): the command goes to firmware, or is answered at once. -/
def State.sendMbx (s : State) : State :=
  let c : MbxCmd := ⟨s.rd .MC_MBX_CMD_OP, s.rd .MC_MBX_CMD_TAG, s.rd .MC_MBX_CMD_ARG⟩
  if s.flag .MC_MBX_CTL_GO 0 then s.wr .MC_MBX_CTL_OVERRUN 1
  else if !s.fwUp then s.answerMbx c.tag 5
  else if c.op < 1 ∨ 8 < c.op then s.answerMbx c.tag 3
  else (s.updMbx fun m => { m with waiting := some c }).wr .MC_MBX_CTL_GO 1

/-- What a long command holds (R22, R328): a number for its resource. -/
def MbxCmd.resource (c : MbxCmd) : Nat :=
  match c.op with
  | 3 => 100 + c.arg
  | 4 => 200 + c.arg
  | 6 | 7 => 6
  | n => n

/-- Is the argument of a command in range (R328)? -/
def MbxCmd.argOk (c : MbxCmd) : Bool :=
  match c.op with
  | 3 => decide (c.arg < 24)
  | 4 => decide (c.arg < 16)
  | 6 => decide (1 ≤ c.arg) && decide (c.arg ≤ 64)
  | 7 => decide (c.arg ≤ 3)
  | _ => true

/-- Is key slot `k` the last unrevoked one? -/
def State.lastKey (s : State) (k : Nat) : Bool :=
  !s.bitOf .ID_FUSE_CFG_REVOKED k && (List.range 4).all fun j => j == k || s.bitOf .ID_FUSE_CFG_REVOKED j

/-- Does the condition of a command hold (R328)? -/
def State.mbxMay (s : State) (c : MbxCmd) : Bool :=
  match c.op with
  | 3 => s.allIdle && s.trained c.arg
  | 4 => s.flag .WN_PORT_CTL_EN c.arg && (s.portState c.arg == 3 || s.portState c.arg == 4)
  | 6 => decide (c.arg ≤ s.boot.imageSvn)
  | 7 => c.arg != s.boot.keySlot && !s.lastKey c.arg
  | _ => true

/-- What a long command does when it starts: the stack goes offline, the port DOWN, hardening shows. -/
def State.mbxStart (s : State) (c : MbxCmd) : State :=
  match c.op with
  | 2 => s.wr .GN_STAT_HARDENING 1
  | 3 => (s.wri .GN_STACK_STAT_STATE c.arg 1).wrBit .GN_STACK_TRAINED_STACKS c.arg false
  | 4 => if s.portDead c.arg then s else s.setPort c.arg 4 0
  | _ => s

/-- Firmware answers the waiting command, where its opcode is `op`, as `k` says. -/
def State.mbxAnswer (s : State) (op : Nat) (k : MbxCmd → State → State) : State :=
  s.byFw fun s =>
    match s.mailbox.waiting with
    | none => s
    | some c => if c.op = op then k c s else s

/-- The answer to a long command: BAD_ARG, BUSY, REFUSED, or ACCEPTED (R22, R327). -/
def State.mbxLong (s : State) (op : Nat) : State :=
  s.mbxAnswer op fun c s =>
    if !c.argOk then s.answerMbx c.tag 4
    else if s.mailbox.active.any fun x => x.resource == c.resource then s.answerMbx c.tag 2
    else if !s.mbxMay c then s.answerMbx c.tag 7
    else ((s.mbxStart c).updMbx fun m => { m with active := m.active ++ [c] }).answerMbx c.tag 1

/-- GET_VERSION (R328). -/
def execGetVersion (s : State) : Host.Outcome State Fault Refusal :=
  .next (s.mbxAnswer 1 fun c s =>
    ((s.wri .MC_MBX_RES_RESULT 0 (s.rd .MC_FW_VER_VERSION)).wri .MC_MBX_RES_RESULT 1 s.boot.imageSvn).answerMbx c.tag 0)

/-- HARDEN (R169, R328). -/
def execHarden (s : State) : Host.Outcome State Fault Refusal := .next (s.mbxLong 2)

/-- RETRAIN_STACK (R328). -/
def execRetrainStack (s : State) : Host.Outcome State Fault Refusal := .next (s.mbxLong 3)

/-- RETRAIN_PORT (R234, R328). -/
def execRetrainPort (s : State) : Host.Outcome State Fault Refusal := .next (s.mbxLong 4)

/-- CALIBRATE (R264, R328). -/
def execCalibrate (s : State) : Host.Outcome State Fault Refusal := .next (s.mbxLong 5)

/-- RAISE_SVN (R328). -/
def execRaiseSvn (s : State) : Host.Outcome State Fault Refusal := .next (s.mbxLong 6)

/-- REVOKE_KEY (R328). -/
def execRevokeKey (s : State) : Host.Outcome State Fault Refusal := .next (s.mbxLong 7)

/-- REREAD_FRU (R328, R342). -/
def execRereadFru (s : State) : Host.Outcome State Fault Refusal := .next (s.mbxLong 8)

/-- A completion record queued, with vector 2 (R327): 64 wait at most, and the newest is lost. -/
def State.mbxRecord (s : State) (c : MbxCmd) (ok : Bool) (result : Nat) : State :=
  let w := c.op + c.tag * 2 ^ 8 + (if ok then 0 else 6) * 2 ^ 16 + result * 2 ^ 32
  (if s.mailbox.records.length < 64 then s.updMbx fun m => { m with records := m.records ++ [w] }
   else s.wr .MC_MBX_POP_LOST 1).msix 2

/-- What a long command's end does, and its RESULT (R328). -/
def State.mbxEnd (s : State) (c : MbxCmd) (ok : Bool) : State × Nat :=
  match c.op with
  | 2 =>
    let s := s.wr .GN_STAT_HARDENING 0
    if ok then (s.hardenAll, s.pendingCount) else (s, 0)
  | 3 =>
    if s.rdi .GN_STACK_STAT_STATE c.arg = 3 then (s, 0)
    else if ok then (s.trainStack c.arg, 0)
    else
      let (n, s) := s.takeFree
      (s.failStack c.arg 1 n, 0)
  | 4 => (if s.portTrains c.arg then (if ok && s.portClocked c.arg then s.comeUp c.arg else s.setPort c.arg 4 5) else s, 0)
  | 5 => (if ok then s.wr .PW_STAT_CALIBRATED 1 else s, 0)
  | 6 => (if ok then s.wr .ID_SVN_SVN (max (s.rd .ID_SVN_SVN) c.arg) else s, 0)
  | 7 => (if ok then s.wrBit .ID_FUSE_CFG_REVOKED c.arg true else s, 0)
  | _ => (s, 0)

/-- MAILBOX_DONE (R22, R327): the oldest command in progress with that TAG ends. -/
def execMailboxDone (tag : Nat) (ok : Bool) (s : State) : Host.Outcome State Fault Refusal :=
  if tag < 256 then
    .next (s.byFw fun s =>
      match s.mailbox.active.find? fun c => c.tag == tag with
      | none => s
      | some c =>
        let s := s.updMbx fun m => { m with active := m.active.eraseP fun x => x.tag == tag }
        let (s, r) := s.mbxEnd c ok
        s.mbxRecord c ok r)
  else .refused .illFormed

/-- MBX_POP (R345). -/
def execMbxPop (s : State) : Host.Outcome State Fault Refusal :=
  .next (s.byHost fun s => s.updMbx fun m => { m with records := m.records.drop 1 })

end Sys2Proof.Machine
end

