-- ==== Sys2Proof/Machine/Sideband.lean ====
section
/-! DEFINITION. The sideband and MCTP endpoint: the vendor commands (R334 to R336), the PLDM sensors and events (R337),
SPDM (R339, R340). What an answer looks like on the wire stands in assumption log entry 30. -/

namespace Sys2Proof.Machine

/-- The state with the endpoint changed by `g`. -/
def State.updSide (s : State) (g : Sideband → Sideband) : State := { s with sideband := g s.sideband }

/-- An answer given. -/
def State.answer (s : State) (p : Proto) (code : Nat) (data : List Byte) : State :=
  s.updSide fun x => { x with answer := some ⟨p, code, data⟩ }

/-- A command of the sideband: it reaches a module that has power. -/
def State.bySide (s : State) (k : State → State) : State := if s.boot.phase = .off then s else k s

/-- A vendor command that firmware answers; NOT_READY while none runs (R335). -/
def State.vendor (s : State) (k : State → State) : State :=
  s.bySide fun s => if s.fwUp then k s else s.answer .vendor 3 []

/-- A vendor answer without data: 0 SUCCESS, 1 BUSY, 2 INVALID, 3 NOT_READY (R334). -/
def State.vend (s : State) (code : Nat) : State := s.answer .vendor code []

/-! ### Vendor commands (R334) -/

/-- HI_ALERT as one number (R344). -/
def State.alerts (s : State) : Nat :=
  s.rd .HI_ALERT_CLKFAIL + 2 * s.rd .HI_ALERT_TRIP + 4 * s.rd .HI_ALERT_BAY + 8 * s.rd .HI_ALERT_FATAL +
    16 * s.rd .HI_ALERT_FLOOR

/-- Is SB_ALERT_N driven low (R336)? -/
def State.alertDriven (s : State) : Bool := s.alerts != 0

/-- GET_STATE: AO answers in every state (R335). -/
def execGetState (s : State) : Host.Outcome State Fault Refusal :=
  .next (s.bySide fun s =>
    s.answer .vendor 0 (leBytes 4 (s.rd .ER_SERVICE_STATE) ++
      leBytes 4 (s.rd .ER_RESET_CAUSE_CAUSE + s.rd .ER_RESET_CAUSE_ALSO * 2 ^ 8) ++
      leBytes 4 (s.rd .PW_WAKE_LAST_SOURCE + s.rd .PW_WAKE_LAST_PORT * 4) ++ leBytes 4 s.alerts))

/-- SET_PROFILE (R263, R334). -/
def execSetProfile (value : Nat) (s : State) : Host.Outcome State Fault Refusal :=
  if value < 2 ^ 32 then
    .next (s.vendor fun s => (s.writeProfile value).vend (if bits value 0 2 = 3 then 2 else if s.modeBusy (.profile 0) then 1 else 0))
  else .refused .illFormed

/-- SET_CAP (R263, R334). -/
def execSetCap (value : Nat) (s : State) : Host.Outcome State Fault Refusal :=
  if value < 2 ^ 32 then
    .next (s.vendor fun s =>
      (s.writeCap value).vend (if 900 ≤ bits value 0 12 ∧ bits value 0 12 ≤ 2800 then 0 else 2))
  else .refused .illFormed

/-- SET_SCRUB (R18, R166, R334). -/
def execSetScrub (value : Nat) (s : State) : Host.Outcome State Fault Refusal :=
  if value < 2 ^ 32 then
    .next (s.vendor fun s =>
      (s.askScrub (min 3 value)).vend (if 3 ≤ value then 2 else if s.modeBusy (.scrub 0) then 1 else 0))
  else .refused .illFormed

/-- DORMANT (R261, R334). -/
def execDormant (s : State) : Host.Outcome State Fault Refusal :=
  .next (s.vendor fun s => if s.allIdle then s.goDormant.vend 0 else (s.wr .PW_STAT_BUSY 1).vend 1)

/-- SIDEBAND_WAKE (R262, R334): AO answers; INVALID outside Dormant. -/
def execSidebandWake (s : State) : Host.Outcome State Fault Refusal :=
  .next (s.bySide fun s => if s.power.dormant then (s.wakeBy 3 0).vend 0 else s.vend 2)

/-- SOFT_RESET (R297, R334): AO answers. -/
def execSoftReset (key : Nat) (s : State) : Host.Outcome State Fault Refusal :=
  if key < 65536 then
    .next (s.bySide fun s => if key = 0xD1E5 then (s.resetTo 4).vend 0 else s.vend 2)
  else .refused .illFormed

/-- GPIO (R315, R334): the operator is owner 3. -/
def execGpio (n : Fin 4) (act : GpioAct) (s : State) : Host.Outcome State Fault Refusal :=
  if act.wf then
    .next (s.vendor fun s =>
      match act with
      | .claim fn =>
        if fn = 0 then s.vend 2
        else if s.pinMay n 3 fn then ((s.setPin n 3 fn).showPin n (s.rdi .ER_GPIO_IN n)).vend 0 else s.vend 1
      | .release =>
        if s.rdi .ER_GPIO_OWN n = 3 then (s.setPin n 3 0).vend 0 else s.vend 1
      | .drive level =>
        if s.rdi .ER_GPIO_OWN n = 3 then
          ((s.wri .ER_GPIO_OUT n (b2n level)).showPin n (s.rdi .ER_GPIO_IN n)).vend 0
        else s.vend 1
      | .read level =>
        let s := s.showPin n (b2n level)
        s.answer .vendor 0 (leBytes 1 (s.rdi .ER_GPIO_IN n)))
  else .refused .illFormed

/-- ALERT_ACK (R336). -/
def execAlertAck (mask : Nat) (s : State) : Host.Outcome State Fault Refusal :=
  if mask < 2 ^ 32 then
    .next (s.vendor fun s =>
      let drop (f : F) (i : Nat) (s : State) : State := if bit mask i then s.wr f 0 else s
      (drop .HI_ALERT_FLOOR 4 (drop .HI_ALERT_FATAL 3 (drop .HI_ALERT_BAY 2 (drop .HI_ALERT_TRIP 1
        (drop .HI_ALERT_CLKFAIL 0 s))))).vend 0)
  else .refused .illFormed

/-- SET_ENDPOINT_ID (R333): AO answers MCTP control (R335); the null and broadcast IDs are not assigned. -/
def execSetEndpointId (eid : Nat) (s : State) : Host.Outcome State Fault Refusal :=
  if eid < 256 then
    .next (s.bySide fun s =>
      if eid = 0 ∨ eid = 255 then s.answer .mctp 2 []
      else (s.updSide fun x => { x with eid := eid }).answer .mctp 0 (leBytes 1 eid))
  else .refused .illFormed

/-! ### PLDM (R337) -/

/-- A PLDM request: ERROR_NOT_READY while no firmware runs (R335). -/
def State.pldm (s : State) (k : State → State) : State :=
  s.bySide fun s => if s.fwUp then k s else s.answer .pldm 4 []

/-- The numeric sensors (R337) with their values as they are now: watts, joules, eighths of a degree. -/
def State.numericSensors (s : State) : List (Nat × Nat) :=
  [(1, s.rd .PW_MEAS_WATTS), (2, s.rd .PW_CAP_EFFECTIVE), (3, s.rd .PW_ENERGY_UJ / 10 ^ 6)] ++
    ((List.range 8).filterMap fun t => (s.hottest t).map fun x => (8 + t, (x % 2 ^ 64).toNat)) ++
    (List.range 24).filterMap fun k =>
      if s.flag .TM_STACK_TEMP_VALID k then
        some (16 + k, (signed 12 (s.rdi .TM_STACK_TEMP_TEMP k) % 2 ^ 64).toNat)
      else none

/-- Is a sensor ID that of a numeric sensor? -/
def isNumeric (i : Nat) : Bool := (decide (1 ≤ i) && decide (i ≤ 3)) || (decide (8 ≤ i) && decide (i < 40))

/-- GETPDR (R337): the sensors, each as its ID, its kind (0 numeric, 1 state) and its unit. -/
def execGetPdr (s : State) : Host.Outcome State Fault Refusal :=
  .next (s.pldm fun s =>
    let unitOf (i : Nat) : Nat := if i ≤ 2 then 0 else if i = 3 then 1 else 2
    let l := ((List.range 40).filter isNumeric).flatMap fun i => leBytes 2 i ++ leBytes 1 0 ++ leBytes 1 (unitOf i)
    s.answer .pldm 0 (l ++ [100, 101].flatMap fun i => leBytes 2 i ++ leBytes 1 1 ++ leBytes 1 3))

/-- GETSENSORREADING (R337): the value last refreshed; none while the sensor has none. -/
def execGetSensorReading (id : Nat) (s : State) : Host.Outcome State Fault Refusal :=
  if id < 65536 then
    .next (s.pldm fun s =>
      if isNumeric id then
        match Tbl.find s.sideband.sensors id with
        | none => s.answer .pldm 0 []
        | some v => s.answer .pldm 0 (leBytes 8 v)
      else s.answer .pldm 128 [])
  else .refused .illFormed

/-- GETSTATESENSORREADINGS (R337): sensor 101 starts over with every poll. -/
def execGetStateSensorReadings (id : Nat) (s : State) : Host.Outcome State Fault Refusal :=
  if id < 65536 then
    .next (s.pldm fun s =>
      if id = 100 then s.answer .pldm 0 (leBytes 1 (Tbl.get 0 s.sideband.sensors 100))
      else if id = 101 then (s.updSide fun x => { x with worst := 0 }).answer .pldm 0 (leBytes 1 s.sideband.worst)
      else s.answer .pldm 128 [])
  else .refused .illFormed

/-- POLLFORPLATFORMEVENTMESSAGE (R337): the oldest queued event, with its log record. -/
def execPollForPlatformEventMessage (s : State) : Host.Outcome State Fault Refusal :=
  .next (s.pldm fun s =>
    match s.sideband.events with
    | [] => s.answer .pldm 0 []
    | e :: r => (s.updSide fun x => { x with events := r }).answer .pldm 0 (e.words.flatMap (leBytes 4)))

/-- SENSOR_REFRESH (R337). -/
def execSensorRefresh (s : State) : Host.Outcome State Fault Refusal :=
  .next (s.byFw fun s =>
    s.updSide fun x => { x with sensors := s.numericSensors ++ [(100, s.rd .ER_SERVICE_STATE)] })

/-! ### SPDM (R339, R340) -/

/-- An SPDM request: ERROR Busy while no firmware runs (R335). -/
def State.spdm (s : State) (k : State → State) : State :=
  s.bySide fun s => if s.fwUp then k s else s.answer .spdm 3 []

/-- A request that must come behind the agreement on algorithms; else ERROR UnexpectedRequest. -/
def State.spdmAgreed (s : State) (k : State → State) : State :=
  s.spdm fun s => if s.sideband.negotiated then k s else s.answer .spdm 4 []

/-- The certificate of the one-time memory (R338, R343). -/
def State.certificate (s : State) : List Byte :=
  ((List.range 256).flatMap fun w => leBytes 4 (s.rdi .ID_CERT_DATA w)).take (s.rd .ID_CERT_LEN_LEN)

/-- The chain of slot 0: the root hash and the module certificate (R339), behind SPDM's length field. -/
def State.chain (s : State) : List Byte :=
  let l := s.fuses.rootCert ++ s.certificate
  leBytes 4 (4 + l.length) ++ l

/-- SPDM_GET_VERSION (R339): 1.3. -/
def execSpdmGetVersion (s : State) : Host.Outcome State Fault Refusal :=
  .next (s.spdm fun s => s.answer .spdm 0 [0x13])

/-- GET_CAPABILITIES (R339): certificates, challenge, measurements with signature. -/
def execGetCapabilities (s : State) : Host.Outcome State Fault Refusal :=
  .next (s.spdm fun s => s.answer .spdm 0 (leBytes 4 0x16))

/-- NEGOTIATE_ALGORITHMS (R339): Ed25519 and SHA-512 (bits 10 and 2 of the masks), or ERROR InvalidRequest. -/
def execNegotiateAlgorithms (asym hash : Nat) (s : State) : Host.Outcome State Fault Refusal :=
  if asym < 2 ^ 32 ∧ hash < 2 ^ 32 then
    .next (s.spdm fun s =>
      if bit asym 10 && bit hash 2 then
        (s.updSide fun x => { x with negotiated := true }).answer .spdm 0 (leBytes 4 0x400 ++ leBytes 4 0x4)
      else (s.updSide fun x => { x with negotiated := false }).answer .spdm 1 [])
  else .refused .illFormed

/-- GET_DIGESTS (R339). -/
def execGetDigests (s : State) : Host.Outcome State Fault Refusal :=
  .next (s.spdmAgreed fun s => s.answer .spdm 0 (sha512 s.chain))

/-- GET_CERTIFICATE (R339): `len` bytes of the chain from `offset`. -/
def execGetCertificate (offset len : Nat) (s : State) : Host.Outcome State Fault Refusal :=
  if offset < 65536 ∧ len < 65536 then
    .next (s.spdmAgreed fun s =>
      if offset < s.chain.length then s.answer .spdm 0 ((s.chain.drop offset).take len) else s.answer .spdm 1 [])
  else .refused .illFormed

/-- CHALLENGE (R338, R339): answered with a signature over the chain's digest and the nonce. -/
def execChallenge (nonce : List Byte) (s : State) : Host.Outcome State Fault Refusal :=
  if nonce.length = 32 then
    .next (s.spdmAgreed fun s => s.answer .spdm 0 (sha512 s.chain ++ Config.sign (sha512 s.chain ++ nonce)))
  else .refused .illFormed

/-- The words of a register as bytes. -/
def State.wordBytes (s : State) (f : F) (i n : Nat) : List Byte := (List.range n).flatMap fun w => leBytes 4 (s.rdi f (i + w))

/-- The content of a measurement index (R340). -/
def State.measurement (s : State) (i : Nat) : List Byte :=
  match i with
  | 1 => leBytes 4 (s.rd .ID_REV_BOOTROM)
  | 2 => s.wordBytes .ID_FW_DIGEST_DATA 0 16
  | 3 => sha512 s.fuses.config
  | k => s.wordBytes .GN_ID_DATA (16 * (k - 4)) 16

/-- GET_MEASUREMENTS (R339, R340): one index, or with 255 all of them, signed; index 0 asks for their number. -/
def execGetMeasurements (index : Nat) (nonce : List Byte) (s : State) : Host.Outcome State Fault Refusal :=
  if index < 256 ∧ nonce.length = 32 then
    .next (s.spdmAgreed fun s =>
      if index = 0 then s.answer .spdm 0 (leBytes 1 27)
      else if index ≤ 27 ∨ index = 255 then
        let l := if index = 255 then (upFrom 1 27).flatMap s.measurement else s.measurement index
        s.answer .spdm 0 (l ++ Config.sign (l ++ nonce))
      else s.answer .spdm 1 [])
  else .refused .illFormed

end Sys2Proof.Machine
end

