-- ==== Sys2Proof/Machine/HostRegs.lean ====
section
/-! DEFINITION. Host writes of registers through the control window (R7 to R12, R321, R358): the contract version
(R92), the region table (R138, R139), and every register field by field. A register whose write has a row of its own
does here what that row does. -/

namespace Sys2Proof.Machine

/-! ### The contract version (R92) -/

/-- EN_CONTRACT written: the one supported version, while every queue is IDLE. -/
def State.writeContract (s : State) (v : Nat) : State :=
  if v = 0x0100 ∧ s.allIdle then s.wr .EN_CONTRACT_VERSION v else s.wr .EN_STAT_CFG_REFUSED 1

/-- EN_CONTRACT_WRITE (R92). -/
def execEnContractWrite (version : Nat) (s : State) : Host.Outcome State Fault Refusal :=
  if version < 65536 then .next (s.byHost fun s => s.writeContract version) else .refused .illFormed

/-! ### The region table (R138, R139) -/

/-- The end of a space a region may lie in (R138). -/
def regionEnd (space : Nat) : Nat :=
  match space with
  | 0 => Config.hbmBytes
  | 1 => Config.loftBytes
  | _ => 2 ^ 62

/-- Is a region-table entry well formed (R138)? -/
def regionOk (base size : Nat) : Bool :=
  let e := Ep.ofWord base
  e.space != 2 && epReservedOk base && decide (1 ≤ bits size 0 48) &&
    decide (e.addr + bits size 0 48 ≤ regionEnd e.space)

/-- LF_REGION_SIZE[r] as one word (R151). -/
def State.regionWord (s : State) (r : Nat) : Nat :=
  s.rdi .LF_REGION_SIZE_SIZE r + s.rdi .LF_REGION_SIZE_V r * 2 ^ 48 + s.rdi .LF_REGION_SIZE_RD r * 2 ^ 49 +
    s.rdi .LF_REGION_SIZE_WR r * 2 ^ 50 + s.rdi .LF_REGION_SIZE_RRD r * 2 ^ 51 + s.rdi .LF_REGION_SIZE_RWR r * 2 ^ 52

/-- Is a write of LF_REGION_BASE[r], or with `size` of LF_REGION_SIZE[r], refused (R139)? -/
def State.regionRefused (s : State) (r : Nat) (size : Bool) (v : Nat) : Bool :=
  let on := s.flag .LF_REGION_SIZE_V r
  !s.allIdle ||
    (if size then
      bit v 48 && (if on then bits v 0 53 != s.regionWord r else !regionOk (s.rdi .LF_REGION_BASE_BASE r) v)
    else on)

/-- LF_REGION_SIZE[r].SIZE written, or kept with the flag where the value is not at least 1 (R151, R358). -/
def State.putRegionSize (s : State) (r n : Nat) : State :=
  if n = 0 then s.wr .LF_STAT_CFG_REFUSED 1 else s.wri .LF_REGION_SIZE_SIZE r n

/-- A write of the region table (R139). A SIZE of 0 and a BASE of space 2 are outside the fields' stated ranges (R151),
and the field keeps its old value (R358). -/
def State.writeRegion (s : State) (r : Nat) (size : Bool) (v : Nat) : State :=
  if s.regionRefused r size v then s.wr .LF_STAT_CFG_REFUSED 1
  else if size then
    (((((s.putRegionSize r (bits v 0 48)).wri .LF_REGION_SIZE_V r (bits v 48 1)).wri .LF_REGION_SIZE_RD r
      (bits v 49 1)).wri .LF_REGION_SIZE_WR r (bits v 50 1)).wri .LF_REGION_SIZE_RRD r (bits v 51 1)).wri
        .LF_REGION_SIZE_RWR r (bits v 52 1)
  else if bits v 62 2 = 2 then s.wr .LF_STAT_CFG_REFUSED 1
  else s.wri .LF_REGION_BASE_BASE r v

/-- REGION_WRITE (R139). -/
def execRegionWrite (r : Fin 4096) (size : Bool) (value : Nat) (s : State) : Host.Outcome State Fault Refusal :=
  if value < 2 ^ 64 then .next (s.byHost fun s => s.writeRegion r size value) else .refused .illFormed

/-! ### One field (R8, R10, R358) -/

/-- Does a value keep the range and the alignment the field's description states (R358)? Fields of registers whose
write has a row of its own are judged there. -/
def fieldOk (f : F) (x : Nat) : Bool :=
  match f with
  | .TH_PART_CFG_ROW_ORG | .TH_PART_CFG_COL_ORG => decide (x ≤ 23)
  | .TH_PART_CFG_HEIGHT | .TH_PART_CFG_WIDTH => decide (1 ≤ x) && decide (x ≤ 24)
  | .EN_Q_PRG_BASE_BASE => x % 4096 == 0
  | .EN_Q_PRG_SIZE_SIZE => x % 16 == 0
  | .GN_REPAIR_CFG_THRESH | .GL_CFG_PACK_TIMEOUT | .PW_ALERT_HOLD_MS | .CK_METER_N_N => x != 0
  | .PS_HEALTH_TIMEOUT_US | .WN_COLL_CFG_TIMEOUT => decide (1 ≤ x) && decide (x ≤ 100000000)
  | .WN_RANK_BASE_BASE => x % 64 == 0
  | .WN_DIG_BASE_BASE => x % 2 ^ 24 == 0
  | .WN_LINK_CFG_MAX_HOPS | .WN_LINK_CFG_REPLAY_US | .WN_LINK_CFG_SW_WIN | .WN_LINK_CFG_HOLD_MS
  | .WN_LINK_CFG_TXN_TIMEOUT => x != 0
  | .PW_LOOP_CFG_GAIN => x != 0
  | .PW_LOOP_CFG_LINK_FLOOR => decide (10 ≤ x) && decide (x ≤ 100)
  | .PW_DROOP_CFG_HOLD => decide (16 ≤ x)
  | .TM_LIMIT_THROTTLE => decide (70 ≤ x) && decide (x ≤ 105)
  | .TM_LIMIT_HBM_THROTTLE => decide (70 ≤ x) && decide (x ≤ 95)
  | .TM_LIMIT_HYST => decide (1 ≤ x) && decide (x ≤ 20)
  | .CK_FAIL_CFG_TIMEOUT_MS => decide (1 ≤ x) && decide (x ≤ 100)
  | .CK_METER_CTL_MEAS | .CK_METER_CTL_GATE => clockCode x
  | .HI_EVT_BASE_BASE => x % 4096 == 0
  | _ => true

/-- The flag a refused write of a register sets, where its description names one. -/
def refusalFlag : Reg → Option F
  | .EN_RNG_SEED_LO | .EN_RNG_SEED_HI => some .EN_STAT_CFG_REFUSED
  | .EN_Q_PRG_BASE | .EN_Q_PRG_SIZE => some .EN_Q_STAT_CFG_REFUSED
  | .GL_CFG => some .GL_STAT_CFG_REFUSED
  | .PS_HEALTH_TIMEOUT => some .PS_STAT_CFG_REFUSED
  | .WN_RANK_BASE | .WN_DIG_BASE | .WN_DIG_CFG | .WN_COLL_CFG => some .WN_COLL_STAT_CFG_REFUSED
  | .WN_ID | .WN_LINK_CFG | .WN_ROUTE => some .WN_STAT_CFG_REFUSED
  | .TM_LIMIT => some .TM_STAT_CFG_REFUSED
  | .CK_FAIL_CFG => some .CK_STAT_BUSY
  | .HI_EVT_BASE => some .HI_STAT_CFG_REFUSED
  | _ => none

/-- A refused write of instance `i` of a register noted. The flag stands in the same instance, where it has several. -/
def State.noteRefused (s : State) (r : Reg) (i : Nat) : State :=
  match refusalFlag r with
  | none => s
  | some f => s.wri f (if f.info.reg.count = 1 then 0 else i) 1

/-- The LOCK bit of a register's block (R8, R10). -/
def lockOf : Reg → Option F
  | .GN_REPAIR_CFG => some .GN_REPAIR_CFG_LOCK
  | .PW_LOOP_CFG => some .PW_LOOP_CFG_LOCK
  | .CK_FAIL_CFG => some .CK_FAIL_CFG_LOCK
  | _ => none

/-- Is a register's block locked? -/
def State.lockedReg (s : State) (r : Reg) : Bool :=
  match lockOf r with
  | none => false
  | some f => s.flag f 0

/-- Value `x` written to a field as if alone (R8, R358); `locked`: the block's LOCK before the write (R10). A field
that acts (SC, WO) has its act in `writeReg`; a 0 written to an SC bit that is still set leaves it set until its action
ends (DESIGN CHOICE, assumption log entry 9). -/
def State.putField (s : State) (locked : Bool) (f : F) (i x : Nat) : State :=
  let set := if fieldOk f x then s.wri f i x else s.noteRefused f.info.reg i
  match f.info.acc with
  | .rw => set
  | .rwl => if locked then s else set
  | .w1c => s.wri f i (s.rdi f i - Nat.land (s.rdi f i) x)
  | .w1s => s.wri f i (Nat.lor (s.rdi f i) x)
  | .ro | .wo | .sc => s

/-- A field's part of a value written to its register. -/
def fieldPart (f : F) (v : Nat) : Nat := bits v f.info.lo f.info.width

/-- The fields of a list written, each as if alone. -/
def State.putFields (s : State) (l : List F) (i v : Nat) : State :=
  l.foldl (fun t f => t.putField (s.lockedReg f.info.reg) f i (fieldPart f v)) s

/-! ### One register -/

/-- The state after a command that is part of a write; a command turned away changes nothing. -/
def after (c : State → Host.Outcome State Fault Refusal) (s : State) : State :=
  match c s with
  | .next t => t
  | _ => s

/-- Does a condition on the whole register refuse its write? -/
def State.regRefused (s : State) (r : Reg) (i : Nat) : Bool :=
  let ports := (List.range 16).any fun p => s.portState p != 0
  match r with
  | .EN_RNG_SEED_LO | .EN_RNG_SEED_HI => !s.allIdle
  | .EN_Q_PRG_BASE | .EN_Q_PRG_SIZE => s.qState i != 0
  | .WN_ID => ports || !s.wainIdle
  | .WN_LINK_CFG => ports
  | .WN_ROUTE | .WN_DIG_BASE | .WN_DIG_CFG => !s.wainIdle
  | .WN_RANK_BASE => s.flag .WN_RANK_CTL_VALID 0 && !s.wainIdle
  | .HI_EVT_BASE => s.flag .HI_EVT_CFG_EN 0
  | _ => false

/-- GN_CFG written (R16, R166, R177): each field that would change asks for its change. -/
def State.writeGnCfg (s : State) (v : Nat) : State :=
  let s := if bits v 0 1 = s.rd .GN_CFG_INTERLEAVE ∧ ¬ s.modeBusy (.interleave 0) then s
    else after (execInterleaveChange (Fin.ofNat 2 v)) s
  if bits v 1 2 = s.rd .GN_CFG_SCRUB ∧ ¬ s.modeBusy (.scrub 0) then s else s.askScrub (bits v 1 2)

/-- PS_CFG written (R16, R211): EN where it would change, and CTL_T, refused while an epoch is live. -/
def State.writePsCfg (s : State) (v : Nat) : State :=
  let s := if bits v 0 1 = s.rd .PS_CFG_EN ∧ ¬ s.modeBusy (.provisional true) then s else after (execPsCfgEn (bit v 0)) s
  if s.liveEpochs.isEmpty then s.wr .PS_CFG_CTL_T (bits v 1 3) else s.wr .PS_STAT_CFG_REFUSED 1

/-- WN_PORT_CTL[p] written (R236, R238, R253, R254): FRAMING where it would change, judged against EN before the write;
then the lanes, the wake fields, the wake pattern, and EN. -/
def State.writePortCtl (s : State) (p v : Nat) : State :=
  let n := Fin.ofNat 16 p
  let s := if bits v 1 1 = s.rdi .WN_PORT_CTL_FRAMING p ∧ ¬ s.modeBusy (.framing p 0) then s else after (execFramingWrite n (Fin.ofNat 2 (v / 2))) s
  let s := s.putFields [.WN_PORT_CTL_TX_INV, .WN_PORT_CTL_WAKE_EN, .WN_PORT_CTL_WAKE_ENERGY] p v
  let s := if bit v 8 then after (execWakeSend n) s else s
  if bit v 0 then after (execPortEnable n) s
  else if s.flag .WN_PORT_CTL_EN p || s.portState p != 0 then after (execPortDisable n) s else s

/-- PW_STATE.REQ written (R260, R261, R279). -/
def State.writePwState (s : State) (v : Nat) : State :=
  match bits v 0 2 with
  | 1 => after execEnterIdle s
  | 2 => after execEnterDormant s
  | 3 => s.leaveIdle
  | _ => s

/-- CK_METER_CTL[m] written (R289, R296). -/
def State.writeMeter (s : State) (m v : Nat) : State :=
  if m = 0 then s.wr .CK_STAT_BUSY 1
  else if bit v 14 then after (execMeterGo (Fin.ofNat 3 m) (Fin.ofNat 64 v) (Fin.ofNat 64 (v / 2 ^ 8))) s
  else s.putFields [.CK_METER_CTL_MEAS, .CK_METER_CTL_GATE] m v

/-- TL_HOST_CTL written (R121, R130): OP, the acknowledged REFUSED, and under GO the operation of TL_HOST_OP. -/
def State.writeHostCtl (s : State) (v : Nat) : State :=
  let s := s.putFields Reg.TL_HOST_CTL.fields 0 v
  if bit v 1 then
    let u : Fin 65536 := Fin.ofNat 65536 (s.rd .TL_HOST_OP_TALLY)
    let n := s.rd .TL_HOST_OP_COUNT
    after (if bit v 0 then execHostArm u n else execHostSignal u n) s
  else s

/-- Value `v` written to instance `i` of a register, as its description says; the fields that need no more are written
field by field. -/
def State.writeReg (s : State) (r : Reg) (i v : Nat) : State :=
  let t := Fin.ofNat 8 i
  let put := s.putFields r.fields i v
  if s.regRefused r i then s.noteRefused r i
  else
    match r with
    | .TH_ORG => if bit v 1 then after (execThOrgCommit t (Fin.ofNat 2 v)) put else put
    | .TH_PART_CTL =>
      if bit v 0 then after (execThPartClear (Fin.ofNat 8 (i / 576)) (Fin.ofNat 576 i)) s else s
    | .TN_CTL =>
      let s := if bits v 0 1 = s.rdi .TN_CTL_DISABLE i then s else after (execTnDisable t (bit v 0)) s
      if bit v 1 then after (execTnTest t) s else s
    | .EN_CONTRACT => s.writeContract (bits v 0 16)
    | .EN_Q_CTL =>
      let q := Fin.ofNat 52 i
      let s := if bit v 0 then after (execQueueStop q) s else s
      if bit v 1 then after (execQueueClear q) s else s
    | .TL_STAT => if bit v 0 then put.wr .TL_OVF_FIRST_VALID 0 else put
    | .TL_HOST_CTL => s.writeHostCtl v
    | .TL_WDOG => after (execTlWdogWrite (Fin.ofNat 52 i) v) s
    | .TL_ALLOC => after (execTlAllocWrite (Fin.ofNat 2048 i) v) s
    | .LF_REGION_BASE => s.writeRegion i false v
    | .LF_REGION_SIZE => s.writeRegion i true v
    | .GN_CFG => s.writeGnCfg v
    | .GN_RLIST_ENTRY => after (execRlistEntry v) s
    | .GN_REPAIR_POP => if bit v 0 then after execRepairPop put else put
    | .PS_CFG => s.writePsCfg v
    | .PS_VREG_A => s.writeVreg i .a v
    | .PS_VREG_B => s.writeVreg i .b v
    | .PS_VREG_CFG => s.writeVreg i .cfg v
    | .WN_RANK_CTL => if bit v 0 then s.commitRanks else s
    | .WN_PORT_CTL => s.writePortCtl i v
    | .WN_PORT_BUDGET => after (execPortBudgetWrite (Fin.ofNat 16 i) v) s
    | .PW_PROFILE => s.writeProfile v
    | .PW_CAP => s.writeCap v
    | .PW_PSTATE => put.notePin
    | .PW_LOOP_CFG => put.clampLinks
    | .PW_PRIO => after (execPwPrioWrite v) s
    | .PW_STATE => s.writePwState v
    | .PW_DOM => after (execPwDomWrite (Fin.ofNat 20 i) (bit v 0)) (s.putFields [.PW_DOM_REFUSED] i v)
    | .CK_SNAP => if bit v 0 then after execCkSnap s else s
    | .CK_METER_CTL => s.writeMeter i v
    | .CK_METER_N => if i = 0 then s.wr .CK_STAT_BUSY 1 else put
    | .CK_ISL_CTL => after (execCkIslSrcWrite (Fin.ofNat 43 i) (Fin.ofNat 4 v)) s
    | .ER_RESET => after (execErResetKey (bits v 0 16)) s
    | .ER_SERVICE => if bit v 3 then after execReqFull put else put
    | .ER_LOG_POP => if bit v 0 then after execLogPop s else s
    | .ER_GPIO => s.hostPin i v
    | .HI_MWIN_OFFSET => after (execMwinOffsetWrite v) s
    | .HI_FW_CTL => if bit v 31 then after (execFwGo (bits v 0 24)) s else put
    | .HI_EVT_CFG => after (execEvtCfgWrite v) s
    | .HI_EVT_HEAD => after (execEvtHeadWrite v) s
    | .MC_MBX_CTL => if bit v 0 then put.sendMbx else put
    | .MC_MBX_POP => if bit v 0 then after execMbxPop put else put
    | _ => put

/-! ### One access (R7, R11, R12, R321) -/

/-- The bits a register shows where a half of it is not written: what it holds in its RW and RWL fields, and 0, which
does nothing, in the others (R7, R8). -/
def State.keptWord (s : State) (r : Reg) (i : Nat) : Nat :=
  (r.fields.map fun f => if f.info.acc = .rw ∨ f.info.acc = .rwl then s.rdi f i * 2 ^ f.info.lo else 0).sum

/-- Has an access to byte `b` of a register a size and alignment it acts on (R321)? -/
def fits (r : Reg) (b : Nat) (wide : Bool) : Bool := if wide then r.info.wide && b == 0 else b == 0 || b == 4

/-- Is a write to byte `b` of a register one that acts (R321)? GN_RLIST_ENTRY takes only whole writes (R177). -/
def accessOk (r : Reg) (b : Nat) (wide : Bool) : Bool := fits r b wide && (wide || r != .GN_RLIST_ENTRY)

/-- Does an access of `n` bytes at window offset `o` touch a register? -/
def touchesReg (o n : Nat) : Bool := (List.range n).any fun k => (regAt (o + k)).isSome

/-- An access to a register at `o` (R12, R257, R321). -/
def State.writeAccess (s : State) (o : Nat) (wide : Bool) (v : Nat) : State :=
  match regAt o with
  | some (r, i, b) =>
    if !accessOk r b wide then (if r = .GN_RLIST_ENTRY ∧ o % 4 = 0 ∧ ¬ wide then s else s.wr .HI_STAT_BAD_ACCESS 1)
    else if (regDomain r i).any s.domainOff then s
    else if r.info.wide ∧ ¬ wide then s.writeReg r i (setBits (s.keptWord r i) (8 * b) 32 v)
    else s.writeReg r i v
  | none => if touchesReg o (if wide then 8 else 4) then s.wr .HI_STAT_BAD_ACCESS 1 else s

/-- A vector that is no longer masked sends its pending message (R324). -/
def State.sendPending (s : State) : State :=
  (List.range 64).foldl
    (fun s v =>
      if bit s.host.pba v && !s.masked v then
        let h : HostIf := { s.host with pba := setBits s.host.pba v 1 0 }
        ({ s with host := h } : State).emit (.msix v)
      else s)
    s

/-- An aligned write to the MSI-X table, at byte `o` of it (PRESUMED, assumption log entry 4). -/
def State.writeMsix (s : State) (o : Nat) (wide : Bool) (v : Nat) : State :=
  let put (t : List (Nat × Nat)) (n x : Nat) : List (Nat × Nat) :=
    Tbl.set (msixReset n) t n (if n % 4 = 3 then x % 2 else x)
  let t := put s.host.msix (o / 4) (v % 2 ^ 32)
  let t := if wide then put t (o / 4 + 1) (v / 2 ^ 32) else t
  ({ s with host := { s.host with msix := t } } : State).sendPending

/-- REGISTER_WRITE (R358): an access of 4 or 8 bytes at an offset of the control window. -/
def execRegisterWrite (offset : Nat) (wide : Bool) (value : Nat) (s : State) : Host.Outcome State Fault Refusal :=
  if offset < 2 ^ 27 ∧ value < (if wide then 2 ^ 64 else 2 ^ 32) then
    let n := if wide then 8 else 4
    .next (s.byHost fun s =>
      if 0x1000000 ≤ offset ∧ offset + n ≤ 0x1800000 then
        after (execStagingWrite (offset - 0x1000000) (leBytes n value)) s
      else if 0x7FF0000 ≤ offset ∧ offset + n ≤ 0x7FF0400 then
        (if offset % n = 0 then s.writeMsix (offset - 0x7FF0000) wide value else s)
      else s.writeAccess offset wide value)
  else .refused .illFormed

end Sys2Proof.Machine
end

