-- ==== Sys2Proof/Machine/Modes.lean ====
section
/-! DEFINITION. Accepted mode changes as they take effect, one at a time (R16 to R18), and the events that end one or let
go on what waits for memory: the interleave switch, the end of a scrubbed sector, a period of the cap loop, a switch of an
island, a PLL lock, a domain switch (R17, R166, R263, R286, R293, R257). -/

namespace Sys2Proof.Machine

/-- What waits for memory is served: held accesses in their order, then instructions in progress. -/
def State.serveWaiting (s : State) : State := s.serveAccesses.resume

/-! ### Mode changes (R16 to R18) -/

/-- A mode change takes effect. -/
def State.applyMode (s : State) (m : ModeChange) : State :=
  match m with
  | .organisation t mode es => s.applyOrg t mode es
  | .interleave mode => s.wr .GN_CFG_INTERLEAVE mode
  | .scrub mode => s.wr .GN_CFG_SCRUB mode
  | .profile p => s.applyProfile p
  | .framing p framing => s.setFraming p framing
  | .provisional on => s.wr .PS_CFG_EN (b2n on)
  | .service => s.setService 3

/-- Accepted changes take effect in turn, up to the first that needs time: an interleave change until its switch (R17), a
scrub change until the end of the sector being scrubbed (R166), a profile until the cap loop's next period (R16). -/
def startModes : List ModeChange → State → State
  | [], s => { s with modes := [] }
  | m :: r, s =>
    match m with
    | .interleave _ => { s with modes := m :: r }
    | .profile p => { s.applyProfile p with modes := m :: r }
    | .scrub mode => if s.scrubRuns then { s with modes := m :: r } else startModes r (s.applyMode (.scrub mode))
    | m => startModes r (s.applyMode m)

/-- The change in progress is done; the next ones follow. -/
def State.modeDone (s : State) : State := startModes (s.modes.drop 1) s

/-- INTERLEAVE_SWITCH (R17): the mapping switches, and the held accesses are served in their order. -/
def execInterleaveSwitch (s : State) : Host.Outcome State Fault Refusal :=
  .next (
    match s.modes with
    | .interleave mode :: _ => (s.applyMode (.interleave mode)).modeDone.serveWaiting
    | _ => s)

/-- Is stack `k` being scrubbed: online, out of self-refresh, patrol scrub on (R166, R283)? -/
def State.scrubs (s : State) (k : Nat) : Bool := s.online k && s.rd .GN_CFG_SCRUB != 0 && !s.gran.asleep.contains k

/-- SCRUB_SECTOR (R166): the sector that stack `k` stands at is read, its halves with what is found there; an accepted
change of the scrub mode takes effect at its end. -/
def execScrubSector (k : Fin 24) (found : SectorFinding) (s : State) : Host.Outcome State Fault Refusal :=
  .next (
    let t := if s.scrubs k then s.scrubAt k found else s
    match t.modes with
    | .scrub mode :: _ => if s.scrubs k || !s.scrubRuns then (t.applyMode (.scrub mode)).modeDone else t
    | _ => t)

/-- CAP_LOOP_PERIOD (R263 to R267, R273, R277): a profile that was taking effect is in force. -/
def execCapLoopPeriod (meas : List Nat) (s : State) : Host.Outcome State Fault Refusal :=
  if meas.length = 21 then
    .next (
      if s.boot.phase = .off then s
      else
        let s := s.capPeriod meas
        match s.modes with
        | .profile _ :: _ => s.modeDone
        | _ => s)
  else .refused .illFormed

/-! ### Clocks and domains -/

/-- ISLAND_SWITCH (R286): the switch to the source host software chose is done. -/
def execIslandSwitch (i : Fin 43) (s : State) : Host.Outcome State Fault Refusal :=
  .next (
    if s.flag .CK_ISL_STAT_SWITCHING i then (s.moveIsland i (s.rdi .CK_ISL_CTL_SRC i)).serveWaiting else s)

/-- PLL_LOCK (R281, R293): the islands return to their sources; a Floor state that was held is entered (R292). -/
def execPllLock (s : State) : Host.Outcome State Fault Refusal :=
  .next (
    if s.pllDue then
      let s := s.restoreClocks
      (if s.floorOn then s.enterFloor else s).serveWaiting
    else s)

/-- DOMAIN_SWITCHED (R256, R257): the switch a write of OFF began is done. In Dormant and after a thermal trip all
domains stay off until a reset (R261, R276). What waited for a stack of the domain is served as R257 says. -/
def execDomainSwitched (d : Fin 20) (s : State) : Host.Outcome State Fault Refusal :=
  .next (
    if s.power.dormant ∨ s.power.tripOff ∨ s.flag .PW_DOM_OFF d = s.domainOff d then s
    else if s.flag .PW_DOM_OFF d then (s.switchOff d).serveWaiting
    else s.switchOn d)

end Sys2Proof.Machine
end

