-- ==== Sys2Proof/Machine/Dispatch.lean ====
section
/-! DEFINITION. One arm per command: a direct call of its meaning. -/

namespace Sys2Proof.Machine

/-- The effect of a command on everything but the queue. -/
def exec (i : Instr) (s : State) : Host.Outcome State Fault Refusal :=
  match i with
  | .nop q => Sys2Proof.Machine.execNop q s
  | .endStream q => Sys2Proof.Machine.execEndStream q s
  | .sync q => Sys2Proof.Machine.execSync q s
  | .notify q => Sys2Proof.Machine.execNotify q s
  | .loop q => Sys2Proof.Machine.execLoop q s
  | .br q => Sys2Proof.Machine.execBr q s
  | .brc q => Sys2Proof.Machine.execBrc q s
  | .ldc q => Sys2Proof.Machine.execLdc q s
  | .tlSignal q => Sys2Proof.Machine.execTlSignal q s
  | .tlWait q => Sys2Proof.Machine.execTlWait q s
  | .tlArm q => Sys2Proof.Machine.execTlArm q s
  | .tlRead q => Sys2Proof.Machine.execTlRead q s
  | .launch t => Sys2Proof.Machine.execLaunch t s
  | .pstepOpen t => Sys2Proof.Machine.execPstepOpen t s
  | .pstepConfirm t => Sys2Proof.Machine.execPstepConfirm t s
  | .pstepSquash t => Sys2Proof.Machine.execPstepSquash t s
  | .feFeed t => Sys2Proof.Machine.execFeFeed t s
  | .turnHoldFeed t => Sys2Proof.Machine.execTurnHoldFeed t s
  | .turnFreeFeed t => Sys2Proof.Machine.execTurnFreeFeed t s
  | .weLoad t => Sys2Proof.Machine.execWeLoad t s
  | .turnHoldWeight t => Sys2Proof.Machine.execTurnHoldWeight t s
  | .turnFreeWeight t => Sys2Proof.Machine.execTurnFreeWeight t s
  | .deDrain t => Sys2Proof.Machine.execDeDrain t s
  | .vAdd t => Sys2Proof.Machine.execVAdd t s
  | .vSub t => Sys2Proof.Machine.execVSub t s
  | .vMul t => Sys2Proof.Machine.execVMul t s
  | .vFma t => Sys2Proof.Machine.execVFma t s
  | .vMin t => Sys2Proof.Machine.execVMin t s
  | .vMax t => Sys2Proof.Machine.execVMax t s
  | .vDiv t => Sys2Proof.Machine.execVDiv t s
  | .vRcp t => Sys2Proof.Machine.execVRcp t s
  | .vSqrt t => Sys2Proof.Machine.execVSqrt t s
  | .vRsqrt t => Sys2Proof.Machine.execVRsqrt t s
  | .vExp2 t => Sys2Proof.Machine.execVExp2 t s
  | .vLog2 t => Sys2Proof.Machine.execVLog2 t s
  | .vTanh t => Sys2Proof.Machine.execVTanh t s
  | .vErf t => Sys2Proof.Machine.execVErf t s
  | .vAbs t => Sys2Proof.Machine.execVAbs t s
  | .vCvt t => Sys2Proof.Machine.execVCvt t s
  | .vRsum t => Sys2Proof.Machine.execVRsum t s
  | .vRmax t => Sys2Proof.Machine.execVRmax t s
  | .vRmin t => Sys2Proof.Machine.execVRmin t s
  | .ceCopy t => Sys2Proof.Machine.execCeCopy t s
  | .ceFill t => Sys2Proof.Machine.execCeFill t s
  | .wnGather b => Sys2Proof.Machine.execWnGather b s
  | .wnRscat b => Sys2Proof.Machine.execWnRscat b s
  | .wnHealth b => Sys2Proof.Machine.execWnHealth b s
  | .instructionCompletion q id => Sys2Proof.Machine.execInstructionCompletion q id s
  | .signalRelease q id => Sys2Proof.Machine.execSignalRelease q id s
  | .flushCompletion q copy ok => Sys2Proof.Machine.execFlushCompletion q copy ok s
  | .flushTimeout q copy => Sys2Proof.Machine.execFlushTimeout q copy s
  | .fetch q => Sys2Proof.Machine.execFetch q s
  | .swap t part => Sys2Proof.Machine.execSwap t part s
  | .partitionFault t part cause => Sys2Proof.Machine.execPartitionFault t part cause s
  | .partStall t part => Sys2Proof.Machine.execPartStall t part s
  | .thOrgCommit t mode => Sys2Proof.Machine.execThOrgCommit t mode s
  | .thPartClear t part => Sys2Proof.Machine.execThPartClear t part s
  | .tnDisable t disable => Sys2Proof.Machine.execTnDisable t disable s
  | .tnTest t => Sys2Proof.Machine.execTnTest t s
  | .turnerTestDone t pass => Sys2Proof.Machine.execTurnerTestDone t pass s
  | .enContractWrite version => Sys2Proof.Machine.execEnContractWrite version s
  | .queueStop q => Sys2Proof.Machine.execQueueStop q s
  | .queueClear q => Sys2Proof.Machine.execQueueClear q s
  | .queueQuiesced q => Sys2Proof.Machine.execQueueQuiesced q s
  | .queueDoorbell q value => Sys2Proof.Machine.execQueueDoorbell q value s
  | .groupDoorbell value => Sys2Proof.Machine.execGroupDoorbell value s
  | .tlAllocWrite w value => Sys2Proof.Machine.execTlAllocWrite w value s
  | .hostSignal tally count => Sys2Proof.Machine.execHostSignal tally count s
  | .hostArm tally count => Sys2Proof.Machine.execHostArm tally count s
  | .tlWdogWrite q value => Sys2Proof.Machine.execTlWdogWrite q value s
  | .waitTimeout q => Sys2Proof.Machine.execWaitTimeout q s
  | .regionWrite r size value => Sys2Proof.Machine.execRegionWrite r size value s
  | .interleaveChange mode => Sys2Proof.Machine.execInterleaveChange mode s
  | .interleaveSwitch => Sys2Proof.Machine.execInterleaveSwitch s
  | .scrubChange mode => Sys2Proof.Machine.execScrubChange mode s
  | .scrubSector k found => Sys2Proof.Machine.execScrubSector k found s
  | .rlistEntry record => Sys2Proof.Machine.execRlistEntry record s
  | .repairPop => Sys2Proof.Machine.execRepairPop s
  | .repairRequest k pch bank row => Sys2Proof.Machine.execRepairRequest k pch bank row s
  | .quietPoint => Sys2Proof.Machine.execQuietPoint s
  | .packTimeout q k => Sys2Proof.Machine.execPackTimeout q k s
  | .channelRetrain k ch ok => Sys2Proof.Machine.execChannelRetrain k ch ok s
  | .stackFail k reason ch => Sys2Proof.Machine.execStackFail k reason ch s
  | .stackTraining k => Sys2Proof.Machine.execStackTraining k s
  | .psVregWrite v which value => Sys2Proof.Machine.execPsVregWrite v which value s
  | .psCfgEn en => Sys2Proof.Machine.execPsCfgEn en s
  | .squashRestore => Sys2Proof.Machine.execSquashRestore s
  | .epochFold => Sys2Proof.Machine.execEpochFold s
  | .healthTimeout b id => Sys2Proof.Machine.execHealthTimeout b id s
  | .rankCommit => Sys2Proof.Machine.execRankCommit s
  | .collTimeout b id => Sys2Proof.Machine.execCollTimeout b id s
  | .wr p f => Sys2Proof.Machine.execWr p f s
  | .rdReq p f => Sys2Proof.Machine.execRdReq p f s
  | .rdCpl p f => Sys2Proof.Machine.execRdCpl p f s
  | .ack p f => Sys2Proof.Machine.execAck p f s
  | .tlSig p f => Sys2Proof.Machine.execTlSig p f s
  | .tlAck p f => Sys2Proof.Machine.execTlAck p f s
  | .ring p f => Sys2Proof.Machine.execRing p f s
  | .ringAck p f => Sys2Proof.Machine.execRingAck p f s
  | .health p f => Sys2Proof.Machine.execHealth p f s
  | .refuse p f => Sys2Proof.Machine.execRefuse p f s
  | .linkControl p peer lh => Sys2Proof.Machine.execLinkControl p peer lh s
  | .linkControlTimer p peer => Sys2Proof.Machine.execLinkControlTimer p peer s
  | .replayTimeout p peer => Sys2Proof.Machine.execReplayTimeout p peer s
  | .linkHoldExpiry p peer => Sys2Proof.Machine.execLinkHoldExpiry p peer s
  | .txnTimeout b tag => Sys2Proof.Machine.execTxnTimeout b tag s
  | .portEnable p => Sys2Proof.Machine.execPortEnable p s
  | .portQualify p cmis => Sys2Proof.Machine.execPortQualify p cmis s
  | .portUp p => Sys2Proof.Machine.execPortUp p s
  | .trainFail p => Sys2Proof.Machine.execTrainFail p s
  | .portDisable p => Sys2Proof.Machine.execPortDisable p s
  | .pluggableRemoved p => Sys2Proof.Machine.execPluggableRemoved p s
  | .portBudgetWrite p value => Sys2Proof.Machine.execPortBudgetWrite p value s
  | .framingWrite p framing => Sys2Proof.Machine.execFramingWrite p framing s
  | .portRetrain p => Sys2Proof.Machine.execPortRetrain p s
  | .wakeSend p => Sys2Proof.Machine.execWakeSend p s
  | .pwDomWrite d off => Sys2Proof.Machine.execPwDomWrite d off s
  | .domainSwitched d => Sys2Proof.Machine.execDomainSwitched d s
  | .enterIdle => Sys2Proof.Machine.execEnterIdle s
  | .leaveIdle access => Sys2Proof.Machine.execLeaveIdle access s
  | .enterDormant => Sys2Proof.Machine.execEnterDormant s
  | .wake seen => Sys2Proof.Machine.execWake seen s
  | .pwProfileWrite value => Sys2Proof.Machine.execPwProfileWrite value s
  | .pwCapWrite value => Sys2Proof.Machine.execPwCapWrite value s
  | .pwPrioWrite value => Sys2Proof.Machine.execPwPrioWrite value s
  | .capLoopPeriod meas => Sys2Proof.Machine.execCapLoopPeriod meas s
  | .autoPstateStep t => Sys2Proof.Machine.execAutoPstateStep t s
  | .pstateChange t => Sys2Proof.Machine.execPstateChange t s
  | .calibrationTick gains => Sys2Proof.Machine.execCalibrationTick gains s
  | .droop t => Sys2Proof.Machine.execDroop t s
  | .droopHoldExpiry t => Sys2Proof.Machine.execDroopHoldExpiry t s
  | .pwAlertAssert => Sys2Proof.Machine.execPwAlertAssert s
  | .floorHoldExpiry => Sys2Proof.Machine.execFloorHoldExpiry s
  | .floorReturnStep => Sys2Proof.Machine.execFloorReturnStep s
  | .sensorSample k temp ok => Sys2Proof.Machine.execSensorSample k temp ok s
  | .throttleStep t => Sys2Proof.Machine.execThrottleStep t s
  | .thermtrip k => Sys2Proof.Machine.execThermtrip k s
  | .ckIslSrcWrite k src => Sys2Proof.Machine.execCkIslSrcWrite k src s
  | .islandSwitch k => Sys2Proof.Machine.execIslandSwitch k s
  | .meterGo m meas gate => Sys2Proof.Machine.execMeterGo m meas gate s
  | .meterDone m count => Sys2Proof.Machine.execMeterDone m count s
  | .noGate m => Sys2Proof.Machine.execNoGate m s
  | .monitorWindow count => Sys2Proof.Machine.execMonitorWindow count s
  | .pllLock => Sys2Proof.Machine.execPllLock s
  | .clkTimeout => Sys2Proof.Machine.execClkTimeout s
  | .ckSnap => Sys2Proof.Machine.execCkSnap s
  | .powerOn => Sys2Proof.Machine.execPowerOn s
  | .powerLoss => Sys2Proof.Machine.execPowerLoss s
  | .perstAssert => Sys2Proof.Machine.execPerstAssert s
  | .perstRelease => Sys2Proof.Machine.execPerstRelease s
  | .hotReset cause => Sys2Proof.Machine.execHotReset cause s
  | .flr => Sys2Proof.Machine.execFlr s
  | .erResetKey key => Sys2Proof.Machine.execErResetKey key s
  | .bootRom => Sys2Proof.Machine.execBootRom s
  | .stagingWrite offset data => Sys2Proof.Machine.execStagingWrite offset data s
  | .fwGo length => Sys2Proof.Machine.execFwGo length s
  | .fwVerifyDone => Sys2Proof.Machine.execFwVerifyDone s
  | .fruRead rec => Sys2Proof.Machine.execFruRead rec s
  | .listDone => Sys2Proof.Machine.execListDone s
  | .bistDone b arrays turners => Sys2Proof.Machine.execBistDone b arrays turners s
  | .reduced => Sys2Proof.Machine.execReduced s
  | .bringupComplete => Sys2Proof.Machine.execBringupComplete s
  | .reqFull => Sys2Proof.Machine.execReqFull s
  | .bayFault b cause => Sys2Proof.Machine.execBayFault b cause s
  | .moduleFatal cause => Sys2Proof.Machine.execModuleFatal cause s
  | .mcWdog => Sys2Proof.Machine.execMcWdog s
  | .meshLinkRetrain b ok => Sys2Proof.Machine.execMeshLinkRetrain b ok s
  | .logPop => Sys2Proof.Machine.execLogPop s
  | .gpioWrite n value => Sys2Proof.Machine.execGpioWrite n value s
  | .attentionEdge n => Sys2Proof.Machine.execAttentionEdge n s
  | .memoryWindowRead addr len => Sys2Proof.Machine.execMemoryWindowRead addr len s
  | .memoryWindowWrite addr data ep => Sys2Proof.Machine.execMemoryWindowWrite addr data ep s
  | .mwinOffsetWrite value => Sys2Proof.Machine.execMwinOffsetWrite value s
  | .barResize log2 => Sys2Proof.Machine.execBarResize log2 s
  | .eventRelease => Sys2Proof.Machine.execEventRelease s
  | .evtHeadWrite value => Sys2Proof.Machine.execEvtHeadWrite value s
  | .evtCfgWrite value => Sys2Proof.Machine.execEvtCfgWrite value s
  | .getVersion => Sys2Proof.Machine.execGetVersion s
  | .harden => Sys2Proof.Machine.execHarden s
  | .retrainStack => Sys2Proof.Machine.execRetrainStack s
  | .retrainPort => Sys2Proof.Machine.execRetrainPort s
  | .calibrate => Sys2Proof.Machine.execCalibrate s
  | .raiseSvn => Sys2Proof.Machine.execRaiseSvn s
  | .revokeKey => Sys2Proof.Machine.execRevokeKey s
  | .rereadFru => Sys2Proof.Machine.execRereadFru s
  | .mailboxDone tag ok => Sys2Proof.Machine.execMailboxDone tag ok s
  | .mbxPop => Sys2Proof.Machine.execMbxPop s
  | .getState => Sys2Proof.Machine.execGetState s
  | .setProfile value => Sys2Proof.Machine.execSetProfile value s
  | .setCap value => Sys2Proof.Machine.execSetCap value s
  | .setScrub value => Sys2Proof.Machine.execSetScrub value s
  | .dormant => Sys2Proof.Machine.execDormant s
  | .sidebandWake => Sys2Proof.Machine.execSidebandWake s
  | .softReset key => Sys2Proof.Machine.execSoftReset key s
  | .gpio n act => Sys2Proof.Machine.execGpio n act s
  | .alertAck mask => Sys2Proof.Machine.execAlertAck mask s
  | .setEndpointId eid => Sys2Proof.Machine.execSetEndpointId eid s
  | .getPdr => Sys2Proof.Machine.execGetPdr s
  | .getSensorReading id => Sys2Proof.Machine.execGetSensorReading id s
  | .getStateSensorReadings id => Sys2Proof.Machine.execGetStateSensorReadings id s
  | .pollForPlatformEventMessage => Sys2Proof.Machine.execPollForPlatformEventMessage s
  | .sensorRefresh => Sys2Proof.Machine.execSensorRefresh s
  | .spdmGetVersion => Sys2Proof.Machine.execSpdmGetVersion s
  | .getCapabilities => Sys2Proof.Machine.execGetCapabilities s
  | .negotiateAlgorithms asym hash => Sys2Proof.Machine.execNegotiateAlgorithms asym hash s
  | .getDigests => Sys2Proof.Machine.execGetDigests s
  | .getCertificate offset len => Sys2Proof.Machine.execGetCertificate offset len s
  | .challenge nonce => Sys2Proof.Machine.execChallenge nonce s
  | .getMeasurements index nonce => Sys2Proof.Machine.execGetMeasurements index nonce s
  | .registerWrite offset wide value => Sys2Proof.Machine.execRegisterWrite offset wide value s
  | .badCrcOrGap p peer bad => Sys2Proof.Machine.execBadCrcOrGap p peer bad s
  | .pwAlertRelease => Sys2Proof.Machine.execPwAlertRelease s

end Sys2Proof.Machine
end

