-- ==== Sys2Proof/Machine/Readout.lean ====
section
/-! DEFINITION. What a read of a register or of a window offset returns (R7, R8, R11, R12, R257, R321): the values fields
hold, and those of the status fields that show what stands behind the registers; and which outputs float (R258). No
command of the table reads a register or a pin; this is what a reader of the state sees. -/

namespace Sys2Proof.Machine

/-- The value instance `i` of a field shows. TL_WAIT says what a queue in STATE 2 waits for; in another STATE it shows 0
(DESIGN CHOICE, assumption log entry 105). -/
def State.shown (s : State) (f : F) (i : Nat) : Nat :=
  match f with
  | .TN_STAT_AVAIL => b2n (s.turnerAvail i)
  | .TN_STAT_REASON => s.turnerReason i
  | .EN_STAT_ALL_IDLE => b2n s.allIdle
  | .EN_Q_PC_PC => if s.qState i = 0 then (s.queue i).last else s.rdi .EN_Q_PC_PC i
  | .TL_WAIT_TALLY => if s.qState i = 2 then ((s.queue i).wait.map HeadWait.tally).getD 0 else 0
  | .TL_WAIT_NEED => if s.qState i = 2 then ((s.queue i).wait.map HeadWait.need).getD 0 else 0
  | .CK_ISL_STAT_OWNER => s.islandOwner i
  | .GN_REPAIR_EVT_RECORD => s.gran.records.headD 0
  | .GN_REPAIR_POP_VALID => b2n !s.gran.records.isEmpty
  | .ER_LOG_STAT_UNREAD => s.log.length
  | .ER_LOG_DATA_DATA =>
    match s.log with
    | [] => 0
    | r :: _ => r.words.getD i 0
  | .MC_MBX_DONE_RECORD => s.mailbox.records.headD 0
  | .MC_MBX_POP_VALID => b2n !s.mailbox.records.isEmpty
  | f => if f.info.acc = .wo then 0 else s.rdi f i

/-- What a read of instance `i` of a register returns: zero for a unit whose domain is off (R257), in every reserved bit
(R11), and for an instance out of range (R12). -/
def State.readReg (s : State) (r : Reg) (i : Nat) : Nat :=
  if r.count ≤ i ∨ (regDomain r i).any s.domainOff then 0
  else (r.fields.map fun f => s.shown f i * 2 ^ f.info.lo).sum

/-- A word of the MSI-X table (R324; PRESUMED, assumption log entry 4). -/
def State.msixWord (s : State) (n : Nat) : Nat := Tbl.get (msixReset n) s.host.msix n

/-- What a read of 4 or 8 bytes at an offset of the control window returns, and the state it leaves (R11, R12, R320,
R321): a register or half of one; the MSI-X table and pending bits; zero at every reserved offset and in the staging
aperture. An access to a register of the wrong size or alignment reads zero and is noted. -/
def State.readAccess (s : State) (o : Nat) (wide : Bool) : Nat × State :=
  let n := if wide then 8 else 4
  if 0x7FF0000 ≤ o ∧ o + n ≤ 0x7FF0400 ∧ o % n = 0 then
    let w := (o - 0x7FF0000) / 4
    (s.msixWord w + (if wide then s.msixWord (w + 1) * 2 ^ 32 else 0), s)
  else if 0x7FF8000 ≤ o ∧ o + n ≤ 0x7FF8008 ∧ o % n = 0 then (bits s.host.pba (8 * (o - 0x7FF8000)) (8 * n), s)
  else
    match regAt o with
    | some (r, i, b) =>
      if fits r b wide then (bits (s.readReg r i) (8 * b) (8 * n), s) else (0, s.wr .HI_STAT_BAD_ACCESS 1)
    | none => (0, if touchesReg o n then s.wr .HI_STAT_BAD_ACCESS 1 else s)

/-! ### Outputs (R258) -/

/-- Does an output float: that of a domain that is off; the open-drain outputs of AO while deasserted; a sideband pin with
function 0, 1 or 4 (R315)? -/
def State.floats (s : State) (x : EdgeOutput) : Bool :=
  x.domain.any s.domainOff ||
    (match x with
      | .sbAlert => !s.alertDriven
      | .thermtrip => !s.power.tripPin
      | .gpio n => [0, 1, 4].contains (s.rdi .ER_GPIO_FN n)
      | _ => false)

end Sys2Proof.Machine
end

