-- ==== Sys2Proof/Safety.lean ====
section
/-! DEFINITION. What claims call a safe step, and the invariant every step keeps: memory and the register table stay in
their canonical form, every register field holds its reset value or one its description allows, and what the fuses
hold never changes. -/

namespace Sys2Proof.Machine

/-- The step of `s` answers a next state. -/
def State.stepsOn (s : State) : Prop := ∃ s', step s = .next s'

/-- `t` is `s` with other values only in the register fields of the list, each given with the number of its register. -/
def State.onlyRegs (s t : State) (l : List (F × Nat)) : Prop :=
  t = { s with regs := t.regs } ∧ ∀ f k, (f, k) ∉ l → t.rdi f k = s.rdi f k

/-- `t` is what a reset leaves of `s` (R24, R297): held in reset for the causes `cs`, every register at its reset value
but for the fields that stay, memory and queues empty, the log empty, the fuses and the waiting commands as they were.
TM_STAT.TRIPPED goes on to show the THERMTRIP_N pin. -/
structure State.ResetFrom (s t : State) (keep : List F) (cs : List Nat) : Prop where
  phase : t.boot.phase = .held
  causes : t.boot.causes = cs
  kept : ∀ f k, f ∈ keep → t.rdi f k = s.rdi f k
  cleared : ∀ f k, f ∉ keep → f ≠ .TM_STAT_TRIPPED → t.rdi f k = resetField f k
  memory : ∀ p, t.byteAt p = 0
  queues : ∀ q, t.queue q = Queue.empty
  log : t.log = []
  fuses : t.fuses = s.fuses
  pending : t.pending = s.pending

/-- Queue `q` may issue its head now: it is instruction `i` of opcode `op`, passes checks 1 to 6 of R101, names no wait,
and is not skipped (R202). -/
structure State.issues (s : State) (q op : Nat) (i : Ins) : Prop where
  may : s.mayIssue q = true
  head : s.head q = .ins i
  opcode : i.opcode = op
  decoded : decodeFault q i = none
  noSkip : (s.queue q).skipping = false
  noWait : i.waitIdx = 0xFFFF
  checked : s.check6 q i = none

/-- The state in which the head of queue `q` begins to issue: it is not skipped. -/
def State.begun (s : State) (q : Nat) : State := s.updQueue q fun x => { x with skipping := false }

/-- `t` is `s` after instruction `i` of queue `q` has issued and completed at once, the next one standing at `npc`
before the loops of R112 have their say: PC and the issue count advance, a signal field waits to act, and nothing but
the queue and the register fields of the list changes. -/
structure State.Retired (s t : State) (q : Nat) (i : Ins) (npc : Nat) (l : List (F × Nat)) : Prop where
  pc : t.rdi .EN_Q_PC_PC q = (loopNext (s.queue q).loops npc).2 % 2 ^ 42
  issued : t.rdi .EN_Q_ISSUED_COUNT q = (s.rdi .EN_Q_ISSUED_COUNT q + 1) % 2 ^ 64
  last : (t.queue q).last = s.rdi .EN_Q_PC_PC q
  work : (t.queue q).work = (s.queue q).work ++
    (if i.sigIdx = 0xFFFF then [] else [{ newWork (s.queue q) i .plain (s.bindEpoch i) with done := true }])
  regs : ∀ f k, (f, k) ∉ (.EN_Q_PC_PC, q) :: (.EN_Q_ISSUED_COUNT, q) :: l → t.rdi f k = s.rdi f k
  others : ∀ k, k ≠ q → t.queue k = s.queue k
  memory : ∀ p, t.byteAt p = s.byteAt p
  rest : t = { s with regs := t.regs, queues := t.queues }

/-- `t` is `s` after instruction `i` of queue `q` has issued and is in progress as `w`: PC and the issue count advance,
and no other queue and no register field outside the list changes. -/
structure State.Entered (s t : State) (q : Nat) (i : Ins) (w : Work) (l : List (F × Nat)) : Prop where
  pc : t.rdi .EN_Q_PC_PC q = (loopNext (s.queue q).loops (i.pc + 16)).2 % 2 ^ 42
  issued : t.rdi .EN_Q_ISSUED_COUNT q = (s.rdi .EN_Q_ISSUED_COUNT q + 1) % 2 ^ 64
  last : (t.queue q).last = s.rdi .EN_Q_PC_PC q
  work : (t.queue q).work = (s.queue q).work ++ [w]
  regs : ∀ f k, (f, k) ∉ (.EN_Q_PC_PC, q) :: (.EN_Q_ISSUED_COUNT, q) :: l → t.rdi f k = s.rdi f k
  others : ∀ k, k ≠ q → t.queue k = s.queue k

/-- Instruction `i` of queue `q` finds descriptor `x` (R103; items 1 to 3 of R142). -/
structure State.finds (s : State) (q : Nat) (i : Ins) (x : Desc) : Prop where
  span : s.descAt q i = .ok x.span
  addr : x.addr = x.span.lo.toNat
  space : x.space = x.span.space
  clean : anyBad (s.readAt (s.viewOf (s.bindEpoch i)) x.space x.span.sub x.addr 64) = false
  word : x.word = pNat (s.readAt (s.viewOf (s.bindEpoch i)) x.space x.span.sub x.addr 64)

/-- Instruction `i` of queue `q`, with descriptor `x` and spans `us`, may go in progress: its remaining checks `chk`
pass, no write of it waits for the closed epoch (R205), no earlier instruction of its queue conflicts with it (R182),
and no array error waits to be found. -/
structure State.clear (s : State) (q : Nat) (i : Ins) (x : Desc) (us : List Use) (chk : Chk Unit) : Prop where
  found : s.finds q i x
  flawless : s.flaws = []
  passes : chk = .ok ()
  unheld : s.heldBy205 (s.bindEpoch i) us = false
  apart : s.mustStall q (usesSpans false (us ++ [x.use])) (usesSpans true us) none = false

/-- What instruction `i` of queue `q` is while in progress, with descriptor word `w` and spans `us`. -/
def State.workFor (s : State) (q : Nat) (i : Ins) (k : WorkKind) (w : Nat) (us : List Use) : Work :=
  { newWork (s.queue q) i k (s.bindEpoch i) with
    desc := w, reads := usesSpans false us, writes := usesSpans true us }

/-- Nothing waits to reach memory: no access is held for a mode change, a safe clock or a closed epoch, and no
instruction in progress has still to write what came for it (R17, R205, R292). -/
structure State.Calm (s : State) : Prop where
  accesses : s.host.accesses = []
  writes : s.net.heldWr = []
  landed : ∀ q, q < 52 → ∀ w ∈ (s.queue q).work, w.ready = true ∨ w.kind = .pass

/-- No stack is held in self-refresh by a safe clock (R283, R291). -/
def State.awake (s : State) : Prop := s.gran.asleep = []

/-- The numerical flags of thresher `t` (R32, R208). -/
def numFlags (t : Nat) : List (F × Nat) :=
  [(.PS_NUMFLAG_OVF_C, t), (.PS_NUMFLAG_NAN_C, t), (.PS_NUMFLAG_OVF_O, t), (.PS_NUMFLAG_NAN_O, t),
    (.PS_NUMFLAG_OVF_A, t), (.PS_NUMFLAG_NAN_A, t)]

/-- The elementwise vector commands of thresher `t` (R45, R47, R102): opcode, number of operands, function. -/
def elementwise (t : Fin 8) : List (Instr × Nat × Nat × (List Fp → Fp)) :=
  [(.vAdd t, 0x60, 2, fun l => (arg l 0).add32 (arg l 1)),
   (.vSub t, 0x61, 2, fun l => (arg l 0).add32 (arg l 1).flip),
   (.vMul t, 0x62, 2, fun l => (arg l 0).mul32 (arg l 1)),
   (.vFma t, 0x63, 3, fun l => (arg l 0).fma32 (arg l 1) (arg l 2)),
   (.vMin t, 0x64, 2, fun l => fpMin (arg l 0) (arg l 1)),
   (.vMax t, 0x65, 2, fun l => fpMax (arg l 0) (arg l 1)),
   (.vDiv t, 0x66, 2, fun l => (arg l 0).mul32 (fpRcp (arg l 1))),
   (.vRcp t, 0x67, 1, fun l => fpRcp (arg l 0)),
   (.vSqrt t, 0x68, 1, fun l => fpSqrt (arg l 0)),
   (.vRsqrt t, 0x69, 1, fun l => fpRsqrt (arg l 0)),
   (.vExp2 t, 0x6A, 1, fun l => fpExp2 (arg l 0)),
   (.vLog2 t, 0x6B, 1, fun l => fpLog2 (arg l 0)),
   (.vTanh t, 0x6C, 1, fun l => fpTanh (arg l 0)),
   (.vErf t, 0x6D, 1, fun l => fpErf (arg l 0)),
   (.vAbs t, 0x6E, 1, fun l => (arg l 0).signed false)]

/-- Element `k` of each operand of an operation of `n` operands is about to be read (R134). -/
def Sink.ready (x : Sink) (n t : Nat) (d : VecDesc) (view : View) (k : Nat) : Sink :=
  (d.sources n).foldl (fun x v => x.readSrc view t k v) x

/-- The operands of element `k` of an operation of `n` operands, as they are read once the elements before it have been
put out. -/
def Sink.args (x : Sink) (n t : Nat) (d : VecDesc) (view : View) (k : Nat) : List Fp :=
  (d.sources n).map ((x.ready n t d view k).st.vecValue view t k)

/-- Where an elementwise operation stands once its first `k` elements have been put out, in ascending order (R31). -/
def State.vecAfter (s : State) (n : Nat) (g : List Fp → Fp) (t : Nat) (d : VecDesc) (view : View) (bank : Nat) : Nat → Sink
  | 0 => ⟨s, none⟩
  | k + 1 =>
    let x := s.vecAfter n g t d view bank k
    (x.ready n t d view k).vecPut view t bank (vecAt d.d d.dStep 1 k) (x.args n t d view k)
      (guarded g (x.args n t d view k))

/-- `a` is none of the places of `n` bytes from `p` up. -/
def outsideRun (a p n : Nat) : Prop := a < p ∨ p + n ≤ a

/-- May a field hold this value beside its reset value? The ranges of R358; the codes the description of a state field
lists (R116, R175, R236, R299), the owners of R86, the profiles and caps of R263; a capability never (R5). -/
def fieldLegal (f : F) (v : Nat) : Bool :=
  match f with
  | .EN_Q_STAT_STATE | .ER_SERVICE_STATE | .WN_PORT_STAT_STATE => decide (v ≤ 5)
  | .GN_STACK_STAT_STATE => decide (v ≤ 3)
  | .TN_STAT_OWNER | .PW_PROFILE_PROFILE => decide (v ≤ 2)
  | .PW_CAP_WATTS => decide (900 ≤ v) && decide (v ≤ 2800)
  | .ID_CAP_CONTRACT_VALUE | .ID_CAP_CONTRACT_MIN_VALUE | .ID_CAP_BAYS_VALUE | .ID_CAP_THRESHERS_VALUE
  | .ID_CAP_ROWS_VALUE | .ID_CAP_COLS_VALUE | .ID_CAP_TILE_VALUE | .ID_CAP_PARTS_VALUE | .ID_CAP_LOFT_BYTES_VALUE
  | .ID_CAP_LOFT_BANKS_VALUE | .ID_CAP_VLANES_VALUE | .ID_CAP_STACKS_VALUE | .ID_CAP_STACK_BYTES_VALUE
  | .ID_CAP_HBM_BYTES_VALUE | .ID_CAP_PORTS_VALUE | .ID_CAP_PORT_LANES_VALUE | .ID_CAP_TALLIES_VALUE
  | .ID_CAP_BAY_TALLIES_VALUE | .ID_CAP_QUEUES_VALUE | .ID_CAP_QDEPTH_VALUE | .ID_CAP_LOOPS_VALUE
  | .ID_CAP_REGIONS_VALUE | .ID_CAP_TAGS_VALUE | .ID_CAP_MODULES_VALUE | .ID_CAP_FORMATS_VALUE
  | .ID_CAP_TURNER_VALUE | .ID_CAP_MAX_STEPS_VALUE | .ID_CAP_CH_DEPTH_VALUE | .ID_CAP_CE_DEPTH_VALUE
  | .ID_CAP_WN_DEPTH_VALUE | .ID_CAP_VE_DEPTH_VALUE => false
  | f => fieldOk f v

/-- An entry of the register table: instance `i` of a field, at a value other than its reset value, within its width,
that the field may hold. -/
def regEntryOk (e : Nat × Nat) : Prop :=
  ∃ f i, e.1 = fkey f i ∧ e.2 ≠ resetField f i ∧ e.2 < 2 ^ f.info.width ∧ fieldLegal f e.2 = true

/-- The invariant of the machine: the register table's numbers rise strictly and each of its entries is one a field
may have; memory, poison marks and waiting array errors stand in their canonical forms. -/
structure State.Inv (s : State) : Prop where
  rising : s.regs.Pairwise fun a b => a.1 < b.1
  entries : ∀ e ∈ s.regs, regEntryOk e
  mem : Memory.wf s.mem = true
  poison : Tbl.wf false s.poison = true
  flaws : Tbl.wf .none s.flaws = true

end Sys2Proof.Machine
end

