-- ==== Sys2Proof/Certificates/Slice0/Obligations.lean ====
section
/-! DEFINITION. The statements for the provers, family by family. -/

open Sys2Proof Sys2Proof.Machine

/-! ### The whole machine -/

/-- A step takes the command at the front of the queue and runs it with the queue's rest. -/
def Obligations.StepRunsFrontCommand : Prop :=
  ∀ (s : State) (c : Instr) (r : List Instr), s.pending = c :: r → step s = exec c { s with pending := r }

/-- Every command a sender can form answers a next state (R3): none stops the module. A command no sender can form is
turned away, and that is the only stop (the model's own rule, DESIGN CHOICE, assumption log entry 6). -/
def Obligations.WellFormedCommandsGoOn : Prop :=
  ∀ (c : Instr) (s : State),
    (c.wf = true → ∃ t, exec c s = .next t) ∧ (c.wf = false → exec c s = .refused .illFormed)

/-- The state after reset meets the invariant. -/
def Obligations.ResetMeetsInvariant : Prop := State.reset.Inv

/-- Every step keeps the invariant: the register table stays in order, and every register field holds its reset value
or one its description allows (R5, R8, R116, R263, R299, R358); memory, poison marks and waiting errors stay canonical
(the model's own form). -/
def Obligations.StepKeepsInvariant : Prop :=
  ∀ s t : State, s.Inv → step s = .next t → t.Inv

/-- No command changes what the fuses hold, nor the commands that wait behind it. -/
def Obligations.CommandsKeepFusesAndQueue : Prop :=
  ∀ (c : Instr) (s t : State), s.Inv → exec c s = .next t → t.fuses = s.fuses ∧ t.pending = s.pending

/-- In every state that meets the invariant, the capability table reads as R115 states it: each register at its offset,
32 or 64 bits wide, with its value. No other register lies in the range, and the registers are read-only: a write of the
host changes nothing. -/
def Obligations.CapabilitiesAreFixed : Prop :=
  ∀ (s : State) (l : List (Nat × Reg × Bool × Nat)), s.Inv → l =
       [(0x400, Reg.ID_CAP_CONTRACT, false, 0x100), (0x404, .ID_CAP_CONTRACT_MIN, false, 0x100),
        (0x408, .ID_CAP_BAYS, false, 4), (0x40C, .ID_CAP_THRESHERS, false, 8), (0x410, .ID_CAP_ROWS, false, 768),
        (0x414, .ID_CAP_COLS, false, 768), (0x418, .ID_CAP_TILE, false, 32), (0x41C, .ID_CAP_PARTS, false, 576),
        (0x420, .ID_CAP_LOFT_BYTES, false, 201326592), (0x424, .ID_CAP_LOFT_BANKS, false, 128),
        (0x428, .ID_CAP_VLANES, false, 2048), (0x42C, .ID_CAP_STACKS, false, 24),
        (0x430, .ID_CAP_STACK_BYTES, true, 0x2000000000), (0x438, .ID_CAP_HBM_BYTES, true, 0x30000000000),
        (0x440, .ID_CAP_PORTS, false, 16), (0x444, .ID_CAP_PORT_LANES, false, 4),
        (0x448, .ID_CAP_TALLIES, false, 65536), (0x44C, .ID_CAP_BAY_TALLIES, false, 16384),
        (0x450, .ID_CAP_QUEUES, false, 52), (0x454, .ID_CAP_QDEPTH, false, 4096), (0x458, .ID_CAP_LOOPS, false, 4),
        (0x45C, .ID_CAP_REGIONS, false, 4096), (0x460, .ID_CAP_TAGS, false, 65536),
        (0x464, .ID_CAP_MODULES, false, 65536), (0x468, .ID_CAP_FORMATS, false, 0x1FF),
        (0x46C, .ID_CAP_TURNER, false, 1), (0x470, .ID_CAP_MAX_STEPS, false, 16777215),
        (0x474, .ID_CAP_CH_DEPTH, false, 4), (0x478, .ID_CAP_CE_DEPTH, false, 16),
        (0x47C, .ID_CAP_WN_DEPTH, false, 8), (0x480, .ID_CAP_VE_DEPTH, false, 8)] →
    (∀ o r w n, (o, r, w, n) ∈ l → regAt o = some (r, 0, 0) ∧ r.info.wide = w ∧ s.readReg r 0 = n ∧
      ∀ v, v < (if w then 2 ^ 64 else 2 ^ 32) → exec (.registerWrite o w v) s = .next s) ∧
    ∀ o r i b, 0x400 ≤ o → o < 0x484 → regAt o = some (r, i, b) → ∃ e ∈ l, e.2.1 = r ∧ e.1 + b = o

/-! ### Engine queues and control instructions -/

/-- NOP does nothing but move on; SYNC does once every earlier instruction of its queue has completed, and until then
stands at the head (R96, R102). -/
def Obligations.NopAndSyncMoveOn : Prop :=
  ∀ (q : Fin 52) (s : State) (i : Ins),
    (s.issues q 0x00 i → ∃ t, exec (.nop q) s = .next t ∧ s.Retired t q i (i.pc + 16) []) ∧
    (s.issues q 0x02 i → s.drained q = true →
      ∃ t, exec (.sync q) s = .next t ∧ s.Retired t q i (i.pc + 16) []) ∧
    (s.issues q 0x02 i → s.drained q = false → exec (.sync q) s = .next (s.begun q))

/-- Loops and branches (R112, R113). Behind the last instruction of a loop's body the next iteration begins while
iterations are left, and after the last one the stream goes on behind the body; anywhere else the loop is left alone.
LOOP with COUNT 0 goes on behind its body, else it begins its first iteration; BR goes to its target, BRC there where
its condition on CR holds, and else to the next instruction. The frame: the queue alone, of the registers PC, the issue
count and, for BRC and a body passed by, STATE. -/
def Obligations.LoopsAndBranches : Prop :=
  (∀ (l : LoopLevel) (r : List LoopLevel) (pc : Nat),
    (pc = l.stop → l.index + 1 < l.count → loopNext (l :: r) pc = ({ l with index := l.index + 1 } :: r, l.start)) ∧
    (pc = l.stop → l.count ≤ l.index + 1 → loopNext (l :: r) pc = loopNext r pc) ∧
    (pc ≠ l.stop → loopNext (l :: r) pc = (l :: r, pc))) ∧
  ∀ (q : Fin 52) (s : State) (i : Ins), (s.queue q).loops = [] →
    (s.issues q 0x04 i → bits i.operand 0 24 = 0 →
      ∃ t, exec (.loop q) s = .next t ∧
        s.Retired t q i (i.pc + 16 + 16 * bits i.operand 32 13) [(.EN_Q_STAT_STATE, q.val)]) ∧
    (s.issues q 0x04 i → bits i.operand 0 24 ≠ 0 →
      ∃ t, exec (.loop q) s = .next t ∧ s.Retired t q i (i.pc + 16) [] ∧
        (t.queue q).loops =
          [⟨i.pc + 16, i.pc + 16 + 16 * bits i.operand 32 13, bits i.operand 0 24, 0⟩]) ∧
    (s.issues q 0x05 i → ∃ t, exec (.br q) s = .next t ∧ s.Retired t q i (branchTarget i) []) ∧
    (s.issues q 0x06 i → ∃ t, exec (.brc q) s = .next t ∧
      s.Retired t q i (if brcTaken (bits i.operand 32 3) (bits i.operand 40 24) (s.rdi .EN_Q_CR_CR q) then branchTarget i
        else i.pc + 16) [(.EN_Q_STAT_STATE, q.val)] ∧ t.qState q = 1)

/-- LDC of an aligned place whose span passes its checks, with no conflict in its queue, no stack in self-refresh, no
array error waiting and no poison read, loads 8 bytes little-endian into CR, with VOL and without (R102, R135). -/
def Obligations.LdcLoadsCr : Prop :=
  ∀ (q : Fin 52) (s : State) (i : Ins) (space t a : Nat), s.issues q 0x07 i → s.flaws = [] →
    a = bits i.operand 0 42 → space = bits i.operand 42 1 → t = (if space = 1 then qThr q else 0) →
    s.checkUses (s.bindEpoch i) [⟨some ⟨space, t, a, (a : Int) + 7⟩, false, 0⟩] (.ok ()) = .ok () →
    s.mustStall q [⟨space, t, a, (a : Int) + 7⟩] [] none = false →
    anyBad (s.readAt (s.viewOf (s.bindEpoch i)) space t a 8) = false →
    ∃ u, exec (.ldc q) s = .next u ∧
      s.Retired { u with stamp := s.stamp } q i (i.pc + 16) [(.EN_Q_CR_CR, q.val)] ∧
      u.rdi .EN_Q_CR_CR q = pNat (s.readAt (s.viewOf (s.bindEpoch i)) space t a 8) % 2 ^ 64

/-- NOTIFY and END (R114, R192, R325, R326). NOTIFY whose fence is done moves on: while the ring is off its event is
discarded and counted; an event the ring can take is written at TAIL, with the message of its vector behind it unless
that is masked; another waits in the holding buffer while that has room, and NOTIFY is in progress until it is in the
ring. END with nothing of its queue in progress, and under HOSTFENCE nothing to flush, ends the stream: the queue is
IDLE with an empty buffer and STOP clear, and a signal on a tally nothing waits for has acted; with NOTIFY it posts its
event. END behind instructions in progress issues and waits for them. -/
def Obligations.NotifyAndEnd : Prop :=
  (∀ (q : Fin 52) (s : State) (i : Ins), s.issues q 0x03 i → s.fenceDone q i = true →
    (s.flag .HI_EVT_CFG_EN 0 = false → ∃ t, exec (.notify q) s = .next t ∧
      s.Retired t q i (i.pc + 16) [(.HI_EVT_DROP_COUNT, 0)] ∧
      t.rd .HI_EVT_DROP_COUNT = min (2 ^ 32 - 1) (s.rd .HI_EVT_DROP_COUNT + 1) % 2 ^ 32) ∧
    (s.flag .HI_EVT_CFG_EN 0 = true → s.eventReady = true → ∃ t, exec (.notify q) s = .next t ∧
        t.rd .HI_EVT_TAIL_TAIL = (s.rd .HI_EVT_TAIL_TAIL + 1) % 2 ^ 32 ∧
        (∃ a d, t.egress = s.egress ++ .write a d false :: (if s.masked (8 + q) then [] else [.msix (8 + q)]) ∧
          d.length = 16 ∧ a = s.rd .HI_EVT_BASE_BASE + (s.rd .HI_EVT_TAIL_TAIL % 2 ^ s.rd .HI_EVT_CFG_LOG2N) * 16 ∧
          d.take 2 = leBytes 2 (bits i.operand 0 16)) ∧
        t.rdi .EN_Q_PC_PC q = (loopNext (s.queue q).loops (i.pc + 16)).2 % 2 ^ 42 ∧
        (∀ p, t.byteAt p = s.byteAt p) ∧ ∀ k, k ≠ q.val → t.queue k = s.queue k) ∧
    (s.flag .HI_EVT_CFG_EN 0 = true → s.eventReady = false → s.host.held.length < 256 →
      ∃ t w, exec (.notify q) s = .next t ∧
        t.host.held = s.host.held ++ [⟨q, bits i.operand 0 16, 0, s.aoCycles, (s.queue q).nextId⟩] ∧
        (t.queue q).work = (s.queue q).work ++ [w] ∧ w.kind = .notify ∧ w.id = (s.queue q).nextId ∧ w.done = false ∧
        t.egress = s.egress ∧ (∀ p, t.byteAt p = s.byteAt p) ∧ ∀ k, k ≠ q.val → t.queue k = s.queue k) ∧
    (s.flag .HI_EVT_CFG_EN 0 = true → s.eventReady = false → 256 ≤ s.host.held.length →
      exec (.notify q) s = .next (s.begun q))) ∧
  ∀ (q : Fin 52) (s : State) (i : Ins), s.issues q 0x01 i →
    (bit i.operand 0 = true → s.eventStall = true → exec (.endStream q) s = .next (s.begun q)) ∧
    (bit i.operand 0 = false ∨ s.eventStall = false →
      (s.drained q = true → i.hostFence = false ∨ s.flushed q (s.queue q).nextId = true →
        i.sigIdx = 0xFFFF ∨ s.waitersOf i.sigIdx = [] → ∃ t, exec (.endStream q) s = .next t ∧ t.qState q = 0 ∧
          (t.queue q).buf = [] ∧ (t.queue q).loops = [] ∧ (t.queue q).ending = none ∧
          t.rdi .EN_Q_CTL_STOP q = 0 ∧ t.rdi .EN_Q_ISSUED_COUNT q = (s.rdi .EN_Q_ISSUED_COUNT q + 1) % 2 ^ 64 ∧
          (t.queue q).last = s.rdi .EN_Q_PC_PC q ∧
          (i.sigIdx ≠ 0xFFFF → i.sigCnt ≠ 0 → t.tally i.sigIdx = min 65535 (s.tally i.sigIdx + i.sigCnt)) ∧
          (i.sigIdx = 0xFFFF → bit i.operand 0 = false → s.onlyRegs { t with queues := s.queues }
            [(.EN_Q_STAT_STATE, q.val), (.EN_Q_ISSUED_COUNT, q.val), (.EN_Q_CTL_STOP, q.val)]) ∧
          (bit i.operand 0 = true → s.flag .HI_EVT_CFG_EN 0 = true → s.eventReady = true →
            t.rd .HI_EVT_TAIL_TAIL = (s.rd .HI_EVT_TAIL_TAIL + 1) % 2 ^ 32) ∧
          (∀ p, t.byteAt p = s.byteAt p) ∧ ∀ k, k ≠ q.val → t.queue k = s.queue k) ∧
      (s.drained q = false → ∃ t, exec (.endStream q) s = .next t ∧ (t.queue q).ending.isSome = true ∧
        t.qState q = s.qState q ∧ (t.queue q).work = (s.queue q).work ∧
        s.onlyRegs { t with queues := s.queues } [(.EN_Q_ISSUED_COUNT, q.val)] ∧
        ∀ k, k ≠ q.val → t.queue k = s.queue k))

/-- Engine faults (R101, R114, R309): a fault leaves its queue FAULTED with its code and the instruction's address,
and a queue that is FAULTED already keeps its own. Checks 1 to 5: a queue that may issue with a head outside its
region, in a poisoned sector, or with a word that does not decode faults so with that check's code. -/
def Obligations.EngineFaults : Prop :=
  (∀ (s : State) (q : Nat) (c : E) (pc : Nat), q < 52 → (s.queue q).wait = none →
    (s.queue q).taken = false ∨ s.waiters = [] →
    (s.qState q ≠ 5 → (s.engineFault q (.of c) pc).qState q = 5 ∧
      (s.engineFault q (.of c) pc).rdi .EN_Q_STAT_CODE q = c.val ∧
      (s.engineFault q (.of c) pc).rdi .EN_Q_FAULT_PC_PC q = pc % 2 ^ 42) ∧
    (s.qState q = 5 → (s.engineFault q (.of c) pc).rdi .EN_Q_STAT_CODE q = s.rdi .EN_Q_STAT_CODE q ∧
      (s.engineFault q (.of c) pc).rdi .EN_Q_FAULT_PC_PC q = s.rdi .EN_Q_FAULT_PC_PC q) ∧
    ∀ p, (s.engineFault q (.of c) pc).byteAt p = s.byteAt p) ∧
  ∀ (q : Fin 52) (s : State), s.mayIssue q = true → (s.queue q).skipping = false →
    (∀ c, s.head q = .bad c → exec (.nop q) s = .next (s.engineFault q (.of c) (s.rdi .EN_Q_PC_PC q))) ∧
    (∀ i c, s.head q = .ins i → decodeFault q i = some c → exec (.nop q) s = .next (s.engineFault q (.of c) i.pc)) ∧
    (∀ c, s.head q = .bad c → c = .fetchBounds ∨ c = .fetchPoison) ∧
    (∀ i c, decodeFault q i = some c → c = .opcode ∨ c = .engineClass ∨ c = .encoding)

/-! ### Starting, stopping and fetching a queue; the end of an instruction -/

/-- Starts (R102, R110, R111): a queue enters RUN at the offset in its program region, CR zeroed, its buffer and
loops empty; nothing else changes. With the link up, the module not in Idle and no window write waiting, a queue
doorbell whose reserved bits are zero starts an IDLE queue at an aligned offset inside its region, on a unit that
accepts starts; any other sets DB_REFUSED alone. A group doorbell of one queue does the same at offset 0. Behind window
writes that wait, a doorbell waits (R191). LAUNCH starts a queue of its own thresher by the same rule, and faults with
E_LAUNCH_BUSY where the start is refused. -/
def Obligations.StartsAndDoorbells : Prop :=
  (∀ (s : State) (q off : Nat),
    (s.start q off).qState q = 1 ∧ (s.start q off).rdi .EN_Q_CR_CR q = 0 ∧
      (s.start q off).rdi .EN_Q_PC_PC q = (s.rdi .EN_Q_PRG_BASE_BASE q + off) % 2 ^ 42 ∧
      ((s.start q off).queue q).buf = [] ∧ ((s.start q off).queue q).loops = [] ∧
      ((s.start q off).queue q).next = some (s.rdi .EN_Q_PRG_BASE_BASE q + off) ∧
      (∀ k, k ≠ q → (s.start q off).queue k = s.queue k) ∧
      s.onlyRegs { s.start q off with queues := s.queues }
        [(.EN_Q_STAT_STATE, q), (.EN_Q_PC_PC, q), (.EN_Q_CR_CR, q)]) ∧
  ∀ (s : State),
    (s.hostUp = true → s.flag .PW_STATE_IDLE 0 = false →
      (s.writesHeld = false →
        (∀ (q : Fin 52) (v : Nat), v < 2 ^ 64 →
          (v < 2 ^ 32 → s.canStart q v = true → exec (.queueDoorbell q v) s = .next (s.start q v)) ∧
          (2 ^ 32 ≤ v ∨ s.canStart q v = false → ∃ t, exec (.queueDoorbell q v) s = .next t ∧
            t.rdi .EN_Q_STAT_DB_REFUSED q = 1 ∧ s.onlyRegs t [(.EN_Q_STAT_DB_REFUSED, q.val)])) ∧
        (∀ q : Fin 52, s.canStart q 0 = true → exec (.groupDoorbell (2 ^ q.val)) s = .next (s.start q 0))) ∧
      (s.writesHeld = true → ∀ (q : Fin 52) (v : Nat), v < 2 ^ 64 →
        exec (.queueDoorbell q v) s = .next (s.holdAccess (.doorbell q v)) ∧
        exec (.groupDoorbell v) s = .next (s.holdAccess (.group v)))) ∧
    (∀ (t : Fin 8) (i : Ins), s.issues (thrQ t 0) 0x20 i →
      (s.canStart (thrQ t (bits i.operand 0 4)) (bits i.operand 32 32) = true → bits i.operand 0 4 ≠ 0 →
        bits i.operand 0 4 ≤ 5 → ∃ u, exec (.launch t) s = .next u ∧
          u.qState (thrQ t (bits i.operand 0 4)) = 1 ∧
            u.rdi .EN_Q_PC_PC (thrQ t 0) = (loopNext (s.queue (thrQ t 0)).loops (i.pc + 16)).2 % 2 ^ 42 ∧
          u.rdi .EN_Q_PC_PC (thrQ t (bits i.operand 0 4)) =
            (s.rdi .EN_Q_PRG_BASE_BASE (thrQ t (bits i.operand 0 4)) + bits i.operand 32 32) % 2 ^ 42 ∧
          (∀ p, u.byteAt p = s.byteAt p)) ∧
      (s.canStart (thrQ t (bits i.operand 0 4)) (bits i.operand 32 32) = false →
        exec (.launch t) s = .next (((s.begun (thrQ t 0)).wri .EN_Q_STAT_DB_REFUSED (thrQ t (bits i.operand 0 4))
          1).engineFault
          (thrQ t 0) (.of .launchBusy) i.pc)))

/-- STOP of a running queue empties its buffer and leaves it STOPPING, with what has issued going on, an END too; CLEAR
of a faulted queue empties it and zeroes CODE; a stopping or cleared queue is IDLE once everything in progress has
completed (R114). The frame of all three: the queue itself, and of the registers its STATE, CODE and CTL bits. -/
def Obligations.StopClearQuiesce : Prop :=
  ∀ (s : State) (q : Fin 52),
    (s.hostUp = true → 1 ≤ s.qState q → s.qState q ≤ 3 → (s.queue q).wait = none → ∃ t, exec (.queueStop q) s = .next t ∧
      t.qState q = 4 ∧ (t.queue q).buf = [] ∧ (t.queue q).work = (s.queue q).work ∧
      (t.queue q).ending = (s.queue q).ending ∧
      s.onlyRegs { t with queues := s.queues } [(.EN_Q_STAT_STATE, q.val), (.EN_Q_CTL_STOP, q.val)] ∧
      ∀ k, k ≠ q.val → t.queue k = s.queue k) ∧
    (s.hostUp = true → s.qState q = 5 → s.bayFaulted (qBay q) = false → s.fatal = false →
      ∃ t, exec (.queueClear q) s = .next t ∧ t.rdi .EN_Q_STAT_CODE q = 0 ∧ (t.queue q).buf = [] ∧ t.qState q = 5 ∧
      s.onlyRegs { t with queues := s.queues } [(.EN_Q_STAT_CODE, q.val), (.EN_Q_CTL_CLEAR, q.val)] ∧
      ∀ k, k ≠ q.val → t.queue k = s.queue k) ∧
    (s.drained q = true → (s.queue q).ending = none →
      s.qState q = 4 ∨ s.qState q = 5 ∧ s.flag .EN_Q_CTL_CLEAR q = true →
      ∃ t, exec (.queueQuiesced q) s = .next t ∧ t.qState q = 0 ∧
      s.onlyRegs t [(.EN_Q_STAT_STATE, q.val), (.EN_Q_CTL_STOP, q.val), (.EN_Q_CTL_CLEAR, q.val)])

/-- A running queue with an empty buffer and no BRC to wait for fetches at PC, while no stack is in self-refresh: of
the 64-byte sector there it takes the instructions from PC up, to the first END, BR or BRC and not past its region;
nothing but the queue and its STATE changes (R111). -/
def Obligations.FetchFillsBuffer : Prop :=
  ∀ (s : State) (q : Fin 52), s.qState q = 1 → (s.queue q).buf = [] → (s.queue q).brcStop = false → s.flaws = [] →
    s.awake → s.rdi .EN_Q_PRG_BASE_BASE q ≤ s.rdi .EN_Q_PC_PC q →
    s.rdi .EN_Q_PC_PC q + 16 ≤ s.rdi .EN_Q_PRG_BASE_BASE q + s.rdi .EN_Q_PRG_SIZE_SIZE q →
    ∃ t l, exec (.fetch q) s = .next t ∧
      l = takeFetched (s.rdi .EN_Q_PRG_BASE_BASE q + s.rdi .EN_Q_PRG_SIZE_SIZE q) (s.sectorSlots (s.rdi .EN_Q_PC_PC q)) ∧
      (t.queue q).next = fetchNext l ∧
      (∀ e ∈ l, (t.queue q).buf.find? (fun x => x.1 == e.1) = some e) ∧
      s.onlyRegs { t with queues := s.queues } [(.EN_Q_STAT_STATE, q.val)] ∧
      ∀ k, k ≠ q.val → t.queue k = s.queue k

/-- Completion, signal and flush (R96, R121, R192). A completed instruction without a signal field is forgotten; one
with a signal
waits to act; neither its queue's registers nor anything outside its queue changes. It waits for nothing, reads no
volatile place, writes no remote one, and no gather and no END stands in its queue. A released signal adds its count to
its tally, on which nothing waits, and the instruction is forgotten. A flush read that returns frees its copy; one that
fails or is missing after 50 ms faults the engine with E_HOSTFENCE (R192). -/
def Obligations.CompletionSignalAndFlush : Prop :=
  (∀ (s : State) (q : Fin 52) (id : Nat) (w : Work), (s.queue q).work.find? (fun x => x.id == id) = some w →
    s.mayComplete q w = true → w.volRead = false → (w.writes.any fun x => x.space == 2) = false →
    ((s.queue q).work.all fun x => x.coll.isNone) = true → (s.queue q).ending = none →
    ∃ t, exec (.instructionCompletion q id) s = .next t ∧ (t.queue q).work = finished w (s.queue q).work ∧
      t = { s with queues := t.queues } ∧ (∀ k, k ≠ q.val → t.queue k = s.queue k)) ∧
  (∀ (s : State) (q : Fin 52) (id : Nat) (w : Work), (s.queue q).work.find? (fun x => x.id == id) = some w →
    w.done = true → w.kind ≠ .gather → s.released q id = true → w.hostFence = false ∨ s.flushed q id = true →
    w.sigIdx < 0xFFFF → w.bound = none →
    s.allocated w.sigIdx = true → s.bayFaulted (tallyBay w.sigIdx) = false → s.waitersOf w.sigIdx = [] →
    s.tally w.sigIdx + w.sigCnt ≤ 65535 → w.sigCnt ≠ 0 →
    ∃ t, exec (.signalRelease q id) s = .next t ∧ t.tally w.sigIdx = s.tally w.sigIdx + w.sigCnt ∧
      (t.queue q).work = (s.queue q).work.filter (fun x => x.id != id) ∧
      (∀ f k, (f, k) ≠ (.TL_COUNT_COUNT, w.sigIdx) → t.rdi f k = s.rdi f k) ∧
      (∀ p, t.byteAt p = s.byteAt p) ∧ ∀ k, k ≠ q.val → t.queue k = s.queue k) ∧
  ∀ (s : State) (q : Fin 52) (copy : Nat), (s.queue q).ending = none →
    (∃ t, exec (.flushCompletion q copy true) s = .next t ∧
      (t.queue q).copies = (s.queue q).copies.filter (fun c => !(c.id == copy && c.flushing)) ∧
      t = { s with queues := t.queues } ∧ ∀ k, k ≠ q.val → t.queue k = s.queue k) ∧
    ((s.queue q).copies.any (fun c => c.id == copy && c.flushing) = true → (s.queue q).wait = none →
      (s.queue q).taken = false → s.qState q ≠ 5 →
      (∃ t, exec (.flushCompletion q copy false) s = .next t ∧ t.qState q = 5 ∧
        t.rdi .EN_Q_STAT_CODE q = E.hostfence.val) ∧
      ∃ t, exec (.flushTimeout q copy) s = .next t ∧ t.qState q = 5 ∧ t.rdi .EN_Q_STAT_CODE q = E.hostfence.val)

/-! ### Tallies -/

/-- Counts and waiters (R121, R123, R125). The first waiter of a tally is served when the count covers it: the count
drops by what it asked for and its queue runs on. While nothing waits on the tally, a signal adds COUNT, saturating at
65,535, and an arm sets it, whether from an engine, the host or a signal field; nothing else of the tallies changes. -/
def Obligations.SignalsArmsAndWaiters : Prop :=
  (∀ (s : State) (u : Nat) (w : Waiter) (h : HeadWait), s.waitersOf u = [w] →
    (s.queue w.queue).wait = some h → h.operand = false → (s.queue w.queue).brcStop = false →
    (w.need ≤ s.tally u → (s.serve u).tally u = (s.tally u - w.need) % 65536 ∧ (s.serve u).waitersOf u = [] ∧
      (s.serve u).qState w.queue = 1 ∧ ((s.serve u).queue w.queue).taken = true) ∧
    (s.tally u < w.need → (s.serve u).tally u = s.tally u ∧ (s.serve u).waitersOf u = [w] ∧
      (s.serve u).queue w.queue = s.queue w.queue)) ∧
  ∀ (s : State) (u n : Nat), s.waitersOf u = [] → n < 65536 →
    (s.signal u n).tally u = min 65535 (s.tally u + n) ∧ (s.arm u n).tally u = n ∧
      (∀ k, k ≠ u → (s.signal u n).tally k = s.tally k ∧ (s.arm u n).tally k = s.tally k) ∧
      (∀ p, (s.signal u n).byteAt p = s.byteAt p ∧ (s.arm u n).byteAt p = s.byteAt p) ∧
      (∀ q, (s.signal u n).queue q = s.queue q ∧ (s.arm u n).queue q = s.queue q) ∧
      (65535 < s.tally u + n → (s.signal u n).rd .TL_STAT_OVF = 1 ∨ bit (s.rdi .TL_OVF_BITS (u / 32)) (u % 32) = true)

/-- The tally instructions on a tally of this module that nothing waits on (R121, R122): TL.SIGNAL adds, TL.ARM sets,
TL.READ brings the count to CR, a count of 0 asks for nothing, TL.WAIT takes what it asks for at once where the count
covers it, and else joins the waiters and leaves the queue waiting. -/
def Obligations.TallyInstructions : Prop :=
  ∀ (q : Fin 52) (s : State) (i : Ins) (u n : Nat), u = operandTally q i.operand → n = bits i.operand 16 16 →
    s.waitersOf u = [] →
    (s.issues q 0x08 i → s.fenceDone q i = true → s.localTally q i = some u → n ≠ 0 →
      ∃ t, exec (.tlSignal q) s = .next t ∧ t.tally u = min 65535 (s.tally u + n) ∧
        t.rdi .EN_Q_PC_PC q = (loopNext (s.queue q).loops (i.pc + 16)).2 % 2 ^ 42 ∧
        (∀ k, k ≠ u → t.tally k = s.tally k) ∧ (∀ p, t.byteAt p = s.byteAt p) ∧ ∀ k, k ≠ q.val → t.queue k = s.queue k) ∧
    (s.issues q 0x0A i → ∃ t, exec (.tlArm q) s = .next t ∧ t.tally u = n ∧
        t.rdi .EN_Q_PC_PC q = (loopNext (s.queue q).loops (i.pc + 16)).2 % 2 ^ 42 ∧
        (∀ f k, (f, k) ∉ [(.TL_COUNT_COUNT, u), (.EN_Q_PC_PC, q.val), (.EN_Q_ISSUED_COUNT, q.val)] →
          t.rdi f k = s.rdi f k) ∧ (∀ p, t.byteAt p = s.byteAt p) ∧ ∀ k, k ≠ q.val → t.queue k = s.queue k) ∧
    (s.issues q 0x0B i → ∃ t, exec (.tlRead q) s = .next t ∧ t.rdi .EN_Q_CR_CR q = s.tally u % 2 ^ 64 ∧
        s.Retired { t with stamp := s.stamp } q i (i.pc + 16) [(.EN_Q_CR_CR, q.val)]) ∧
    (s.issues q 0x08 i → s.fenceDone q i = true → s.localTally q i = some u → n = 0 →
      ∃ t, exec (.tlSignal q) s = .next t ∧ s.Retired t q i (i.pc + 16) []) ∧
    (s.issues q 0x09 i → n = 0 → ∃ t, exec (.tlWait q) s = .next t ∧ s.Retired t q i (i.pc + 16) []) ∧
    (s.issues q 0x09 i → n ≠ 0 →
      (n ≤ s.tally u → i.sigIdx = 0xFFFF → ∃ t, exec (.tlWait q) s = .next t ∧ t.tally u = (s.tally u - n) % 65536 ∧
        t.waitersOf u = [] ∧ t.rdi .EN_Q_PC_PC q = (loopNext (s.queue q).loops (s.rdi .EN_Q_PC_PC q + 16)).2 % 2 ^ 42) ∧
      (s.tally u < n → ∃ t, exec (.tlWait q) s = .next t ∧ t.tally u = s.tally u ∧ t.waitersOf u = [⟨q.val, n⟩] ∧
        t.qState q = 2 ∧ (t.queue q).wait = some ⟨u, n, 0, true⟩))

/-- The host's tally operations (R119, R121, R126). A write of TL_ALLOC[w] over tallies nothing waits on leaves exactly
the written bits allocated, and zeroes the count of every tally whose bit it changes. On an allocated tally of a bay
that is not faulted, with the module not in Idle and GO clear, HOST_SIGNAL adds COUNT and HOST_ARM sets it, unless
window writes wait that it must not pass: then it waits with GO at 1 (R191); on any other, REFUSED is set and no count
changes. -/
def Obligations.HostTalliesAndAllocation : Prop :=
  (∀ (s : State) (w : Fin 2048) (v : Nat), s.hostUp = true → v < 2 ^ 32 → s.waiters = [] →
    ∃ t, exec (.tlAllocWrite w v) s = .next t ∧ t.rdi .TL_ALLOC_BITS w = v ∧
      (∀ i, i < 32 → t.allocated (32 * w + i) = bit v i) ∧
      (∀ i, i < 32 → t.tally (32 * w + i) = if bit (s.rdi .TL_ALLOC_BITS w) i = bit v i then s.tally (32 * w + i) else 0) ∧
      (∀ u, u / 32 ≠ w.val → t.tally u = s.tally u) ∧ t = { s with regs := t.regs, prov := t.prov }) ∧
  ∀ (s : State) (u : Fin 65536) (n : Nat), s.hostUp = true → s.flag .PW_STATE_IDLE 0 = false → n < 65536 →
    s.flag .TL_HOST_CTL_GO 0 = false →
    (s.hostMay u = true → s.writesHeld = true → ∃ t, exec (.hostSignal u n) s = .next t ∧ t.rd .TL_HOST_CTL_GO = 1 ∧
      t.host.accesses = s.host.accesses ++ [.tallyOp false u n] ∧ ∀ k, t.tally k = s.tally k) ∧
    (s.hostMay u = true → s.writesHeld = false → s.waitersOf u = [] →
      (n ≠ 0 → ∃ t, exec (.hostSignal u n) s = .next t ∧ t.tally u = min 65535 (s.tally u + n) ∧
        (∀ k, k ≠ u.val → t.tally k = s.tally k) ∧ ∀ p, t.byteAt p = s.byteAt p) ∧
      ∃ t, exec (.hostArm u n) s = .next t ∧ t.tally u = n ∧ (∀ k, k ≠ u.val → t.tally k = s.tally k) ∧
        ∀ p, t.byteAt p = s.byteAt p) ∧
    (s.hostMay u = false →
      (∃ t, exec (.hostSignal u n) s = .next t ∧ t.rd .TL_HOST_CTL_REFUSED = 1 ∧ s.onlyRegs t
        [(.TL_HOST_OP_TALLY, 0), (.TL_HOST_OP_COUNT, 0), (.TL_HOST_CTL_OP, 0), (.TL_HOST_CTL_REFUSED, 0)]) ∧
      ∃ t, exec (.hostArm u n) s = .next t ∧ t.rd .TL_HOST_CTL_REFUSED = 1 ∧ s.onlyRegs t
        [(.TL_HOST_OP_TALLY, 0), (.TL_HOST_OP_COUNT, 0), (.TL_HOST_CTL_OP, 0), (.TL_HOST_CTL_REFUSED, 0)])

/-- The wait watchdog (R128): a write of TL_WDOG[q] takes its period, where that is from 1 to 60,000,000 µs, and its
enable; a wait that has lasted the period of a watchdog that is on ends with E_WAIT_TIMEOUT, nothing subtracted from
the tally, and one that has not goes on. -/
def Obligations.WaitWatchdog : Prop :=
  ∀ (s : State) (q : Fin 52),
    (∀ p, s.hostUp = true → 1 ≤ p → p ≤ 60000000 → (s.queue q).wait = none →
      ∃ t, exec (.tlWdogWrite q (p + 2 ^ 31)) s = .next t ∧ t.rdi .TL_WDOG_PERIOD q = p ∧ t.rdi .TL_WDOG_EN q = 1 ∧
        s.onlyRegs t [(.TL_WDOG_PERIOD, q.val), (.TL_WDOG_EN, q.val)]) ∧
    (s.wdogDue q = false → exec (.waitTimeout q) s = .next s) ∧
    (∀ h, (s.queue q).wait = some h → s.waitersOf h.tally = [⟨q.val, h.need⟩] → s.flag .TL_WDOG_EN q = true →
      s.rdi .TL_WDOG_PERIOD q ≤ h.elapsed → h.operand = true ∨ (s.queue q).taken = false → s.qState q ≠ 5 →
        ∃ t, exec (.waitTimeout q) s = .next t ∧ t.qState q = 5 ∧
        t.rdi .EN_Q_STAT_CODE q = E.waitTimeout.val ∧ t.tally h.tally = s.tally h.tally ∧
        t.waitersOf h.tally = [] ∧ t.rd .TL_STAT_WDOG_FIRED = 1)

/-! ### Provisional steps -/

/-- Confirm and squash (R199, R201, R202), where no write and no landing waits for the epoch to end. PSTEP.CONFIRM ends
the older live epoch confirmed, closed or open; the other stays. PSTEP.SQUASH with a live epoch leaves none live and
none of its banks' flags, and stays in progress until the restore of the oldest; with no live epoch it only completes. A
thresher that does not control provisional steps is faulted with E_PROV_OWNER. -/
def Obligations.ConfirmAndSquash : Prop :=
  ∀ (s : State) (t : Fin 8) (i : Ins),
    (s.rd .PS_CFG_CTL_T = t.val → s.flag .PS_CFG_EN 0 = true →
      (∀ e r, s.issues (thrQ t 0) 0x22 i → s.Calm → s.liveEpochs = e :: r →
        ∃ u, exec (.pstepConfirm t) s = .next u ∧ u.liveEpochs = r ∧ u.rd .PS_STAT_FOLDING = 1 ∧
          u.rd .PS_CONFIRM_CNT_COUNT = min (2 ^ 32 - 1) (s.rd .PS_CONFIRM_CNT_COUNT + 1) ∧
          u.prov.ended = s.prov.ended ++ [⟨e, false, false⟩] ∧
          u.rdi .EN_Q_PC_PC (thrQ t 0) = (loopNext (s.queue (thrQ t 0)).loops (i.pc + 16)).2 % 2 ^ 42 ∧
          (∀ p, u.byteAt p = s.byteAt p) ∧ ∀ k, k ≠ thrQ t 0 → u.queue k = s.queue k) ∧
      (∀ e r, s.issues (thrQ t 0) 0x23 i → s.Calm → s.liveEpochs = e :: r →
        ∃ u w, exec (.pstepSquash t) s = .next u ∧ u.liveEpochs = [] ∧ u.prov.squashing = s.prov.squashing ++ [e] ∧
          (∀ x ∈ e :: r, u.squashed x = true) ∧ w ∈ (u.queue (thrQ t 0)).work ∧ w.kind = .squash ∧ w.desc = e ∧
          u.flag .PS_ESC_FLAG_ESC_O 0 = false ∧ u.flag .PS_ESC_FLAG_ESC_A 0 = false ∧
          (∀ k, k < 8 → u.flag .PS_NUMFLAG_OVF_O k = false ∧ u.flag .PS_NUMFLAG_NAN_O k = false ∧
            u.flag .PS_NUMFLAG_OVF_A k = false ∧ u.flag .PS_NUMFLAG_NAN_A k = false) ∧
          ∀ p, u.byteAt p = s.byteAt p) ∧
      (s.issues (thrQ t 0) 0x23 i → s.liveEpochs = [] →
        ∃ u, exec (.pstepSquash t) s = .next u ∧ s.Retired u (thrQ t 0) i (i.pc + 16) []) ∧
      (s.issues (thrQ t 0) 0x22 i → s.liveEpochs = [] → exec (.pstepConfirm t) s =
        .next ((s.begun (thrQ t 0)).engineFault (thrQ t 0) (.of .provNone) i.pc))) ∧
    (s.rd .PS_CFG_CTL_T ≠ t.val →
      (s.issues (thrQ t 0) 0x22 i → exec (.pstepConfirm t) s =
        .next ((s.begun (thrQ t 0)).engineFault (thrQ t 0) (.of .provOwner) i.pc)) ∧
      (s.issues (thrQ t 0) 0x23 i → exec (.pstepSquash t) s =
        .next ((s.begun (thrQ t 0)).engineFault (thrQ t 0) (.of .provOwner) i.pc)) ∧
      (s.issues (thrQ t 0) 0x21 i → exec (.pstepOpen t) s =
        .next ((s.begun (thrQ t 0)).engineFault (thrQ t 0) (.of .provOwner) i.pc)))

/-- PSTEP.OPEN whose descriptor and tally list pass rows 5 to 7 of R199, with room for an epoch and at most one live,
opens the epoch it names and checkpoints the tallies it lists; an open one becomes the closed one (R198, R200). -/
def Obligations.OpenStartsEpoch : Prop :=
  ∀ (s : State) (t : Fin 8) (i : Ins) (x : Desc) (us : List Nat), s.issues (thrQ t 0) 0x21 i →
    s.rd .PS_CFG_CTL_T = t.val → s.flag .PS_CFG_EN 0 = true → s.liveEpochs.length ≤ 1 → s.flaws = [] →
    s.rd .PS_EPOCH_OPEN_EPOCH < 2 ^ 32 → s.finds (thrQ t 0) i x → s.mustStall (thrQ t 0) [x.span] [] none = false →
    s.openCheck t x = .ok () → s.openTallies t x.word = .ok us → s.liveEpochs.length + s.unfolded.length < 4 →
    ∃ u, exec (.pstepOpen t) s = .next u ∧ u.liveEpochs = s.liveEpochs ++ [fld x.word 0 4] ∧
      u.rd .PS_EPOCH_LAST_EPOCH = fld x.word 0 4 ∧
      Tbl.get [] u.prov.checks (fld x.word 0 4) = us.map (fun k => (k, s.tally k)) ∧ ∀ p, u.byteAt p = s.byteAt p

/-- The end of epochs (R202, R203, R207). The restore of the earliest squash: once every instruction bound to a squashed
epoch has completed, the counts of the checkpointed tallies that nothing waits on return, and the SQUASH is complete.
The fold of the oldest ended epoch: its granules lose their tags, and it is folded; a DUAL granule of a confirmed epoch
changes its committed side, one of a squashed epoch keeps it. One tally and one granule are shown. -/
def Obligations.RestoreAndFold : Prop :=
  (∀ (s : State) (e u n : Nat) (r : List Nat), s.prov.squashing = e :: r → s.squashDrained = true → s.waiters = [] →
    Tbl.get [] s.prov.checks e = [(u, n)] → n < 65536 → s.allocated u = true →
    (∀ q id, s.squasher e = some (q, id) → (s.queue q).ending = none) →
    ∃ t, exec .squashRestore s = .next t ∧ t.tally u = n ∧ t.prov.squashing = r ∧
      (∀ q id, s.squasher e = some (q, id) → ∀ w ∈ (t.queue q).work, w.id = id → w.done = true) ∧
      (∀ k, k ≠ u → t.tally k = s.tally k) ∧ ∀ p, t.byteAt p = s.byteAt p) ∧
  (∀ (s : State), s.prov.squashing = [] ∨ s.squashDrained = false → exec .squashRestore s = .next s) ∧
  ∀ (s : State) (x : Ended) (r : List Ended) (v g : Nat) (gr : Granule), s.prov.ended = x :: r → x.folded = false →
    s.prov.granules = [(granKey v g, gr)] → gr.tag = some x.epoch → v < 64 → g < 2 ^ 23 →
    s.flag .PS_VREG_CFG_KIND v = false → s.live x.epoch = false → s.squashed x.epoch = x.squashed →
    ∃ t, exec .epochFold s = .next t ∧ (t.granule v g).tag = none ∧
      (t.granule v g).sideB = (if x.squashed then gr.sideB else !gr.sideB) ∧
      (t.prov.ended.head?.map Ended.folded) = some true ∧ (∀ p, t.byteAt p = s.byteAt p) ∧
      ∀ f k, f ≠ .PS_STAT_FOLDING → t.rdi f k = s.rdi f k

/-! ### Clocks -/

/-- Island sources and meters (R283, R286, R287, R289, R295): an island that host software may command accepts a ready
source and begins to switch where it runs from another, and refuses one that is not ready; any other command sets BUSY.
The switch of a thresher, bay-core or HBM island, while nothing waits for memory, ends on that source at its frequency;
an HBM stack goes into self-refresh on its safe clock and out of it else. A meter that does not run starts, one that
does sets BUSY; it ends with its count, 0 for an island that does not run; CK_SNAP latches all 43 cycle counters. -/
def Obligations.ClockCommands : Prop :=
  ∀ (s : State),
    (∀ (i : Fin 43) (src : Fin 4) (r : F), s.hostUp = true →
      r = (match src.val with | 0 => .CK_ISL_STAT_READY0 | 1 => .CK_ISL_STAT_READY1 | _ => .CK_ISL_STAT_READYS) →
      (src.val < 3 → i.val < 40 → s.islandOwner i = 0 → s.flag .CK_ISL_STAT_SWITCHING i = false →
        (s.rdi r i ≠ 0 → ∃ t, exec (.ckIslSrcWrite i src) s = .next t ∧ t.rdi .CK_ISL_CTL_SRC i = src.val ∧
          t.flag .CK_ISL_STAT_SWITCHING i = decide (s.rdi .CK_ISL_STAT_CUR i ≠ src.val) ∧
          s.onlyRegs t [(.CK_ISL_CTL_SRC, i.val), (.CK_ISL_STAT_SWITCHING, i.val)]) ∧
        (s.rdi r i = 0 → ∃ t, exec (.ckIslSrcWrite i src) s = .next t ∧ t.rd .CK_STAT_REFUSED = 1 ∧
          s.onlyRegs t [(.CK_STAT_REFUSED, 0), (.CK_STAT_REFUSED_ISL, 0)])) ∧
      (src.val = 3 ∨ 40 ≤ i.val ∨ s.islandOwner i ≠ 0 ∨ s.flag .CK_ISL_STAT_SWITCHING i = true →
        ∃ t, exec (.ckIslSrcWrite i src) s = .next t ∧ t.rd .CK_STAT_BUSY = 1 ∧ s.onlyRegs t [(.CK_STAT_BUSY, 0)])) ∧
    (∀ i : Fin 43, s.flag .CK_ISL_STAT_SWITCHING i = false → exec (.islandSwitch i) s = .next s) ∧
    (∀ i : Fin 43, s.flag .CK_ISL_STAT_SWITCHING i = true → i.val < 36 → s.rdi .CK_ISL_CTL_SRC i < 3 →
      s.rdi .CK_ISL_STAT_CUR i ≠ s.rdi .CK_ISL_CTL_SRC i → s.Calm → ∃ t, exec (.islandSwitch i) s = .next t ∧
      t.rdi .CK_ISL_STAT_CUR i = s.rdi .CK_ISL_CTL_SRC i ∧
      t.rdi .CK_ISL_STAT_MHZ i = s.srcMhz i (s.rdi .CK_ISL_CTL_SRC i) % 4096 ∧
      t.flag .CK_ISL_STAT_SWITCHING i = false ∧
      (∀ k, i.val = 12 + k → s.online k = true →
        t.gran.asleep.contains k = decide (s.rdi .CK_ISL_CTL_SRC i = 2)) ∧
      s.onlyRegs { t with clock := s.clock, gran := s.gran } [(.CK_ISL_STAT_CUR, i.val), (.CK_ISL_STAT_MHZ, i.val),
        (.CK_ISL_STAT_SWITCHING, i.val), (.CK_ISL_SWITCHES_COUNT, i.val), (.CK_ISL_CYCLES_COUNT, i.val)]) ∧
    (∀ (m : Fin 3) (a b : Fin 64), s.hostUp = true →
      (m.val ≠ 0 → s.flag .CK_METER_CTL_GO m = false → clockCode a = true →
        clockCode b = true → ∃ t, exec (.meterGo m a b) s = .next t ∧ t.rdi .CK_METER_CTL_MEAS m = a.val ∧
        t.rdi .CK_METER_CTL_GATE m = b.val ∧ t.rdi .CK_METER_CTL_GO m = 1 ∧ t.rdi .CK_METER_CTL_STATUS m = 1 ∧
        s.onlyRegs t [(.CK_METER_CTL_MEAS, m.val), (.CK_METER_CTL_GATE, m.val), (.CK_METER_CTL_GO, m.val),
          (.CK_METER_CTL_STATUS, m.val)]) ∧
      (m.val = 0 ∨ s.flag .CK_METER_CTL_GO m = true → ∃ t, exec (.meterGo m a b) s = .next t ∧ t.rd .CK_STAT_BUSY = 1 ∧
        s.onlyRegs t [(.CK_STAT_BUSY, 0)])) ∧
    (∀ (m : Fin 3) (n : Nat), s.flag .CK_METER_CTL_GO m = true → n < 2 ^ 64 →
      (∃ t, exec (.meterDone m n) s = .next t ∧ t.rdi .CK_METER_CNT_COUNT m =
          (if s.rdi .CK_METER_CTL_MEAS m < 43 ∧ s.islandRuns (s.rdi .CK_METER_CTL_MEAS m) = false then 0 else n) ∧
        t.rdi .CK_METER_CTL_STATUS m = 0 ∧
        t.rdi .CK_METER_CTL_GO m = 0 ∧ s.onlyRegs t [(.CK_METER_CNT_COUNT, m.val), (.CK_METER_CTL_STATUS, m.val),
          (.CK_METER_CTL_GO, m.val)]) ∧
      ∃ t, exec (.noGate m) s = .next t ∧ t.rdi .CK_METER_CTL_STATUS m = 2 ∧ t.rdi .CK_METER_CTL_GO m = 0 ∧
        s.onlyRegs { t with freeCtr := s.freeCtr } [(.CK_METER_CNT_COUNT, m.val), (.CK_METER_CTL_STATUS, m.val),
          (.CK_METER_CTL_GO, m.val)]) ∧
    (s.hostUp = true → ∃ t, exec .ckSnap s = .next t ∧ t.rd .CK_SNAP_VALID = 1 ∧
      (∀ i, i < 43 → t.rdi .CK_ISL_SNAP_COUNT i = s.rdi .CK_ISL_CYCLES_COUNT i % 2 ^ 64) ∧
      t = { s with regs := t.regs } ∧
      ∀ f k, f ≠ .CK_ISL_SNAP_COUNT → f ≠ .CK_SNAP_VALID → t.rdi f k = s.rdi f k)

/-- The REFCLK monitor (R281, R282, R290 to R293): a window of 88 to 112 counts passes, and the 100th in a row arms the
monitor and takes AO off its safe clock; a failing window of an armed monitor outside an episode begins one: every
island is on its safe clock under the fallback's ownership, the host link down, every online stack in self-refresh; one
in an episode puts every island back there. PLL lock, with no port UP and nothing waiting for memory, gives every
island back, ends the episode and lets the link train. -/
def Obligations.ClockFailureAndRestore : Prop :=
  ∀ (s : State), s.boot.phase ≠ .off →
    (∀ n, 88 ≤ n → n ≤ 112 → ∃ t, exec (.monitorWindow n) s = .next t ∧
      t.clock.passes = min 100 (s.clock.passes + 1) ∧ t.rd .CK_STAT_REFCLK_OK = 1 ∧ t.rd .CK_MON_LAST = n ∧
      (s.clock.passes = 99 → t.rd .CK_STAT_ARMED = 1 ∧ t.rdi .CK_ISL_STAT_OWNER 42 = 0) ∧
      s.onlyRegs { t with clock := s.clock } ([(.CK_MON_LAST, 0), (.CK_METER_CNT_COUNT, 0), (.CK_STAT_REFCLK_OK, 0)] ++
        if 99 = s.clock.passes ∨ 100 < s.clock.passes then [(.CK_STAT_ARMED, 0), (.CK_ISL_STAT_CUR, 42),
          (.CK_ISL_STAT_MHZ, 42),
          (.CK_ISL_STAT_SWITCHING, 42), (.CK_ISL_SWITCHES_COUNT, 42), (.CK_ISL_CYCLES_COUNT, 42),
          (.CK_ISL_STAT_OWNER, 42), (.CK_ISL_STAT_READY0, 42), (.CK_ISL_STAT_READY1, 42)] else [])) ∧
    (∀ n, n < 88 ∨ 112 < n →
      (s.flag .CK_STAT_ARMED 0 = true ∨ s.flag .CK_STAT_EPISODE 0 = true → ∃ t, exec (.monitorWindow n) s = .next t ∧
        t.clock.passes = 0 ∧ t.rd .CK_STAT_REFCLK_OK = 0 ∧ t.flag .CK_STAT_EPISODE 0 = true ∧ t.hostUp = false ∧
        (s.flag .CK_STAT_EPISODE 0 = false → t.rd .HI_ALERT_CLKFAIL = 1) ∧
        (∀ i, i < 43 → t.rdi .CK_ISL_STAT_CUR i = 2 ∧ t.rdi .CK_ISL_STAT_OWNER i = 3) ∧
        (∀ k, k < 24 → s.online k = true → t.gran.asleep.contains k = true) ∧ ∀ p, t.byteAt p = s.byteAt p) ∧
      (s.flag .CK_STAT_ARMED 0 = false → s.flag .CK_STAT_EPISODE 0 = false → ∃ t, exec (.monitorWindow n) s = .next t ∧
        t.clock.passes = 0 ∧ s.onlyRegs { t with clock := s.clock }
          [(.CK_MON_LAST, 0), (.CK_METER_CNT_COUNT, 0), (.CK_STAT_REFCLK_OK, 0)])) ∧
    (s.pllDue = false → exec .pllLock s = .next s) ∧
    (s.pllDue = true → s.floorOn = false → s.homeSource 40 ≠ 2 → (∀ p, p < 16 → s.portState p ≠ 3) → s.Calm →
      ∃ t, exec .pllLock s = .next t ∧ t.flag .CK_STAT_EPISODE 0 = false ∧
      (∀ i, i < 43 → t.rdi .CK_ISL_STAT_OWNER i = 0 ∧ t.rdi .CK_ISL_STAT_READY0 i = 1) ∧
      t.hostUp = (s.hostUp || s.boot.phase == .up) ∧ t.clock.before = [] ∧ ∀ p, t.byteAt p = s.byteAt p)

/-! ### Power and temperature -/

/-- PW_PROFILE sets the cap and the ceiling of its profile, at once where no accepted change is still to take effect and
behind those else, and sets BUSY and CFG_REFUSED alone while an earlier profile takes effect; PW_CAP takes 900 W to
2,800 W and PW_PRIO a permutation; anything else sets CFG_REFUSED alone (R16, R18, R263, R266). -/
def Obligations.PowerConfiguration : Prop :=
  ∀ (s : State) (v : Nat), s.hostUp = true → v < 4096 →
    (v < 3 →
      (s.modes = [] → ∃ t, exec (.pwProfileWrite v) s = .next t ∧ t.rd .PW_PROFILE_PROFILE = v ∧
        t.rd .PW_CAP_WATTS = [2800, 2400, 1800].getD v 0 ∧ t.rd .PW_PSTATE_CEIL = [0, 0, 2].getD v 0 ∧
        t.modes = [.profile v]) ∧
      (s.modes ≠ [] → s.modeBusy (.profile v) = false →
        exec (.pwProfileWrite v) s = .next { s with modes := s.modes ++ [.profile v] }) ∧
      (s.modeBusy (.profile v) = true → ∃ t, exec (.pwProfileWrite v) s = .next t ∧ t.rd .PW_STAT_BUSY = 1 ∧
        t.rd .PW_STAT_CFG_REFUSED = 1 ∧ s.onlyRegs t [(.PW_STAT_BUSY, 0), (.PW_STAT_CFG_REFUSED, 0)])) ∧
    (v = 3 → ∃ t, exec (.pwProfileWrite v) s = .next t ∧ t.rd .PW_STAT_CFG_REFUSED = 1 ∧
      s.onlyRegs t [(.PW_STAT_CFG_REFUSED, 0)]) ∧
    (900 ≤ v → v ≤ 2800 → ∃ t, exec (.pwCapWrite v) s = .next t ∧ t.rd .PW_CAP_WATTS = v ∧
      s.onlyRegs t [(.PW_CAP_WATTS, 0)]) ∧
    (v < 900 ∨ 2800 < v → ∃ t, exec (.pwCapWrite v) s = .next t ∧ t.rd .PW_STAT_CFG_REFUSED = 1 ∧
      s.onlyRegs t [(.PW_STAT_CFG_REFUSED, 0)]) ∧
    (isOrder (bits v 0 2) (bits v 2 2) (bits v 4 2) = true → ∃ t, exec (.pwPrioWrite v) s = .next t ∧
      t.rd .PW_PRIO_FIRST = bits v 0 2 ∧ t.rd .PW_PRIO_SECOND = bits v 2 2 ∧ t.rd .PW_PRIO_THIRD = bits v 4 2 ∧
      s.onlyRegs t [(.PW_PRIO_FIRST, 0), (.PW_PRIO_SECOND, 0), (.PW_PRIO_THIRD, 0)]) ∧
    (isOrder (bits v 0 2) (bits v 2 2) (bits v 4 2) = false → ∃ t, exec (.pwPrioWrite v) s = .next t ∧
      t.rd .PW_STAT_CFG_REFUSED = 1 ∧ s.onlyRegs t [(.PW_STAT_CFG_REFUSED, 0)])

/-- P-states (R259, R269, R270, R275, R277, R288): a thresher's island moves one P-state toward the one its limits give,
and runs at that state's frequency; in the Floor state a divided one goes on a PLL output at P7; AUTO steps down above
1/2 compute bubbles; a droop is counted and its bubbles end with the hold; a thresher at or above its throttle limit is
held one P-state lower, once for each step. -/
def Obligations.PstateCommands : Prop :=
  ∀ (s : State) (t : Fin 8),
    (s.pstateFree t = true → s.floorOn = false → s.rdi .PW_THR_STAT_PSTATE t ≤ 7 →
      (s.rdi .PW_THR_STAT_PSTATE t < 7 → s.rdi .PW_THR_STAT_PSTATE t < s.pstateWanted t →
        ∃ u, exec (.pstateChange t) s = .next u ∧ u.rdi .PW_THR_STAT_PSTATE t = s.rdi .PW_THR_STAT_PSTATE t + 1 ∧
        u.rdi .CK_ISL_STAT_MHZ t = pstateMhz (s.rdi .PW_THR_STAT_PSTATE t + 1) ∧
        s.onlyRegs { u with clock := s.clock } [(.PW_THR_STAT_PSTATE, t.val), (.CK_ISL_STAT_MHZ, t.val),
          (.CK_ISL_STAT_CUR, t.val),
          (.CK_ISL_STAT_SWITCHING, t.val), (.CK_ISL_SWITCHES_COUNT, t.val), (.CK_ISL_CYCLES_COUNT, t.val)]) ∧
      (s.pstateWanted t < s.rdi .PW_THR_STAT_PSTATE t → s.power.returning = false →
        ∃ u, exec (.pstateChange t) s = .next u ∧ u.rdi .PW_THR_STAT_PSTATE t = s.rdi .PW_THR_STAT_PSTATE t - 1 ∧
        u.rdi .CK_ISL_STAT_MHZ t = pstateMhz (s.rdi .PW_THR_STAT_PSTATE t - 1) ∧
        s.onlyRegs { u with clock := s.clock } [(.PW_THR_STAT_PSTATE, t.val), (.CK_ISL_STAT_MHZ, t.val),
          (.CK_ISL_STAT_CUR, t.val),
          (.CK_ISL_STAT_SWITCHING, t.val), (.CK_ISL_SWITCHES_COUNT, t.val), (.CK_ISL_CYCLES_COUNT, t.val)]) ∧
      (s.pstateWanted t = s.rdi .PW_THR_STAT_PSTATE t → exec (.pstateChange t) s = .next s)) ∧
    (s.floorOn = true → s.pstateFree t = true → t.val ∈ s.clock.divided → ∃ u, exec (.pstateChange t) s = .next u ∧
      u.rdi .PW_THR_STAT_PSTATE t = 7 ∧ u.rdi .CK_ISL_STAT_MHZ t = 350 ∧ t.val ∉ u.clock.divided ∧
      u.queues = s.queues ∧ ∀ p, u.byteAt p = s.byteAt p) ∧
    (s.flag .PW_PSTATE_AUTO 0 = true → s.flag .PW_PSTATE_PIN_EN 0 = false → (Frac.of 1 2).lt s.power.compute = true →
      ∃ u, exec (.autoPstateStep t) s = .next u ∧
        Tbl.get 0 u.power.auto t = min 7 (s.rdi .PW_THR_STAT_PSTATE t + 1) ∧ u = { s with power := u.power }) ∧
    (s.domainOff (thrDomain t) = false → s.boot.phase ≠ .off → s.rdi .PW_DROOP_CNT_COUNT t < 2 ^ 32 - 1 →
      ∃ u, exec (.droop t) s = .next u ∧ t.val ∈ u.power.droop ∧
        u.rdi .PW_DROOP_CNT_COUNT t = s.rdi .PW_DROOP_CNT_COUNT t + 1 ∧
        s.onlyRegs { u with power := s.power } [(.PW_DROOP_CNT_COUNT, t.val)]) ∧
    (t.val ∈ s.power.droop → ∃ u, exec (.droopHoldExpiry t) s = .next u ∧ t.val ∉ u.power.droop ∧
      s.onlyRegs { u with power := s.power, freeCtr := s.freeCtr } [(.PW_BUBBLE_CNT_COUNT, t.val)]) ∧
    (∀ x : Int, s.hottest t = some x → 8 * (s.rd .TM_LIMIT_THROTTLE : Int) ≤ x → s.rdi .PW_THR_STAT_PSTATE t < 7 →
      (Tbl.get 0 s.power.heat t ≤ s.rdi .PW_THR_STAT_PSTATE t →
        ∃ u, exec (.throttleStep t) s = .next u ∧ Tbl.get 0 u.power.heat t = s.rdi .PW_THR_STAT_PSTATE t + 1 ∧
        u.rd .TM_THROTTLE_CNT_COUNT = min (2 ^ 32 - 1) (s.rd .TM_THROTTLE_CNT_COUNT + 1) ∧
        (∀ p, u.byteAt p = s.byteAt p) ∧ u.queues = s.queues) ∧
      (s.rdi .PW_THR_STAT_PSTATE t < Tbl.get 0 s.power.heat t → exec (.throttleStep t) s = .next s))

/-- Measurements (R263, R264, R273, R274). A reading of a sensor whose domain is on shows its temperature as valid; a
failed self-check makes it invalid and sets SENSOR_FAIL. The cap loop's period shows the power measured, with every gain
1 the sum of what the 20 domains and AO draw, the effective cap, and the energy used, ends a profile that was taking
effect, and moves no memory; calibration by running firmware corrects the gain of each domain that is estimated at
all. -/
def Obligations.MeasurementsAndCalibration : Prop :=
  (∀ (s : State) (i : Sensor) (n : Nat), n < 4096 → s.boot.phase ≠ .off → s.domainOff (sensorDomain i) = false →
    (∃ t, exec (.sensorSample i n true) s = .next t ∧ t.rdi (sensorFields i).1 (sensorFields i).2.2 = n ∧
      t.flag (sensorFields i).2.1 (sensorFields i).2.2 = true ∧ (∀ p, t.byteAt p = s.byteAt p) ∧ t.queues = s.queues) ∧
    ∃ t, exec (.sensorSample i n false) s = .next t ∧ t.flag (sensorFields i).2.1 (sensorFields i).2.2 = false ∧
      t.rd .TM_STAT_SENSOR_FAIL = 1 ∧ (∀ p, t.byteAt p = s.byteAt p) ∧ t.queues = s.queues) ∧
  ∀ (s : State),
    (∀ m : List Nat, m.length = 21 → s.boot.phase ≠ .off → s.power.gains = List.replicate 21 ⟨1, 1⟩ → m.sum ≤ 4095 →
      s.modes = [] ∨ (∃ p, s.modes = [.profile p]) →
      ∃ t, exec (.capLoopPeriod m) s = .next t ∧ t.rd .PW_MEAS_WATTS = m.sum ∧
        t.rd .PW_CAP_EFFECTIVE = s.capNow % 4096 ∧
        t.rd .PW_ENERGY_UJ = (s.rd .PW_ENERGY_UJ + 10 * m.sum) % 2 ^ 64 ∧ t.modes = [] ∧
        (∀ p, t.byteAt p = s.byteAt p) ∧ t.queues = s.queues) ∧
    (∀ g : List Gain, g.length = 21 → s.power.gains.length = 21 → s.fwUp = true →
      ∃ t, exec (.calibrationTick g) s = .next t ∧ t.rd .PW_STAT_CALIBRATED = 1 ∧
        (∀ (k : Nat) (x : Frac) (y : Gain), s.power.gains[k]? = some x → g[k]? = some y →
          t.power.gains[k]? = some (if y.estimate = 0 then x else x.mul (.of y.sensed y.estimate))) ∧
        s.onlyRegs { t with power := s.power } [(.PW_STAT_CALIBRATED, 0)])

/-- The Floor state (R271, R272, R287, R288): PW_ALERT_N low outside an episode puts every thresher whose domain is on at
P7 under its ownership, its clock divided unless it runs on the safe clock; the release begins the hold; its expiry ends
the state and begins the return, one P-state a step. -/
def Obligations.FloorState : Prop :=
  ∀ (s : State),
    (s.power.alertLow = false → s.boot.phase ≠ .off → s.flag .CK_STAT_EPISODE 0 = false →
      ∃ t, exec .pwAlertAssert s = .next t ∧ t.power.alertLow = true ∧ t.rd .HI_ALERT_FLOOR = 1 ∧
        t.flag .PW_STAT_ALERT 0 = true ∧
        (∀ k, k < 8 → s.domainOff (thrDomain k) = false → t.rdi .PW_THR_STAT_PSTATE k = 7 ∧ t.rdi .CK_ISL_STAT_OWNER k = 2 ∧
          (s.rdi .CK_ISL_STAT_CUR k ≠ 2 → k ∈ t.clock.divided)) ∧ ∀ p, t.byteAt p = s.byteAt p) ∧
    (s.power.alertLow = true → ∃ t, exec .pwAlertRelease s = .next t ∧ t.power.alertLow = false ∧
      t.power.holding = true ∧ t = { s with power := t.power }) ∧
    (s.power.holding = true → ∃ t, exec .floorHoldExpiry s = .next t ∧ t.power.holding = false ∧
      t.power.returning = true ∧ t.flag .PW_STAT_ALERT 0 = false ∧ t.clock.divided = [] ∧
      (∀ k, k < 8 → t.rdi .CK_ISL_STAT_OWNER k ≠ 2) ∧ ∀ p, t.byteAt p = s.byteAt p) ∧
    (s.power.returning = true → ∃ t, exec .floorReturnStep s = .next t ∧
      (∀ k, k < 8 → s.pstateFree k = true → s.pstateWanted k < s.rdi .PW_THR_STAT_PSTATE k →
        s.rdi .PW_THR_STAT_PSTATE k ≤ 7 → t.rdi .PW_THR_STAT_PSTATE k = s.rdi .PW_THR_STAT_PSTATE k - 1) ∧
      (∀ k, k < 8 → s.rdi .PW_THR_STAT_PSTATE k ≤ s.pstateWanted k →
        t.rdi .PW_THR_STAT_PSTATE k = s.rdi .PW_THR_STAT_PSTATE k) ∧ ∀ p, t.byteAt p = s.byteAt p)

/-- Power domains and Idle (R256, R257, R260, R261, R276): a change of OFF is accepted where its condition holds and sets
REFUSED else; a thresher domain that goes off while nothing waits for memory loses its loft, and no other byte; one that
comes on outside the Floor state shows it; in Dormant and after a thermal trip none switches. Idle is entered where
nothing moves and refused with BUSY else, and left on request. What a lost byte then reads as is the model's choice
(assumption log entry 1). -/
def Obligations.DomainsAndIdle : Prop :=
  ∀ (s : State),
    (∀ (d : Fin 20) (off : Bool), s.hostUp = true → s.flag .PW_DOM_OFF d = !off →
      ((if off then s.mayGoOff d else s.mayComeOn d) = true → ∃ t, exec (.pwDomWrite d off) s = .next t ∧
        t.rdi .PW_DOM_OFF d = b2n off ∧ s.onlyRegs t [(.PW_DOM_OFF, d.val)]) ∧
      ((if off then s.mayGoOff d else s.mayComeOn d) = false → ∃ t, exec (.pwDomWrite d off) s = .next t ∧
        t.rdi .PW_DOM_REFUSED d = 1 ∧ s.onlyRegs t [(.PW_DOM_REFUSED, d.val)])) ∧
    (s.power.dormant = true ∨ s.power.tripOff = true → ∀ d : Fin 20, exec (.domainSwitched d) s = .next s) ∧
    (s.power.dormant = false → s.power.tripOff = false →
      (∀ k : Fin 8, s.flag .PW_DOM_OFF (thrDomain k) = true → s.domainOff (thrDomain k) = false → s.Calm →
        ∃ t, exec (.domainSwitched (Fin.ofNat 20 (thrDomain k))) s = .next t ∧ t.domainOff (thrDomain k) = true ∧
        ∀ p, t.byteAt p = if Config.loftBase k ≤ p ∧ p < Config.loftBase k + Config.loftBytes then 0 else s.byteAt p) ∧
      (∀ d : Fin 20, s.flag .PW_DOM_OFF d = false → s.domainOff d = true → s.floorOn = false →
        ∃ t, exec (.domainSwitched d) s = .next t ∧ t.domainOff d = false ∧ s.onlyRegs t [(.PW_DOM_IS_OFF, d.val)])) ∧
    (s.hostUp = true → s.quiet = true → ∃ t, exec .enterIdle s = .next t ∧ t.rd .PW_STATE_IDLE = 1 ∧
      s.onlyRegs t [(.PW_STATE_IDLE, 0)]) ∧
    (s.hostUp = true → s.quiet = false → ∃ t, exec .enterIdle s = .next t ∧ t.rd .PW_STAT_BUSY = 1 ∧
      s.onlyRegs t [(.PW_STAT_BUSY, 0)]) ∧
    (∀ a : Bool, s.hostUp = true ∨ a = true → s.flag .PW_STATE_IDLE 0 = true →
      ∃ t, exec (.leaveIdle a) s = .next t ∧ t.rd .PW_STATE_IDLE = 0 ∧ s.onlyRegs t [(.PW_STATE_IDLE, 0)])

/-! ### Resets, power and the climb to Full service -/

/-- Resets and power (R24, R297, R298, R354). Power on begins a reset with cause POWER in which the AO records start
afresh; power loss leaves the module off with nothing but its fuses. Every other reset leaves the module held, with its
cause noted beside those of a reset already in progress, every register but the fuses' and the AO records at its reset
value and everything else empty; the PCIe link is down after it, but for FLR. -/
def Obligations.ResetsAndPower : Prop :=
  (∀ (s : State),
    (s.boot.phase = .off → ∃ t, exec .powerOn s = .next t ∧ s.ResetFrom t fuseFields [0] ∧ t.hostUp = false) ∧
    (s.boot.phase ≠ .off → ∃ t, exec .powerLoss s = .next t ∧ t.boot.phase = .off ∧ t.hostUp = false ∧
      t.fuses = s.fuses ∧ (∀ p, t.byteAt p = 0) ∧ t.power.tripPin = false ∧
      ∀ f k, f ∈ fuseFields → t.rdi f k = s.rdi f k)) ∧
  ∀ (s : State) (cs : Nat → List Nat),
    (∀ c, cs c = if s.boot.phase = .held then s.boot.causes ++ [c] else [c]) →
    (s.boot.perstLow = false → s.boot.phase ≠ .off → ∃ t, exec .perstAssert s = .next t ∧
      s.ResetFrom t (fuseFields ++ recordFields) (cs 1) ∧ t.hostUp = false ∧ t.boot.perstLow = true) ∧
    (s.hostUp = true →
      (∀ c, ∃ t, exec (.hotReset c) s = .next t ∧ s.ResetFrom t (fuseFields ++ recordFields) (cs 2) ∧ t.hostUp = false) ∧
      (∃ t, exec .flr s = .next t ∧ s.ResetFrom t (fuseFields ++ recordFields) (cs 3) ∧ t.hostUp = true) ∧
      (∃ t, exec (.erResetKey 0xD1E5) s = .next t ∧ s.ResetFrom t (fuseFields ++ recordFields) (cs 4) ∧ t.hostUp = false) ∧
      ∀ k, k < 65536 → k ≠ 0xD1E5 → exec (.erResetKey k) s = .next s) ∧
    (s.flag .CK_STAT_EPISODE 0 = true → s.clock.passes ≠ 100 → ∃ t, exec .clkTimeout s = .next t ∧
      s.ResetFrom t (fuseFields ++ recordFields) (cs 5) ∧ t.hostUp = false)

/-- PERST_N's release lets the boot ROM start; the boot ROM records the first cause in the order of R298 as CAUSE,
clears the trip record, and trains the link where the PCIe island runs on its normal clock (R283, R298, R299). -/
def Obligations.BootRecordsCause : Prop :=
  ∀ (s : State),
    (∃ t, exec .perstRelease s = .next t ∧ t = { s with boot := { s.boot with perstLow := false } }) ∧
    (s.mayBoot = true → ∃ t, exec .bootRom s = .next t ∧ t.boot.phase = .up ∧ t.boot.causes = [] ∧
      t.power.tripRecord = false ∧
      t.rd .ER_RESET_CAUSE_CAUSE = ((causeOrder.find? s.resetCauses.contains).getD 0) % 8 ∧
      t.hostUp = (s.hostUp || s.rdi .CK_ISL_STAT_CUR 40 != 2) ∧ (∀ p, t.byteAt p = s.byteAt p) ∧
      ∀ f k, f ≠ .ER_RESET_CAUSE_CAUSE → f ≠ .ER_RESET_CAUSE_ALSO → t.rdi f k = s.rdi f k)

/-- Dormant, wake and the thermal trip (R261, R262, R276, R277, R280). With every queue idle the module enters Dormant with
all 20 domains off and only AO's registers kept, else BUSY is set. Of what AO detects in Dormant the first source in the
order sideband, PCIe, lowest watching port wakes it through a reset with cause WAKE and is recorded; a port watches for
the pattern, and where WAKE_ENERGY is 1 for signal energy; nothing else wakes it. A trip of a valid sensor shuts the
domains off for good, asserts the pin, keeps the record, leaves no reading valid, and overrides a set pin. -/
def Obligations.DormantWakeAndTrip : Prop :=
  ∀ (s : State),
    (s.hostUp = true → s.allIdle = true → ∃ t, exec .enterDormant s = .next t ∧ t.power.dormant = true ∧
      t.hostUp = false ∧ (∀ d, d < 20 → t.domainOff d = true) ∧ (∀ p, t.byteAt p = 0) ∧
      ∀ f k, f ∈ fuseFields ++ recordFields ++ wakeFields → t.rdi f k = s.rdi f k) ∧
    (s.hostUp = true → s.allIdle = false → ∃ t, exec .enterDormant s = .next t ∧ t.rd .PW_STAT_BUSY = 1 ∧
      s.onlyRegs t [(.PW_STAT_BUSY, 0)]) ∧
    (∀ w : WakeSeen, w.wf = true → s.power.dormant = true →
      (∀ k p, s.wakeSource w = some (k, p) → ∃ t, exec (.wake w) s = .next t ∧
        t.boot.phase = .held ∧ 7 ∈ t.boot.causes ∧ t.power.dormant = false ∧
        t.rd .PW_WAKE_LAST_SOURCE = k ∧ t.rd .PW_WAKE_LAST_PORT = p) ∧
      (s.wakeSource w = none → exec (.wake w) s = .next s) ∧
      (w.sideband = true → s.wakeSource w = some (3, 0)) ∧
      (w.sideband = false → w.pcie = true → s.wakeSource w = some (2, 0)) ∧
      (w.sideband = false → w.pcie = false → ∀ p, p < 16 → s.portWakes w p = true →
        (∀ k, k < p → s.portWakes w k = false) → s.wakeSource w = some (1, p)) ∧
      ∀ p, p < 16 → s.portWakes w p = (s.flag .WN_PORT_CTL_WAKE_EN p &&
        (bit w.pattern p || (bit w.energy p && s.flag .WN_PORT_CTL_WAKE_ENERGY p)))) ∧
    (∀ i : Sensor, s.flag (sensorFields i).2.1 (sensorFields i).2.2 = true → s.boot.phase ≠ .off →
      ∃ t, exec (.thermtrip i) s = .next t ∧ t.rd .TM_STAT_TRIPPED = 1 ∧ t.rd .HI_ALERT_TRIP = 1 ∧
        t.power.tripPin = true ∧ t.power.tripRecord = true ∧ t.power.tripOff = true ∧ t.hostUp = false ∧
        t.fwUp = false ∧ (∀ d, d < 20 → t.domainOff d = true) ∧
        (∀ j : Sensor, t.flag (sensorFields j).2.1 (sensorFields j).2.2 = false) ∧
        (s.flag .PW_PSTATE_PIN_EN 0 = true → t.rd .PW_STAT_PIN_OVERRIDDEN = 1) ∧ ∀ p, t.byteAt p = 0)

/-- Loading firmware and the carrier record (R330, R331, R341, R342). The staging aperture takes bytes while no image
is verified or runs, and drops them else; GO starts verification of LEN bytes, or sets BUSY; a verified image runs and
brings the module to FIRMWARE, a refused one leaves its REASON and an empty aperture. A carrier record in range loads
its class, slot and budget; an absent or invalid one loads the default of 1,200 W and says which it was. -/
def Obligations.FirmwareAndCarrierRecord : Prop :=
  (∀ (s : State), s.fwUp = true → s.rd .ID_BOARD_FRU_STATUS = 0 →
    (∀ (cls slot budget : Nat) (ports : List Nat), (Fru.record cls slot budget ports).wf = true →
      fruOk (.record cls slot budget ports) = true → ∃ t, exec (.fruRead (.record cls slot budget ports)) s = .next t ∧
        t.rd .ID_BOARD_FRU_STATUS = 1 ∧ t.rd .ID_BOARD_CLASS = cls ∧ t.rd .ID_BOARD_SLOT = slot ∧
        t.rd .ID_BOARD_BUDGET_W = budget ∧ ∀ p, t.byteAt p = s.byteAt p) ∧
    (∃ t, exec (.fruRead .absent) s = .next t ∧ t.rd .ID_BOARD_FRU_STATUS = 2 ∧ t.rd .ID_BOARD_BUDGET_W = 1200 ∧
      ∀ p, t.byteAt p = s.byteAt p) ∧
    ∃ t, exec (.fruRead .invalid) s = .next t ∧ t.rd .ID_BOARD_FRU_STATUS = 3 ∧ t.rd .ID_BOARD_BUDGET_W = 1200 ∧
      ∀ p, t.byteAt p = s.byteAt p) ∧
  ∀ (s : State),
    (∀ (o : Nat) (d : List Byte), s.hostUp = true → o + d.length ≤ 2 ^ 23 →
      (s.rd .HI_FW_STAT_STATE = 0 ∨ s.rd .HI_FW_STAT_STATE = 2 → ∃ t, exec (.stagingWrite o d) s = .next t ∧
        (∀ i, i < d.length → Tbl.get 0 t.staging (o + i) = d.getD i 0) ∧
        (∀ a, a < o ∨ o + d.length ≤ a → Tbl.get 0 t.staging a = Tbl.get 0 s.staging a) ∧
        t = { s with staging := t.staging }) ∧
      (s.rd .HI_FW_STAT_STATE = 1 ∨ s.rd .HI_FW_STAT_STATE = 3 → ∃ t, exec (.stagingWrite o d) s = .next t ∧
        t.rd .HI_FW_STAT_STAGE_DROP = 1 ∧ s.onlyRegs t [(.HI_FW_STAT_STAGE_DROP, 0)])) ∧
    (∀ n, s.hostUp = true → n < 2 ^ 24 →
      (s.rd .HI_FW_STAT_STATE = 0 ∨ s.rd .HI_FW_STAT_STATE = 2 → ∃ t, exec (.fwGo n) s = .next t ∧
        t.rd .HI_FW_STAT_STATE = 1 ∧ t.rd .HI_FW_CTL_LEN = n ∧ t.rd .HI_FW_STAT_REASON = 0 ∧
        s.onlyRegs t [(.HI_FW_CTL_LEN, 0), (.HI_FW_CTL_GO, 0), (.HI_FW_STAT_STATE, 0), (.HI_FW_STAT_REASON, 0)]) ∧
      (s.rd .HI_FW_STAT_STATE = 1 ∨ s.rd .HI_FW_STAT_STATE = 3 → ∃ t, exec (.fwGo n) s = .next t ∧
        t.rd .HI_FW_STAT_BUSY = 1 ∧ s.onlyRegs t [(.HI_FW_CTL_LEN, 0), (.HI_FW_STAT_BUSY, 0)])) ∧
    (s.rd .HI_FW_STAT_STATE = 1 →
      (s.imageReason = 0 → ∃ t, exec .fwVerifyDone s = .next t ∧ t.rd .HI_FW_STAT_STATE = 3 ∧
        t.rd .ER_SERVICE_STATE = 1 ∧ t.rd .MC_FW_VER_VERSION = s.imgNat 8 4 % 2 ^ 32 ∧ ∀ p, t.byteAt p = s.byteAt p) ∧
      (s.imageReason ≠ 0 → ∃ t, exec .fwVerifyDone s = .next t ∧ t.rd .HI_FW_STAT_STATE = 2 ∧
        t.rd .HI_FW_STAT_REASON = s.imageReason ∧ t.staging = [] ∧
        s.onlyRegs { t with staging := s.staging } [(.HI_FW_CTL_GO, 0), (.HI_FW_STAT_STATE, 0), (.HI_FW_STAT_REASON, 0)]))

/-- The rest of the climb (R299 to R305): LIST_DONE; the BIST results of a bay's threshers; REDUCED once bay 0 is
ready; COMPLETE once every stack, BIST and port has settled; FULL on request, behind the mode changes accepted before it
(R18), and BUSY where the request is refused. -/
def Obligations.ClimbToService : Prop :=
  ∀ (s : State),
    (s.hostUp = true → ∃ t, exec .listDone s = .next t ∧ t.rd .ER_BRINGUP_LIST_DONE = 1 ∧
      s.onlyRegs t [(.ER_BRINGUP_LIST_DONE, 0)]) ∧
    (∀ (b a u : Fin 4), s.fwUp = true → s.fatal = false → s.bistKnown (2 * b) = false → s.bistKnown (2 * b + 1) = false →
      ∃ t, exec (.bistDone b a u) s = .next t ∧
        t.bitOf .ER_BRINGUP_BIST_PASS (2 * b) = bit a 0 ∧ t.bitOf .ER_BRINGUP_BIST_PASS (2 * b + 1) = bit a 1 ∧
        t.bitOf .ER_BRINGUP_BIST_FAIL (2 * b) = !bit a 0 ∧ t.bitOf .ER_BRINGUP_BIST_FAIL (2 * b + 1) = !bit a 1) ∧
    (s.fwUp = true → s.rd .ER_SERVICE_STATE = 1 → (List.range 6).all s.trained = true → s.bistKnown 0 = true →
      s.bistKnown 1 = true → ∃ t, exec .reduced s = .next t ∧ t.rd .ER_SERVICE_STATE = 2 ∧
        t.regs = (s.wr .ER_SERVICE_STATE 2).regs ∧ ∀ p, t.byteAt p = s.byteAt p) ∧
    (s.fwUp = true → s.fatal = false → s.flag .ER_BRINGUP_COMPLETE 0 = false → (List.range 24).all s.trained = true →
      (List.range 8).all s.bistKnown = true → ((List.range 16).all fun p => !s.flag .WN_PORT_CTL_EN p) = true →
      ∃ t, exec .bringupComplete s = .next t ∧ t.rd .ER_BRINGUP_COMPLETE = 1 ∧
        t.regs = (s.wr .ER_BRINGUP_COMPLETE 1).regs ∧ ∀ p, t.byteAt p = s.byteAt p) ∧
    (s.hostUp = true →
      (s.flag .ER_BRINGUP_COMPLETE 0 = true → s.allIdle = true → s.rd .ER_SERVICE_STATE = 2 →
        (s.modes = [] → ∃ t, exec .reqFull s = .next t ∧ t.rd .ER_SERVICE_STATE = 3 ∧
          t.regs = (s.wr .ER_SERVICE_STATE 3).regs ∧ ∀ p, t.byteAt p = s.byteAt p) ∧
        (s.modes ≠ [] → s.modeBusy .service = false →
          exec .reqFull s = .next { s with modes := s.modes ++ [.service] })) ∧
      (s.flag .ER_BRINGUP_COMPLETE 0 = false ∨ s.allIdle = false ∨ s.rd .ER_SERVICE_STATE ≠ 2 ∨
          s.modeBusy .service = true →
        ∃ t, exec .reqFull s = .next t ∧ t.rd .ER_SERVICE_BUSY = 1 ∧ s.onlyRegs t [(.ER_SERVICE_BUSY, 0)]))

/-! ### Errors -/

/-- Bay faults and module fatal (R307, R308, R309). An internal error of a powered bay, or a mesh link that still fails
after its retrain, marks the bay faulted and faults its 13 queues, of which those FAULTED before keep their code; a link
that retrains changes nothing. An uncorrectable error of AO or the endpoint, or the MC's watchdog, brings the service
state to FATAL and faults every queue that is not idle; idle queues without frames on a link stay idle. Memory is changed
by the status record of a reduce-scatter that ends, and by nothing else. Nothing waits on a tally. -/
def Obligations.FaultedBayAndModule : Prop :=
  ∀ (s : State) (calm quiet : Prop), (calm ↔ ∀ q, q < 52 → ∀ w ∈ (s.queue q).work, w.kind ≠ .rscat) →
    (quiet ↔ ∀ e ∈ s.net.links, e.2.unacked = [] ∧ e.2.waiting = []) → s.waiters = [] → s.fatal = false →
    (∀ b : Fin 4, s.bayPowered b = true → s.bayFaulted b = false →
      (∀ c, ∃ t, exec (.bayFault b c) s = .next t ∧ t.bayFaulted b = true ∧ t.rd .HI_ALERT_BAY = 1 ∧
        (∀ q ∈ bayQueues b, t.qState q = 5) ∧
        (∀ q ∈ bayQueues b, s.qState q = 5 → t.rdi .EN_Q_STAT_CODE q = s.rdi .EN_Q_STAT_CODE q) ∧
        (calm → ∀ p, t.byteAt p = s.byteAt p)) ∧
      (s.fwUp = true → ∃ t, exec (.meshLinkRetrain b false) s = .next t ∧ t.bayFaulted b = true ∧
        (∀ q ∈ bayQueues b, t.qState q = 5) ∧ (calm → ∀ p, t.byteAt p = s.byteAt p)) ∧
      (s.fwUp = true → exec (.meshLinkRetrain b true) s = .next s)) ∧
    (s.boot.phase = .up → ∀ c, ∃ t, exec (.moduleFatal c) s = .next t ∧ t.rd .ER_SERVICE_STATE = 5 ∧
      t.rd .HI_ALERT_FATAL = 1 ∧ (∀ q, q < 52 → s.qState q ≠ 0 → t.qState q = 5) ∧
      (quiet → ∀ q, q < 52 → s.qState q = 0 → t.qState q = 0) ∧ (calm → ∀ p, t.byteAt p = s.byteAt p)) ∧
    (s.fwUp = true → ∃ t, exec .mcWdog s = .next t ∧ t.rd .ER_SERVICE_STATE = 5 ∧ t.fwUp = false ∧
      (∀ q, q < 52 → s.qState q ≠ 0 → t.qState q = 5) ∧
      (quiet → ∀ q, q < 52 → s.qState q = 0 → t.qState q = 0) ∧ (calm → ∀ p, t.byteAt p = s.byteAt p))

/-- LOG_POP discards the oldest record (R312). A GPIO pin takes the function its owner, or a first claimant, writes,
and sets GPIO_BUSY for another; a falling edge on an attention input sets ATTN (R315). -/
def Obligations.LogAndPins : Prop :=
  ∀ (s : State),
    (s.hostUp = true → ∃ t, exec .logPop s = .next t ∧ t.log = s.log.drop 1 ∧ t = { s with log := t.log }) ∧
    (∀ (n : Fin 4) (fn : Nat), s.hostUp = true → 1 ≤ fn → fn ≤ 4 →
      (s.pinMay n 1 fn = true → ∃ t, exec (.gpioWrite n fn) s = .next t ∧ t.rdi .ER_GPIO_FN n = fn ∧
        t.rdi .ER_GPIO_OWN n = 1 ∧ s.onlyRegs t [(.ER_GPIO_FN, n.val), (.ER_GPIO_OWN, n.val), (.ER_GPIO_OUT, n.val),
          (.ER_GPIO_IN, n.val)]) ∧
      (s.pinMay n 1 fn = false → ∃ t, exec (.gpioWrite n fn) s = .next t ∧ t.rd .ER_STAT_GPIO_BUSY = 1 ∧
        s.onlyRegs t [(.ER_STAT_GPIO_BUSY, 0), (.ER_GPIO_IN, n.val)])) ∧
    (∀ n : Fin 4, s.rdi .ER_GPIO_FN n = 4 → ∃ t, exec (.attentionEdge n) s = .next t ∧ t.rdi .ER_GPIO_ATTN n = 1 ∧
      s.onlyRegs t [(.ER_GPIO_ATTN, n.val), (.ER_GPIO_IN, n.val)])

/-! ### The turners and the threshers -/

/-- The turner (R86, R87, R88). Disabling and testing take effect while nobody owns it, and set CTL_REFUSED else; the
self-test ends with its result, and a failed one leaves the turner unavailable for good. HOLD of a free, available
turner takes it, and of one's own changes nothing; of another engine's it faults with E_TURNER_BUSY, of one not
available with E_TURNER_OFF, and is counted. FREE by the owner frees it once its turner-routed instructions have
delivered, and waits until then; by another it sets STRAY_FREE. -/
def Obligations.TurnerCommands : Prop :=
  (∀ (t : Fin 8) (s : State),
    (s.hostUp = true → s.domainOff (thrDomain t) = false →
      (∀ b : Bool, s.rdi .TN_STAT_OWNER t = 0 ∨ b = false → ∃ u, exec (.tnDisable t b) s = .next u ∧
        u.rdi .TN_CTL_DISABLE t = b2n b ∧ s.onlyRegs u [(.TN_CTL_DISABLE, t.val)]) ∧
      (s.rdi .TN_STAT_OWNER t = 0 → ∃ u, exec (.tnTest t) s = .next u ∧ u.rdi .TN_CTL_TEST t = 1 ∧
        u.turnerAvail t = false ∧ s.onlyRegs u [(.TN_CTL_TEST, t.val)]) ∧
      (s.rdi .TN_STAT_OWNER t ≠ 0 → ∀ c ∈ [Instr.tnDisable t true, Instr.tnTest t], ∃ u, exec c s = .next u ∧
        u.rdi .TN_STAT_CTL_REFUSED t = 1 ∧ s.onlyRegs u [(.TN_STAT_CTL_REFUSED, t.val)])) ∧
    (∀ b : Bool, s.flag .TN_CTL_TEST t = true → ∃ u, exec (.turnerTestDone t b) s = .next u ∧ u.rdi .TN_CTL_TEST t = 0 ∧
      u.rdi .TN_STAT_TEST_PASS t = b2n b ∧ (b = false → u.turnerReason t = 4) ∧
      s.onlyRegs { u with turners := s.turners } [(.TN_CTL_TEST, t.val), (.TN_STAT_TEST_PASS, t.val)])) ∧
  ∀ (t : Fin 8) (s : State) (i : Ins) (hold free : Instr) (opH opF c me : Nat),
    (hold, free, opH, opF, c, me) ∈ [(Instr.turnHoldFeed t, Instr.turnFreeFeed t, 0x31, 0x32, 1, 2),
      (Instr.turnHoldWeight t, Instr.turnFreeWeight t, 0x41, 0x42, 2, 1)] →
    (s.issues (thrQ t c) opH i →
      (s.rdi .TN_STAT_OWNER t = me → ∃ u, exec hold s = .next u ∧ s.Retired u (thrQ t c) i (i.pc + 16) []) ∧
      (s.rdi .TN_STAT_OWNER t = 0 → s.turnerAvail t = true → ∃ u, exec hold s = .next u ∧ u.rdi .TN_STAT_OWNER t = me ∧
        s.Retired u (thrQ t c) i (i.pc + 16) [(.TN_STAT_OWNER, t.val)]) ∧
      (s.rdi .TN_STAT_OWNER t ≠ me → s.rdi .TN_STAT_OWNER t ≠ 0 → exec hold s = .next
        (((s.begun (thrQ t c)).addSat .TN_REFUSE_CNT_COUNT t 1).engineFault (thrQ t c) (.of .turnerBusy) i.pc)) ∧
      (s.rdi .TN_STAT_OWNER t = 0 → s.turnerAvail t = false → exec hold s = .next
        (((s.begun (thrQ t c)).addSat .TN_REFUSE_CNT_COUNT t 1).engineFault (thrQ t c) (.of .turnerOff) i.pc))) ∧
    (s.issues (thrQ t c) opF i →
      (s.rdi .TN_STAT_OWNER t = me → s.turnedAll (thrQ t c) = true → ∃ u, exec free s = .next u ∧
        u.rdi .TN_STAT_OWNER t = 0 ∧ s.Retired u (thrQ t c) i (i.pc + 16) [(.TN_STAT_OWNER, t.val)]) ∧
      (s.rdi .TN_STAT_OWNER t = me → s.turnedAll (thrQ t c) = false → exec free s = .next (s.begun (thrQ t c))) ∧
      (s.rdi .TN_STAT_OWNER t ≠ me → ∃ u, exec free s = .next u ∧ u.rdi .TN_STAT_STRAY_FREE t = 1 ∧
        s.Retired u (thrQ t c) i (i.pc + 16) [(.TN_STAT_STRAY_FREE, t.val)]))

/-- The pass instructions (R106, R107): one that passes its checks and stalls for nothing goes in progress and joins its
pass, or, where its partition is faulted, is dropped under R76. The first instruction of a partition without a pass
forms one: a load brings its tile into the shadow registers, through the turner where it is turner-routed and no earlier
such load waits (R83, R86), and nothing is written. -/
def Obligations.PassInstructions : Prop :=
  ∀ (t : Fin 8) (s : State) (i : Ins) (x : Desc) (c : Instr) (op : Nat) (r : Role) (d : PassDesc) (w : Work) (v : State),
    (c, op, r) ∈ [(Instr.feFeed t, 0x30, Role.feed), (Instr.weLoad t, 0x40, Role.load), (Instr.deDrain t, 0x50,
      Role.drain)] →
    s.issues (r.queue t) op i → d = PassDesc.ofWord x.word → s.finds (r.queue t) i x → s.flaws = [] →
    s.passCheck t r (s.bindEpoch i) x = .ok () → s.heldBy205 (s.bindEpoch i) (d.uses t r) = false →
    s.mustStall (r.queue t) [x.span] [] none = false →
    s.mustStall (r.queue t) (usesSpans false (d.uses t r ++ [x.use])) (usesSpans true (d.uses t r)) (some d.part) = false →
    s.channelFull (r.queue t) d.part = false →
    w = { s.workFor (r.queue t) i .pass x.word (d.uses t r) with ready := false, part := d.part } →
    v = (s.begun (r.queue t)).goOn (r.queue t) i w →
    (s.partFaulted t d.part = true → exec c s = .next (v.dropPass t d.part r w.id)) ∧
    (s.partFaulted t d.part = false → exec c s = .next (v.joinPass t d.part r x.key w.id)) ∧
    (s.partFaulted t d.part = false → s.part t d.part = Part.empty → i.hop = false → s.turnNext t = none →
      ((s.queue (r.queue t)).work.all fun y => y.id != w.id) = true →
      ∃ u, exec c s = .next u ∧ (∀ p, u.byteAt p = s.byteAt p) ∧
        (u.part t d.part).passes = [Pass.set ⟨x.key, none, none, none, .active⟩ r ⟨w.id, r == .load⟩] ∧
        (r = .load → (u.part t d.part).shadow =
          some (d.tileOf (s.takeOperand (s.viewOf (s.bindEpoch i)) t d.weights d.wTurn).1)) ∧
        (∀ k, k ≠ r.queue t → u.queue k = s.queue k))

/-- SWAP (R51, R64, R74, R205, R292). In a partition that is not faulted the oldest pass swaps once its tile is in the
shadow registers, its feed and its drain have come, and a turner-routed feed has its turn: what the shadow registers held
becomes active. With no error to find and no halt, the results of the whole stream are then written, feed and drain may
complete, and the pass is gone. A weight register whose parity fails faults the partition instead; a drain that a closed
epoch's granule holds, or whose stack sleeps, makes the swap wait; where no pass is so ready nothing happens. -/
def Obligations.SwapRunsPass : Prop :=
  ∀ (t : Fin 8) (p : Fin 576) (s : State),
    (s.swapOf t p = none → exec (.swap t p) s = .next s) ∧
    ∀ (y : Pass) (r : List Pass) (l f e : PassPart) (wf wd : Work) (us : List Use) (d : PassDesc),
      s.partFaulted t p = false → (s.part t p).passes = y :: r → y.mode = .active → y.load = some l → l.done = true →
      y.feed = some f → y.drain = some e → s.workOf (thrQ t 1) f.id = some wf → s.workOf (thrQ t 3) e.id = some wd →
      s.turnCome (thrQ t 1) wf = true → d = PassDesc.ofWord wd.desc → us = d.uses t .drain →
      (s.heldBy205 wd.bound us = true → exec (.swap t p) s = .next (s.hold205 (thrQ t 3))) ∧
      (s.heldBy205 wd.bound us = false →
        ((usesSpans true us).any s.sleeps = true → exec (.swap t p) s = .next s) ∧
        ((usesSpans true us).any s.sleeps = false →
          (((s.part t p).shadow.getD .none).sound = false → ∃ u, exec (.swap t p) s = .next u ∧
            u.rdi .TH_PART_STAT_STATE (partKey t p) = 3 ∧
            u.rdi .TH_PART_STAT_CODE (partKey t p) = E.cellParity.val ∧ (u.part t p).passes = []) ∧
          (((s.part t p).shadow.getD .none).sound = true → ∃ u, exec (.swap t p) s = .next u ∧
            (u.part t p).active = (s.part t p).shadow ∧
            (s.flaws = [] → r = [] → s.turnNext t = none → wf.hop = false → wd.hop = false →
              (PassDesc.ofWord wf.desc).xTurn = false →
              (u.part t p).passes = [] ∧
              (∃ w, u.workOf (thrQ t 1) f.id = some w ∧ w.ready = true) ∧
              (∃ w, u.workOf (thrQ t 3) e.id = some w ∧ w.ready = true) ∧
              ∀ xs, xs = (PassDesc.ofWord wf.desc).stepsOf (s.readGrid (s.viewOf wf.bound) t (PassDesc.ofWord
                wf.desc).feed) →
                ∀ a, u.byteAt a = (s.drainPass t wd ((s.part t p).shadow.getD .none) xs xs.length
                  (s.readAt (s.viewOf wd.bound) 1 t d.sumin d.sumBytes)
                  (s.readAt (s.viewOf wd.bound) 1 t d.exp d.gsBlocks) none).byteAt a))))

/-- Partitions and organisations (R56 to R58, R71, R74, R75, R77). A failed check of a partition in force, or a stall of
a streaming one past the limit, leaves it FAULTED with the check's code and no pass; a clear brings a faulted one back
READY. A commit that its checks refuse leaves the organisation, with their status; an accepted commit of mode 0 puts the
one whole partition in force, one of mode 1 the staged entries, each READY with no pass; behind mode changes accepted
before it it waits for those (R18). -/
def Obligations.PartitionsAndOrganisations : Prop :=
  (∀ (t : Fin 8) (p : Fin 576) (s : State),
    (s.partFaulted t p = false →
      (∀ c : PartCause, (s.rectOf t p).isSome = true → ∃ u, exec (.partitionFault t p c) s = .next u ∧
        u.rdi .TH_PART_STAT_STATE (partKey t p) = 3 ∧ u.rdi .TH_PART_STAT_CODE (partKey t p) = (causeCode c).val ∧
        (u.part t p).passes = [] ∧ u.rdi .TH_STAT_NFAULT t = (s.rdi .TH_STAT_NFAULT t + 1) % 1024) ∧
      (∀ x, s.swapOf t p = some x → s.rdi .TH_FREEZE_LIMIT_LIMIT t ≠ 0 → (PassDesc.ofWord x.feed.desc).steps ≠ 0 →
        ∃ u, exec (.partStall t p) s = .next u ∧ u.rdi .TH_PART_STAT_STATE (partKey t p) = 3 ∧
        u.rdi .TH_PART_STAT_CODE (partKey t p) = E.partStall.val ∧ (u.part t p).passes = [])) ∧
    (s.hostUp = true → s.domainOff (thrDomain t) = false → s.partFaulted t p = true → s.bayFaulted (thrBay t) = false →
      s.fatal = false → ∃ u, exec (.thPartClear t p) s = .next u ∧ u.rdi .TH_PART_STAT_STATE (partKey t p) = 1 ∧
      u.rdi .TH_PART_STAT_CODE (partKey t p) = 0 ∧ u.part t p = Part.empty ∧
      s.onlyRegs { u with parts := s.parts }
        [(.TH_PART_STAT_STATE, partKey t p), (.TH_PART_STAT_CODE, partKey t p), (.TH_STAT_NFAULT, t.val)])) ∧
  ∀ (t : Fin 8) (m : Fin 2) (s : State), s.hostUp = true → s.domainOff (thrDomain t) = false →
    (s.commitStatus t m ≠ 0 → ∃ u, exec (.thOrgCommit t m) s = .next u ∧ u.rdi .TH_ORG_STATUS t = s.commitStatus t m ∧
      s.onlyRegs u [(.TH_ORG_MODE, t.val), (.TH_ORG_STATUS, t.val)]) ∧
    (s.commitStatus t m = 0 → s.modes ≠ [] → ∃ u, exec (.thOrgCommit t m) s = .next u ∧
      u.modes = s.modes ++ [.organisation t m (s.stagedEntries t)] ∧ u.rdi .TH_ORG_STATUS t = 0 ∧
      s.onlyRegs { u with modes := s.modes } [(.TH_ORG_MODE, t.val), (.TH_ORG_STATUS, t.val)]) ∧
    (s.commitStatus t m = 0 → s.modes = [] → ∃ u, exec (.thOrgCommit t m) s = .next u ∧ u.rdi .TH_ORG_STATUS t = 0 ∧
      u.rdi .TH_ORG_CUR_MODE t = m.val ∧ (∀ p, p < 576 → u.part t p = Part.empty) ∧
      (m.val = 0 → ∀ p, p < 576 → u.rectOf t p = if p = 0 then some ⟨0, 0, 24, 24⟩ else none) ∧
      (m.val = 1 → ∀ p, p < 576 → u.rectOf t p = (if s.flag .TH_PART_CFG_EN (partKey t p) then some (s.stagedRect t p)
        else none) ∧ u.rdi .TH_PART_STAT_STATE (partKey t p) = b2n (s.flag .TH_PART_CFG_EN (partKey t p))) ∧
      (∀ a, u.byteAt a = s.byteAt a) ∧ u.queues = s.queues)

/-! ### The vector and copy engines -/

/-- The 15 elementwise vector commands (R45, R47, R31, R108, R136): the instruction goes in progress, and its elements are
put out in ascending order, element `k` of D being the function of element `k` of each operand as the elements before it
have left memory; under HALT_ON_POISON the first element with a poisoned operand ends it with E_POISON, the results before
it written. With no versioned region, no byte outside the elements of D changes. -/
def Obligations.ElementwiseVectors : Prop :=
  ∀ (t : Fin 8) (s : State) (i : Ins) (x : Desc) (c : Instr) (op n : Nat) (g : List Fp → Fp) (d : VecDesc) (view : View)
    (v : Nat → Sink),
    (c, op, n, g) ∈ elementwise t → s.issues (thrQ t 4) op i → d = VecDesc.ofWord x.word →
    s.clear (thrQ t 4) i x (mapUses n t d)
      (do vecPlainCheck x.word; s.checkUses (s.bindEpoch i) (mapUses n t d ++ [x.use]) (.ok ())) →
    ((s.queue (thrQ t 4)).work.filter fun w => w.kind == .vector && !w.done).length < 8 →
    view = s.viewOf (s.bindEpoch i) →
    v = ((s.begun (thrQ t 4)).goOn (thrQ t 4) i (s.workFor (thrQ t 4) i .vector x.word (mapUses n t d))).vecAfter n g t d
      view (s.bankOf (s.bindEpoch i)) →
    ((i.hop = true → ∀ k, k < d.count → Fp.poison ∉ (v k).args n t d view k) →
      exec c s = .next ((v d.count).flush view).st ∧
      s.Entered ((v d.count).flush view).st (thrQ t 4) i (s.workFor (thrQ t 4) i .vector x.word (mapUses n t d))
        (numFlags t) ∧
      (s.vregs = [] → ∀ p, (∀ k, k < d.count → outsideRun p (Config.loftBase t + vecAt d.d d.dStep 1 k) 4) →
        ((v d.count).flush view).st.byteAt p = s.byteAt p)) ∧
    (∀ k, i.hop = true → k < d.count → Fp.poison ∈ (v k).args n t d view k →
      (∀ j, j < k → Fp.poison ∉ (v j).args n t d view j) →
      exec c s = .next ((((v k).ready n t d view k).flush view).st.failWork (thrQ t 4) (s.queue (thrQ t 4)).nextId
        (.of .poison)))

/-- Reductions and conversions (R46, R38, R31): V.RSUM, V.RMAX and V.RMIN write D[0] the tree's value over the elements
of A; V.CVT converts group by group, and one FP32 element to BF16 becomes its rounded code; HALT_ON_POISON ends either
with E_POISON. -/
def Obligations.ReductionsAndConversion : Prop :=
  ∀ (t : Fin 8) (s : State) (i : Ins) (x : Desc) (d : VecDesc) (view : View) (bank : Nat), d = VecDesc.ofWord x.word →
    view = s.viewOf (s.bindEpoch i) → bank = s.bankOf (s.bindEpoch i) →
    ((s.queue (thrQ t 4)).work.filter fun w => w.kind == .vector && !w.done).length < 8 →
    (∀ (c : Instr) (op : Nat) (o : RedOp) (v : State) (a : List Fp),
      (c, op, o) ∈ [(Instr.vRsum t, 0x71, RedOp.sum), (Instr.vRmax t, 0x72, .max), (Instr.vRmin t, 0x73, .min)] →
      s.issues (thrQ t 4) op i →
      s.clear (thrQ t 4) i x (reduceUses t d)
        (do vecPlainCheck x.word; s.checkUses (s.bindEpoch i) (reduceUses t d ++ [x.use]) (.ok ())) →
      v = (s.begun (thrQ t 4)).goOn (thrQ t 4) i (s.workFor (thrQ t 4) i .vector x.word (reduceUses t d)) →
      a = (List.range d.count).map (fun k => s.vecValue view t k (.at d.a d.aStep)) →
      (i.hop = false ∨ Fp.poison ∉ a → ∃ u, exec c s = .next u ∧
        u = (((Sink.mk v none).vecPut view t bank d.d a (reduce o a)).flush view).st ∧
        s.Entered u (thrQ t 4) i (s.workFor (thrQ t 4) i .vector x.word (reduceUses t d)) (numFlags t)) ∧
      (i.hop = true → Fp.poison ∈ a → exec c s =
        .next (v.failWork (thrQ t 4) (s.queue (thrQ t 4)).nextId (.of .poison)))) ∧
    (∀ (v : State), s.issues (thrQ t 4) 0x70 i →
      s.clear (thrQ t 4) i x (cvtUses t d)
        (do vecCvtCheck x.word; s.checkUses (s.bindEpoch i) (cvtUses t d ++ [x.use]) (.ok ())) →
      v = (s.begun (thrQ t 4)).goOn (thrQ t 4) i (s.workFor (thrQ t 4) i .vector x.word (cvtUses t d)) →
      (∀ u, vecConvert t d i.hop view bank v = (u, false) → exec (.vCvt t) s = .next u) ∧
      (∀ u, vecConvert t d i.hop view bank v = (u, true) →
        exec (.vCvt t) s = .next (u.failWork (thrQ t 4) (s.queue (thrQ t 4)).nextId (.of .poison))) ∧
      (d.srcFmt = 1 → d.dstFmt = 2 → d.count = 1 → d.rnd = false → i.hop = false → ∃ u, exec (.vCvt t) s = .next u ∧
        s.Entered u (thrQ t 4) i (s.workFor (thrQ t 4) i .vector x.word (cvtUses t d)) (numFlags t) ∧
        u.mem = (v.writeResult view 1 t d.d (clean (wideElem 2 none (s.vecValue view t 0 (.at d.a d.aStep))).bytes)).mem))

/-- CE.COPY without gather from HBM, a loft or the host to HBM or a loft (R143, R145, R146) goes in progress and moves its
bytes run by run; a plain one writes each run the bytes its source then holds, and an empty one moves nothing. With no
versioned region, no byte outside a plain copy's destination runs changes. -/
def Obligations.LocalCopies : Prop :=
  ∀ (t : Fin 8) (s v : State) (i : Ins) (x : Desc) (d : CopyDesc) (a e : Ep) (b : Option Nat) (w : Work), b =
    s.bindEpoch i →
    d = CopyDesc.ofWord x.word → a = Ep.ofWord d.src → e = Ep.ofWord d.dst → e.space ≤ 1 → a.space ≠ 2 → d.glean = 0 →
    s.issues (thrQ t 5) 0xA0 i → copyCheck t x.word = .ok () →
    s.clear (thrQ t 5) i x (d.uses false t) (s.copySpans b d false (d.uses false t ++ [x.use])) →
    s.copiesFull (thrQ t 5) = false → w = s.workFor (thrQ t 5) i .copy x.word (d.uses false t) →
    v = (s.begun (thrQ t 5)).goOn (thrQ t 5) i w →
    (d.empty = true → exec (.ceCopy t) s = .next v ∧ s.Entered v (thrQ t 5) i w []) ∧
    (d.empty = false → exec (.ceCopy t) s = .next (moveBytes ⟨thrQ t 5, w.id, t, i.hop, s.viewOf b, s.bankOf b, b, d⟩
      (if a.space = 3 then .host else .at a.space a.thr a.addr) v)) ∧
    (d.empty = false → a.space ≤ 1 → d.srcFmt = d.dstFmt → d.transpose = false → i.hop = false →
      ∃ u, exec (.ceCopy t) s = .next u ∧ s.Entered u (thrQ t 5) i w [] ∧
        u = d.jobs.foldl (fun u j => u.writeAt (s.viewOf b) e.space e.thr ((e.addr : Int) + j.dst).toNat
          (u.readAt (s.viewOf b) a.space a.thr ((a.addr : Int) + j.srcs.headD 0).toNat d.len)) v ∧
        (s.vregs = [] → ∀ p, (∀ j ∈ d.jobs, ∀ k, k < d.len →
          p ≠ s.phys e.space e.thr (((e.addr : Int) + j.dst).toNat + k)) → u.byteAt p = s.byteAt p))

/-- CE.FILL into HBM or a loft writes every run the pattern's bytes, little-endian and repeated (R147). A gleaner gather
(R148) fetches its items by index and writes them one after another. -/
def Obligations.FillsAndGathers : Prop :=
  ∀ (t : Fin 8) (s : State) (i : Ins) (x : Desc) (d : CopyDesc) (e : Ep) (b : Option Nat), b = s.bindEpoch i →
    d = CopyDesc.ofWord x.word → e = Ep.ofWord d.dst → e.space ≤ 1 → s.copiesFull (thrQ t 5) = false →
    (∀ (v : State) (w : Work) (us : List Use), s.issues (thrQ t 5) 0xA1 i → fillCheck x.word = .ok () →
      us = ({ d with digest := false } : CopyDesc).uses true t →
      s.clear (thrQ t 5) i x us (s.copySpans b { d with digest := false } true (us ++ [x.use])) →
      w = s.workFor (thrQ t 5) i .copy x.word us → v = (s.begun (thrQ t 5)).goOn (thrQ t 5) i w → d.empty = false →
      ∃ u, exec (.ceFill t) s = .next u ∧ s.Entered u (thrQ t 5) i w [] ∧
        u = d.jobs.foldl (fun u j => u.writeAt (s.viewOf b) e.space e.thr ((e.addr : Int) + j.dst).toNat
          (clean ((List.range d.len).map fun k => BitVec.ofNat 8 (d.src / 2 ^ (8 * (k % 8)))))) v ∧
        (s.vregs = [] → ∀ p, (∀ j ∈ d.jobs, ∀ k, k < d.len →
          p ≠ s.phys e.space e.thr (((e.addr : Int) + j.dst).toNat + k)) → u.byteAt p = s.byteAt p)) ∧
    (∀ (v : State) (w : Work) (us : List Use) (runs : List (List (Option Nat))) (r : Span) (g : Gather),
      s.issues (thrQ t 5) 0xA0 i → copyCheck t x.word = .ok () → d.glean = 1 ∨ d.glean = 2 → i.hop = false →
      d.empty = false → s.finds (thrQ t 5) i x → s.flaws = [] →
      us = [⟨d.srcSpan (Ep.ofWord d.src), false, 0⟩, ⟨d.dstSpan e, true, 1⟩] →
      runs = s.gatherIndices (s.viewOf b) t d → s.tableRegion (bits d.aux 0 42) = some r →
      s.gatherSpans b d (us ++ [x.use]) ((runs.flatten.filterMap id).map d.itemSpan) = .ok () →
      s.heldBy205 b us = false →
      s.mustStall (thrQ t 5) (r :: usesSpans false (us ++ [x.use])) (usesSpans true us) none = false →
      w = { s.workFor (thrQ t 5) i .copy x.word us with reads := r :: usesSpans false us } →
      v = (s.begun (thrQ t 5)).goOn (thrQ t 5) i w →
      g = gatherRuns ⟨thrQ t 5, w.id, t, i.hop, s.viewOf b, s.bankOf b, b, d⟩ e (some r) (d.jobs.zip runs) ⟨v, [], false⟩ →
      ∃ u, exec (.ceCopy t) s = .next u ∧ u.mem = g.st.mem ∧ u.poison = g.st.poison ∧
        u.rdi .EN_Q_PC_PC (thrQ t 5) = (loopNext (s.queue (thrQ t 5)).loops (i.pc + 16)).2 % 2 ^ 42 ∧
        (u.queue (thrQ t 5)).work.map Work.id = ((s.queue (thrQ t 5)).work ++ [w]).map Work.id ∧
        (∀ k, k ≠ thrQ t 5 → u.queue k = s.queue k))

/-! ### Collectives -/

/-- The rank list and the time limits (R210, R212, R223, R224): a commit while a wain queue is not IDLE sets STATUS 1, a
bad list 2, a wrong rank 3; a good one is in force with its rounds. A reduce-scatter past its limit writes its status
record and faults with E_COLL_TIMEOUT, a gather faults with it; a health check past its limit ends with MISSING. -/
def Obligations.RanksAndTimeLimits : Prop :=
  (∀ (s : State) (ids : List Nat), s.hostUp = true → s.flaws = [] →
    ids = halves (s.rd .WN_RANK_COUNT_COUNT) (s.readRanks.map PByte.val) →
    (s.wainIdle = false → ∃ u, exec .rankCommit s = .next u ∧ u.rd .WN_RANK_CTL_STATUS = 1 ∧
      s.onlyRegs u [(.WN_RANK_CTL_STATUS, 0)]) ∧
    (s.wainIdle = true → s.badList s.readRanks ids = true → ∃ u, exec .rankCommit s = .next u ∧
      u.rd .WN_RANK_CTL_STATUS = 2 ∧ s.onlyRegs u [(.WN_RANK_CTL_STATUS, 0)]) ∧
    (s.wainIdle = true → s.badList s.readRanks ids = false →
      s.rd .WN_RANK_COUNT_COUNT ≤ s.rd .WN_RANK_SELF_RANK ∨ ids.getD (s.rd .WN_RANK_SELF_RANK) 0 ≠ s.rd .WN_ID_MODULE →
      ∃ u, exec .rankCommit s = .next u ∧ u.rd .WN_RANK_CTL_STATUS = 3 ∧ s.onlyRegs u [(.WN_RANK_CTL_STATUS, 0)]) ∧
    (s.wainIdle = true → s.badList s.readRanks ids = false → s.rd .WN_RANK_SELF_RANK < s.rd .WN_RANK_COUNT_COUNT →
      ids.getD (s.rd .WN_RANK_SELF_RANK) 0 = s.rd .WN_ID_MODULE → ∃ u, exec .rankCommit s = .next u ∧
      u.rd .WN_RANK_CTL_STATUS = 0 ∧ u.rd .WN_RANK_CTL_VALID = 1 ∧
      u.rd .WN_RANK_CTL_LOG2P = log2Up (s.rd .WN_RANK_COUNT_COUNT) ∧ u.net.ranks = ids ∧
      u.net.rankSelf = s.rd .WN_RANK_SELF_RANK ∧ s.onlyRegs { u with net := s.net }
        [(.WN_RANK_CTL_STATUS, 0), (.WN_RANK_CTL_VALID, 0), (.WN_RANK_CTL_LOG2P, 0)])) ∧
  (∀ (s : State) (b : Fin 4) (id : Nat) (w : Work), s.workAt (48 + b) id = some w → w.ready = false →
    (s.queue (48 + b)).wait = none → s.qState (48 + b) ≠ 5 →
    (w.kind = .rscat → ∃ u, exec (.collTimeout b id) s = .next u ∧ u = s.endRscat (48 + b) w .collTimeout ∧
      u.qState (48 + b) = 5 ∧ u.rdi .EN_Q_STAT_CODE (48 + b) = E.collTimeout.val ∧ u.rd .WN_COLL_STAT_TIMEOUT = 1) ∧
    (w.kind = .gather → ∃ u, exec (.collTimeout b id) s = .next u ∧ u.qState (48 + b) = 5 ∧
      u.rdi .EN_Q_STAT_CODE (48 + b) = E.collTimeout.val ∧ u.rd .WN_COLL_STAT_TIMEOUT = 1 ∧
      ∀ p, u.byteAt p = s.byteAt p)) ∧
  ∀ (s : State) (b : Fin 4) (id : Nat) (w l : Work) (q : Nat), s.workAt (48 + b) id = some w → w.kind = .health →
    w.ready = false → (s.healthsOf (HealthDesc.ofWord w.desc).seq).find? (fun x => x.2.coll.any fun c => c.started) =
      some (q, l) → exec (.healthTimeout b id) s = .next (s.endHealth (HealthDesc.ofWord w.desc).seq
        (Nat.lor (l.coll.getD (Coll.fresh (HealthDesc.ofWord w.desc).seq)).value 16))

/-- The collectives issue (R209, R212, R214 to R216, R228): without a rank list each faults with E_RANK_NONE. With one,
and its checks passed, a reduce-scatter goes in progress and begins with the last of the four bays, once no memory of
theirs is in self-refresh; a gather asks for its shards; a health check joins the one of its SEQ or leads it, and
with one rank writes its result. -/
def Obligations.CollectivesIssue : Prop :=
  ∀ (b : Fin 4) (s : State) (i : Ins),
    (s.flag .WN_RANK_CTL_VALID 0 = false →
      ∀ e ∈ [(Instr.wnRscat b, 0xB1), (Instr.wnGather b, 0xB0), (Instr.wnHealth b, 0xB2)],
      s.issues (48 + b) e.2 i → exec e.1 s =
        .next ((s.begun (48 + b)).engineFault (48 + b) (.of .rankNone) i.pc)) ∧
    (∀ (x : Desc) (d : RscatDesc) (w : Work) (v : State), s.flag .WN_RANK_CTL_VALID 0 = true → s.issues (48 + b) 0xB1 i →
      d = RscatDesc.ofWord x.word → s.clear (48 + b) i x (d.uses s.rankCount)
        (do rscatCheck b x.word; s.checkUses (s.bindEpoch i) (d.uses s.rankCount ++ [x.use]) (.ok ())) →
      s.seqBusy (48 + b) d.seq false = false → s.collFull (48 + b) = false →
      w = { s.workFor (48 + b) i .rscat x.word (d.uses s.rankCount) with ready := false, coll := some (Coll.fresh d.seq) } →
      v = (s.begun (48 + b)).goOn (48 + b) i w →
      (v.rscatGroup d.seq = none → exec (.wnRscat b) s = .next v ∧ s.Entered v (48 + b) i w [] ∧
        ∀ p, v.byteAt p = s.byteAt p) ∧
      ∀ ws, v.rscatGroup d.seq = some ws →
        ((ws.any fun w => (w.reads ++ w.writes).any v.sleeps) = false →
          exec (.wnRscat b) s = .next (v.beginRscat d.seq ws)) ∧
        ((ws.any fun w => (w.reads ++ w.writes).any v.sleeps) = true → exec (.wnRscat b) s = .next v)) ∧
    (∀ (x : Desc) (d : GatherDesc) (w : Work) (v : State), s.flag .WN_RANK_CTL_VALID 0 = true → s.issues (48 + b) 0xB0 i →
      d = GatherDesc.ofWord x.word → s.clear (48 + b) i x (d.uses s.rankCount)
        (do gatherCheck s.rankCount x.word; s.checkUses (s.bindEpoch i) (d.uses s.rankCount ++ [x.use]) (.ok ())) →
      d.prog = 0xFFFF ∨ s.tallyFault (48 + b) d.prog = none →
      s.seqBusy (48 + b) d.seq false = false → s.collFull (48 + b) = false →
      w = { s.workFor (48 + b) i .gather x.word (d.uses s.rankCount) with ready := false, coll := some (Coll.fresh
        d.seq) } →
      v = (s.begun (48 + b)).goOn (48 + b) i w →
      exec (.wnGather b) s = .next ((v.askShards (48 + b) w i.vol).gatherGo (48 + b) w.id)) ∧
    (∀ (x : Desc) (d : HealthDesc) (w : Work) (v : State) (lead : Bool), s.flag .WN_RANK_CTL_VALID 0 = true →
      s.issues (48 + b) 0xB2 i → d = HealthDesc.ofWord x.word → s.clear (48 + b) i x [wordUse d.result 8 true 1]
        (do s.healthCheck b x.word; s.checkUses (s.bindEpoch i) ([wordUse d.result 8 true 1] ++ [x.use]) (.ok ())) →
      s.seqBusy (48 + b) d.seq true = false → s.collFull (48 + b) = false → lead = (s.healthsOf d.seq).isEmpty →
      w = { s.workFor (48 + b) i .health x.word [wordUse d.result 8 true 1] with
        ready := false, coll := some { Coll.fresh d.seq with started := lead, value := if lead then s.sample d else 0 } } →
      v = (if lead ∧ d.clear then (s.begun (48 + b)).clearBanks d else s.begun (48 + b)).goOn (48 + b) i w →
      exec (.wnHealth b) s = .next (if lead then v.healthOn d.seq else v) ∧
      (lead = true → s.rankCount = 1 → s.net.rankSelf = 0 → ∃ u, exec (.wnHealth b) s = .next u ∧
        u.mem = (v.writeAt (s.viewOf (s.bindEpoch i)) (Ep.ofWord d.result).space (Ep.ofWord d.result).thr (Ep.ofWord
          d.result).addr
          (clean (leBytes 8 (s.sample d + d.seq * 2 ^ 32)))).mem))

/-! ### The granary -/

/-- The granary's modes and scrub (R16, R17, R18, R163, R166). An interleave change is accepted while every queue is IDLE
and nothing moves, and sets BUSY else; the switch puts it in force. A scrub mode is taken at once while no sector is being
scrubbed, and otherwise at the end of that sector; code 3, or a request before an accepted one has taken effect, sets BUSY.
A scrubbed sector without an error moves only the position; one of which a half is uncorrectable is poisoned and counted. -/
def Obligations.GranaryModes : Prop :=
  ∀ (s : State),
    (∀ m : Fin 2, s.hostUp = true →
      (s.allIdle = true → (∀ q, q < 52 → s.drained q = true) → s.net.txns = [] → s.modeBusy (.interleave m) = false →
        exec (.interleaveChange m) s = .next { s with modes := s.modes ++ [.interleave m] }) ∧
      (s.allIdle = false ∨ (∃ q, q < 52 ∧ s.drained q = false) ∨ s.net.txns ≠ [] ∨ s.modeBusy (.interleave m) = true →
        ∃ u, exec (.interleaveChange m) s = .next u ∧ u.rd .GN_STAT_BUSY = 1 ∧ s.onlyRegs u [(.GN_STAT_BUSY, 0)])) ∧
    (∀ m, m < 2 → s.modes = [.interleave m] → s.Calm → ∃ u, exec .interleaveSwitch s = .next u ∧
      u.interleave = m ∧ u.modes = [] ∧ s.onlyRegs { u with modes := s.modes } [(.GN_CFG_INTERLEAVE, 0)]) ∧
    ((∀ m r, s.modes ≠ .interleave m :: r) → exec .interleaveSwitch s = .next s) ∧
    (∀ m : Fin 4, s.hostUp = true →
      (m.val ≠ 3 → s.modes = [] → s.scrubRuns = false → ∃ u, exec (.scrubChange m) s = .next u ∧
        u.rd .GN_CFG_SCRUB = m.val ∧ s.onlyRegs u [(.GN_CFG_SCRUB, 0)]) ∧
      (m.val ≠ 3 → s.modeBusy (.scrub m) = false → s.modes ≠ [] ∨ s.scrubRuns = true →
        exec (.scrubChange m) s = .next { s with modes := s.modes ++ [.scrub m] }) ∧
      (m.val = 3 ∨ s.modeBusy (.scrub m) = true → ∃ u, exec (.scrubChange m) s = .next u ∧ u.rd .GN_STAT_BUSY = 1 ∧
        s.onlyRegs u [(.GN_STAT_BUSY, 0)])) ∧
    ∀ (k : Fin 24) (n : Nat) (x : SectorFinding), s.scrubs k = true → s.gran.retired = [] → s.flaws = [] →
      n = Tbl.get 0 s.gran.scrubPos k → n + 1 < 2 ^ 31 →
      (x = ⟨⟨false, .clean⟩, ⟨false, .clean⟩⟩ → ∃ u, exec (.scrubSector k x) s = .next u ∧
        (∀ p, u.byteAt p = s.byteAt p) ∧ u.poison = s.poison ∧ Tbl.get 0 u.gran.scrubPos k = n + 1 ∧
        ((∀ m r, s.modes ≠ .scrub m :: r) → u = { s with gran := u.gran }) ∧
        ∀ m, m < 3 → s.modes = [.scrub m] → u.rd .GN_CFG_SCRUB = m ∧ u.modes = []) ∧
      (x.lo.code = .uncorrectable ∨ x.hi.code = .uncorrectable → s.poisoned (k * 2 ^ 37 + 64 * n) = false → s.modes = [] →
        ∃ u, exec (.scrubSector k x) s = .next u ∧ u.poisoned (k * 2 ^ 37 + 64 * n) = true ∧
        u.rdi .GN_ECC_UE_COUNT k = min (2 ^ F.GN_ECC_UE_COUNT.info.width - 1) (s.rdi .GN_ECC_UE_COUNT k + 1) ∧
        Tbl.get 0 u.gran.scrubPos k = n + 1 ∧ ∀ p, u.byteAt p = s.byteAt p)

/-- Row repair (R168 to R173, R177). A candidate moves into the lowest free spare of its bank, or is retired where there
is none; one that lives in a spare already leaves that spare, which is retired first; the records say so. REPAIR_POP takes
the oldest record. A repair-list record is kept, and applied by running firmware where its stack is trained; it is refused
where the list is full or a bit of it is wrong. At a quiet point with AUTO_HARDEN everything pending is hardened. The
bytes of memory stay. -/
def Obligations.RowRepair : Prop :=
  ∀ (s : State),
    (∀ (k : Fin 24) (pch bank : Fin 64) (row : Fin 32768) (r : Nat), r = rowNo pch bank row → s.fwUp = true →
      s.online k = true → s.candidate k r = true →
      (s.spareOf k r = none →
        (∀ j, s.freeSpare k (rowBank r) = some j → ∃ u, exec (.repairRequest k pch bank row) s = .next u ∧
          u.spareOf k r = some j ∧ u.candidate k r = false ∧
          (s.gran.records.length < 256 → u.gran.records.length = s.gran.records.length + 1) ∧
          (∀ p, u.byteAt p = s.byteAt p) ∧ u.queues = s.queues) ∧
        (s.freeSpare k (rowBank r) = none → ∃ u, exec (.repairRequest k pch bank row) s = .next u ∧
          u.rowRetired k r = true ∧ u.candidate k r = false ∧
          (s.gran.records.length < 256 → u.gran.records.length = s.gran.records.length + 1) ∧
          (∀ p, u.byteAt p = s.byteAt p) ∧ u.queues = s.queues)) ∧
      (∀ j, s.spareOf k r = some j → ∃ u, exec (.repairRequest k pch bank row) s = .next u ∧
        (u.spare k (rowBank r) j).retired = true ∧ u.spareOf k r ≠ some j ∧ u.candidate k r = false ∧
        (s.gran.records.length + 1 < 256 → u.gran.records.length = s.gran.records.length + 2) ∧
        (∀ p, u.byteAt p = s.byteAt p) ∧ u.queues = s.queues)) ∧
    (s.hostUp = true → ∃ u, exec .repairPop s = .next u ∧ u.gran.records = s.gran.records.drop 1 ∧
      u = { s with gran := u.gran }) ∧
    (∀ w, w < 2 ^ 64 → s.hostUp = true →
      (s.rd .GN_RLIST_CTL_COUNT < 4096 → bits w 36 12 = 0 → bits w 0 5 < 24 →
        (s.trained (bits w 0 5) = false ∨ s.fwUp = false → ∃ u, exec (.rlistEntry w) s = .next u ∧
          u.gran.rlist = s.gran.rlist ++ [w] ∧ u.rd .GN_RLIST_CTL_COUNT = s.rd .GN_RLIST_CTL_COUNT + 1 ∧
          s.onlyRegs { u with gran := s.gran } [(.GN_RLIST_CTL_COUNT, 0)]) ∧
        (s.trained (bits w 0 5) = true → s.fwUp = true → ∃ u, exec (.rlistEntry w) s = .next u ∧
          u.gran.rlist = s.gran.rlist ++ [w] ∧ u.rd .GN_RLIST_CTL_COUNT = s.rd .GN_RLIST_CTL_COUNT + 1 ∧
          (bits w 32 2 = 2 → u.rowRetired (bits w 0 5) (rowNo (bits w 5 6) (bits w 11 6) (bits w 17 15)) = true) ∧
          (∀ j, bits w 32 2 = 0 → s.rowRetired (bits w 0 5) (rowNo (bits w 5 6) (bits w 11 6) (bits w 17 15)) = false →
            s.spareOf (bits w 0 5) (rowNo (bits w 5 6) (bits w 11 6) (bits w 17 15)) = none →
            s.freeSpare (bits w 0 5) (rowBank (rowNo (bits w 5 6) (bits w 11 6) (bits w 17 15))) = some j →
            u.spareOf (bits w 0 5) (rowNo (bits w 5 6) (bits w 11 6) (bits w 17 15)) = some j) ∧
          (∀ p, u.byteAt p = s.byteAt p) ∧ u.queues = s.queues)) ∧
      (4096 ≤ s.rd .GN_RLIST_CTL_COUNT ∨ bits w 36 12 ≠ 0 ∨ 24 ≤ bits w 0 5 → ∃ u, exec (.rlistEntry w) s = .next u ∧
        u.rd .GN_RLIST_CTL_REFUSED = 1 ∧ s.onlyRegs u [(.GN_RLIST_CTL_REFUSED, 0)])) ∧
    (s.fwUp = true →
      (s.allIdle = true → s.flag .GN_REPAIR_CFG_AUTO_HARDEN 0 = true → ∃ u, exec .quietPoint s = .next u ∧
        u = s.hardenAll ∧ (∀ p, u.byteAt p = s.byteAt p) ∧ u.queues = s.queues ∧
        ((s.gran.spares.Pairwise fun a b => a.1 < b.1) → u.pendingCount = 0 ∧ u.rd .GN_STAT_REPAIR_PENDING = 0)) ∧
      (s.allIdle = false ∨ s.flag .GN_REPAIR_CFG_AUTO_HARDEN 0 = false → exec .quietPoint s = .next s))

/-- Training and loss of a stack (R158, R173, R175, R176, R299, R308) and the gleaner's packets (R160): firmware trains a
stack once LIST_DONE is set and applies its repair entries, and one whose identity block's CRC fails is FAILED instead; a
failure takes a stack offline and the module to FATAL; a retrained channel changes no memory; a partial packet that waits
too long leaves and is counted. Memory is changed by the status record of a reduce-scatter that ends, and by nothing
else. -/
def Obligations.StacksTrainAndFail : Prop :=
  ∀ (s : State) (k : Fin 24) (calm : Prop), (calm ↔ ∀ q, q < 52 → ∀ w ∈ (s.queue q).work, w.kind ≠ .rscat) →
    (s.fwUp = true → s.flag .ER_BRINGUP_LIST_DONE 0 = true → s.rdi .GN_STACK_STAT_STATE k = 0 → s.fatal = false →
      s.domainOff (granDomain (stackBay k)) = false →
      (s.rdi .GN_ID_DATA (16 * k + 15) = s.idCrc k → ∃ u, exec (.stackTraining k) s = .next u ∧ u.trained k = true ∧
        u.bitOf .GN_STACK_TRAINED_STACKS k = true ∧ (∀ p, u.byteAt p = s.byteAt p) ∧ u.queues = s.queues ∧
        ((s.gran.rlist.filter fun w => bits w 0 5 == k.val) = [] →
          s.onlyRegs { u with gran := s.gran } [(.GN_STACK_STAT_STATE, k.val), (.GN_STACK_TRAINED_STACKS, 0)])) ∧
      (s.rdi .GN_ID_DATA (16 * k + 15) ≠ s.idCrc k → ∃ u, exec (.stackTraining k) s = .next u ∧ u.online k = false ∧
        u.rdi .GN_STACK_STAT_STATE k = 3 ∧ u.rdi .GN_STACK_STAT_REASON k = 2 ∧ 4 ≤ u.rd .ER_SERVICE_STATE)) ∧
    (∀ (r : StackReason) (ch : Fin 32), s.boot.phase = .up → s.rdi .GN_STACK_STAT_STATE k ≠ 3 →
      s.domainOff (granDomain (stackBay k)) = false → ∃ u, exec (.stackFail k r ch) s = .next u ∧ u.online k = false ∧
        u.rdi .GN_STACK_STAT_STATE k = 3 ∧ u.rdi .GN_STACK_STAT_REASON k = reasonCode r ∧ 4 ≤ u.rd .ER_SERVICE_STATE ∧
        (calm → ∀ p, u.byteAt p = s.byteAt p)) ∧
    (∀ ch : Fin 32, s.fwUp = true → s.online k = true →
      (∃ u, exec (.channelRetrain k ch true) s = .next u ∧ u.mem = s.mem ∧ u.queues = s.queues) ∧
      (∃ u, exec (.channelRetrain k ch false) s = .next u ∧ u.rdi .GN_STACK_STAT_STATE k = 3 ∧
        u.rdi .GN_STACK_STAT_REASON k = 3 ∧ (calm → ∀ p, u.byteAt p = s.byteAt p))) ∧
    (∀ (q : Fin 52) (w : Work), (s.queue q).work.find? (fun w => w.packs.contains k.val) = some w →
      ∃ u, exec (.packTimeout q k) s = .next u ∧
        u.rdi .GL_PACKETS_COUNT k = (s.rdi .GL_PACKETS_COUNT k + 1) % 2 ^ 64 ∧
        s.onlyRegs { u with queues := s.queues } [(.GL_PACKETS_COUNT, k.val), (.GL_TIMEOUT_CNT_COUNT, k.val)] ∧
        ∀ j, j ≠ q.val → u.queue j = s.queue j)

/-! ### Tables and registers the host writes -/

/-- Configuration through the control window (R16, R92, R139, R195, R321, R358): the region table, the versioned-region
entries, the contract version and PS_CFG.EN take a write that their conditions let through, and else set their refusal
flag, a field out of its range keeping its value; PS_CFG.EN waits behind mode changes accepted before it (R18); an
access to a
register goes to that register, and one that fits none does nothing. -/
def Obligations.ConfigurationWrites : Prop :=
  ∀ (s : State), s.hostUp = true →
    (∀ (r : Fin 4096) (v : Nat), v < 2 ^ 64 →
      (s.allIdle = true → s.flag .LF_REGION_SIZE_V r = false → bits v 62 2 ≠ 2 →
        ∃ u, exec (.regionWrite r false v) s = .next u ∧ u.rdi .LF_REGION_BASE_BASE r = v ∧
        s.onlyRegs u [(.LF_REGION_BASE_BASE, r.val)]) ∧
      (s.allIdle = true → s.flag .LF_REGION_SIZE_V r = false → bits v 62 2 = 2 →
        ∃ u, exec (.regionWrite r false v) s = .next u ∧ u.rd .LF_STAT_CFG_REFUSED = 1 ∧
        s.onlyRegs u [(.LF_STAT_CFG_REFUSED, 0)]) ∧
      (s.allIdle = true → bit v 48 = false ∨ s.flag .LF_REGION_SIZE_V r = false ∧
          regionOk (s.rdi .LF_REGION_BASE_BASE r) v = true →
        ∃ u, exec (.regionWrite r true v) s = .next u ∧
        u.rdi .LF_REGION_SIZE_SIZE r = (if bits v 0 48 = 0 then s.rdi .LF_REGION_SIZE_SIZE r else bits v 0 48) ∧
        (bits v 0 48 = 0 → u.rd .LF_STAT_CFG_REFUSED = 1) ∧
        u.rdi .LF_REGION_SIZE_V r = bits v 48 1 ∧ u.rdi .LF_REGION_SIZE_RD r = bits v 49 1 ∧
        u.rdi .LF_REGION_SIZE_WR r = bits v 50 1 ∧ u.rdi .LF_REGION_SIZE_RRD r = bits v 51 1 ∧
        u.rdi .LF_REGION_SIZE_RWR r = bits v 52 1 ∧
        s.onlyRegs u ([(.LF_REGION_SIZE_SIZE, r.val), (.LF_REGION_SIZE_V, r.val), (.LF_REGION_SIZE_RD, r.val),
          (.LF_REGION_SIZE_WR, r.val), (.LF_REGION_SIZE_RRD, r.val), (.LF_REGION_SIZE_RWR, r.val)] ++
          if bits v 0 48 = 0 then [(.LF_STAT_CFG_REFUSED, 0)] else [])) ∧
      (∀ z : Bool, s.regionRefused r z v = true → ∃ u, exec (.regionWrite r z v) s = .next u ∧
        u.rd .LF_STAT_CFG_REFUSED = 1 ∧ s.onlyRegs u [(.LF_STAT_CFG_REFUSED, 0)]) ∧
      (s.allIdle = false → s.regionRefused r false v = true ∧ s.regionRefused r true v = true)) ∧
    (∀ (n : Fin 64) (w : VregWord) (v : Nat), v < (if w = .cfg then 2 ^ 32 else 2 ^ 64) →
      (s.flag .PS_CFG_EN 0 = false → s.allIdle = true → (s.putVreg n w v).flag .PS_VREG_CFG_V n = false ∨
          (s.putVreg n w v).vregOk n = true →
        (vregInRange w v = true → exec (.psVregWrite n w v) s = .next (s.putVreg n w v)) ∧
        (vregInRange w v = false → ∃ u, exec (.psVregWrite n w v) s = .next u ∧ u.rd .PS_STAT_CFG_REFUSED = 1 ∧
          (s.putVreg n w v).onlyRegs u [(.PS_STAT_CFG_REFUSED, 0)] ∧
          u.rdi .PS_VREG_CFG_GRANULES n = s.rdi .PS_VREG_CFG_GRANULES n)) ∧
      (s.flag .PS_CFG_EN 0 = true ∨ s.allIdle = false ∨
          (s.putVreg n w v).flag .PS_VREG_CFG_V n = true ∧ (s.putVreg n w v).vregOk n = false →
            ∃ u, exec (.psVregWrite n w v) s = .next u ∧
        u.rd .PS_STAT_CFG_REFUSED = 1 ∧ s.onlyRegs u [(.PS_STAT_CFG_REFUSED, 0)])) ∧
    (∀ b : Bool,
      (s.liveEpochs = [] → s.modes = [] → ∃ u, exec (.psCfgEn b) s = .next u ∧ u.rd .PS_CFG_EN = b2n b ∧
        s.onlyRegs u [(.PS_CFG_EN, 0)]) ∧
      (s.liveEpochs = [] → s.modes ≠ [] → s.modeBusy (.provisional b) = false →
        exec (.psCfgEn b) s = .next { s with modes := s.modes ++ [.provisional b] }) ∧
      (s.liveEpochs ≠ [] ∨ s.modeBusy (.provisional b) = true → ∃ u, exec (.psCfgEn b) s = .next u ∧
        u.rd .PS_STAT_BUSY = 1 ∧ s.onlyRegs u [(.PS_STAT_BUSY, 0)])) ∧
    (∀ v, v < 65536 →
      (v = 0x100 → s.allIdle = true → ∃ u, exec (.enContractWrite v) s = .next u ∧ u.rd .EN_CONTRACT_VERSION = 0x100 ∧
        s.onlyRegs u [(.EN_CONTRACT_VERSION, 0)]) ∧
      (v ≠ 0x100 ∨ s.allIdle = false → ∃ u, exec (.enContractWrite v) s = .next u ∧ u.rd .EN_STAT_CFG_REFUSED = 1 ∧
        s.onlyRegs u [(.EN_STAT_CFG_REFUSED, 0)])) ∧
    (∀ (o v : Nat) (z : Bool), o + 8 ≤ 0x1000000 → v < (if z then 2 ^ 64 else 2 ^ 32) →
      (∀ r i, regAt o = some (r, i, 0) → r.info.wide = z → r ≠ .GN_RLIST_ENTRY → (regDomain r i).any s.domainOff = false →
        exec (.registerWrite o z v) s = .next (s.writeReg r i v)) ∧
      (∀ r i b, regAt o = some (r, i, b) → accessOk r b z = false → r ≠ .GN_RLIST_ENTRY → ∃ u,
        exec (.registerWrite o z v) s = .next u ∧ u.rd .HI_STAT_BAD_ACCESS = 1 ∧ s.onlyRegs u [(.HI_STAT_BAD_ACCESS, 0)]) ∧
      (touchesReg o (if z then 8 else 4) = false → exec (.registerWrite o z v) s = .next s))

/-! ### Links and ports -/

/-- Frames that arrive (R240, R241, R243, R244, R246, R248, R249, R359). Every frame a sender can form is taken in; on a
port that is not UP nothing happens. On an UP port, with `b` the state awake and its FEC corrections counted: a switched
port drops a frame for another module, or of a peer it has no link state for; a frame beyond the next LSEQ is answered
with one NAK, one taken before changes nothing. The next one is taken off its link: for this module it is delivered, with
its check failed logged and poisoned or discarded; for another it is forwarded; with reserved fields, or in switched
framing without room, it is dropped. A write that its checks let through writes its bytes, a refused one writes nothing
and is noted; a remote signal adds to its tally, or is refused. -/
def Obligations.FramesArrive : Prop :=
  ∀ (p : Fin 16) (f : Frame) (s : State),
    (∀ (c : Instr) (op : Nat), (c, op) ∈ [(Instr.wr p f, 0), (.rdReq p f, 1), (.rdCpl p f, 2), (.ack p f, 3), (.tlSig p
      f, 4),
        (.tlAck p f, 5), (.ring p f, 6), (.ringAck p f, 7), (.health p f, 8), (.refuse p f, 9)] →
      (if op = 6 then f.ringWf else f.plainWf) = true →
      (∃ u, exec c s = .next u) ∧ (s.portState p ≠ 3 → exec c s = .next s) ∧
      (s.portState p = 3 → ∀ b : State, b = s.leaveIdle.addSat .WN_PORT_FEC_CE p f.fec →
        (b.flag .WN_PORT_CTL_FRAMING p = true → f.dst ≠ b.rd .WN_ID_MODULE ∨ b.makeRoom p (b.keyOf p f) = none →
          ∃ u, exec c s = .next u ∧ b.onlyRegs u [(.WN_PORT_DROP_FRAMES, p.val)]) ∧
        ∀ (a : State) (k : Nat), (b.flag .WN_PORT_CTL_FRAMING p = true → f.dst = b.rd .WN_ID_MODULE) →
          k = b.keyOf p f → b.makeRoom p k = some a →
          (0 < (f.lh.lseq + 65536 - (a.link k).rxNext) % 65536 → (f.lh.lseq + 65536 - (a.link k).rxNext) % 65536 < 32768 →
            ∃ u, exec c s = .next u ∧ (u.link k).nakSent = true ∧ u = { a with net := u.net } ∧
            u.net.out = a.net.out ++ (if (a.link k).nakSent then []
              else [(p.val, .control (a.ether p (k % 65536)) ((a.link k).header true 0))])) ∧
          (32768 ≤ (f.lh.lseq + 65536 - (a.link k).rxNext) % 65536 → exec c s = .next a) ∧
          (f.lh.lseq = (a.link k).rxNext →
            (a.flag .WN_PORT_CTL_FRAMING p = true → channelOk f = true → a.bufferFull p op f = true →
              ∃ u, exec c s = .next u ∧ (u.link k).nakSent = true ∧
              a.onlyRegs { u with net := a.net } [(.WN_PORT_DROP_FRAMES, p.val)]) ∧
            ((a.flag .WN_PORT_CTL_FRAMING p && channelOk f && a.bufferFull p op f) = false → ∀ v : State,
              v = (a.updLink k fun l => { l with rxNext := (l.rxNext + 1) % 65536, nakSent := false }).takeHeader p k f.lh →
              (frameOk op f = true → f.dst = v.rd .WN_ID_MODULE →
                (f.intact = true → exec c s = .next (v.deliverFrame p op f)) ∧
                (f.intact = false → f.payload ≠ [] →
                  exec c s = .next ((v.raise .fabricPoison 5 p 0 0 0).deliverFrame p op f)) ∧
                (f.intact = false → f.payload = [] →
                  exec c s = .next ((v.raise .fabricPoison 5 p 0 0 0).emptied p op f))) ∧
              (frameOk op f = true → f.dst ≠ v.rd .WN_ID_MODULE → exec c s = .next (v.forward p op f)) ∧
              (frameOk op f = false →
                exec c s = .next ((if channelOk f then v.emptied p op f else v).dropFrame p)))))) ∧
    (∀ k, f.plainWf = true → s.portState p = 3 → s.flag .PW_STATE_IDLE 0 = false → f.lh.nak = false → f.intact = true →
      f.dst = s.rd .WN_ID_MODULE → k = s.keyOf p f → f.lh.lseq = (s.link k).rxNext →
      (∀ view, s.flag .WN_PORT_CTL_FRAMING p = false ∨ (k ∈ s.net.recent ∧ s.bufferFull p 0 f = false) →
        frameOk 0 f = true → s.judge f f.payload.length true = .go view → f.digest = false → s.net.heldWr = [] →
        s.frameWaits 0 f = false → s.pairWaits f = false → s.closedWrite f f.payload.length = false →
        ∃ u, exec (.wr p f) s = .next u ∧
        u.mem = (s.writeAt view (frSpace f) (frThr f) (frAt f) (frData f)).mem) ∧
      (∀ r, s.flag .WN_PORT_CTL_FRAMING p = false ∨ (k ∈ s.net.recent ∧ s.bufferFull p 0 f = false) →
        frameOk 0 f = true → s.judge f f.payload.length true = .refuse r → s.net.heldWr = [] →
        s.frameWaits 0 f = false → s.pairWaits f = false →
        ∃ u, exec (.wr p f) s = .next u ∧ u.mem = s.mem ∧ u.rd .LF_STAT_REMOTE_REFUSED = 1) ∧
      (s.flag .WN_PORT_CTL_FRAMING p = false ∨ (k ∈ s.net.recent ∧ s.bufferFull p 4 f = false) → frameOk 4 f = true →
        (s.sigReason f = none → s.waitersOf f.addr = [] → ∃ u, exec (.tlSig p f) s = .next u ∧
          u.tally f.addr = (if f.arg = 0 then s.tally f.addr else min 65535 (s.tally f.addr + f.arg)) ∧ u.mem = s.mem ∧
          ∀ k, k ≠ f.addr → u.tally k = s.tally k) ∧
        (∀ r, s.sigReason f = some r → ∃ u, exec (.tlSig p f) s = .next u ∧
          u.rd .TL_STAT_REMOTE_REFUSED = 1 ∧ u.mem = s.mem ∧ ∀ k, u.tally k = s.tally k)))

/-- What keeps a link going (R235, R240, R241, R243, R245 to R247). A link-control frame without NAK changes the link
alone, one with NAK begins a replay, one with reserved bits is dropped; the timer sends one. A replay sends every
unacknowledged frame again and is counted, once for a NAK and an expiry that meet; at its limit a direct port goes DOWN
and a switched peer becomes unreachable. A frame not taken is counted by what was wrong with it, and answered with one NAK
where it leaves a gap; what only Ethernet carries changes nothing in direct framing. A link whose port stays away is
emptied; a transaction that times out faults its engine and frees its tag. -/
def Obligations.LinkUpkeep : Prop :=
  ∀ (p : Fin 16) (m : Fin 65536) (s : State) (k : Nat), k = s.linkKey p m →
    (s.portState p = 3 →
      (∃ u, exec (.linkControlTimer p m) s = .next u ∧ u = { s with net := u.net } ∧ (u.link k).replaying = none ∧
        u.net.out = s.net.out ++ [(p.val, .control (s.ether p (k % 65536)) ((s.link k).header false 0))]) ∧
      ((s.link k).unacked = [] ∨ (s.link k).replaying = some true → exec (.replayTimeout p m) s = .next s) ∧
      ((s.link k).unacked ≠ [] → (s.link k).replaying ≠ some true →
        ((s.link k).unacked.any fun x => decide (8 ≤ x.replays)) = false →
        s.rdi .WN_PORT_ERR_REPLAY p < 2 ^ 32 - 1 → ∃ u, exec (.replayTimeout p m) s = .next u ∧
        u.rdi .WN_PORT_ERR_REPLAY p = s.rdi .WN_PORT_ERR_REPLAY p + 1 ∧ (u.link k).replaying = some false ∧
        u.net.out.length = s.net.out.length + (s.link k).unacked.length ∧
        s.onlyRegs { u with net := s.net } [(.WN_PORT_ERR_REPLAY, p.val)]) ∧
      ((s.link k).replaying ≠ some true → ((s.link k).unacked.any fun x => decide (8 ≤ x.replays)) = true →
        (s.flag .WN_PORT_CTL_FRAMING p = false →
          ∃ u, exec (.replayTimeout p m) s = .next u ∧ u.portState p = 4 ∧ u.rdi .WN_PORT_STAT_REASON p = 6 ∧
            u.mem = s.mem) ∧
        (s.flag .WN_PORT_CTL_FRAMING p = true →
          ∃ u, exec (.replayTimeout p m) s = .next u ∧ (u.link k).unreachable = true ∧ u = { s with net := u.net }))) ∧
    (s.portState p = 3 → s.flag .PW_STATE_IDLE 0 = false →
      (∀ h : LinkHeader, h.wf = true →
        (h.rsv ≠ 0 → ∃ u, exec (.linkControl p m h) s = .next u ∧ s.onlyRegs u [(.WN_PORT_DROP_FRAMES, p.val)]) ∧
        (h.rsv = 0 → h.nak = false → ∃ u, exec (.linkControl p m h) s = .next u ∧ u = { s with net := u.net }) ∧
        (h.rsv = 0 → h.nak = true → s.flag .WN_PORT_CTL_FRAMING p = false → afterAck h.ack (s.link k).unacked ≠ [] →
          ((s.link k).unacked.any fun x => decide (8 ≤ x.replays)) = false → (s.link k).replaying ≠ some false →
          s.rdi .WN_PORT_ERR_REPLAY p < 2 ^ 32 - 1 → ∃ u, exec (.linkControl p m h) s = .next u ∧
          u.rdi .WN_PORT_ERR_REPLAY p = s.rdi .WN_PORT_ERR_REPLAY p + 1 ∧
          s.onlyRegs { u with net := s.net } [(.WN_PORT_ERR_REPLAY, p.val)])) ∧
      (∀ b : BadFrame, (∃ ue, b = .crc ue) ∨ b = .gap ∨
          (s.flag .WN_PORT_CTL_FRAMING p = true ∧ (b = .fcs ∨ b = .full)) →
        ∃ u, exec (.badCrcOrGap p m b) s = .next u ∧ (u.link k).nakSent = true ∧
        s.onlyRegs { u with net := s.net }
          [(.WN_PORT_ERR_CRC, p.val), (.WN_PORT_FEC_UE, p.val), (.WN_PORT_DROP_FRAMES, p.val)] ∧
        (s.rdi .WN_PORT_ERR_CRC p < 2 ^ 32 - 1 →
          u.rdi .WN_PORT_ERR_CRC p = s.rdi .WN_PORT_ERR_CRC p + (if b = .gap ∨ b = .full then 0 else 1)) ∧
        (s.rdi .WN_PORT_FEC_UE p < 2 ^ 16 - 1 →
          u.rdi .WN_PORT_FEC_UE p = s.rdi .WN_PORT_FEC_UE p + (if b = .crc true then 1 else 0)) ∧
        (s.rdi .WN_PORT_DROP_FRAMES p < 2 ^ 16 - 1 →
          u.rdi .WN_PORT_DROP_FRAMES p = s.rdi .WN_PORT_DROP_FRAMES p + (if b = .fcs ∨ b = .full then 1 else 0)) ∧
        u.net.out = s.net.out ++ (if (s.link k).nakSent then []
          else [(p.val, .control (s.ether p (k % 65536)) ((s.link k).header true 0))])) ∧
      (s.flag .WN_PORT_CTL_FRAMING p = true →
        (∃ u, exec (.badCrcOrGap p m .foreign) s = .next u ∧ s.onlyRegs u [(.WN_PORT_DROP_FRAMES, p.val)] ∧
          (s.rdi .WN_PORT_DROP_FRAMES p < 2 ^ 16 - 1 → u.rdi .WN_PORT_DROP_FRAMES p = s.rdi .WN_PORT_DROP_FRAMES p + 1)) ∧
        (∃ u, exec (.badCrcOrGap p m .pause) s = .next u ∧ s.onlyRegs u [(.WN_PORT_DROP_PAUSE, p.val)] ∧
          (s.rdi .WN_PORT_DROP_PAUSE p < 2 ^ 16 - 1 → u.rdi .WN_PORT_DROP_PAUSE p = s.rdi .WN_PORT_DROP_PAUSE p + 1))) ∧
      (s.flag .WN_PORT_CTL_FRAMING p = false → ∀ b ∈ [BadFrame.fcs, .foreign, .full, .pause],
        exec (.badCrcOrGap p m b) s = .next s) ∧
      (∀ f : Frame, f.wf = true → f.lh.nak = false → s.flag .WN_PORT_CTL_FRAMING p = false →
        f.lh.lseq = (s.link (s.keyOf p f)).rxNext → s.rdi .WN_PORT_DROP_FRAMES p < 2 ^ 16 - 1 →
        ∃ u, exec (.badCrcOrGap p m (.strange f)) s = .next u ∧
        u.rdi .WN_PORT_DROP_FRAMES p = s.rdi .WN_PORT_DROP_FRAMES p + 1 ∧
        s.onlyRegs { u with net := s.net } [(.WN_PORT_DROP_FRAMES, p.val), (.WN_PORT_FEC_CE, p.val)])) ∧
    (s.portState p ≠ 3 → (∀ h : LinkHeader, h.wf = true → exec (.linkControl p m h) s = .next s) ∧
      exec (.linkControlTimer p m) s = .next s ∧ exec (.replayTimeout p m) s = .next s ∧
      (∀ b : BadFrame, b.wf = true → exec (.badCrcOrGap p m b) s = .next s)) ∧
    (s.portState p ≠ 3 ∨ (s.link k).unreachable = true → (s.link k).unacked = [] → (s.link k).waiting = [] →
      ∃ u, exec (.linkHoldExpiry p m) s = .next u ∧ u.link k = Link.fresh ∧ u = { s with net := u.net }) ∧
    (s.portState p = 3 → (s.link k).unreachable = false → exec (.linkHoldExpiry p m) s = .next s) ∧
    (∀ (b : Fin 4) (tag : Fin 16384),
      (Tbl.find s.net.txns (tagKey b tag) = none → exec (.txnTimeout b tag) s = .next s) ∧
      (∀ x : Txn, Tbl.find s.net.txns (tagKey b tag) = some x → s.net.tagWait = [] → x.op ≠ 1 →
        x.queue < 52 → (s.queue x.queue).wait = none → s.qState x.queue ≠ 5 → ∃ u, exec (.txnTimeout b tag) s = .next u ∧
        u.qState x.queue = 5 ∧ u.rdi .EN_Q_STAT_CODE x.queue = E.remoteTimeout.val ∧
        Tbl.find u.net.txns (tagKey b tag) = none))

/-- Ports (R16, R18, R234 to R238, R247, R253, R254, R283). Enabling a DISABLED, DOWN or REFUSED one begins to qualify it;
CMIS within its budget takes it to TRAINING, and each failed check to REFUSED with its reason; it comes UP, with a clock
that is not SAFE, or fails training; disabling, removal and a retrain, one port at a time, take it down. A port whose
SerDes domain is off takes no command of the host, and one that stays DOWN until reset takes its enable alone. The host
sets a port's budget, up to the loaded one, with OVER_BUDGET where the module there needs more; its framing, while it is
not enabled, behind the mode changes accepted before; and sends the wake pattern on a port that is DISABLED or DOWN. -/
def Obligations.PortCommands : Prop :=
  (∀ (p : Fin 16) (s : State),
    (s.hostUp = true → s.portOn p = true →
      (s.portDead p = false → s.portState p = 0 ∨ s.portState p = 4 ∨ s.portState p = 5 →
        ∃ u, exec (.portEnable p) s = .next u ∧ u.portState p = 1 ∧
        u.rdi .WN_PORT_STAT_REASON p = 0 ∧ u.rdi .WN_PORT_CTL_EN p = 1 ∧ u.regs =
          (((s.wri .WN_PORT_CTL_EN p 1).wri .WN_PORT_STAT_STATE p 1).wri .WN_PORT_STAT_REASON p 0).regs ∧ u.mem = s.mem) ∧
      (s.portDead p = true ∨ s.portState p = 1 ∨ s.portState p = 2 ∨ s.portState p = 3 →
        ∃ u, exec (.portEnable p) s = .next u ∧ u.rdi .WN_PORT_CTL_EN p = 1 ∧ s.onlyRegs u [(.WN_PORT_CTL_EN, p.val)]) ∧
      (s.portDead p = false → ∃ u, exec (.portDisable p) s = .next u ∧ u.portState p = 0 ∧ u.rdi .WN_PORT_CTL_EN p = 0 ∧
        u.rdi .WN_PORT_STAT_REASON p = 0 ∧ u.mem = s.mem) ∧
      (s.portDead p = true → ∃ u, exec (.portDisable p) s = .next u ∧ u.rdi .WN_PORT_CTL_EN p = 0 ∧
        s.onlyRegs u [(.WN_PORT_CTL_EN, p.val)])) ∧
    (∀ c : Cmis, c.power < 4096 → s.fwUp = true → s.portState p = 1 → ∀ suits : Prop,
      suits = (c.lanes = 4 ∧ (if s.fullService then c.fullRate else c.halfRate) = true) →
      (c.present = false → ∃ u, exec (.portQualify p c) s = .next u ∧ u.portState p = 5 ∧
        u.rdi .WN_PORT_STAT_REASON p = 1) ∧
      (c.present = true → c.identityOk = false → ∃ u, exec (.portQualify p c) s = .next u ∧ u.portState p = 5 ∧
        u.rdi .WN_PORT_STAT_REASON p = 2) ∧
      (c.present = true → c.identityOk = true → ¬ suits → ∃ u, exec (.portQualify p c) s = .next u ∧
        u.portState p = 5 ∧ u.rdi .WN_PORT_STAT_REASON p = 3 ∧ u.rdi .WN_PORT_BUDGET_MODULE_PWR p = c.power) ∧
      (c.present = true → c.identityOk = true → suits → ∀ need : Nat, need = (if c.passive then 1 else c.power) →
        (s.rdi .WN_PORT_BUDGET_BUDGET p < need → ∃ u, exec (.portQualify p c) s = .next u ∧ u.portState p = 5 ∧
          u.rdi .WN_PORT_STAT_REASON p = 4 ∧ u.rdi .WN_PORT_BUDGET_MODULE_PWR p = c.power) ∧
        (need ≤ s.rdi .WN_PORT_BUDGET_BUDGET p → ∃ u, exec (.portQualify p c) s = .next u ∧ u.portState p = 2 ∧
          u.rdi .WN_PORT_STAT_REASON p = 0 ∧ u.rdi .WN_PORT_BUDGET_MODULE_PWR p = c.power ∧ u.mem = s.mem))) ∧
    (∀ c : Cmis, c.power < 4096 → s.portState p ≠ 1 → exec (.portQualify p c) s = .next s) ∧
    (s.fwUp = true →
      (s.portTrains p = true → s.portClocked p = true → ∃ u, exec (.portUp p) s = .next u ∧ u.portState p = 3 ∧
        u.rdi .WN_PORT_STAT_REASON p = 0 ∧ u.rdi .WN_PORT_STAT_RATE p = b2n s.fullService ∧ u.mem = s.mem) ∧
      (s.portTrains p = false ∨ s.portClocked p = false → exec (.portUp p) s = .next s) ∧
      (s.portTrains p = true → ∃ u, exec (.trainFail p) s = .next u ∧ u.portState p = 4 ∧ u.rdi .WN_PORT_STAT_REASON p = 5 ∧
        u.mem = s.mem) ∧
      (s.portTrains p = false → exec (.trainFail p) s = .next s) ∧
      (s.fullService = true → s.portState p = 3 → s.rdi .WN_PORT_STAT_RATE p = 0 → (∀ j, j < 16 → s.retraining j = false) →
        ∃ u, exec (.portRetrain p) s = .next u ∧ u.portState p = 4 ∧ u.rdi .WN_PORT_STAT_REASON p = 0 ∧ u.mem = s.mem) ∧
      (s.fullService = false ∨ s.portState p ≠ 3 ∨ s.rdi .WN_PORT_STAT_RATE p ≠ 0 ∨
        (∃ j, j < 16 ∧ s.retraining j = true) → exec (.portRetrain p) s = .next s)) ∧
    (s.portState p = 3 → ∃ u, exec (.pluggableRemoved p) s = .next u ∧ u.portState p = 4 ∧
      u.rdi .WN_PORT_STAT_REASON p = 1 ∧ u.rdi .WN_PORT_BUDGET_MODULE_PWR p = 0 ∧ u.mem = s.mem) ∧
    (s.portState p ≠ 3 → ∃ u, exec (.pluggableRemoved p) s = .next u ∧ u.rdi .WN_PORT_BUDGET_MODULE_PWR p = 0 ∧
      s.onlyRegs u [(.WN_PORT_BUDGET_MODULE_PWR, p.val)]) ∧
    (s.portOn p = false ∨ s.hostUp = false → exec (.portEnable p) s = .next s ∧ exec (.portDisable p) s = .next s ∧
      (∀ v, v < 2 ^ 32 → exec (.portBudgetWrite p v) s = .next s) ∧ (∀ m, exec (.framingWrite p m) s = .next s) ∧
      exec (.wakeSend p) s = .next s)) ∧
  ∀ (p : Fin 16) (s : State), s.hostUp = true → s.portOn p = true →
    (∀ v n, v < 2 ^ 32 → n = v % 4096 →
      (n ≤ s.loadedBudget p → ∃ u, exec (.portBudgetWrite p v) s = .next u ∧ u.rdi .WN_PORT_BUDGET_BUDGET p = n ∧
        u.rdi .WN_PORT_STAT_OVER_BUDGET p =
          (if n < s.rdi .WN_PORT_BUDGET_MODULE_PWR p then 1 else s.rdi .WN_PORT_STAT_OVER_BUDGET p) ∧
        s.onlyRegs u [(.WN_PORT_BUDGET_BUDGET, p.val), (.WN_PORT_STAT_OVER_BUDGET, p.val)]) ∧
      (s.loadedBudget p < n → ∃ u, exec (.portBudgetWrite p v) s = .next u ∧ u.rd .WN_STAT_CFG_REFUSED = 1 ∧
        s.onlyRegs u [(.WN_STAT_CFG_REFUSED, 0)])) ∧
    (∀ m : Fin 2,
      (s.flag .WN_PORT_CTL_EN p = false → s.modes = [] →
        ∃ u, exec (.framingWrite p m) s = .next u ∧ u.rdi .WN_PORT_CTL_FRAMING p = m.val ∧
        (s.linksOf p = [] → s.onlyRegs { u with net := s.net } [(.WN_PORT_CTL_FRAMING, p.val)])) ∧
      (s.flag .WN_PORT_CTL_EN p = false → s.modes ≠ [] → s.modeBusy (.framing p 0) = false →
        exec (.framingWrite p m) s = .next { s with modes := s.modes ++ [.framing p m] }) ∧
      (s.flag .WN_PORT_CTL_EN p = true ∨ s.modeBusy (.framing p 0) = true →
        ∃ u, exec (.framingWrite p m) s = .next u ∧ u.rdi .WN_PORT_STAT_BUSY p = 1 ∧
        s.onlyRegs u [(.WN_PORT_STAT_BUSY, p.val)])) ∧
    (s.portState p = 0 ∨ s.portState p = 4 → ∃ u, exec (.wakeSend p) s = .next u ∧
      u = { s with net := u.net } ∧ u.net.out = s.net.out ++ [(p.val, .wake)]) ∧
    (s.portState p ≠ 0 → s.portState p ≠ 4 → exec (.wakeSend p) s = .next s)

/-! ### The host's window and events -/

/-- The memory window and the event ring (R17, R190, R292, R319, R322, R323, R325, R326). With `b` the state awake: an
access in range that must wait is held behind those that wait; a window write in range of a target that is there,
versioned nowhere, puts its bytes there and nowhere else; a read of it answers those bytes and changes no memory; a range
with an unmapped byte is answered with Unsupported Request. The offset takes a multiple of the size, a resize zeroes it;
HEAD moves up to TAIL; EVT_CFG turns the ring on and off; the oldest held event goes into a ring that has room. -/
def Obligations.WindowAndEventRing : Prop :=
  (∀ (s b : State) (a w : Nat), s.hostUp = true → b = s.leaveIdle → w = b.rd .HI_MWIN_OFFSET_OFFSET + a →
    (∀ (d : List Byte) (ep : Bool), 1 ≤ d.length → d.length ≤ 512 → a + d.length ≤ 2 ^ 42 →
      (s.inBar a d.length = false → exec (.memoryWindowWrite a d ep) s = .next s) ∧
      (s.inBar a d.length = true → b.windowWaits w d.length = true →
        exec (.memoryWindowWrite a d ep) s = .next (b.holdAccess (.write w d ep))) ∧
      (s.inBar a d.length = true → b.windowWaits w d.length = false →
        (windowMapped w d.length = false → ∃ u, exec (.memoryWindowWrite a d ep) s = .next u ∧
          u = { b with egress := b.egress ++ [.aer false] }) ∧
        ∀ (space t k : Nat), b.vregs = [] → b.flaws = [] →
          windowPieces w d.length = [(w, d.length)] → windowPlace w = some (space, t, k) → b.windowThere space t k = true →
          ∃ u, exec (.memoryWindowWrite a d ep) s = .next u ∧ u = b.writeAt .unbound space t k (d.map fun x => ⟨x, ep⟩) ∧
          ∀ p, (∀ j, j < d.length → p ≠ b.phys space t (k + j)) → u.byteAt p = b.byteAt p)) ∧
    (∀ (n : Nat), 1 ≤ n → n ≤ 4096 → a + n ≤ 2 ^ 42 →
      (s.inBar a n = false → exec (.memoryWindowRead a n) s = .next s) ∧
      (s.inBar a n = true → b.windowWaits w n = true →
        exec (.memoryWindowRead a n) s = .next (b.holdAccess (.read w n))) ∧
      (s.inBar a n = true → b.windowWaits w n = false →
        (windowMapped w n = false → ∃ u, exec (.memoryWindowRead a n) s = .next u ∧
          u.host.replies = b.host.replies ++ [⟨false, false, []⟩] ∧ u = { b with host := u.host }) ∧
        ∀ (space t k : Nat), b.vregs = [] → b.flaws = [] → windowPieces w n = [(w, n)] →
          windowPlace w = some (space, t, k) → b.windowThere space t k = true →
          ∃ u, exec (.memoryWindowRead a n) s = .next u ∧ u.host.replies = b.host.replies ++
            [⟨true, anyBad (b.readAt .unbound space t k n), (b.readAt .unbound space t k n).map PByte.val⟩] ∧
          u = { b with host := u.host }))) ∧
  (∀ (s : State), s.hostUp = true →
    (∀ v n, v < 2 ^ 64 → n = v % 2 ^ 42 →
      (n % 2 ^ s.host.barLog2 = 0 → ∃ u, exec (.mwinOffsetWrite v) s = .next u ∧ u.rd .HI_MWIN_OFFSET_OFFSET = n ∧
        s.onlyRegs u [(.HI_MWIN_OFFSET_OFFSET, 0)]) ∧
      (n % 2 ^ s.host.barLog2 ≠ 0 → ∃ u, exec (.mwinOffsetWrite v) s = .next u ∧ u.rd .HI_STAT_CFG_REFUSED = 1 ∧
        s.onlyRegs u [(.HI_STAT_CFG_REFUSED, 0)])) ∧
    (∀ n, 30 ≤ n → n ≤ 42 → ∃ u, exec (.barResize n) s = .next u ∧ u.host.barLog2 = n ∧ u.rd .HI_MWIN_OFFSET_OFFSET = 0 ∧
      s.onlyRegs { u with host := s.host } [(.HI_MWIN_OFFSET_OFFSET, 0)]) ∧
    (∀ v h, v < 2 ^ 32 → h = s.rd .HI_EVT_HEAD_HEAD →
      ((v + 2 ^ 32 - h) % 2 ^ 32 ≤ (s.rd .HI_EVT_TAIL_TAIL + 2 ^ 32 - h) % 2 ^ 32 →
        ∃ u, exec (.evtHeadWrite v) s = .next u ∧
        u.rd .HI_EVT_HEAD_HEAD = v ∧ s.onlyRegs u [(.HI_EVT_HEAD_HEAD, 0)]) ∧
      ((s.rd .HI_EVT_TAIL_TAIL + 2 ^ 32 - h) % 2 ^ 32 < (v + 2 ^ 32 - h) % 2 ^ 32 →
        ∃ u, exec (.evtHeadWrite v) s = .next u ∧
        u.rd .HI_STAT_BAD_HEAD = 1 ∧ s.onlyRegs u [(.HI_STAT_BAD_HEAD, 0)])) ∧
    (∀ n, 6 ≤ n → n ≤ 16 →
      (s.flag .HI_EVT_CFG_EN 0 = false →
        (∃ u, exec (.evtCfgWrite (n + 2 ^ 31)) s = .next u ∧ u.rd .HI_EVT_CFG_LOG2N = n ∧
          u.rd .HI_EVT_CFG_EN = 1 ∧ u.rd .HI_EVT_HEAD_HEAD = 0 ∧ u.rd .HI_EVT_TAIL_TAIL = 0 ∧ s.onlyRegs u
            [(.HI_EVT_CFG_LOG2N, 0), (.HI_EVT_CFG_EN, 0), (.HI_EVT_HEAD_HEAD, 0), (.HI_EVT_TAIL_TAIL, 0)]) ∧
        (∃ u, exec (.evtCfgWrite n) s = .next u ∧ u.rd .HI_EVT_CFG_LOG2N = n ∧ s.onlyRegs u [(.HI_EVT_CFG_LOG2N, 0)])) ∧
      (s.flag .HI_EVT_CFG_EN 0 = true → s.host.held = [] → n = s.rd .HI_EVT_CFG_LOG2N →
        ∃ u, exec (.evtCfgWrite n) s = .next u ∧ u.rd .HI_EVT_CFG_EN = 0 ∧
        s.onlyRegs u [(.HI_EVT_CFG_EN, 0), (.HI_EVT_CFG_LOG2N, 0)]) ∧
      (s.flag .HI_EVT_CFG_EN 0 = true → n ≠ s.rd .HI_EVT_CFG_LOG2N →
        ∃ u, exec (.evtCfgWrite (n + 2 ^ 31)) s = .next u ∧ u.rd .HI_STAT_CFG_REFUSED = 1 ∧
        s.onlyRegs u [(.HI_STAT_CFG_REFUSED, 0)])) ∧
    (∀ n, n < 6 ∨ (16 < n ∧ n < 32) → s.flag .HI_EVT_CFG_EN 0 = false →
      ∃ u, exec (.evtCfgWrite n) s = .next u ∧ u.rd .HI_STAT_CFG_REFUSED = 1 ∧ s.onlyRegs u [(.HI_STAT_CFG_REFUSED, 0)]) ∧
    (s.host.held = [] ∨ s.flag .HI_EVT_CFG_EN 0 = false ∨ s.ringFull = true → exec .eventRelease s = .next s) ∧
    (∀ (e : EvtRec) (r : List EvtRec), s.host.held = e :: r → e.kind ≠ 0 → s.flag .HI_EVT_CFG_EN 0 = true →
      s.ringFull = false →
      ∃ u, exec .eventRelease s = .next u ∧ u.host.held = r ∧
        u.rd .HI_EVT_TAIL_TAIL = (s.rd .HI_EVT_TAIL_TAIL + 1) % 2 ^ 32 ∧ u.mem = s.mem ∧ u.queues = s.queues)) ∧
  ∀ (s : State), s.hostUp = false →
    (∀ a d ep, 1 ≤ d.length → d.length ≤ 512 → a + d.length ≤ 2 ^ 42 → exec (.memoryWindowWrite a d ep) s = .next s) ∧
    (∀ a n, 1 ≤ n → n ≤ 4096 → a + n ≤ 2 ^ 42 → exec (.memoryWindowRead a n) s = .next s) ∧
    (∀ v, v < 2 ^ 64 → exec (.mwinOffsetWrite v) s = .next s) ∧
    (∀ n, 30 ≤ n → n ≤ 42 → exec (.barResize n) s = .next s) ∧
    (∀ v, v < 2 ^ 32 → exec (.evtHeadWrite v) s = .next s ∧ exec (.evtCfgWrite v) s = .next s) ∧
    exec .eventRelease s = .next s

/-! ### Mailbox and sideband -/

/-- The mailbox (R22, R327, R328, R345): firmware answers a waiting command: GET_VERSION with the firmware's version and
security version, a long command ACCEPTED, or BAD_ARG, BUSY or REFUSED by the first condition that fails; a calibration, a
key's revocation and a reread that end take effect and are recorded under their TAG, or lost where 64 records wait;
MBX_POP takes the oldest record. -/
def Obligations.MailboxCommands : Prop :=
  ∀ (s : State),
    (∀ c : MbxCmd, s.fwUp = true → s.mailbox.waiting = some c → c.tag < 256 →
      (c.op = 1 → ∃ u, exec .getVersion s = .next u ∧ u.rdi .MC_MBX_RES_RESULT 0 = s.rd .MC_FW_VER_VERSION % 2 ^ 32 ∧
        u.rdi .MC_MBX_RES_RESULT 1 = s.boot.imageSvn % 2 ^ 32 ∧ u.rd .MC_MBX_STAT_STATUS = 0 ∧
          u.rd .MC_MBX_STAT_TAG = c.tag ∧
        u.mailbox.waiting = none ∧ u.mem = s.mem) ∧
      ∀ k op, (k, op) ∈ [(Instr.harden, 2), (.retrainStack, 3), (.retrainPort, 4), (.calibrate, 5), (.raiseSvn, 6),
          (.revokeKey, 7), (.rereadFru, 8)] →
        (c.op ≠ op → exec k s = .next s) ∧
        (c.op = op →
          (c.argOk = true → (s.mailbox.active.any fun x => x.resource == c.resource) = false → s.mbxMay c = true →
            ∃ u, exec k s = .next u ∧ u.rd .MC_MBX_STAT_STATUS = 1 ∧ u.rd .MC_MBX_STAT_TAG = c.tag ∧
            u.rd .MC_MBX_CTL_GO = 0 ∧ u.mailbox.waiting = none ∧ u.mailbox.active = s.mailbox.active ++ [c] ∧
              u.mem = s.mem) ∧
          (∀ st, st = (if c.argOk = false then 4 else if (s.mailbox.active.any fun x => x.resource == c.resource) = true
            then 2
              else 7) → c.argOk = false ∨ (s.mailbox.active.any fun x => x.resource == c.resource) = true ∨
                s.mbxMay c = false →
            ∃ u, exec k s = .next u ∧ u.rd .MC_MBX_STAT_STATUS = st ∧ u.rd .MC_MBX_STAT_TAG = c.tag ∧
            u.mailbox.waiting = none ∧ u.mailbox.active = s.mailbox.active ∧
            s.onlyRegs { u with mailbox := s.mailbox, host := s.host, egress := s.egress }
              [(.MC_MBX_STAT_STATUS, 0), (.MC_MBX_STAT_TAG, 0), (.MC_MBX_CTL_GO, 0)]))) ∧
    (∀ (tag : Nat) (ok : Bool) (c : MbxCmd), tag < 256 → s.fwUp = true → c.op ∈ [5, 7, 8] →
      s.mailbox.active.find? (fun c => c.tag == tag) = some c → ∃ u, exec (.mailboxDone tag ok) s = .next u ∧
        u.mailbox.active = s.mailbox.active.eraseP (fun x => x.tag == tag) ∧
        (s.mailbox.records.length < 64 → u.mailbox.records = s.mailbox.records ++
          [c.op + c.tag * 2 ^ 8 + (if ok then 0 else 6) * 2 ^ 16] ∧ u.rd .MC_MBX_POP_LOST = s.rd .MC_MBX_POP_LOST) ∧
        (64 ≤ s.mailbox.records.length → u.mailbox.records = s.mailbox.records ∧ u.rd .MC_MBX_POP_LOST = 1) ∧
        (c.op = 5 → ok = true → u.rd .PW_STAT_CALIBRATED = 1) ∧
        (c.op = 7 → ok = true → c.arg ≤ 3 → u.bitOf .ID_FUSE_CFG_REVOKED c.arg = true) ∧
        s.onlyRegs { u with mailbox := s.mailbox, host := s.host, egress := s.egress }
          [(.MC_MBX_POP_LOST, 0), (.PW_STAT_CALIBRATED, 0), (.ID_FUSE_CFG_REVOKED, 0)]) ∧
    (∀ (tag : Nat) (ok : Bool), tag < 256 → s.fwUp = true → s.mailbox.active.find? (fun c => c.tag == tag) = none →
      exec (.mailboxDone tag ok) s = .next s) ∧
    (s.hostUp = true → ∃ u, exec .mbxPop s = .next u ∧ u.mailbox.records = s.mailbox.records.drop 1 ∧
      u = { s with mailbox := u.mailbox }) ∧
    (s.hostUp = false → exec .mbxPop s = .next s) ∧
    (s.fwUp = false ∨ s.mailbox.waiting = none → ∀ k ∈ [Instr.getVersion, .harden, .retrainStack, .retrainPort, .calibrate,
      .raiseSvn, .revokeKey, .rereadFru], exec k s = .next s)

/-- The sideband's vendor commands (R334 to R336): GET_STATE is answered in every state with power, the others by running
firmware, and NOT_READY without it; without power none is. Profile, cap and scrub go the way of the host's
registers (R16, R18, R166, R263); Dormant, wake and reset do what R261, R262 and R297 say; the operator owns, drives and
reads GPIO pins (R315); an acknowledged alert is cleared. The layout of an answer is the model's (assumption log entry
30). -/
def Obligations.VendorCommands : Prop :=
  (∀ s : State, s.boot.phase = .off →
    ∀ c ∈ [Instr.getState, .setProfile 0, .setCap 1800, .setScrub 1, .dormant, .sidebandWake,
    .softReset 0xD1E5, .gpio 0 .release, .alertAck 0, .setEndpointId 8], exec c s = .next s) ∧
  ∀ (s : State), s.boot.phase ≠ .off →
    (∃ u, exec .getState s = .next u ∧ (u.sideband.answer.map Answer.code) = some 0 ∧
      u = { s with sideband := u.sideband }) ∧
    (s.power.dormant = true → ∃ u, exec .sidebandWake s = .next u ∧ u.power.dormant = false ∧ u.boot.phase = .held ∧
      u.rd .PW_WAKE_LAST_SOURCE = 3) ∧
    (s.power.dormant = false → exec .sidebandWake s = .next (s.answer .vendor 2 [])) ∧
    (∃ u, exec (.softReset 0xD1E5) s = .next u ∧ u.boot.phase = .held ∧ u.hostUp = false ∧ 4 ∈ u.boot.causes) ∧
    (∀ k, k < 65536 → k ≠ 0xD1E5 → exec (.softReset k) s = .next (s.answer .vendor 2 [])) ∧
    (∀ e, e < 256 → (e ≠ 0 → e ≠ 255 → ∃ u, exec (.setEndpointId e) s = .next u ∧ u.sideband.eid = e ∧
        u = { s with sideband := u.sideband }) ∧
      (e = 0 ∨ e = 255 → exec (.setEndpointId e) s = .next (s.answer .mctp 2 []))) ∧
    (s.fwUp = false → ∀ c ∈ [Instr.setProfile 0, .setCap 1800, .setScrub 1, .dormant, .gpio 0 .release, .alertAck 0],
      exec c s = .next (s.answer .vendor 3 [])) ∧
    (s.fwUp = true →
      (∀ v p, v < 2 ^ 32 → p = v % 4 →
        (p < 3 → s.modes = [] → ∃ u, exec (.setProfile v) s = .next u ∧ u.rd .PW_PROFILE_PROFILE = p ∧
          u.rd .PW_CAP_WATTS = [2800, 2400, 1800].getD p 0 ∧ u.modes = [.profile p] ∧
          u.sideband.answer = some ⟨.vendor, 0, []⟩) ∧
        (p < 3 → s.modes ≠ [] → s.modeBusy (.profile 0) = false →
          exec (.setProfile v) s = .next (({ s with modes := s.modes ++ [.profile p] } : State).answer .vendor 0 [])) ∧
        (p < 3 → s.modeBusy (.profile 0) = true → ∃ u, exec (.setProfile v) s = .next u ∧ u.rd .PW_STAT_BUSY = 1 ∧
          u.sideband.answer = some ⟨.vendor, 1, []⟩ ∧
          s.onlyRegs { u with sideband := s.sideband } [(.PW_STAT_BUSY, 0), (.PW_STAT_CFG_REFUSED, 0)]) ∧
        (p = 3 → ∃ u, exec (.setProfile v) s = .next u ∧ u.rd .PW_STAT_CFG_REFUSED = 1 ∧
          u.sideband.answer = some ⟨.vendor, 2, []⟩ ∧
          s.onlyRegs { u with sideband := s.sideband } [(.PW_STAT_CFG_REFUSED, 0)])) ∧
      (∀ v w, v < 2 ^ 32 → w = v % 4096 →
        (900 ≤ w → w ≤ 2800 → ∃ u, exec (.setCap v) s = .next u ∧ u.rd .PW_CAP_WATTS = w ∧
          u.sideband.answer = some ⟨.vendor, 0, []⟩ ∧ s.onlyRegs { u with sideband := s.sideband } [(.PW_CAP_WATTS, 0)]) ∧
        (w < 900 ∨ 2800 < w → ∃ u, exec (.setCap v) s = .next u ∧ u.rd .PW_STAT_CFG_REFUSED = 1 ∧
          u.sideband.answer = some ⟨.vendor, 2, []⟩ ∧
          s.onlyRegs { u with sideband := s.sideband } [(.PW_STAT_CFG_REFUSED, 0)])) ∧
      (∀ v, v < 2 ^ 32 →
        (3 ≤ v ∨ s.modeBusy (.scrub 0) = true → ∃ u, exec (.setScrub v) s = .next u ∧ u.rd .GN_STAT_BUSY = 1 ∧
          u.sideband.answer = some ⟨.vendor, if 3 ≤ v then 2 else 1, []⟩ ∧
          s.onlyRegs { u with sideband := s.sideband } [(.GN_STAT_BUSY, 0)]) ∧
        (v < 3 → s.modes = [] → s.scrubRuns = false → ∃ u, exec (.setScrub v) s = .next u ∧ u.rd .GN_CFG_SCRUB = v ∧
          u.sideband.answer = some ⟨.vendor, 0, []⟩ ∧ s.onlyRegs { u with sideband := s.sideband } [(.GN_CFG_SCRUB, 0)]) ∧
        (v < 3 → s.modeBusy (.scrub 0) = false → s.modes ≠ [] ∨ s.scrubRuns = true →
          exec (.setScrub v) s = .next (({ s with modes := s.modes ++ [.scrub v] } : State).answer .vendor 0 []))) ∧
      (s.allIdle = true → ∃ u, exec .dormant s = .next u ∧ u.power.dormant = true ∧
        (u.sideband.answer.map Answer.code) = some 0) ∧
      (s.allIdle = false → ∃ u, exec .dormant s = .next u ∧ u.rd .PW_STAT_BUSY = 1 ∧
        (u.sideband.answer.map Answer.code) = some 1 ∧ s.onlyRegs { u with sideband := s.sideband } [(.PW_STAT_BUSY, 0)]) ∧
      (∀ (n : Fin 4) (fn : Nat), 1 ≤ fn → fn < 8 → s.pinMay n 3 fn = true → ∃ u, exec (.gpio n (.claim fn)) s = .next u ∧
        u.rdi .ER_GPIO_OWN n = 3 ∧ u.rdi .ER_GPIO_FN n = fn ∧ u.sideband.answer = some ⟨.vendor, 0, []⟩ ∧
        s.onlyRegs { u with sideband := s.sideband } [(.ER_GPIO_OWN, n.val), (.ER_GPIO_FN, n.val), (.ER_GPIO_IN, n.val)]) ∧
      (∀ (n : Fin 4) (fn : Nat), fn < 8 → fn = 0 ∨ s.pinMay n 3 fn = false →
        exec (.gpio n (.claim fn)) s = .next (s.answer .vendor (if fn = 0 then 2 else 1) [])) ∧
      (∀ n : Fin 4, s.rdi .ER_GPIO_OWN n = 3 →
        (∃ u, exec (.gpio n .release) s = .next u ∧ u.rdi .ER_GPIO_OWN n = 0 ∧ u.rdi .ER_GPIO_FN n = 0 ∧
          u.sideband.answer = some ⟨.vendor, 0, []⟩ ∧
          s.onlyRegs { u with sideband := s.sideband } [(.ER_GPIO_OWN, n.val), (.ER_GPIO_FN, n.val)]) ∧
        ∀ b : Bool, ∃ u, exec (.gpio n (.drive b)) s = .next u ∧ u.rdi .ER_GPIO_OUT n = b2n b ∧
          u.sideband.answer = some ⟨.vendor, 0, []⟩ ∧
          s.onlyRegs { u with sideband := s.sideband } [(.ER_GPIO_OUT, n.val), (.ER_GPIO_IN, n.val)]) ∧
      (∀ (n : Fin 4) (b : Bool), ∃ u, exec (.gpio n (.read b)) s = .next u ∧
        u.rdi .ER_GPIO_IN n = s.pinLevel n (b2n b) % 2 ∧
        u.sideband.answer = some ⟨.vendor, 0, leBytes 1 (s.pinLevel n (b2n b) % 2)⟩ ∧
        s.onlyRegs { u with sideband := s.sideband } [(.ER_GPIO_IN, n.val)]) ∧
      (∀ n : Fin 4, s.rdi .ER_GPIO_OWN n ≠ 3 → ∀ a ∈ [GpioAct.release, .drive false, .drive true],
        exec (.gpio n a) s = .next (s.answer .vendor 1 [])) ∧
      (∀ m, m < 2 ^ 32 → ∃ u, exec (.alertAck m) s = .next u ∧
        (∀ f k, (f, k) ∈ [(F.HI_ALERT_CLKFAIL, 0), (.HI_ALERT_TRIP, 1), (.HI_ALERT_BAY, 2), (.HI_ALERT_FATAL, 3),
          (.HI_ALERT_FLOOR, 4)] →
          u.rd f = if bit m k then 0 else s.rd f) ∧
        s.onlyRegs { u with sideband := s.sideband } [(.HI_ALERT_CLKFAIL, 0), (.HI_ALERT_TRIP, 0), (.HI_ALERT_BAY, 0),
          (.HI_ALERT_FATAL, 0), (.HI_ALERT_FLOOR, 0)]))

/-- PLDM and SPDM (R335, R337, R339, R340): every request is answered and changes the endpoint alone; without firmware it
is answered not ready. A poll takes the oldest event, a refresh takes the sensors' values, sensor 101 starts over, and
digests, certificates, challenges and measurements come only after the algorithms are agreed. The encodings are the
model's (assumption log entry 30). -/
def Obligations.ManagementRequests : Prop :=
  ∀ (s : State), s.boot.phase ≠ .off →
    (s.fwUp = false →
      (∀ c ∈ [Instr.getPdr, .getSensorReading 1, .getStateSensorReadings 100, .pollForPlatformEventMessage],
        exec c s = .next (s.answer .pldm 4 [])) ∧
      (∀ c ∈ [Instr.spdmGetVersion, .getCapabilities, .negotiateAlgorithms 0x400 4, .getDigests, .getCertificate 0 4,
          .challenge (List.replicate 32 0), .getMeasurements 1 (List.replicate 32 0)],
        exec c s = .next (s.answer .spdm 3 []))) ∧
    (s.fwUp = true →
      (∃ u, exec .getPdr s = .next u ∧ (u.sideband.answer.map Answer.code) = some 0 ∧
        u = { s with sideband := u.sideband }) ∧
      (∀ n, n < 65536 → isNumeric n = true → ∃ u, exec (.getSensorReading n) s = .next u ∧
        u.sideband.answer = some ⟨.pldm, 0,
          (match Tbl.find s.sideband.sensors n with | none => [] | some v => leBytes 8 v)⟩ ∧
        u = { s with sideband := u.sideband }) ∧
      (∀ n, n < 65536 → isNumeric n = false → exec (.getSensorReading n) s = .next (s.answer .pldm 128 [])) ∧
      (∀ n, n < 65536 → n ≠ 100 → n ≠ 101 → exec (.getStateSensorReadings n) s = .next (s.answer .pldm 128 [])) ∧
      (∃ u, exec (.getStateSensorReadings 101) s = .next u ∧ u.sideband.worst = 0 ∧
        u.sideband.answer = some ⟨.pldm, 0, leBytes 1 s.sideband.worst⟩ ∧ u = { s with sideband := u.sideband }) ∧
      (∃ u, exec (.getStateSensorReadings 100) s = .next u ∧
        u.sideband.answer = some ⟨.pldm, 0, leBytes 1 (Tbl.get 0 s.sideband.sensors 100)⟩ ∧
          u = { s with sideband := u.sideband }) ∧
      (∃ u, exec .pollForPlatformEventMessage s = .next u ∧ u.sideband.events = s.sideband.events.drop 1 ∧
        u = { s with sideband := u.sideband }) ∧
      (∃ u, exec .sensorRefresh s = .next u ∧ u.sideband.sensors = s.numericSensors ++ [(100, s.rd .ER_SERVICE_STATE)] ∧
        u = { s with sideband := u.sideband }) ∧
      exec .spdmGetVersion s = .next (s.answer .spdm 0 [0x13]) ∧
      (∃ u, exec .getCapabilities s = .next u ∧ (u.sideband.answer.map Answer.code) = some 0 ∧
        u = { s with sideband := u.sideband }) ∧
      (∀ a h, a < 2 ^ 32 → h < 2 ^ 32 → ∃ u, exec (.negotiateAlgorithms a h) s = .next u ∧
        u.sideband.negotiated = (bit a 10 && bit h 2) ∧ u = { s with sideband := u.sideband }) ∧
      (∀ n : List Byte, n.length = 32 →
        (s.sideband.negotiated = false → ∀ c ∈ [Instr.getDigests, .getCertificate 0 4, .challenge n, .getMeasurements 1 n],
          exec c s = .next (s.answer .spdm 4 [])) ∧
        (s.sideband.negotiated = true →
          exec .getDigests s = .next (s.answer .spdm 0 (sha512 s.chain)) ∧
          (∀ o k, o < s.chain.length → o < 65536 → k < 65536 → exec (.getCertificate o k) s =
            .next (s.answer .spdm 0 ((s.chain.drop o).take k))) ∧
          (∀ o k, s.chain.length ≤ o → o < 65536 → k < 65536 →
            exec (.getCertificate o k) s = .next (s.answer .spdm 1 [])) ∧
          exec (.challenge n) s = .next (s.answer .spdm 0 (sha512 s.chain ++ Config.sign (sha512 s.chain ++ n))) ∧
          exec (.getMeasurements 0 n) s = .next (s.answer .spdm 0 [27]) ∧
          (∀ j, 27 < j → j < 255 → exec (.getMeasurements j n) s = .next (s.answer .spdm 1 [])) ∧
          (∃ l, l = (upFrom 1 27).flatMap s.measurement ∧
            exec (.getMeasurements 255 n) s = .next (s.answer .spdm 0 (l ++ Config.sign (l ++ n)))) ∧
          ∀ j, 1 ≤ j → j ≤ 27 → exec (.getMeasurements j n) s =
            .next (s.answer .spdm 0 (s.measurement j ++ Config.sign (s.measurement j ++ n))))))

/-! ### Memory and numbers -/

/-- Where memory lies, and that it keeps what is written. The stack and stack-local address of a module address in both
interleaves (R154, R155): bay-local, every bay and every stack holds one run of addresses; interleaved, granules of
4 KiB go round the 24 stacks, change bay each time, and fill every stack; accesses go by the interleave in force. A write
of a whole loft word replaces it and clears its poison mark; a write of a part of a marked word is lost and the mark
stays (R136). Outside versioned regions and with no error waiting, a write of clean bytes to unpoisoned units of a loft or
of HBM on stacks that have not failed puts every byte in its place and no other, and reads back as written. -/
def Obligations.MemoryKeepsWrites : Prop :=
  (∀ a, a < 24 * 2 ^ 37 →
    hbmPlace 0 a = (a / 2 ^ 37, a % 2 ^ 37) ∧
    (∀ b, b < 4 → (stackBay (hbmPlace 0 a).1 = b ↔ b * (768 * 2 ^ 30) ≤ a ∧ a < (b + 1) * (768 * 2 ^ 30))) ∧
    (∀ k, k < 24 → ((hbmPlace 0 a).1 = k ↔ k * (128 * 2 ^ 30) ≤ a ∧ a < (k + 1) * (128 * 2 ^ 30))) ∧
    hbmPlace 1 a = (6 * (a / 4096 % 24 % 4) + a / 4096 % 24 / 4, a / 4096 / 24 * 4096 + a % 4096) ∧
    (hbmPlace 1 a).1 < 24 ∧ (hbmPlace 1 a).2 < 2 ^ 37 ∧ rotation (hbmPlace 1 a).1 = a / 4096 % 24 ∧
    stackBay (hbmPlace 1 (a + 4096)).1 ≠ stackBay (hbmPlace 1 a).1 ∧ (hbmPlace 1 (a + 24 * 4096)).1 = (hbmPlace 1 a).1 ∧
    ∀ (s : State) (t : Nat), s.phys 0 t a = (hbmPlace s.interleave a).1 * 2 ^ 37 + (hbmPlace s.interleave a).2) ∧
  (∀ k x, k < 24 → x < 2 ^ 37 → ∃ a, a < 24 * 2 ^ 37 ∧ hbmPlace 1 a = (k, x) ∧ ∀ b, hbmPlace 1 b = (k, x) → b = a) ∧
  ((List.range 6).map fun g => (hbmPlace 1 (4096 * g)).1) = [0, 6, 12, 18, 1, 7] ∧
  hbmPlace 0 0x12345678 = (0, 0x12345678) ∧ rowOf 0x12345678 = 22 * 2 ^ 21 + 52 * 2 ^ 15 + 72 ∧
  hbmPlace 1 0x12345678 = (11, 0x00C22678) ∧ rowOf 0x00C22678 = 38 * 2 ^ 21 + 2 * 2 ^ 15 + 3 ∧
  (∀ (s : State) (t k p : Nat) (l : List Byte), t < 8 → 8 * k + 8 ≤ Config.loftBytes → p = Config.loftBase t + 8 * k →
    s.flaws = [] → s.poisoned p = true →
    (l.length = 8 → ∀ j, j < 8 → (s.writePhys p (clean l)).poisoned (p + j) = false ∧
      (s.writePhys p (clean l)).byteAt (p + j) = l.getD j 0) ∧
    ∀ o, l.length < 8 → o + l.length ≤ 8 → ∀ j, j < 8 → (s.writePhys (p + o) (clean l)).poisoned (p + j) = true ∧
      (s.writePhys (p + o) (clean l)).byteAt (p + j) = s.byteAt (p + j)) ∧
  ∀ (s u : State) (space t a : Nat) (l : List Byte), s.vregs = [] → s.flaws = [] → space ≤ 1 → t < 8 →
    (space = 0 → a + l.length ≤ Config.hbmBytes) → (space = 1 → a + l.length ≤ Config.loftBytes) →
    (∀ k, k < l.length → s.poisoned (s.phys space t (a + k)) = false ∧ s.onFailed (s.phys space t (a + k)) = false) →
      u = s.writeAt .unbound space t a (clean l) →
    (∀ k, k < l.length → u.byteAt (s.phys space t (a + k)) = l.getD k 0) ∧
    (∀ p, (∀ k, k < l.length → p ≠ s.phys space t (a + k)) → u.byteAt p = s.byteAt p) ∧
    u.readAt .unbound space t a l.length = clean l ∧ u.regs = s.regs

/-- Blocks as they stand in memory (R26, R27). Of an MX block of element width w the bits w·i to w·i + w − 1 of its
bytes, the lowest first, are element i, and the byte behind the elements is the scale: 0xFF makes the block poison
whatever its elements hold, and any other code X scales every element by 2^(X − 127). A GS16 block holds element i in
bytes 2i and 2i + 1 and its exponent behind them. Blocks are written in the same form. -/
def Obligations.BlocksInMemory : Prop :=
  ∀ c w n : Nat, (c, w, n) ∈ [(3, 8, 33), (4, 8, 33), (5, 6, 25), (6, 6, 25), (7, 4, 17), (8, 16, 65)] →
    isBlock c = true ∧ unitBytes c = n ∧ unitElems c = 32 ∧
    (∀ (l : List PByte) (x : Nat), l.length = n → anyBad l = false → x = (l.getD (n - 1) ⟨0, false⟩).val.toNat →
      (∀ i k, i < 32 → k < w → blockElem c (pNat l) i < 2 ^ w ∧
        bit (blockElem c (pNat l) i) k = bit (l.getD ((w * i + k) / 8) ⟨0, false⟩).val.toNat ((w * i + k) % 8)) ∧
      (x = 0xFF → unitRaw c l = List.replicate 32 .poison) ∧
      (x < 0xFF → c ≠ 8 → ∀ i, i < 32 →
        (unitRaw c l)[i]? = some (((fmtOf c).value (blockElem c (pNat l) i)).scale ((x : Int) - 127)))) ∧
    ∀ (es : List Nat) (x : Nat), es.length = 32 → (∀ e ∈ es, e < 2 ^ w) → x < 256 →
      (blockBytes c es x).length = n ∧ ((blockBytes c es x).getD (n - 1) 0).toNat = x ∧
      ∀ i k, i < 32 → k < w → bit ((blockBytes c es x).getD ((w * i + k) / 8) 0).toNat ((w * i + k) % 8) = bit (es.getD
        i 0) k

/-- Numbers (R25, R28, R30, R34, R39): the code of a finite value, and of an infinity or poison of FP32 or BF16, is the
code it was read from; a chunk with a poisoned operand is poison; a chunk of one product is that product, scaled and
rounded once to FP32. -/
def Obligations.NumbersReadBack : Prop :=
  (∀ c n : Nat, 1 ≤ c → c ≤ 7 → n < 2 ^ (fmtOf c).width →
    ((fmtOf c).value n).finite = true ∨ c ≤ 2 ∧ (fmtOf c).value n ≠ .nan → (fmtOf c).code ((fmtOf c).value n) none = n) ∧
  (∀ (l : List Term) (x : Term), x ∈ l → x.x = .poison ∨ x.w = .poison → chunkResult l = .poison) ∧
  ∀ (s t : Bool) (m n : Nat) (e f k : Int), 0 < m * n → m * n < 2 ^ 60 →
    chunkResult [⟨.num s m e, .num t n f, k⟩] = (((Fp.num s m e).mul (.num t n f)).scale k).round32
end

