-- ==== Sys2Proof/Laws/Tables.lean ====
section
/-! SUPPORT. The laws of sparse tables: what a read gives after a write, and that writes and filters keep the canonical
form. -/

namespace Sys2Proof.Machine

variable {α : Type} {d v : α} {t : List (Nat × α)} {k j : Nat}

theorem Tbl.get_put_same : Tbl.get d (Tbl.put t k v) k = v := by
  induction t with
  | nil => simp [Tbl.put, Tbl.get]
  | cons e r ih =>
    obtain ⟨k', v'⟩ := e
    simp only [Tbl.put]
    split_ifs <;> simp_all [Tbl.get]

theorem Tbl.get_put_other (h : j ≠ k) : Tbl.get d (Tbl.put t k v) j = Tbl.get d t j := by
  induction t with
  | nil => simp [Tbl.put, Tbl.get, Ne.symm h]
  | cons e r ih =>
    obtain ⟨k', v'⟩ := e
    simp only [Tbl.put]
    split_ifs with h1 h2
    · subst h1; simp [Tbl.get, Ne.symm h]
    · simp [Tbl.get, Ne.symm h]
    · simp [Tbl.get, ih]

theorem Tbl.get_del_same : Tbl.get d (Tbl.del t k) k = d := by
  induction t with
  | nil => rfl
  | cons e r ih =>
    obtain ⟨k', v'⟩ := e
    simp only [Tbl.del]
    split_ifs with h1 <;> simp [Tbl.get, *]

theorem Tbl.get_del_other (h : j ≠ k) : Tbl.get d (Tbl.del t k) j = Tbl.get d t j := by
  induction t with
  | nil => rfl
  | cons e r ih =>
    obtain ⟨k', v'⟩ := e
    simp only [Tbl.del]
    split_ifs with h1
    · subst h1; simp [Tbl.get, ih, Ne.symm h]
    · simp [Tbl.get, ih]

/-- A read after a write to the same number gives the value written. -/
@[simp] theorem Tbl.get_set_same [DecidableEq α] : Tbl.get d (Tbl.set d t k v) k = v := by
  unfold Tbl.set
  split_ifs with h
  · rw [Tbl.get_del_same, h]
  · exact Tbl.get_put_same

/-- A write leaves every other number alone. -/
theorem Tbl.get_set_other [DecidableEq α] (h : j ≠ k) : Tbl.get d (Tbl.set d t k v) j = Tbl.get d t j := by
  unfold Tbl.set
  split_ifs
  · exact Tbl.get_del_other h
  · exact Tbl.get_put_other h

theorem Tbl.get_set [DecidableEq α] :
    Tbl.get d (Tbl.set d t k v) j = if j = k then v else Tbl.get d t j := by
  split_ifs with h
  · subst h; simp
  · exact Tbl.get_set_other h

@[simp] theorem Tbl.get_upd_same [DecidableEq α] {g : α → α} :
    Tbl.get d (Tbl.upd d t k g) k = g (Tbl.get d t k) := by simp [Tbl.upd]

theorem Tbl.get_upd_other [DecidableEq α] {g : α → α} (h : j ≠ k) :
    Tbl.get d (Tbl.upd d t k g) j = Tbl.get d t j := by simp [Tbl.upd, Tbl.get_set_other h]

theorem Tbl.mem_put {e : Nat × α} (h : e ∈ Tbl.put t k v) : e = (k, v) ∨ e ∈ t := by
  induction t with
  | nil => simpa [Tbl.put] using h
  | cons x r ih =>
    obtain ⟨k', v'⟩ := x
    simp only [Tbl.put] at h
    split_ifs at h
    · simp only [List.mem_cons] at h ⊢; tauto
    · simp only [List.mem_cons] at h ⊢; tauto
    · simp only [List.mem_cons] at h ⊢
      rcases h with h | h
      · exact .inr (.inl h)
      · exact (ih h).elim .inl fun h => .inr (.inr h)

theorem Tbl.mem_del {e : Nat × α} (h : e ∈ Tbl.del t k) : e ∈ t ∧ e.1 ≠ k := by
  induction t with
  | nil => simp [Tbl.del] at h
  | cons x r ih =>
    obtain ⟨k', v'⟩ := x
    simp only [Tbl.del] at h
    split_ifs at h with h1
    · exact ⟨List.mem_cons_of_mem _ (ih h).1, (ih h).2⟩
    · rcases List.mem_cons.1 h with h | h
      · subst h; exact ⟨List.mem_cons_self, h1⟩
      · exact ⟨List.mem_cons_of_mem _ (ih h).1, (ih h).2⟩

/-- What is listed after a write: the entry written, or one listed before. -/
theorem Tbl.mem_set [DecidableEq α] {e : Nat × α} (h : e ∈ Tbl.set d t k v) :
    (e = (k, v) ∧ v ≠ d) ∨ e ∈ t := by
  unfold Tbl.set at h
  split_ifs at h with h1
  · exact .inr (Tbl.mem_del h).1
  · exact (Tbl.mem_put h).imp (fun h => ⟨h, h1⟩) id

/-- The numbers of a table rise strictly. -/
def Tbl.rising (t : List (Nat × α)) : Prop := t.Pairwise fun a b => a.1 < b.1

theorem Tbl.rising_put (h : Tbl.rising t) : Tbl.rising (Tbl.put t k v) := by
  induction t with
  | nil => exact List.pairwise_singleton _ _
  | cons x r ih =>
    obtain ⟨k', v'⟩ := x
    obtain ⟨h1, h2⟩ := List.pairwise_cons.1 h
    simp only [Tbl.put]
    split_ifs with h3 h4
    · subst h3; exact List.pairwise_cons.2 ⟨h1, h2⟩
    · refine List.pairwise_cons.2 ⟨?_, h⟩
      intro e he
      rcases List.mem_cons.1 he with rfl | he
      · exact h4
      · exact h4.trans (h1 e he)
    · refine List.pairwise_cons.2 ⟨?_, ih h2⟩
      intro e he
      rcases Tbl.mem_put he with rfl | he
      · simp only; omega
      · exact h1 e he

theorem Tbl.rising_del (h : Tbl.rising t) : Tbl.rising (Tbl.del t k) := by
  induction t with
  | nil => exact List.Pairwise.nil
  | cons x r ih =>
    obtain ⟨k', v'⟩ := x
    obtain ⟨h1, h2⟩ := List.pairwise_cons.1 h
    simp only [Tbl.del]
    split_ifs
    · exact ih h2
    · exact List.pairwise_cons.2 ⟨fun e he => h1 e (Tbl.mem_del he).1, ih h2⟩

theorem Tbl.rising_set [DecidableEq α] (h : Tbl.rising t) : Tbl.rising (Tbl.set d t k v) := by
  unfold Tbl.set
  split_ifs
  · exact Tbl.rising_del h
  · exact Tbl.rising_put h

theorem Tbl.rising_filter (p : Nat × α → Bool) (h : Tbl.rising t) : Tbl.rising (t.filter p) := List.Pairwise.filter p h

/-- The canonical form in other words: rising numbers, and no entry equal to the default. -/
theorem Tbl.wf_iff [DecidableEq α] : Tbl.wf d t = true ↔ Tbl.rising t ∧ ∀ e ∈ t, e.2 ≠ d := by
  induction t with
  | nil => simp [Tbl.wf, Tbl.rising]
  | cons x r ih =>
    obtain ⟨k', v'⟩ := x
    simp only [Tbl.wf, Bool.and_eq_true, decide_eq_true_eq, ih, Tbl.rising, List.pairwise_cons, Tbl.above,
      List.all_eq_true, List.mem_cons, forall_eq_or_imp]
    tauto

/-- A write keeps the canonical form. -/
theorem Tbl.wf_set [DecidableEq α] (h : Tbl.wf d t = true) : Tbl.wf d (Tbl.set d t k v) = true := by
  rw [Tbl.wf_iff] at h ⊢
  refine ⟨Tbl.rising_set h.1, fun e he => ?_⟩
  rcases Tbl.mem_set he with ⟨rfl, hv⟩ | he
  · exact hv
  · exact h.2 e he

/-- Taking entries out keeps the canonical form. -/
theorem Tbl.wf_filter [DecidableEq α] (p : Nat × α → Bool) (h : Tbl.wf d t = true) : Tbl.wf d (t.filter p) = true := by
  rw [Tbl.wf_iff] at h ⊢
  exact ⟨Tbl.rising_filter p h.1, fun e he => h.2 e (List.mem_filter.1 he).1⟩

end Sys2Proof.Machine
end

