-- ==== Sys2Proof/Laws/Regs.lean ====
section
/-! SUPPORT. The laws of the register table: what a field reads after a field is written. -/

namespace Sys2Proof.Machine

theorem F.ctorIdx_inj {f g : F} (h : f.ctorIdx = g.ctorIdx) : f = g := by
  have := congrArg F.ofNat h
  rwa [F.ofNat_ctorIdx, F.ofNat_ctorIdx] at this

theorem F.ctorIdx_lt (f : F) : f.ctorIdx < 512 := by
  cases f <;> decide

theorem fkey_inj {f g : F} {i j : Nat} (h : fkey f i = fkey g j) : f = g ∧ i = j := by
  have hf := f.ctorIdx_lt
  have hg := g.ctorIdx_lt
  unfold fkey at h
  exact ⟨F.ctorIdx_inj (by omega), by omega⟩

theorem fkey_mod (f : F) (i : Nat) : fkey f i % 512 = f.ctorIdx := by
  have hf := f.ctorIdx_lt
  unfold fkey; omega

theorem fkey_div (f : F) (i : Nat) : fkey f i / 512 = i := by
  have hf := f.ctorIdx_lt
  unfold fkey; omega

/-- A field reads what was written to it, cut to its width. -/
@[simp] theorem rdi_wri_same {s : State} {f : F} {i v : Nat} : (s.wri f i v).rdi f i = v % 2 ^ f.info.width := by
  simp [State.rdi, State.wri]

/-- Writing a field leaves every other field, and every other instance, alone. -/
theorem rdi_wri_other {s : State} {f g : F} {i j v : Nat} (h : g ≠ f ∨ j ≠ i) :
    (s.wri f i v).rdi g j = s.rdi g j := by
  simp only [State.rdi, State.wri]
  unfold Tbl.set
  have hk : fkey g j ≠ fkey f i := fun e => by
    obtain ⟨a, b⟩ := fkey_inj e
    exact h.elim (· a) (· b)
  split_ifs
  · exact Tbl.get_del_other hk
  · exact Tbl.get_put_other hk

theorem rdi_wri {s : State} {f g : F} {i j v : Nat} :
    (s.wri f i v).rdi g j = if g = f ∧ j = i then v % 2 ^ f.info.width else s.rdi g j := by
  split_ifs with h
  · obtain ⟨rfl, rfl⟩ := h; simp
  · exact rdi_wri_other (by tauto)

@[simp] theorem rdi_wr {s : State} {f g : F} {j v : Nat} :
    (s.wr f v).rdi g j = if g = f ∧ j = 0 then v % 2 ^ f.info.width else s.rdi g j := rdi_wri

@[simp] theorem rd_wr_same {s : State} {f : F} {v : Nat} : (s.wr f v).rd f = v % 2 ^ f.info.width := by
  simp [State.rd]

theorem rd_wr_other {s : State} {f g : F} {v : Nat} (h : g ≠ f) : (s.wr f v).rd g = s.rd g := by
  simp [State.rd, h]

end Sys2Proof.Machine
end

