-- ==== Sys2Proof/Laws/State.lean ====
section
/-! SUPPORT. What the elementary updates of State leave alone, one law for each field an update does not write, and what
the named reads give after them. -/

namespace Sys2Proof.Machine

variable (s : State)

@[simp] theorem wri_mem (f : F) (i v : Nat) : (s.wri f i v).mem = s.mem := rfl
@[simp] theorem wri_poison (f : F) (i v : Nat) : (s.wri f i v).poison = s.poison := rfl
@[simp] theorem wri_flaws (f : F) (i v : Nat) : (s.wri f i v).flaws = s.flaws := rfl
@[simp] theorem wri_freeCtr (f : F) (i v : Nat) : (s.wri f i v).freeCtr = s.freeCtr := rfl
@[simp] theorem wri_stamp (f : F) (i v : Nat) : (s.wri f i v).stamp = s.stamp := rfl
@[simp] theorem wri_queues (f : F) (i v : Nat) : (s.wri f i v).queues = s.queues := rfl
@[simp] theorem wri_waiters (f : F) (i v : Nat) : (s.wri f i v).waiters = s.waiters := rfl
@[simp] theorem wri_org (f : F) (i v : Nat) : (s.wri f i v).org = s.org := rfl
@[simp] theorem wri_parts (f : F) (i v : Nat) : (s.wri f i v).parts = s.parts := rfl
@[simp] theorem wri_turners (f : F) (i v : Nat) : (s.wri f i v).turners = s.turners := rfl
@[simp] theorem wri_gran (f : F) (i v : Nat) : (s.wri f i v).gran = s.gran := rfl
@[simp] theorem wri_prov (f : F) (i v : Nat) : (s.wri f i v).prov = s.prov := rfl
@[simp] theorem wri_net (f : F) (i v : Nat) : (s.wri f i v).net = s.net := rfl
@[simp] theorem wri_log (f : F) (i v : Nat) : (s.wri f i v).log = s.log := rfl
@[simp] theorem wri_logSeq (f : F) (i v : Nat) : (s.wri f i v).logSeq = s.logSeq := rfl
@[simp] theorem wri_egress (f : F) (i v : Nat) : (s.wri f i v).egress = s.egress := rfl
@[simp] theorem wri_host (f : F) (i v : Nat) : (s.wri f i v).host = s.host := rfl
@[simp] theorem wri_power (f : F) (i v : Nat) : (s.wri f i v).power = s.power := rfl
@[simp] theorem wri_clock (f : F) (i v : Nat) : (s.wri f i v).clock = s.clock := rfl
@[simp] theorem wri_modes (f : F) (i v : Nat) : (s.wri f i v).modes = s.modes := rfl
@[simp] theorem wri_boot (f : F) (i v : Nat) : (s.wri f i v).boot = s.boot := rfl
@[simp] theorem wri_fuses (f : F) (i v : Nat) : (s.wri f i v).fuses = s.fuses := rfl
@[simp] theorem wri_staging (f : F) (i v : Nat) : (s.wri f i v).staging = s.staging := rfl
@[simp] theorem wri_mailbox (f : F) (i v : Nat) : (s.wri f i v).mailbox = s.mailbox := rfl
@[simp] theorem wri_sideband (f : F) (i v : Nat) : (s.wri f i v).sideband = s.sideband := rfl
@[simp] theorem wri_pending (f : F) (i v : Nat) : (s.wri f i v).pending = s.pending := rfl
@[simp] theorem wri_byteAt_read (f : F) (i v : Nat) (j : Nat) : (s.wri f i v).byteAt j = s.byteAt j := rfl
@[simp] theorem wri_queue_read (f : F) (i v : Nat) (j : Nat) : (s.wri f i v).queue j = s.queue j := rfl
@[simp] theorem wri_waitersOf_read (f : F) (i v : Nat) (j : Nat) : (s.wri f i v).waitersOf j = s.waitersOf j := rfl
@[simp] theorem wri_part_read (f : F) (i v : Nat) (a j : Nat) : (s.wri f i v).part a j = s.part a j := rfl
@[simp] theorem wri_turner_read (f : F) (i v : Nat) (j : Nat) : (s.wri f i v).turner j = s.turner j := rfl
@[simp] theorem wri_poisoned_read (f : F) (i v : Nat) (j : Nat) : (s.wri f i v).poisoned j = s.poisoned j := rfl

@[simp] theorem wr_mem (f : F) (v : Nat) : (s.wr f v).mem = s.mem := rfl
@[simp] theorem wr_poison (f : F) (v : Nat) : (s.wr f v).poison = s.poison := rfl
@[simp] theorem wr_flaws (f : F) (v : Nat) : (s.wr f v).flaws = s.flaws := rfl
@[simp] theorem wr_freeCtr (f : F) (v : Nat) : (s.wr f v).freeCtr = s.freeCtr := rfl
@[simp] theorem wr_stamp (f : F) (v : Nat) : (s.wr f v).stamp = s.stamp := rfl
@[simp] theorem wr_queues (f : F) (v : Nat) : (s.wr f v).queues = s.queues := rfl
@[simp] theorem wr_waiters (f : F) (v : Nat) : (s.wr f v).waiters = s.waiters := rfl
@[simp] theorem wr_org (f : F) (v : Nat) : (s.wr f v).org = s.org := rfl
@[simp] theorem wr_parts (f : F) (v : Nat) : (s.wr f v).parts = s.parts := rfl
@[simp] theorem wr_turners (f : F) (v : Nat) : (s.wr f v).turners = s.turners := rfl
@[simp] theorem wr_gran (f : F) (v : Nat) : (s.wr f v).gran = s.gran := rfl
@[simp] theorem wr_prov (f : F) (v : Nat) : (s.wr f v).prov = s.prov := rfl
@[simp] theorem wr_net (f : F) (v : Nat) : (s.wr f v).net = s.net := rfl
@[simp] theorem wr_log (f : F) (v : Nat) : (s.wr f v).log = s.log := rfl
@[simp] theorem wr_logSeq (f : F) (v : Nat) : (s.wr f v).logSeq = s.logSeq := rfl
@[simp] theorem wr_egress (f : F) (v : Nat) : (s.wr f v).egress = s.egress := rfl
@[simp] theorem wr_host (f : F) (v : Nat) : (s.wr f v).host = s.host := rfl
@[simp] theorem wr_power (f : F) (v : Nat) : (s.wr f v).power = s.power := rfl
@[simp] theorem wr_clock (f : F) (v : Nat) : (s.wr f v).clock = s.clock := rfl
@[simp] theorem wr_modes (f : F) (v : Nat) : (s.wr f v).modes = s.modes := rfl
@[simp] theorem wr_boot (f : F) (v : Nat) : (s.wr f v).boot = s.boot := rfl
@[simp] theorem wr_fuses (f : F) (v : Nat) : (s.wr f v).fuses = s.fuses := rfl
@[simp] theorem wr_staging (f : F) (v : Nat) : (s.wr f v).staging = s.staging := rfl
@[simp] theorem wr_mailbox (f : F) (v : Nat) : (s.wr f v).mailbox = s.mailbox := rfl
@[simp] theorem wr_sideband (f : F) (v : Nat) : (s.wr f v).sideband = s.sideband := rfl
@[simp] theorem wr_pending (f : F) (v : Nat) : (s.wr f v).pending = s.pending := rfl
@[simp] theorem wr_byteAt_read (f : F) (v : Nat) (j : Nat) : (s.wr f v).byteAt j = s.byteAt j := rfl
@[simp] theorem wr_queue_read (f : F) (v : Nat) (j : Nat) : (s.wr f v).queue j = s.queue j := rfl
@[simp] theorem wr_waitersOf_read (f : F) (v : Nat) (j : Nat) : (s.wr f v).waitersOf j = s.waitersOf j := rfl
@[simp] theorem wr_part_read (f : F) (v : Nat) (a j : Nat) : (s.wr f v).part a j = s.part a j := rfl
@[simp] theorem wr_turner_read (f : F) (v : Nat) (j : Nat) : (s.wr f v).turner j = s.turner j := rfl
@[simp] theorem wr_poisoned_read (f : F) (v : Nat) (j : Nat) : (s.wr f v).poisoned j = s.poisoned j := rfl

@[simp] theorem addSat_mem (f : F) (i n : Nat) : (s.addSat f i n).mem = s.mem := rfl
@[simp] theorem addSat_poison (f : F) (i n : Nat) : (s.addSat f i n).poison = s.poison := rfl
@[simp] theorem addSat_flaws (f : F) (i n : Nat) : (s.addSat f i n).flaws = s.flaws := rfl
@[simp] theorem addSat_freeCtr (f : F) (i n : Nat) : (s.addSat f i n).freeCtr = s.freeCtr := rfl
@[simp] theorem addSat_stamp (f : F) (i n : Nat) : (s.addSat f i n).stamp = s.stamp := rfl
@[simp] theorem addSat_queues (f : F) (i n : Nat) : (s.addSat f i n).queues = s.queues := rfl
@[simp] theorem addSat_waiters (f : F) (i n : Nat) : (s.addSat f i n).waiters = s.waiters := rfl
@[simp] theorem addSat_org (f : F) (i n : Nat) : (s.addSat f i n).org = s.org := rfl
@[simp] theorem addSat_parts (f : F) (i n : Nat) : (s.addSat f i n).parts = s.parts := rfl
@[simp] theorem addSat_turners (f : F) (i n : Nat) : (s.addSat f i n).turners = s.turners := rfl
@[simp] theorem addSat_gran (f : F) (i n : Nat) : (s.addSat f i n).gran = s.gran := rfl
@[simp] theorem addSat_prov (f : F) (i n : Nat) : (s.addSat f i n).prov = s.prov := rfl
@[simp] theorem addSat_net (f : F) (i n : Nat) : (s.addSat f i n).net = s.net := rfl
@[simp] theorem addSat_log (f : F) (i n : Nat) : (s.addSat f i n).log = s.log := rfl
@[simp] theorem addSat_logSeq (f : F) (i n : Nat) : (s.addSat f i n).logSeq = s.logSeq := rfl
@[simp] theorem addSat_egress (f : F) (i n : Nat) : (s.addSat f i n).egress = s.egress := rfl
@[simp] theorem addSat_host (f : F) (i n : Nat) : (s.addSat f i n).host = s.host := rfl
@[simp] theorem addSat_power (f : F) (i n : Nat) : (s.addSat f i n).power = s.power := rfl
@[simp] theorem addSat_clock (f : F) (i n : Nat) : (s.addSat f i n).clock = s.clock := rfl
@[simp] theorem addSat_modes (f : F) (i n : Nat) : (s.addSat f i n).modes = s.modes := rfl
@[simp] theorem addSat_boot (f : F) (i n : Nat) : (s.addSat f i n).boot = s.boot := rfl
@[simp] theorem addSat_fuses (f : F) (i n : Nat) : (s.addSat f i n).fuses = s.fuses := rfl
@[simp] theorem addSat_staging (f : F) (i n : Nat) : (s.addSat f i n).staging = s.staging := rfl
@[simp] theorem addSat_mailbox (f : F) (i n : Nat) : (s.addSat f i n).mailbox = s.mailbox := rfl
@[simp] theorem addSat_sideband (f : F) (i n : Nat) : (s.addSat f i n).sideband = s.sideband := rfl
@[simp] theorem addSat_pending (f : F) (i n : Nat) : (s.addSat f i n).pending = s.pending := rfl
@[simp] theorem addSat_byteAt_read (f : F) (i n : Nat) (j : Nat) : (s.addSat f i n).byteAt j = s.byteAt j := rfl
@[simp] theorem addSat_queue_read (f : F) (i n : Nat) (j : Nat) : (s.addSat f i n).queue j = s.queue j := rfl
@[simp] theorem addSat_waitersOf_read (f : F) (i n : Nat) (j : Nat) : (s.addSat f i n).waitersOf j = s.waitersOf j := rfl
@[simp] theorem addSat_part_read (f : F) (i n : Nat) (a j : Nat) : (s.addSat f i n).part a j = s.part a j := rfl
@[simp] theorem addSat_turner_read (f : F) (i n : Nat) (j : Nat) : (s.addSat f i n).turner j = s.turner j := rfl
@[simp] theorem addSat_poisoned_read (f : F) (i n : Nat) (j : Nat) : (s.addSat f i n).poisoned j = s.poisoned j := rfl

@[simp] theorem addWrap_mem (f : F) (i n : Nat) : (s.addWrap f i n).mem = s.mem := rfl
@[simp] theorem addWrap_poison (f : F) (i n : Nat) : (s.addWrap f i n).poison = s.poison := rfl
@[simp] theorem addWrap_flaws (f : F) (i n : Nat) : (s.addWrap f i n).flaws = s.flaws := rfl
@[simp] theorem addWrap_freeCtr (f : F) (i n : Nat) : (s.addWrap f i n).freeCtr = s.freeCtr := rfl
@[simp] theorem addWrap_stamp (f : F) (i n : Nat) : (s.addWrap f i n).stamp = s.stamp := rfl
@[simp] theorem addWrap_queues (f : F) (i n : Nat) : (s.addWrap f i n).queues = s.queues := rfl
@[simp] theorem addWrap_waiters (f : F) (i n : Nat) : (s.addWrap f i n).waiters = s.waiters := rfl
@[simp] theorem addWrap_org (f : F) (i n : Nat) : (s.addWrap f i n).org = s.org := rfl
@[simp] theorem addWrap_parts (f : F) (i n : Nat) : (s.addWrap f i n).parts = s.parts := rfl
@[simp] theorem addWrap_turners (f : F) (i n : Nat) : (s.addWrap f i n).turners = s.turners := rfl
@[simp] theorem addWrap_gran (f : F) (i n : Nat) : (s.addWrap f i n).gran = s.gran := rfl
@[simp] theorem addWrap_prov (f : F) (i n : Nat) : (s.addWrap f i n).prov = s.prov := rfl
@[simp] theorem addWrap_net (f : F) (i n : Nat) : (s.addWrap f i n).net = s.net := rfl
@[simp] theorem addWrap_log (f : F) (i n : Nat) : (s.addWrap f i n).log = s.log := rfl
@[simp] theorem addWrap_logSeq (f : F) (i n : Nat) : (s.addWrap f i n).logSeq = s.logSeq := rfl
@[simp] theorem addWrap_egress (f : F) (i n : Nat) : (s.addWrap f i n).egress = s.egress := rfl
@[simp] theorem addWrap_host (f : F) (i n : Nat) : (s.addWrap f i n).host = s.host := rfl
@[simp] theorem addWrap_power (f : F) (i n : Nat) : (s.addWrap f i n).power = s.power := rfl
@[simp] theorem addWrap_clock (f : F) (i n : Nat) : (s.addWrap f i n).clock = s.clock := rfl
@[simp] theorem addWrap_modes (f : F) (i n : Nat) : (s.addWrap f i n).modes = s.modes := rfl
@[simp] theorem addWrap_boot (f : F) (i n : Nat) : (s.addWrap f i n).boot = s.boot := rfl
@[simp] theorem addWrap_fuses (f : F) (i n : Nat) : (s.addWrap f i n).fuses = s.fuses := rfl
@[simp] theorem addWrap_staging (f : F) (i n : Nat) : (s.addWrap f i n).staging = s.staging := rfl
@[simp] theorem addWrap_mailbox (f : F) (i n : Nat) : (s.addWrap f i n).mailbox = s.mailbox := rfl
@[simp] theorem addWrap_sideband (f : F) (i n : Nat) : (s.addWrap f i n).sideband = s.sideband := rfl
@[simp] theorem addWrap_pending (f : F) (i n : Nat) : (s.addWrap f i n).pending = s.pending := rfl
@[simp] theorem addWrap_byteAt_read (f : F) (i n : Nat) (j : Nat) : (s.addWrap f i n).byteAt j = s.byteAt j := rfl
@[simp] theorem addWrap_queue_read (f : F) (i n : Nat) (j : Nat) : (s.addWrap f i n).queue j = s.queue j := rfl
@[simp] theorem addWrap_waitersOf_read (f : F) (i n : Nat) (j : Nat) : (s.addWrap f i n).waitersOf j = s.waitersOf j := rfl
@[simp] theorem addWrap_part_read (f : F) (i n : Nat) (a j : Nat) : (s.addWrap f i n).part a j = s.part a j := rfl
@[simp] theorem addWrap_turner_read (f : F) (i n : Nat) (j : Nat) : (s.addWrap f i n).turner j = s.turner j := rfl
@[simp] theorem addWrap_poisoned_read (f : F) (i n : Nat) (j : Nat) : (s.addWrap f i n).poisoned j = s.poisoned j := rfl

@[simp] theorem wrBit_mem (f : F) (n : Nat) (b : Bool) : (s.wrBit f n b).mem = s.mem := rfl
@[simp] theorem wrBit_poison (f : F) (n : Nat) (b : Bool) : (s.wrBit f n b).poison = s.poison := rfl
@[simp] theorem wrBit_flaws (f : F) (n : Nat) (b : Bool) : (s.wrBit f n b).flaws = s.flaws := rfl
@[simp] theorem wrBit_freeCtr (f : F) (n : Nat) (b : Bool) : (s.wrBit f n b).freeCtr = s.freeCtr := rfl
@[simp] theorem wrBit_stamp (f : F) (n : Nat) (b : Bool) : (s.wrBit f n b).stamp = s.stamp := rfl
@[simp] theorem wrBit_queues (f : F) (n : Nat) (b : Bool) : (s.wrBit f n b).queues = s.queues := rfl
@[simp] theorem wrBit_waiters (f : F) (n : Nat) (b : Bool) : (s.wrBit f n b).waiters = s.waiters := rfl
@[simp] theorem wrBit_org (f : F) (n : Nat) (b : Bool) : (s.wrBit f n b).org = s.org := rfl
@[simp] theorem wrBit_parts (f : F) (n : Nat) (b : Bool) : (s.wrBit f n b).parts = s.parts := rfl
@[simp] theorem wrBit_turners (f : F) (n : Nat) (b : Bool) : (s.wrBit f n b).turners = s.turners := rfl
@[simp] theorem wrBit_gran (f : F) (n : Nat) (b : Bool) : (s.wrBit f n b).gran = s.gran := rfl
@[simp] theorem wrBit_prov (f : F) (n : Nat) (b : Bool) : (s.wrBit f n b).prov = s.prov := rfl
@[simp] theorem wrBit_net (f : F) (n : Nat) (b : Bool) : (s.wrBit f n b).net = s.net := rfl
@[simp] theorem wrBit_log (f : F) (n : Nat) (b : Bool) : (s.wrBit f n b).log = s.log := rfl
@[simp] theorem wrBit_logSeq (f : F) (n : Nat) (b : Bool) : (s.wrBit f n b).logSeq = s.logSeq := rfl
@[simp] theorem wrBit_egress (f : F) (n : Nat) (b : Bool) : (s.wrBit f n b).egress = s.egress := rfl
@[simp] theorem wrBit_host (f : F) (n : Nat) (b : Bool) : (s.wrBit f n b).host = s.host := rfl
@[simp] theorem wrBit_power (f : F) (n : Nat) (b : Bool) : (s.wrBit f n b).power = s.power := rfl
@[simp] theorem wrBit_clock (f : F) (n : Nat) (b : Bool) : (s.wrBit f n b).clock = s.clock := rfl
@[simp] theorem wrBit_modes (f : F) (n : Nat) (b : Bool) : (s.wrBit f n b).modes = s.modes := rfl
@[simp] theorem wrBit_boot (f : F) (n : Nat) (b : Bool) : (s.wrBit f n b).boot = s.boot := rfl
@[simp] theorem wrBit_fuses (f : F) (n : Nat) (b : Bool) : (s.wrBit f n b).fuses = s.fuses := rfl
@[simp] theorem wrBit_staging (f : F) (n : Nat) (b : Bool) : (s.wrBit f n b).staging = s.staging := rfl
@[simp] theorem wrBit_mailbox (f : F) (n : Nat) (b : Bool) : (s.wrBit f n b).mailbox = s.mailbox := rfl
@[simp] theorem wrBit_sideband (f : F) (n : Nat) (b : Bool) : (s.wrBit f n b).sideband = s.sideband := rfl
@[simp] theorem wrBit_pending (f : F) (n : Nat) (b : Bool) : (s.wrBit f n b).pending = s.pending := rfl
@[simp] theorem wrBit_byteAt_read (f : F) (n : Nat) (b : Bool) (j : Nat) : (s.wrBit f n b).byteAt j = s.byteAt j := rfl
@[simp] theorem wrBit_queue_read (f : F) (n : Nat) (b : Bool) (j : Nat) : (s.wrBit f n b).queue j = s.queue j := rfl
@[simp] theorem wrBit_waitersOf_read (f : F) (n : Nat) (b : Bool) (j : Nat) : (s.wrBit f n b).waitersOf j = s.waitersOf j := rfl
@[simp] theorem wrBit_part_read (f : F) (n : Nat) (b : Bool) (a j : Nat) : (s.wrBit f n b).part a j = s.part a j := rfl
@[simp] theorem wrBit_turner_read (f : F) (n : Nat) (b : Bool) (j : Nat) : (s.wrBit f n b).turner j = s.turner j := rfl
@[simp] theorem wrBit_poisoned_read (f : F) (n : Nat) (b : Bool) (j : Nat) : (s.wrBit f n b).poisoned j = s.poisoned j := rfl

@[simp] theorem setQState_mem (q v : Nat) : (s.setQState q v).mem = s.mem := rfl
@[simp] theorem setQState_poison (q v : Nat) : (s.setQState q v).poison = s.poison := rfl
@[simp] theorem setQState_flaws (q v : Nat) : (s.setQState q v).flaws = s.flaws := rfl
@[simp] theorem setQState_freeCtr (q v : Nat) : (s.setQState q v).freeCtr = s.freeCtr := rfl
@[simp] theorem setQState_stamp (q v : Nat) : (s.setQState q v).stamp = s.stamp := rfl
@[simp] theorem setQState_queues (q v : Nat) : (s.setQState q v).queues = s.queues := rfl
@[simp] theorem setQState_waiters (q v : Nat) : (s.setQState q v).waiters = s.waiters := rfl
@[simp] theorem setQState_org (q v : Nat) : (s.setQState q v).org = s.org := rfl
@[simp] theorem setQState_parts (q v : Nat) : (s.setQState q v).parts = s.parts := rfl
@[simp] theorem setQState_turners (q v : Nat) : (s.setQState q v).turners = s.turners := rfl
@[simp] theorem setQState_gran (q v : Nat) : (s.setQState q v).gran = s.gran := rfl
@[simp] theorem setQState_prov (q v : Nat) : (s.setQState q v).prov = s.prov := rfl
@[simp] theorem setQState_net (q v : Nat) : (s.setQState q v).net = s.net := rfl
@[simp] theorem setQState_log (q v : Nat) : (s.setQState q v).log = s.log := rfl
@[simp] theorem setQState_logSeq (q v : Nat) : (s.setQState q v).logSeq = s.logSeq := rfl
@[simp] theorem setQState_egress (q v : Nat) : (s.setQState q v).egress = s.egress := rfl
@[simp] theorem setQState_host (q v : Nat) : (s.setQState q v).host = s.host := rfl
@[simp] theorem setQState_power (q v : Nat) : (s.setQState q v).power = s.power := rfl
@[simp] theorem setQState_clock (q v : Nat) : (s.setQState q v).clock = s.clock := rfl
@[simp] theorem setQState_modes (q v : Nat) : (s.setQState q v).modes = s.modes := rfl
@[simp] theorem setQState_boot (q v : Nat) : (s.setQState q v).boot = s.boot := rfl
@[simp] theorem setQState_fuses (q v : Nat) : (s.setQState q v).fuses = s.fuses := rfl
@[simp] theorem setQState_staging (q v : Nat) : (s.setQState q v).staging = s.staging := rfl
@[simp] theorem setQState_mailbox (q v : Nat) : (s.setQState q v).mailbox = s.mailbox := rfl
@[simp] theorem setQState_sideband (q v : Nat) : (s.setQState q v).sideband = s.sideband := rfl
@[simp] theorem setQState_pending (q v : Nat) : (s.setQState q v).pending = s.pending := rfl
@[simp] theorem setQState_byteAt_read (q v : Nat) (j : Nat) : (s.setQState q v).byteAt j = s.byteAt j := rfl
@[simp] theorem setQState_queue_read (q v : Nat) (j : Nat) : (s.setQState q v).queue j = s.queue j := rfl
@[simp] theorem setQState_waitersOf_read (q v : Nat) (j : Nat) : (s.setQState q v).waitersOf j = s.waitersOf j := rfl
@[simp] theorem setQState_part_read (q v : Nat) (a j : Nat) : (s.setQState q v).part a j = s.part a j := rfl
@[simp] theorem setQState_turner_read (q v : Nat) (j : Nat) : (s.setQState q v).turner j = s.turner j := rfl
@[simp] theorem setQState_poisoned_read (q v : Nat) (j : Nat) : (s.setQState q v).poisoned j = s.poisoned j := rfl

@[simp] theorem setTally_mem (u n : Nat) : (s.setTally u n).mem = s.mem := rfl
@[simp] theorem setTally_poison (u n : Nat) : (s.setTally u n).poison = s.poison := rfl
@[simp] theorem setTally_flaws (u n : Nat) : (s.setTally u n).flaws = s.flaws := rfl
@[simp] theorem setTally_freeCtr (u n : Nat) : (s.setTally u n).freeCtr = s.freeCtr := rfl
@[simp] theorem setTally_stamp (u n : Nat) : (s.setTally u n).stamp = s.stamp := rfl
@[simp] theorem setTally_queues (u n : Nat) : (s.setTally u n).queues = s.queues := rfl
@[simp] theorem setTally_waiters (u n : Nat) : (s.setTally u n).waiters = s.waiters := rfl
@[simp] theorem setTally_org (u n : Nat) : (s.setTally u n).org = s.org := rfl
@[simp] theorem setTally_parts (u n : Nat) : (s.setTally u n).parts = s.parts := rfl
@[simp] theorem setTally_turners (u n : Nat) : (s.setTally u n).turners = s.turners := rfl
@[simp] theorem setTally_gran (u n : Nat) : (s.setTally u n).gran = s.gran := rfl
@[simp] theorem setTally_prov (u n : Nat) : (s.setTally u n).prov = s.prov := rfl
@[simp] theorem setTally_net (u n : Nat) : (s.setTally u n).net = s.net := rfl
@[simp] theorem setTally_log (u n : Nat) : (s.setTally u n).log = s.log := rfl
@[simp] theorem setTally_logSeq (u n : Nat) : (s.setTally u n).logSeq = s.logSeq := rfl
@[simp] theorem setTally_egress (u n : Nat) : (s.setTally u n).egress = s.egress := rfl
@[simp] theorem setTally_host (u n : Nat) : (s.setTally u n).host = s.host := rfl
@[simp] theorem setTally_power (u n : Nat) : (s.setTally u n).power = s.power := rfl
@[simp] theorem setTally_clock (u n : Nat) : (s.setTally u n).clock = s.clock := rfl
@[simp] theorem setTally_modes (u n : Nat) : (s.setTally u n).modes = s.modes := rfl
@[simp] theorem setTally_boot (u n : Nat) : (s.setTally u n).boot = s.boot := rfl
@[simp] theorem setTally_fuses (u n : Nat) : (s.setTally u n).fuses = s.fuses := rfl
@[simp] theorem setTally_staging (u n : Nat) : (s.setTally u n).staging = s.staging := rfl
@[simp] theorem setTally_mailbox (u n : Nat) : (s.setTally u n).mailbox = s.mailbox := rfl
@[simp] theorem setTally_sideband (u n : Nat) : (s.setTally u n).sideband = s.sideband := rfl
@[simp] theorem setTally_pending (u n : Nat) : (s.setTally u n).pending = s.pending := rfl
@[simp] theorem setTally_byteAt_read (u n : Nat) (j : Nat) : (s.setTally u n).byteAt j = s.byteAt j := rfl
@[simp] theorem setTally_queue_read (u n : Nat) (j : Nat) : (s.setTally u n).queue j = s.queue j := rfl
@[simp] theorem setTally_waitersOf_read (u n : Nat) (j : Nat) : (s.setTally u n).waitersOf j = s.waitersOf j := rfl
@[simp] theorem setTally_part_read (u n : Nat) (a j : Nat) : (s.setTally u n).part a j = s.part a j := rfl
@[simp] theorem setTally_turner_read (u n : Nat) (j : Nat) : (s.setTally u n).turner j = s.turner j := rfl
@[simp] theorem setTally_poisoned_read (u n : Nat) (j : Nat) : (s.setTally u n).poisoned j = s.poisoned j := rfl

@[simp] theorem updQueue_regs (q : Nat) (g : Queue → Queue) : (s.updQueue q g).regs = s.regs := rfl
@[simp] theorem updQueue_mem (q : Nat) (g : Queue → Queue) : (s.updQueue q g).mem = s.mem := rfl
@[simp] theorem updQueue_poison (q : Nat) (g : Queue → Queue) : (s.updQueue q g).poison = s.poison := rfl
@[simp] theorem updQueue_flaws (q : Nat) (g : Queue → Queue) : (s.updQueue q g).flaws = s.flaws := rfl
@[simp] theorem updQueue_freeCtr (q : Nat) (g : Queue → Queue) : (s.updQueue q g).freeCtr = s.freeCtr := rfl
@[simp] theorem updQueue_stamp (q : Nat) (g : Queue → Queue) : (s.updQueue q g).stamp = s.stamp := rfl
@[simp] theorem updQueue_waiters (q : Nat) (g : Queue → Queue) : (s.updQueue q g).waiters = s.waiters := rfl
@[simp] theorem updQueue_org (q : Nat) (g : Queue → Queue) : (s.updQueue q g).org = s.org := rfl
@[simp] theorem updQueue_parts (q : Nat) (g : Queue → Queue) : (s.updQueue q g).parts = s.parts := rfl
@[simp] theorem updQueue_turners (q : Nat) (g : Queue → Queue) : (s.updQueue q g).turners = s.turners := rfl
@[simp] theorem updQueue_gran (q : Nat) (g : Queue → Queue) : (s.updQueue q g).gran = s.gran := rfl
@[simp] theorem updQueue_prov (q : Nat) (g : Queue → Queue) : (s.updQueue q g).prov = s.prov := rfl
@[simp] theorem updQueue_net (q : Nat) (g : Queue → Queue) : (s.updQueue q g).net = s.net := rfl
@[simp] theorem updQueue_log (q : Nat) (g : Queue → Queue) : (s.updQueue q g).log = s.log := rfl
@[simp] theorem updQueue_logSeq (q : Nat) (g : Queue → Queue) : (s.updQueue q g).logSeq = s.logSeq := rfl
@[simp] theorem updQueue_egress (q : Nat) (g : Queue → Queue) : (s.updQueue q g).egress = s.egress := rfl
@[simp] theorem updQueue_host (q : Nat) (g : Queue → Queue) : (s.updQueue q g).host = s.host := rfl
@[simp] theorem updQueue_power (q : Nat) (g : Queue → Queue) : (s.updQueue q g).power = s.power := rfl
@[simp] theorem updQueue_clock (q : Nat) (g : Queue → Queue) : (s.updQueue q g).clock = s.clock := rfl
@[simp] theorem updQueue_modes (q : Nat) (g : Queue → Queue) : (s.updQueue q g).modes = s.modes := rfl
@[simp] theorem updQueue_boot (q : Nat) (g : Queue → Queue) : (s.updQueue q g).boot = s.boot := rfl
@[simp] theorem updQueue_fuses (q : Nat) (g : Queue → Queue) : (s.updQueue q g).fuses = s.fuses := rfl
@[simp] theorem updQueue_staging (q : Nat) (g : Queue → Queue) : (s.updQueue q g).staging = s.staging := rfl
@[simp] theorem updQueue_mailbox (q : Nat) (g : Queue → Queue) : (s.updQueue q g).mailbox = s.mailbox := rfl
@[simp] theorem updQueue_sideband (q : Nat) (g : Queue → Queue) : (s.updQueue q g).sideband = s.sideband := rfl
@[simp] theorem updQueue_pending (q : Nat) (g : Queue → Queue) : (s.updQueue q g).pending = s.pending := rfl
@[simp] theorem updQueue_rdi_read (q : Nat) (g : Queue → Queue) (c : F) (j : Nat) : (s.updQueue q g).rdi c j = s.rdi c j := rfl
@[simp] theorem updQueue_rd_read (q : Nat) (g : Queue → Queue) (c : F) : (s.updQueue q g).rd c = s.rd c := rfl
@[simp] theorem updQueue_flag_read (q : Nat) (g : Queue → Queue) (c : F) (j : Nat) : (s.updQueue q g).flag c j = s.flag c j := rfl
@[simp] theorem updQueue_bitOf_read (q : Nat) (g : Queue → Queue) (c : F) (j : Nat) : (s.updQueue q g).bitOf c j = s.bitOf c j := rfl
@[simp] theorem updQueue_byteAt_read (q : Nat) (g : Queue → Queue) (j : Nat) : (s.updQueue q g).byteAt j = s.byteAt j := rfl
@[simp] theorem updQueue_waitersOf_read (q : Nat) (g : Queue → Queue) (j : Nat) : (s.updQueue q g).waitersOf j = s.waitersOf j := rfl
@[simp] theorem updQueue_part_read (q : Nat) (g : Queue → Queue) (a j : Nat) : (s.updQueue q g).part a j = s.part a j := rfl
@[simp] theorem updQueue_turner_read (q : Nat) (g : Queue → Queue) (j : Nat) : (s.updQueue q g).turner j = s.turner j := rfl
@[simp] theorem updQueue_qState_read (q : Nat) (g : Queue → Queue) (j : Nat) : (s.updQueue q g).qState j = s.qState j := rfl
@[simp] theorem updQueue_tally_read (q : Nat) (g : Queue → Queue) (j : Nat) : (s.updQueue q g).tally j = s.tally j := rfl
@[simp] theorem updQueue_allocated_read (q : Nat) (g : Queue → Queue) (j : Nat) : (s.updQueue q g).allocated j = s.allocated j := rfl
@[simp] theorem updQueue_poisoned_read (q : Nat) (g : Queue → Queue) (j : Nat) : (s.updQueue q g).poisoned j = s.poisoned j := rfl

@[simp] theorem setWaiters_regs (u : Nat) (w : List Waiter) : (s.setWaiters u w).regs = s.regs := rfl
@[simp] theorem setWaiters_mem (u : Nat) (w : List Waiter) : (s.setWaiters u w).mem = s.mem := rfl
@[simp] theorem setWaiters_poison (u : Nat) (w : List Waiter) : (s.setWaiters u w).poison = s.poison := rfl
@[simp] theorem setWaiters_flaws (u : Nat) (w : List Waiter) : (s.setWaiters u w).flaws = s.flaws := rfl
@[simp] theorem setWaiters_freeCtr (u : Nat) (w : List Waiter) : (s.setWaiters u w).freeCtr = s.freeCtr := rfl
@[simp] theorem setWaiters_stamp (u : Nat) (w : List Waiter) : (s.setWaiters u w).stamp = s.stamp := rfl
@[simp] theorem setWaiters_queues (u : Nat) (w : List Waiter) : (s.setWaiters u w).queues = s.queues := rfl
@[simp] theorem setWaiters_org (u : Nat) (w : List Waiter) : (s.setWaiters u w).org = s.org := rfl
@[simp] theorem setWaiters_parts (u : Nat) (w : List Waiter) : (s.setWaiters u w).parts = s.parts := rfl
@[simp] theorem setWaiters_turners (u : Nat) (w : List Waiter) : (s.setWaiters u w).turners = s.turners := rfl
@[simp] theorem setWaiters_gran (u : Nat) (w : List Waiter) : (s.setWaiters u w).gran = s.gran := rfl
@[simp] theorem setWaiters_prov (u : Nat) (w : List Waiter) : (s.setWaiters u w).prov = s.prov := rfl
@[simp] theorem setWaiters_net (u : Nat) (w : List Waiter) : (s.setWaiters u w).net = s.net := rfl
@[simp] theorem setWaiters_log (u : Nat) (w : List Waiter) : (s.setWaiters u w).log = s.log := rfl
@[simp] theorem setWaiters_logSeq (u : Nat) (w : List Waiter) : (s.setWaiters u w).logSeq = s.logSeq := rfl
@[simp] theorem setWaiters_egress (u : Nat) (w : List Waiter) : (s.setWaiters u w).egress = s.egress := rfl
@[simp] theorem setWaiters_host (u : Nat) (w : List Waiter) : (s.setWaiters u w).host = s.host := rfl
@[simp] theorem setWaiters_power (u : Nat) (w : List Waiter) : (s.setWaiters u w).power = s.power := rfl
@[simp] theorem setWaiters_clock (u : Nat) (w : List Waiter) : (s.setWaiters u w).clock = s.clock := rfl
@[simp] theorem setWaiters_modes (u : Nat) (w : List Waiter) : (s.setWaiters u w).modes = s.modes := rfl
@[simp] theorem setWaiters_boot (u : Nat) (w : List Waiter) : (s.setWaiters u w).boot = s.boot := rfl
@[simp] theorem setWaiters_fuses (u : Nat) (w : List Waiter) : (s.setWaiters u w).fuses = s.fuses := rfl
@[simp] theorem setWaiters_staging (u : Nat) (w : List Waiter) : (s.setWaiters u w).staging = s.staging := rfl
@[simp] theorem setWaiters_mailbox (u : Nat) (w : List Waiter) : (s.setWaiters u w).mailbox = s.mailbox := rfl
@[simp] theorem setWaiters_sideband (u : Nat) (w : List Waiter) : (s.setWaiters u w).sideband = s.sideband := rfl
@[simp] theorem setWaiters_pending (u : Nat) (w : List Waiter) : (s.setWaiters u w).pending = s.pending := rfl
@[simp] theorem setWaiters_rdi_read (u : Nat) (w : List Waiter) (c : F) (j : Nat) : (s.setWaiters u w).rdi c j = s.rdi c j := rfl
@[simp] theorem setWaiters_rd_read (u : Nat) (w : List Waiter) (c : F) : (s.setWaiters u w).rd c = s.rd c := rfl
@[simp] theorem setWaiters_flag_read (u : Nat) (w : List Waiter) (c : F) (j : Nat) : (s.setWaiters u w).flag c j = s.flag c j := rfl
@[simp] theorem setWaiters_bitOf_read (u : Nat) (w : List Waiter) (c : F) (j : Nat) : (s.setWaiters u w).bitOf c j = s.bitOf c j := rfl
@[simp] theorem setWaiters_byteAt_read (u : Nat) (w : List Waiter) (j : Nat) : (s.setWaiters u w).byteAt j = s.byteAt j := rfl
@[simp] theorem setWaiters_queue_read (u : Nat) (w : List Waiter) (j : Nat) : (s.setWaiters u w).queue j = s.queue j := rfl
@[simp] theorem setWaiters_part_read (u : Nat) (w : List Waiter) (a j : Nat) : (s.setWaiters u w).part a j = s.part a j := rfl
@[simp] theorem setWaiters_turner_read (u : Nat) (w : List Waiter) (j : Nat) : (s.setWaiters u w).turner j = s.turner j := rfl
@[simp] theorem setWaiters_qState_read (u : Nat) (w : List Waiter) (j : Nat) : (s.setWaiters u w).qState j = s.qState j := rfl
@[simp] theorem setWaiters_tally_read (u : Nat) (w : List Waiter) (j : Nat) : (s.setWaiters u w).tally j = s.tally j := rfl
@[simp] theorem setWaiters_allocated_read (u : Nat) (w : List Waiter) (j : Nat) : (s.setWaiters u w).allocated j = s.allocated j := rfl
@[simp] theorem setWaiters_poisoned_read (u : Nat) (w : List Waiter) (j : Nat) : (s.setWaiters u w).poisoned j = s.poisoned j := rfl

@[simp] theorem updPart_regs (t p : Nat) (g : Part → Part) : (s.updPart t p g).regs = s.regs := rfl
@[simp] theorem updPart_mem (t p : Nat) (g : Part → Part) : (s.updPart t p g).mem = s.mem := rfl
@[simp] theorem updPart_poison (t p : Nat) (g : Part → Part) : (s.updPart t p g).poison = s.poison := rfl
@[simp] theorem updPart_flaws (t p : Nat) (g : Part → Part) : (s.updPart t p g).flaws = s.flaws := rfl
@[simp] theorem updPart_freeCtr (t p : Nat) (g : Part → Part) : (s.updPart t p g).freeCtr = s.freeCtr := rfl
@[simp] theorem updPart_stamp (t p : Nat) (g : Part → Part) : (s.updPart t p g).stamp = s.stamp := rfl
@[simp] theorem updPart_queues (t p : Nat) (g : Part → Part) : (s.updPart t p g).queues = s.queues := rfl
@[simp] theorem updPart_waiters (t p : Nat) (g : Part → Part) : (s.updPart t p g).waiters = s.waiters := rfl
@[simp] theorem updPart_org (t p : Nat) (g : Part → Part) : (s.updPart t p g).org = s.org := rfl
@[simp] theorem updPart_turners (t p : Nat) (g : Part → Part) : (s.updPart t p g).turners = s.turners := rfl
@[simp] theorem updPart_gran (t p : Nat) (g : Part → Part) : (s.updPart t p g).gran = s.gran := rfl
@[simp] theorem updPart_prov (t p : Nat) (g : Part → Part) : (s.updPart t p g).prov = s.prov := rfl
@[simp] theorem updPart_net (t p : Nat) (g : Part → Part) : (s.updPart t p g).net = s.net := rfl
@[simp] theorem updPart_log (t p : Nat) (g : Part → Part) : (s.updPart t p g).log = s.log := rfl
@[simp] theorem updPart_logSeq (t p : Nat) (g : Part → Part) : (s.updPart t p g).logSeq = s.logSeq := rfl
@[simp] theorem updPart_egress (t p : Nat) (g : Part → Part) : (s.updPart t p g).egress = s.egress := rfl
@[simp] theorem updPart_host (t p : Nat) (g : Part → Part) : (s.updPart t p g).host = s.host := rfl
@[simp] theorem updPart_power (t p : Nat) (g : Part → Part) : (s.updPart t p g).power = s.power := rfl
@[simp] theorem updPart_clock (t p : Nat) (g : Part → Part) : (s.updPart t p g).clock = s.clock := rfl
@[simp] theorem updPart_modes (t p : Nat) (g : Part → Part) : (s.updPart t p g).modes = s.modes := rfl
@[simp] theorem updPart_boot (t p : Nat) (g : Part → Part) : (s.updPart t p g).boot = s.boot := rfl
@[simp] theorem updPart_fuses (t p : Nat) (g : Part → Part) : (s.updPart t p g).fuses = s.fuses := rfl
@[simp] theorem updPart_staging (t p : Nat) (g : Part → Part) : (s.updPart t p g).staging = s.staging := rfl
@[simp] theorem updPart_mailbox (t p : Nat) (g : Part → Part) : (s.updPart t p g).mailbox = s.mailbox := rfl
@[simp] theorem updPart_sideband (t p : Nat) (g : Part → Part) : (s.updPart t p g).sideband = s.sideband := rfl
@[simp] theorem updPart_pending (t p : Nat) (g : Part → Part) : (s.updPart t p g).pending = s.pending := rfl
@[simp] theorem updPart_rdi_read (t p : Nat) (g : Part → Part) (c : F) (j : Nat) : (s.updPart t p g).rdi c j = s.rdi c j := rfl
@[simp] theorem updPart_rd_read (t p : Nat) (g : Part → Part) (c : F) : (s.updPart t p g).rd c = s.rd c := rfl
@[simp] theorem updPart_flag_read (t p : Nat) (g : Part → Part) (c : F) (j : Nat) : (s.updPart t p g).flag c j = s.flag c j := rfl
@[simp] theorem updPart_bitOf_read (t p : Nat) (g : Part → Part) (c : F) (j : Nat) : (s.updPart t p g).bitOf c j = s.bitOf c j := rfl
@[simp] theorem updPart_byteAt_read (t p : Nat) (g : Part → Part) (j : Nat) : (s.updPart t p g).byteAt j = s.byteAt j := rfl
@[simp] theorem updPart_queue_read (t p : Nat) (g : Part → Part) (j : Nat) : (s.updPart t p g).queue j = s.queue j := rfl
@[simp] theorem updPart_waitersOf_read (t p : Nat) (g : Part → Part) (j : Nat) : (s.updPart t p g).waitersOf j = s.waitersOf j := rfl
@[simp] theorem updPart_turner_read (t p : Nat) (g : Part → Part) (j : Nat) : (s.updPart t p g).turner j = s.turner j := rfl
@[simp] theorem updPart_qState_read (t p : Nat) (g : Part → Part) (j : Nat) : (s.updPart t p g).qState j = s.qState j := rfl
@[simp] theorem updPart_tally_read (t p : Nat) (g : Part → Part) (j : Nat) : (s.updPart t p g).tally j = s.tally j := rfl
@[simp] theorem updPart_allocated_read (t p : Nat) (g : Part → Part) (j : Nat) : (s.updPart t p g).allocated j = s.allocated j := rfl
@[simp] theorem updPart_poisoned_read (t p : Nat) (g : Part → Part) (j : Nat) : (s.updPart t p g).poisoned j = s.poisoned j := rfl

@[simp] theorem updTurner_regs (t : Nat) (g : Turner → Turner) : (s.updTurner t g).regs = s.regs := rfl
@[simp] theorem updTurner_mem (t : Nat) (g : Turner → Turner) : (s.updTurner t g).mem = s.mem := rfl
@[simp] theorem updTurner_poison (t : Nat) (g : Turner → Turner) : (s.updTurner t g).poison = s.poison := rfl
@[simp] theorem updTurner_flaws (t : Nat) (g : Turner → Turner) : (s.updTurner t g).flaws = s.flaws := rfl
@[simp] theorem updTurner_freeCtr (t : Nat) (g : Turner → Turner) : (s.updTurner t g).freeCtr = s.freeCtr := rfl
@[simp] theorem updTurner_stamp (t : Nat) (g : Turner → Turner) : (s.updTurner t g).stamp = s.stamp := rfl
@[simp] theorem updTurner_queues (t : Nat) (g : Turner → Turner) : (s.updTurner t g).queues = s.queues := rfl
@[simp] theorem updTurner_waiters (t : Nat) (g : Turner → Turner) : (s.updTurner t g).waiters = s.waiters := rfl
@[simp] theorem updTurner_org (t : Nat) (g : Turner → Turner) : (s.updTurner t g).org = s.org := rfl
@[simp] theorem updTurner_parts (t : Nat) (g : Turner → Turner) : (s.updTurner t g).parts = s.parts := rfl
@[simp] theorem updTurner_gran (t : Nat) (g : Turner → Turner) : (s.updTurner t g).gran = s.gran := rfl
@[simp] theorem updTurner_prov (t : Nat) (g : Turner → Turner) : (s.updTurner t g).prov = s.prov := rfl
@[simp] theorem updTurner_net (t : Nat) (g : Turner → Turner) : (s.updTurner t g).net = s.net := rfl
@[simp] theorem updTurner_log (t : Nat) (g : Turner → Turner) : (s.updTurner t g).log = s.log := rfl
@[simp] theorem updTurner_logSeq (t : Nat) (g : Turner → Turner) : (s.updTurner t g).logSeq = s.logSeq := rfl
@[simp] theorem updTurner_egress (t : Nat) (g : Turner → Turner) : (s.updTurner t g).egress = s.egress := rfl
@[simp] theorem updTurner_host (t : Nat) (g : Turner → Turner) : (s.updTurner t g).host = s.host := rfl
@[simp] theorem updTurner_power (t : Nat) (g : Turner → Turner) : (s.updTurner t g).power = s.power := rfl
@[simp] theorem updTurner_clock (t : Nat) (g : Turner → Turner) : (s.updTurner t g).clock = s.clock := rfl
@[simp] theorem updTurner_modes (t : Nat) (g : Turner → Turner) : (s.updTurner t g).modes = s.modes := rfl
@[simp] theorem updTurner_boot (t : Nat) (g : Turner → Turner) : (s.updTurner t g).boot = s.boot := rfl
@[simp] theorem updTurner_fuses (t : Nat) (g : Turner → Turner) : (s.updTurner t g).fuses = s.fuses := rfl
@[simp] theorem updTurner_staging (t : Nat) (g : Turner → Turner) : (s.updTurner t g).staging = s.staging := rfl
@[simp] theorem updTurner_mailbox (t : Nat) (g : Turner → Turner) : (s.updTurner t g).mailbox = s.mailbox := rfl
@[simp] theorem updTurner_sideband (t : Nat) (g : Turner → Turner) : (s.updTurner t g).sideband = s.sideband := rfl
@[simp] theorem updTurner_pending (t : Nat) (g : Turner → Turner) : (s.updTurner t g).pending = s.pending := rfl
@[simp] theorem updTurner_rdi_read (t : Nat) (g : Turner → Turner) (c : F) (j : Nat) : (s.updTurner t g).rdi c j = s.rdi c j := rfl
@[simp] theorem updTurner_rd_read (t : Nat) (g : Turner → Turner) (c : F) : (s.updTurner t g).rd c = s.rd c := rfl
@[simp] theorem updTurner_flag_read (t : Nat) (g : Turner → Turner) (c : F) (j : Nat) : (s.updTurner t g).flag c j = s.flag c j := rfl
@[simp] theorem updTurner_bitOf_read (t : Nat) (g : Turner → Turner) (c : F) (j : Nat) : (s.updTurner t g).bitOf c j = s.bitOf c j := rfl
@[simp] theorem updTurner_byteAt_read (t : Nat) (g : Turner → Turner) (j : Nat) : (s.updTurner t g).byteAt j = s.byteAt j := rfl
@[simp] theorem updTurner_queue_read (t : Nat) (g : Turner → Turner) (j : Nat) : (s.updTurner t g).queue j = s.queue j := rfl
@[simp] theorem updTurner_waitersOf_read (t : Nat) (g : Turner → Turner) (j : Nat) : (s.updTurner t g).waitersOf j = s.waitersOf j := rfl
@[simp] theorem updTurner_part_read (t : Nat) (g : Turner → Turner) (a j : Nat) : (s.updTurner t g).part a j = s.part a j := rfl
@[simp] theorem updTurner_qState_read (t : Nat) (g : Turner → Turner) (j : Nat) : (s.updTurner t g).qState j = s.qState j := rfl
@[simp] theorem updTurner_tally_read (t : Nat) (g : Turner → Turner) (j : Nat) : (s.updTurner t g).tally j = s.tally j := rfl
@[simp] theorem updTurner_allocated_read (t : Nat) (g : Turner → Turner) (j : Nat) : (s.updTurner t g).allocated j = s.allocated j := rfl
@[simp] theorem updTurner_poisoned_read (t : Nat) (g : Turner → Turner) (j : Nat) : (s.updTurner t g).poisoned j = s.poisoned j := rfl

@[simp] theorem setByte_regs (p : Nat) (b : Byte) : (s.setByte p b).regs = s.regs := rfl
@[simp] theorem setByte_poison (p : Nat) (b : Byte) : (s.setByte p b).poison = s.poison := rfl
@[simp] theorem setByte_flaws (p : Nat) (b : Byte) : (s.setByte p b).flaws = s.flaws := rfl
@[simp] theorem setByte_freeCtr (p : Nat) (b : Byte) : (s.setByte p b).freeCtr = s.freeCtr := rfl
@[simp] theorem setByte_stamp (p : Nat) (b : Byte) : (s.setByte p b).stamp = s.stamp := rfl
@[simp] theorem setByte_queues (p : Nat) (b : Byte) : (s.setByte p b).queues = s.queues := rfl
@[simp] theorem setByte_waiters (p : Nat) (b : Byte) : (s.setByte p b).waiters = s.waiters := rfl
@[simp] theorem setByte_org (p : Nat) (b : Byte) : (s.setByte p b).org = s.org := rfl
@[simp] theorem setByte_parts (p : Nat) (b : Byte) : (s.setByte p b).parts = s.parts := rfl
@[simp] theorem setByte_turners (p : Nat) (b : Byte) : (s.setByte p b).turners = s.turners := rfl
@[simp] theorem setByte_gran (p : Nat) (b : Byte) : (s.setByte p b).gran = s.gran := rfl
@[simp] theorem setByte_prov (p : Nat) (b : Byte) : (s.setByte p b).prov = s.prov := rfl
@[simp] theorem setByte_net (p : Nat) (b : Byte) : (s.setByte p b).net = s.net := rfl
@[simp] theorem setByte_log (p : Nat) (b : Byte) : (s.setByte p b).log = s.log := rfl
@[simp] theorem setByte_logSeq (p : Nat) (b : Byte) : (s.setByte p b).logSeq = s.logSeq := rfl
@[simp] theorem setByte_egress (p : Nat) (b : Byte) : (s.setByte p b).egress = s.egress := rfl
@[simp] theorem setByte_host (p : Nat) (b : Byte) : (s.setByte p b).host = s.host := rfl
@[simp] theorem setByte_power (p : Nat) (b : Byte) : (s.setByte p b).power = s.power := rfl
@[simp] theorem setByte_clock (p : Nat) (b : Byte) : (s.setByte p b).clock = s.clock := rfl
@[simp] theorem setByte_modes (p : Nat) (b : Byte) : (s.setByte p b).modes = s.modes := rfl
@[simp] theorem setByte_boot (p : Nat) (b : Byte) : (s.setByte p b).boot = s.boot := rfl
@[simp] theorem setByte_fuses (p : Nat) (b : Byte) : (s.setByte p b).fuses = s.fuses := rfl
@[simp] theorem setByte_staging (p : Nat) (b : Byte) : (s.setByte p b).staging = s.staging := rfl
@[simp] theorem setByte_mailbox (p : Nat) (b : Byte) : (s.setByte p b).mailbox = s.mailbox := rfl
@[simp] theorem setByte_sideband (p : Nat) (b : Byte) : (s.setByte p b).sideband = s.sideband := rfl
@[simp] theorem setByte_pending (p : Nat) (b : Byte) : (s.setByte p b).pending = s.pending := rfl
@[simp] theorem setByte_rdi_read (p : Nat) (b : Byte) (c : F) (j : Nat) : (s.setByte p b).rdi c j = s.rdi c j := rfl
@[simp] theorem setByte_rd_read (p : Nat) (b : Byte) (c : F) : (s.setByte p b).rd c = s.rd c := rfl
@[simp] theorem setByte_flag_read (p : Nat) (b : Byte) (c : F) (j : Nat) : (s.setByte p b).flag c j = s.flag c j := rfl
@[simp] theorem setByte_bitOf_read (p : Nat) (b : Byte) (c : F) (j : Nat) : (s.setByte p b).bitOf c j = s.bitOf c j := rfl
@[simp] theorem setByte_queue_read (p : Nat) (b : Byte) (j : Nat) : (s.setByte p b).queue j = s.queue j := rfl
@[simp] theorem setByte_waitersOf_read (p : Nat) (b : Byte) (j : Nat) : (s.setByte p b).waitersOf j = s.waitersOf j := rfl
@[simp] theorem setByte_part_read (p : Nat) (b : Byte) (a j : Nat) : (s.setByte p b).part a j = s.part a j := rfl
@[simp] theorem setByte_turner_read (p : Nat) (b : Byte) (j : Nat) : (s.setByte p b).turner j = s.turner j := rfl
@[simp] theorem setByte_qState_read (p : Nat) (b : Byte) (j : Nat) : (s.setByte p b).qState j = s.qState j := rfl
@[simp] theorem setByte_tally_read (p : Nat) (b : Byte) (j : Nat) : (s.setByte p b).tally j = s.tally j := rfl
@[simp] theorem setByte_allocated_read (p : Nat) (b : Byte) (j : Nat) : (s.setByte p b).allocated j = s.allocated j := rfl
@[simp] theorem setByte_poisoned_read (p : Nat) (b : Byte) (j : Nat) : (s.setByte p b).poisoned j = s.poisoned j := rfl

@[simp] theorem mark_regs (p : Nat) (b : Bool) : (s.mark p b).regs = s.regs := rfl
@[simp] theorem mark_mem (p : Nat) (b : Bool) : (s.mark p b).mem = s.mem := rfl
@[simp] theorem mark_flaws (p : Nat) (b : Bool) : (s.mark p b).flaws = s.flaws := rfl
@[simp] theorem mark_freeCtr (p : Nat) (b : Bool) : (s.mark p b).freeCtr = s.freeCtr := rfl
@[simp] theorem mark_stamp (p : Nat) (b : Bool) : (s.mark p b).stamp = s.stamp := rfl
@[simp] theorem mark_queues (p : Nat) (b : Bool) : (s.mark p b).queues = s.queues := rfl
@[simp] theorem mark_waiters (p : Nat) (b : Bool) : (s.mark p b).waiters = s.waiters := rfl
@[simp] theorem mark_org (p : Nat) (b : Bool) : (s.mark p b).org = s.org := rfl
@[simp] theorem mark_parts (p : Nat) (b : Bool) : (s.mark p b).parts = s.parts := rfl
@[simp] theorem mark_turners (p : Nat) (b : Bool) : (s.mark p b).turners = s.turners := rfl
@[simp] theorem mark_gran (p : Nat) (b : Bool) : (s.mark p b).gran = s.gran := rfl
@[simp] theorem mark_prov (p : Nat) (b : Bool) : (s.mark p b).prov = s.prov := rfl
@[simp] theorem mark_net (p : Nat) (b : Bool) : (s.mark p b).net = s.net := rfl
@[simp] theorem mark_log (p : Nat) (b : Bool) : (s.mark p b).log = s.log := rfl
@[simp] theorem mark_logSeq (p : Nat) (b : Bool) : (s.mark p b).logSeq = s.logSeq := rfl
@[simp] theorem mark_egress (p : Nat) (b : Bool) : (s.mark p b).egress = s.egress := rfl
@[simp] theorem mark_host (p : Nat) (b : Bool) : (s.mark p b).host = s.host := rfl
@[simp] theorem mark_power (p : Nat) (b : Bool) : (s.mark p b).power = s.power := rfl
@[simp] theorem mark_clock (p : Nat) (b : Bool) : (s.mark p b).clock = s.clock := rfl
@[simp] theorem mark_modes (p : Nat) (b : Bool) : (s.mark p b).modes = s.modes := rfl
@[simp] theorem mark_boot (p : Nat) (b : Bool) : (s.mark p b).boot = s.boot := rfl
@[simp] theorem mark_fuses (p : Nat) (b : Bool) : (s.mark p b).fuses = s.fuses := rfl
@[simp] theorem mark_staging (p : Nat) (b : Bool) : (s.mark p b).staging = s.staging := rfl
@[simp] theorem mark_mailbox (p : Nat) (b : Bool) : (s.mark p b).mailbox = s.mailbox := rfl
@[simp] theorem mark_sideband (p : Nat) (b : Bool) : (s.mark p b).sideband = s.sideband := rfl
@[simp] theorem mark_pending (p : Nat) (b : Bool) : (s.mark p b).pending = s.pending := rfl
@[simp] theorem mark_rdi_read (p : Nat) (b : Bool) (c : F) (j : Nat) : (s.mark p b).rdi c j = s.rdi c j := rfl
@[simp] theorem mark_rd_read (p : Nat) (b : Bool) (c : F) : (s.mark p b).rd c = s.rd c := rfl
@[simp] theorem mark_flag_read (p : Nat) (b : Bool) (c : F) (j : Nat) : (s.mark p b).flag c j = s.flag c j := rfl
@[simp] theorem mark_bitOf_read (p : Nat) (b : Bool) (c : F) (j : Nat) : (s.mark p b).bitOf c j = s.bitOf c j := rfl
@[simp] theorem mark_byteAt_read (p : Nat) (b : Bool) (j : Nat) : (s.mark p b).byteAt j = s.byteAt j := rfl
@[simp] theorem mark_queue_read (p : Nat) (b : Bool) (j : Nat) : (s.mark p b).queue j = s.queue j := rfl
@[simp] theorem mark_waitersOf_read (p : Nat) (b : Bool) (j : Nat) : (s.mark p b).waitersOf j = s.waitersOf j := rfl
@[simp] theorem mark_part_read (p : Nat) (b : Bool) (a j : Nat) : (s.mark p b).part a j = s.part a j := rfl
@[simp] theorem mark_turner_read (p : Nat) (b : Bool) (j : Nat) : (s.mark p b).turner j = s.turner j := rfl
@[simp] theorem mark_qState_read (p : Nat) (b : Bool) (j : Nat) : (s.mark p b).qState j = s.qState j := rfl
@[simp] theorem mark_tally_read (p : Nat) (b : Bool) (j : Nat) : (s.mark p b).tally j = s.tally j := rfl
@[simp] theorem mark_allocated_read (p : Nat) (b : Bool) (j : Nat) : (s.mark p b).allocated j = s.allocated j := rfl

@[simp] theorem setFlaw_regs (p : Nat) (f : Flaw) : (s.setFlaw p f).regs = s.regs := rfl
@[simp] theorem setFlaw_mem (p : Nat) (f : Flaw) : (s.setFlaw p f).mem = s.mem := rfl
@[simp] theorem setFlaw_poison (p : Nat) (f : Flaw) : (s.setFlaw p f).poison = s.poison := rfl
@[simp] theorem setFlaw_freeCtr (p : Nat) (f : Flaw) : (s.setFlaw p f).freeCtr = s.freeCtr := rfl
@[simp] theorem setFlaw_stamp (p : Nat) (f : Flaw) : (s.setFlaw p f).stamp = s.stamp := rfl
@[simp] theorem setFlaw_queues (p : Nat) (f : Flaw) : (s.setFlaw p f).queues = s.queues := rfl
@[simp] theorem setFlaw_waiters (p : Nat) (f : Flaw) : (s.setFlaw p f).waiters = s.waiters := rfl
@[simp] theorem setFlaw_org (p : Nat) (f : Flaw) : (s.setFlaw p f).org = s.org := rfl
@[simp] theorem setFlaw_parts (p : Nat) (f : Flaw) : (s.setFlaw p f).parts = s.parts := rfl
@[simp] theorem setFlaw_turners (p : Nat) (f : Flaw) : (s.setFlaw p f).turners = s.turners := rfl
@[simp] theorem setFlaw_gran (p : Nat) (f : Flaw) : (s.setFlaw p f).gran = s.gran := rfl
@[simp] theorem setFlaw_prov (p : Nat) (f : Flaw) : (s.setFlaw p f).prov = s.prov := rfl
@[simp] theorem setFlaw_net (p : Nat) (f : Flaw) : (s.setFlaw p f).net = s.net := rfl
@[simp] theorem setFlaw_log (p : Nat) (f : Flaw) : (s.setFlaw p f).log = s.log := rfl
@[simp] theorem setFlaw_logSeq (p : Nat) (f : Flaw) : (s.setFlaw p f).logSeq = s.logSeq := rfl
@[simp] theorem setFlaw_egress (p : Nat) (f : Flaw) : (s.setFlaw p f).egress = s.egress := rfl
@[simp] theorem setFlaw_host (p : Nat) (f : Flaw) : (s.setFlaw p f).host = s.host := rfl
@[simp] theorem setFlaw_power (p : Nat) (f : Flaw) : (s.setFlaw p f).power = s.power := rfl
@[simp] theorem setFlaw_clock (p : Nat) (f : Flaw) : (s.setFlaw p f).clock = s.clock := rfl
@[simp] theorem setFlaw_modes (p : Nat) (f : Flaw) : (s.setFlaw p f).modes = s.modes := rfl
@[simp] theorem setFlaw_boot (p : Nat) (f : Flaw) : (s.setFlaw p f).boot = s.boot := rfl
@[simp] theorem setFlaw_fuses (p : Nat) (f : Flaw) : (s.setFlaw p f).fuses = s.fuses := rfl
@[simp] theorem setFlaw_staging (p : Nat) (f : Flaw) : (s.setFlaw p f).staging = s.staging := rfl
@[simp] theorem setFlaw_mailbox (p : Nat) (f : Flaw) : (s.setFlaw p f).mailbox = s.mailbox := rfl
@[simp] theorem setFlaw_sideband (p : Nat) (f : Flaw) : (s.setFlaw p f).sideband = s.sideband := rfl
@[simp] theorem setFlaw_pending (p : Nat) (f : Flaw) : (s.setFlaw p f).pending = s.pending := rfl
@[simp] theorem setFlaw_rdi_read (p : Nat) (f : Flaw) (c : F) (j : Nat) : (s.setFlaw p f).rdi c j = s.rdi c j := rfl
@[simp] theorem setFlaw_rd_read (p : Nat) (f : Flaw) (c : F) : (s.setFlaw p f).rd c = s.rd c := rfl
@[simp] theorem setFlaw_flag_read (p : Nat) (f : Flaw) (c : F) (j : Nat) : (s.setFlaw p f).flag c j = s.flag c j := rfl
@[simp] theorem setFlaw_bitOf_read (p : Nat) (f : Flaw) (c : F) (j : Nat) : (s.setFlaw p f).bitOf c j = s.bitOf c j := rfl
@[simp] theorem setFlaw_byteAt_read (p : Nat) (f : Flaw) (j : Nat) : (s.setFlaw p f).byteAt j = s.byteAt j := rfl
@[simp] theorem setFlaw_queue_read (p : Nat) (f : Flaw) (j : Nat) : (s.setFlaw p f).queue j = s.queue j := rfl
@[simp] theorem setFlaw_waitersOf_read (p : Nat) (f : Flaw) (j : Nat) : (s.setFlaw p f).waitersOf j = s.waitersOf j := rfl
@[simp] theorem setFlaw_part_read (p : Nat) (f : Flaw) (a j : Nat) : (s.setFlaw p f).part a j = s.part a j := rfl
@[simp] theorem setFlaw_turner_read (p : Nat) (f : Flaw) (j : Nat) : (s.setFlaw p f).turner j = s.turner j := rfl
@[simp] theorem setFlaw_qState_read (p : Nat) (f : Flaw) (j : Nat) : (s.setFlaw p f).qState j = s.qState j := rfl
@[simp] theorem setFlaw_tally_read (p : Nat) (f : Flaw) (j : Nat) : (s.setFlaw p f).tally j = s.tally j := rfl
@[simp] theorem setFlaw_allocated_read (p : Nat) (f : Flaw) (j : Nat) : (s.setFlaw p f).allocated j = s.allocated j := rfl
@[simp] theorem setFlaw_poisoned_read (p : Nat) (f : Flaw) (j : Nat) : (s.setFlaw p f).poisoned j = s.poisoned j := rfl

@[simp] theorem emit_regs (e : Egress) : (s.emit e).regs = s.regs := rfl
@[simp] theorem emit_mem (e : Egress) : (s.emit e).mem = s.mem := rfl
@[simp] theorem emit_poison (e : Egress) : (s.emit e).poison = s.poison := rfl
@[simp] theorem emit_flaws (e : Egress) : (s.emit e).flaws = s.flaws := rfl
@[simp] theorem emit_freeCtr (e : Egress) : (s.emit e).freeCtr = s.freeCtr := rfl
@[simp] theorem emit_stamp (e : Egress) : (s.emit e).stamp = s.stamp := rfl
@[simp] theorem emit_queues (e : Egress) : (s.emit e).queues = s.queues := rfl
@[simp] theorem emit_waiters (e : Egress) : (s.emit e).waiters = s.waiters := rfl
@[simp] theorem emit_org (e : Egress) : (s.emit e).org = s.org := rfl
@[simp] theorem emit_parts (e : Egress) : (s.emit e).parts = s.parts := rfl
@[simp] theorem emit_turners (e : Egress) : (s.emit e).turners = s.turners := rfl
@[simp] theorem emit_gran (e : Egress) : (s.emit e).gran = s.gran := rfl
@[simp] theorem emit_prov (e : Egress) : (s.emit e).prov = s.prov := rfl
@[simp] theorem emit_net (e : Egress) : (s.emit e).net = s.net := rfl
@[simp] theorem emit_log (e : Egress) : (s.emit e).log = s.log := rfl
@[simp] theorem emit_logSeq (e : Egress) : (s.emit e).logSeq = s.logSeq := rfl
@[simp] theorem emit_host (e : Egress) : (s.emit e).host = s.host := rfl
@[simp] theorem emit_power (e : Egress) : (s.emit e).power = s.power := rfl
@[simp] theorem emit_clock (e : Egress) : (s.emit e).clock = s.clock := rfl
@[simp] theorem emit_modes (e : Egress) : (s.emit e).modes = s.modes := rfl
@[simp] theorem emit_boot (e : Egress) : (s.emit e).boot = s.boot := rfl
@[simp] theorem emit_fuses (e : Egress) : (s.emit e).fuses = s.fuses := rfl
@[simp] theorem emit_staging (e : Egress) : (s.emit e).staging = s.staging := rfl
@[simp] theorem emit_mailbox (e : Egress) : (s.emit e).mailbox = s.mailbox := rfl
@[simp] theorem emit_sideband (e : Egress) : (s.emit e).sideband = s.sideband := rfl
@[simp] theorem emit_pending (e : Egress) : (s.emit e).pending = s.pending := rfl
@[simp] theorem emit_rdi_read (e : Egress) (c : F) (j : Nat) : (s.emit e).rdi c j = s.rdi c j := rfl
@[simp] theorem emit_rd_read (e : Egress) (c : F) : (s.emit e).rd c = s.rd c := rfl
@[simp] theorem emit_flag_read (e : Egress) (c : F) (j : Nat) : (s.emit e).flag c j = s.flag c j := rfl
@[simp] theorem emit_bitOf_read (e : Egress) (c : F) (j : Nat) : (s.emit e).bitOf c j = s.bitOf c j := rfl
@[simp] theorem emit_byteAt_read (e : Egress) (j : Nat) : (s.emit e).byteAt j = s.byteAt j := rfl
@[simp] theorem emit_queue_read (e : Egress) (j : Nat) : (s.emit e).queue j = s.queue j := rfl
@[simp] theorem emit_waitersOf_read (e : Egress) (j : Nat) : (s.emit e).waitersOf j = s.waitersOf j := rfl
@[simp] theorem emit_part_read (e : Egress) (a j : Nat) : (s.emit e).part a j = s.part a j := rfl
@[simp] theorem emit_turner_read (e : Egress) (j : Nat) : (s.emit e).turner j = s.turner j := rfl
@[simp] theorem emit_qState_read (e : Egress) (j : Nat) : (s.emit e).qState j = s.qState j := rfl
@[simp] theorem emit_tally_read (e : Egress) (j : Nat) : (s.emit e).tally j = s.tally j := rfl
@[simp] theorem emit_allocated_read (e : Egress) (j : Nat) : (s.emit e).allocated j = s.allocated j := rfl
@[simp] theorem emit_poisoned_read (e : Egress) (j : Nat) : (s.emit e).poisoned j = s.poisoned j := rfl

@[simp] theorem setGranule_regs (v g : Nat) (x : Granule) : (s.setGranule v g x).regs = s.regs := rfl
@[simp] theorem setGranule_mem (v g : Nat) (x : Granule) : (s.setGranule v g x).mem = s.mem := rfl
@[simp] theorem setGranule_poison (v g : Nat) (x : Granule) : (s.setGranule v g x).poison = s.poison := rfl
@[simp] theorem setGranule_flaws (v g : Nat) (x : Granule) : (s.setGranule v g x).flaws = s.flaws := rfl
@[simp] theorem setGranule_freeCtr (v g : Nat) (x : Granule) : (s.setGranule v g x).freeCtr = s.freeCtr := rfl
@[simp] theorem setGranule_stamp (v g : Nat) (x : Granule) : (s.setGranule v g x).stamp = s.stamp := rfl
@[simp] theorem setGranule_queues (v g : Nat) (x : Granule) : (s.setGranule v g x).queues = s.queues := rfl
@[simp] theorem setGranule_waiters (v g : Nat) (x : Granule) : (s.setGranule v g x).waiters = s.waiters := rfl
@[simp] theorem setGranule_org (v g : Nat) (x : Granule) : (s.setGranule v g x).org = s.org := rfl
@[simp] theorem setGranule_parts (v g : Nat) (x : Granule) : (s.setGranule v g x).parts = s.parts := rfl
@[simp] theorem setGranule_turners (v g : Nat) (x : Granule) : (s.setGranule v g x).turners = s.turners := rfl
@[simp] theorem setGranule_gran (v g : Nat) (x : Granule) : (s.setGranule v g x).gran = s.gran := rfl
@[simp] theorem setGranule_net (v g : Nat) (x : Granule) : (s.setGranule v g x).net = s.net := rfl
@[simp] theorem setGranule_log (v g : Nat) (x : Granule) : (s.setGranule v g x).log = s.log := rfl
@[simp] theorem setGranule_logSeq (v g : Nat) (x : Granule) : (s.setGranule v g x).logSeq = s.logSeq := rfl
@[simp] theorem setGranule_egress (v g : Nat) (x : Granule) : (s.setGranule v g x).egress = s.egress := rfl
@[simp] theorem setGranule_host (v g : Nat) (x : Granule) : (s.setGranule v g x).host = s.host := rfl
@[simp] theorem setGranule_power (v g : Nat) (x : Granule) : (s.setGranule v g x).power = s.power := rfl
@[simp] theorem setGranule_clock (v g : Nat) (x : Granule) : (s.setGranule v g x).clock = s.clock := rfl
@[simp] theorem setGranule_modes (v g : Nat) (x : Granule) : (s.setGranule v g x).modes = s.modes := rfl
@[simp] theorem setGranule_boot (v g : Nat) (x : Granule) : (s.setGranule v g x).boot = s.boot := rfl
@[simp] theorem setGranule_fuses (v g : Nat) (x : Granule) : (s.setGranule v g x).fuses = s.fuses := rfl
@[simp] theorem setGranule_staging (v g : Nat) (x : Granule) : (s.setGranule v g x).staging = s.staging := rfl
@[simp] theorem setGranule_mailbox (v g : Nat) (x : Granule) : (s.setGranule v g x).mailbox = s.mailbox := rfl
@[simp] theorem setGranule_sideband (v g : Nat) (x : Granule) : (s.setGranule v g x).sideband = s.sideband := rfl
@[simp] theorem setGranule_pending (v g : Nat) (x : Granule) : (s.setGranule v g x).pending = s.pending := rfl
@[simp] theorem setGranule_rdi_read (v g : Nat) (x : Granule) (c : F) (j : Nat) : (s.setGranule v g x).rdi c j = s.rdi c j := rfl
@[simp] theorem setGranule_rd_read (v g : Nat) (x : Granule) (c : F) : (s.setGranule v g x).rd c = s.rd c := rfl
@[simp] theorem setGranule_flag_read (v g : Nat) (x : Granule) (c : F) (j : Nat) : (s.setGranule v g x).flag c j = s.flag c j := rfl
@[simp] theorem setGranule_bitOf_read (v g : Nat) (x : Granule) (c : F) (j : Nat) : (s.setGranule v g x).bitOf c j = s.bitOf c j := rfl
@[simp] theorem setGranule_byteAt_read (v g : Nat) (x : Granule) (j : Nat) : (s.setGranule v g x).byteAt j = s.byteAt j := rfl
@[simp] theorem setGranule_queue_read (v g : Nat) (x : Granule) (j : Nat) : (s.setGranule v g x).queue j = s.queue j := rfl
@[simp] theorem setGranule_waitersOf_read (v g : Nat) (x : Granule) (j : Nat) : (s.setGranule v g x).waitersOf j = s.waitersOf j := rfl
@[simp] theorem setGranule_part_read (v g : Nat) (x : Granule) (a j : Nat) : (s.setGranule v g x).part a j = s.part a j := rfl
@[simp] theorem setGranule_turner_read (v g : Nat) (x : Granule) (j : Nat) : (s.setGranule v g x).turner j = s.turner j := rfl
@[simp] theorem setGranule_qState_read (v g : Nat) (x : Granule) (j : Nat) : (s.setGranule v g x).qState j = s.qState j := rfl
@[simp] theorem setGranule_tally_read (v g : Nat) (x : Granule) (j : Nat) : (s.setGranule v g x).tally j = s.tally j := rfl
@[simp] theorem setGranule_allocated_read (v g : Nat) (x : Granule) (j : Nat) : (s.setGranule v g x).allocated j = s.allocated j := rfl
@[simp] theorem setGranule_poisoned_read (v g : Nat) (x : Granule) (j : Nat) : (s.setGranule v g x).poisoned j = s.poisoned j := rfl

@[simp] theorem queue_updQueue_same (q : Nat) (g : Queue → Queue) : (s.updQueue q g).queue q = g (s.queue q) := by
  simp [State.updQueue, State.queue]

theorem queue_updQueue_other {q k : Nat} {g : Queue → Queue} (h : k ≠ q) : (s.updQueue q g).queue k = s.queue k := by
  simp [State.updQueue, State.queue, Tbl.get_upd_other h]

@[simp] theorem part_updPart_same (t p : Nat) (g : Part → Part) : (s.updPart t p g).part t p = g (s.part t p) := by
  simp [State.updPart, State.part]

@[simp] theorem turner_updTurner_same (t : Nat) (g : Turner → Turner) : (s.updTurner t g).turner t = g (s.turner t) := by
  simp [State.updTurner, State.turner]

@[simp] theorem waitersOf_setWaiters_same (u : Nat) (w : List Waiter) : (s.setWaiters u w).waitersOf u = w := by
  simp [State.setWaiters, State.waitersOf]

/-- A byte reads what was written to it. -/
@[simp] theorem byteAt_setByte_same (p : Nat) (b : Byte) : (s.setByte p b).byteAt p = b := by
  simp [State.setByte, State.byteAt]

/-- Writing a byte leaves every other byte alone. -/
theorem byteAt_setByte_other {p k : Nat} {b : Byte} (h : k ≠ p) : (s.setByte p b).byteAt k = s.byteAt k := by
  simp [State.setByte, State.byteAt, Tbl.get_set_other h]

/-- Memory stays in its canonical form under a write of a byte. -/
theorem setByte_wf {p : Nat} {b : Byte} (h : Memory.wf s.mem = true) : Memory.wf (s.setByte p b).mem = true := Tbl.wf_set h

end Sys2Proof.Machine
end

