-- ==== Sys2Proof/Laws/Issue.lean ====
section
/-! SUPPORT. The issue of a head instruction (R95, R101) in one equation, and what an instruction that completes at once
does. -/

namespace Sys2Proof.Machine

/-- A head that may issue does its instruction's own work. -/
theorem issue_eq {s : State} {q op : Nat} {i : Ins} (h : s.issues q op i) (body : Ins → State → State) :
    issue q op s body = body i (s.begun q) := by
  obtain ⟨h1, h2, h3, h4, h5, h6, h7⟩ := h
  have h8 : (s.begun q).check6 q i = none := h7
  unfold State.begun at h8 ⊢
  simp [issue, h1, h2, h3, h4, h5, State.takeWait, h6, h8]

@[simp] theorem begun_rdi (s : State) (q : Nat) (f : F) (j : Nat) : (s.begun q).rdi f j = s.rdi f j := rfl
@[simp] theorem begun_rd (s : State) (q : Nat) (f : F) : (s.begun q).rd f = s.rd f := rfl
@[simp] theorem begun_flag (s : State) (q : Nat) (f : F) (j : Nat) : (s.begun q).flag f j = s.flag f j := rfl
@[simp] theorem begun_tally (s : State) (q j : Nat) : (s.begun q).tally j = s.tally j := rfl
@[simp] theorem begun_qState (s : State) (q j : Nat) : (s.begun q).qState j = s.qState j := rfl
@[simp] theorem begun_byteAt (s : State) (q p : Nat) : (s.begun q).byteAt p = s.byteAt p := rfl
@[simp] theorem begun_loops (s : State) (q : Nat) : ((s.begun q).queue q).loops = (s.queue q).loops := by
  simp [State.begun]
@[simp] theorem begun_work (s : State) (q : Nat) : ((s.begun q).queue q).work = (s.queue q).work := by
  simp [State.begun]
@[simp] theorem begun_nextId (s : State) (q : Nat) : ((s.begun q).queue q).nextId = (s.queue q).nextId := by
  simp [State.begun]
@[simp] theorem begun_drained (s : State) (q : Nat) : (s.begun q).drained q = s.drained q := by
  simp [State.drained]
theorem begun_other {s : State} {q k : Nat} (h : k ≠ q) : (s.begun q).queue k = s.queue k := queue_updQueue_other _ h

theorem ne_of_not_mem_cons {f g : F} {k j : Nat} {l : List (F × Nat)} (h : (f, k) ∉ (g, j) :: l) : f ≠ g ∨ k ≠ j := by
  by_contra hc
  rw [not_or, not_not, not_not] at hc
  obtain ⟨rfl, rfl⟩ := hc
  exact h List.mem_cons_self

theorem Retired.of_retireTo {s u : State} {q : Nat} {i : Ins} {npc : Nat} {l : List (F × Nat)}
    (hr : u = { s with regs := u.regs, queues := u.queues }) (hq : ∀ k, k ≠ q → u.queue k = s.queue k)
    (hl : (u.queue q).loops = (s.queue q).loops) (hw : (u.queue q).work = (s.queue q).work)
    (hn : (u.queue q).nextId = (s.queue q).nextId) (hb : u.bindEpoch i = s.bindEpoch i)
    (hi : u.rdi .EN_Q_ISSUED_COUNT q = s.rdi .EN_Q_ISSUED_COUNT q)
    (hp : u.rdi .EN_Q_PC_PC q = s.rdi .EN_Q_PC_PC q)
    (hf : ∀ f k, (f, k) ∉ (.EN_Q_PC_PC, q) :: (.EN_Q_ISSUED_COUNT, q) :: l → u.rdi f k = s.rdi f k) :
    s.Retired (u.retireTo q i npc) q i npc l := by
  have hm : u.mem = s.mem := by rw [hr]
  constructor
  · simp [State.retireTo, State.advance, State.countIssue, State.addWrap, hl, F.info]
  · simp only [State.retireTo, State.advance, State.countIssue, State.addWrap]
    rw [rdi_wri_other (by simp)]
    simp [hi, F.info]
  · simp [State.retireTo, State.advance, State.countIssue, State.addWrap, hp]
  · simp only [State.retireTo, State.advance, State.countIssue, State.addWrap]
    simp only [wri_queue_read, queue_updQueue_same]
    split <;> simp [hw, newWork, hn, hb]
  · intro f k h
    have h1 := ne_of_not_mem_cons h
    have h2 := ne_of_not_mem_cons (List.not_mem_of_not_mem_cons h)
    simp only [State.retireTo, State.advance, State.countIssue, State.addWrap]
    rw [rdi_wri_other h1, updQueue_rdi_read, updQueue_rdi_read, updQueue_rdi_read, rdi_wri_other h2]
    exact hf f k h
  · intro k hk
    simp only [State.retireTo, State.advance, State.countIssue, State.addWrap, wri_queue_read]
    rw [queue_updQueue_other _ hk, queue_updQueue_other _ hk, queue_updQueue_other _ hk]
    simp [hq k hk]
  · intro p
    show Tbl.get 0 u.mem p = Tbl.get 0 s.mem p
    rw [hm]
  · show _ = _
    simp only [State.retireTo, State.advance, State.countIssue, State.addWrap, State.updQueue, State.wri]
    rw [hr]

end Sys2Proof.Machine
end

