-- ==== Sys2Proof/Laws/Kept.lean ====
section
/-! SUPPORT. What every operation keeps (Kept): the invariant of Safety.lean, the fuses and the waiting commands. This file has the
elementary updates; the files after it follow the machine's own files, one law per operation. -/

namespace Sys2Proof.Machine

/-- What no command changes: the fuses, and the commands that wait. -/
abbrev Fixed := Fuses × List Instr

/-- The invariant holds, and the fuses and the waiting commands are `z`. -/
def Kept (z : Fixed) (s : State) : Prop := s.Inv ∧ (s.fuses, s.pending) = z

/-- The same, of the parts of a state it speaks of. -/
structure KeptParts (z : Fixed) (regs : List (Nat × Nat)) (mem : List Host.Cell) (poison : List (Nat × Bool))
    (flaws : List (Nat × Flaw)) (fuses : Fuses) (pending : List Instr) : Prop where
  rising : regs.Pairwise fun a b => a.1 < b.1
  entries : ∀ e ∈ regs, regEntryOk e
  mem : Memory.wf mem = true
  poison : Tbl.wf false poison = true
  flaws : Tbl.wf .none flaws = true
  fixed : (fuses, pending) = z

theorem Kept.parts {z : Fixed} {s : State} (h : Kept z s) : KeptParts z s.regs s.mem s.poison s.flaws s.fuses s.pending :=
  ⟨h.1.rising, h.1.entries, h.1.mem, h.1.poison, h.1.flaws, h.2⟩

/-- A state put together from parts that stand as they should: the law of every update of another field. -/
theorem kept_of_parts {z : Fixed} {regs : List (Nat × Nat)} {mem : List Host.Cell} {poison : List (Nat × Bool)} {flaws : List (Nat × Flaw)}
    {freeCtr stamp : Nat} {queues : List (Nat × Queue)} {waiters : List (Nat × List Waiter)} {org : List (Nat × Rect)}
    {parts : List (Nat × Part)} {turners : List (Nat × Turner)} {gran : Granary} {prov : Prov} {net : Net}
    {log : List LogRec} {logSeq : Nat} {egress : List Egress} {host : HostIf} {power : PowerSt} {clock : ClockSt}
    {modes : List ModeChange} {boot : BootSt} {fuses : Fuses} {staging : List Host.Cell} {mailbox : Mailbox} {sideband : Sideband}
    {pending : List Instr} (h : KeptParts z regs mem poison flaws fuses pending) :
    Kept z (State.mk regs mem poison flaws freeCtr stamp queues waiters org parts turners gran prov net log logSeq egress
      host power clock modes boot fuses staging mailbox sideband pending) :=
  ⟨⟨h.rising, h.entries, h.mem, h.poison, h.flaws⟩, h.fixed⟩

/-- An update of fields the law does not speak of. -/
theorem kept_mk {z : Fixed} {s : State}
    {freeCtr stamp : Nat} {queues : List (Nat × Queue)} {waiters : List (Nat × List Waiter)} {org : List (Nat × Rect)}
    {parts : List (Nat × Part)} {turners : List (Nat × Turner)} {gran : Granary} {prov : Prov} {net : Net}
    {log : List LogRec} {logSeq : Nat} {egress : List Egress} {host : HostIf} {power : PowerSt} {clock : ClockSt}
    {modes : List ModeChange} {boot : BootSt} {staging : List Host.Cell} {mailbox : Mailbox} {sideband : Sideband} (h : Kept z s) :
    Kept z (State.mk s.regs s.mem s.poison s.flaws freeCtr stamp queues waiters org parts turners gran prov net log logSeq
      egress host power clock modes boot s.fuses staging mailbox sideband s.pending) :=
  kept_of_parts h.parts

theorem kept_of_eq1 {z : Fixed} {α : Type} {x : State × α} {s : State} {a : α} (e : x = (s, a)) (h : Kept z x.1) :
    Kept z s := by subst e; exact h

theorem kept_of_eq2 {z : Fixed} {α : Type} {x : α × State} {s : State} {a : α} (e : x = (a, s)) (h : Kept z x.2) :
    Kept z s := by subst e; exact h

theorem kept_of_eq22 {z : Fixed} {α β : Type} {x : α × β × State} {s : State} {a : α} {b : β} (e : x = (a, b, s))
    (h : Kept z x.2.2) : Kept z s := by subst e; exact h

/-- Writing a field with a value it may hold. -/
theorem wri_kept {z : Fixed} {s : State} {f : F} {i v : Nat} (hv : fieldLegal f (v % 2 ^ f.info.width) = true)
    (h : Kept z s) : Kept z (s.wri f i v) := by
  obtain ⟨⟨h1, h2, h3, h4, h5⟩, h6⟩ := h
  refine ⟨⟨Tbl.rising_set h1, fun e he => ?_, h3, h4, h5⟩, h6⟩
  rcases Tbl.mem_set he with ⟨rfl, hd⟩ | he
  · exact ⟨f, i, rfl, hd, Nat.mod_lt _ (Nat.two_pow_pos _), hv⟩
  · exact h2 e he

theorem wr_kept {z : Fixed} {s : State} {f : F} {v : Nat} (hv : fieldLegal f (v % 2 ^ f.info.width) = true)
    (h : Kept z s) : Kept z (s.wr f v) := wri_kept hv h

theorem addSat_kept {z : Fixed} {s : State} {f : F} {i n : Nat} (hv : ∀ v, fieldLegal f v = true)
    (h : Kept z s) : Kept z (s.addSat f i n) := wri_kept (hv _) h

theorem addWrap_kept {z : Fixed} {s : State} {f : F} {i n : Nat} (hv : ∀ v, fieldLegal f v = true)
    (h : Kept z s) : Kept z (s.addWrap f i n) := wri_kept (hv _) h

theorem wrBit_kept {z : Fixed} {s : State} {f : F} {n : Nat} {b : Bool} (hv : ∀ v, fieldLegal f v = true)
    (h : Kept z s) : Kept z (s.wrBit f n b) := wri_kept (hv _) h

theorem setByte_kept {z : Fixed} {s : State} {p : Nat} {b : Byte} (h : Kept z s) : Kept z (s.setByte p b) := by
  obtain ⟨⟨h1, h2, h3, h4, h5⟩, h6⟩ := h
  exact ⟨⟨h1, h2, Tbl.wf_set h3, h4, h5⟩, h6⟩

theorem mark_kept {z : Fixed} {s : State} {p : Nat} {b : Bool} (h : Kept z s) : Kept z (s.mark p b) := by
  obtain ⟨⟨h1, h2, h3, h4, h5⟩, h6⟩ := h
  exact ⟨⟨h1, h2, h3, Tbl.wf_set h4, h5⟩, h6⟩

theorem setFlaw_kept {z : Fixed} {s : State} {p : Nat} {f : Flaw} (h : Kept z s) : Kept z (s.setFlaw p f) := by
  obtain ⟨⟨h1, h2, h3, h4, h5⟩, h6⟩ := h
  exact ⟨⟨h1, h2, h3, h4, Tbl.wf_set h5⟩, h6⟩

theorem takeFree_kept {z : Fixed} {s s' : State} {n : Nat} (e : s.takeFree = (n, s')) (h : Kept z s) : Kept z s' := by
  cases e; exact kept_of_parts h.parts

theorem takeFree_kept2 {z : Fixed} {s : State} (h : Kept z s) : Kept z s.takeFree.2 := kept_of_parts h.parts

/-- An operation over a list keeps what each of its steps keeps. -/
theorem foldl_kept {z : Fixed} {α : Type} {f : State → α → State} {l : List α} {s : State} (h : Kept z s)
    (hf : ∀ s a, Kept z s → Kept z (f s a)) : Kept z (l.foldl f s) := by
  induction l generalizing s with
  | nil => exact h
  | cons a l ih => exact ih (hf s a h)

theorem foldl_kept1 {z : Fixed} {α β : Type} {f : State × β → α → State × β} {l : List α} {x : State × β} (h : Kept z x.1)
    (hf : ∀ x a, Kept z x.1 → Kept z (f x a).1) : Kept z (l.foldl f x).1 := by
  induction l generalizing x with
  | nil => exact h
  | cons a l ih => exact ih (hf x a h)

theorem foldl_kept2 {z : Fixed} {α β : Type} {f : β × State → α → β × State} {l : List α} {x : β × State} (h : Kept z x.2)
    (hf : ∀ x a, Kept z x.2 → Kept z (f x a).2) : Kept z (l.foldl f x).2 := by
  induction l generalizing x with
  | nil => exact h
  | cons a l ih => exact ih (hf x a h)

theorem ite_kept {z : Fixed} {c : Prop} [Decidable c] {s t : State} (hs : Kept z s) (ht : Kept z t) :
    Kept z (if c then s else t) := by split <;> assumption

/-- A command keeps what it should, where it answers a next state. -/
def KeptNext (z : Fixed) (o : Host.Outcome State Fault Refusal) : Prop := ∀ t, o = .next t → Kept z t

theorem next_kept {z : Fixed} {s : State} (h : Kept z s) : KeptNext z (.next s) := by
  intro t e; cases e; exact h

theorem refusal_kept {z : Fixed} {r : Refusal} : KeptNext z (.refused r) := by
  intro t e; cases e

theorem byHost_kept {z : Fixed} {s : State} {k : State → State} (h : Kept z s) (hk : ∀ s, Kept z s → Kept z (k s)) :
    Kept z (s.byHost k) := by
  unfold State.byHost; split
  · exact hk s h
  · exact h

theorem byFw_kept {z : Fixed} {s : State} {k : State → State} (h : Kept z s) (hk : ∀ s, Kept z s → Kept z (k s)) :
    Kept z (s.byFw k) := by
  unfold State.byFw; split
  · exact hk s h
  · exact h

end Sys2Proof.Machine
end

