-- ==== Sys2Proof/Laws/KeptOps.lean ====
section
/-! SUPPORT. What the operations of Machine/Ops.lean keep (Kept), one law for each. -/

set_option linter.unusedTactic false
set_option linter.unreachableTactic false

namespace Sys2Proof.Machine

theorem updQueue_kept {z : Fixed} {s : State} {q : Nat} {g : Queue → Queue} (h_s : Kept z s) : Kept z (State.updQueue s q g) := by
  unfold State.updQueue
  try dsimp only
  repeat' (first | with_reducible assumption | dsimp only | with_reducible apply kept_mk)

theorem setWaiters_kept {z : Fixed} {s : State} {u : Nat} {w : List Waiter} (h_s : Kept z s) : Kept z (State.setWaiters s u w) := by
  unfold State.setWaiters
  try dsimp only
  repeat' (first | with_reducible assumption | dsimp only | with_reducible apply kept_mk)

theorem updPart_kept {z : Fixed} {s : State} {t : Nat} {p : Nat} {g : Part → Part} (h_s : Kept z s) : Kept z (State.updPart s t p g) := by
  unfold State.updPart
  try dsimp only
  repeat' (first | with_reducible assumption | dsimp only | with_reducible apply kept_mk)

theorem updTurner_kept {z : Fixed} {s : State} {t : Nat} {g : Turner → Turner} (h_s : Kept z s) : Kept z (State.updTurner s t g) := by
  unfold State.updTurner
  try dsimp only
  repeat' (first | with_reducible assumption | dsimp only | with_reducible apply kept_mk)

theorem setQState_kept {z : Fixed} {s : State} {q v : Nat} (hv : v ≤ 5) (h : Kept z s) : Kept z (s.setQState q v) := by
  refine wri_kept ?_ h
  have : v % 2 ^ F.EN_Q_STAT_STATE.info.width ≤ v := Nat.mod_le _ _
  simp only [fieldLegal, decide_eq_true_eq]
  omega

theorem leaveIdle_kept {z : Fixed} {s : State} (h_s : Kept z s) : Kept z (State.leaveIdle s) := by
  unfold State.leaveIdle
  try dsimp only
  repeat' (first | with_reducible assumption | exact rfl | with_reducible apply wr_kept | split | dsimp only)

theorem orAfter_kept {z : Fixed} {s : State} {m : ModeChange} {k : State → State} (h_s : Kept z s) (h_k : ∀  s, Kept z s → Kept z (k  s)) : Kept z (State.orAfter s m k) := by
  unfold State.orAfter
  try dsimp only
  repeat' (first | with_reducible assumption | with_reducible apply h_k | split | dsimp only | with_reducible apply kept_mk)

theorem holdAccess_kept {z : Fixed} {s : State} {a : HeldAccess} (h_s : Kept z s) : Kept z (State.holdAccess s a) := by
  unfold State.holdAccess
  try dsimp only
  repeat' (first | with_reducible assumption | dsimp only | with_reducible apply kept_mk)

theorem emit_kept {z : Fixed} {s : State} {e : Egress} (h_s : Kept z s) : Kept z (State.emit s e) := by
  unfold State.emit
  try dsimp only
  repeat' (first | with_reducible assumption | dsimp only | with_reducible apply kept_mk)

theorem msix_kept {z : Fixed} {s : State} {v : Nat} (h_s : Kept z s) : Kept z (State.msix s v) := by
  unfold State.msix
  try dsimp only
  repeat' (first | with_reducible assumption | with_reducible apply emit_kept | split | dsimp only | with_reducible apply kept_mk)

theorem freezeFatal_kept {z : Fixed} {s : State} {r : LogRec} (h_s : Kept z s) : Kept z (State.freezeFatal s r) := by
  unfold State.freezeFatal
  try dsimp only
  repeat' (first | with_reducible assumption | exact rfl | with_reducible apply wri_kept | with_reducible apply foldl_kept | split | dsimp only | intro _)

theorem keepLog_kept {z : Fixed} {s : State} {l : List LogRec} (h_s : Kept z s) : Kept z (State.keepLog s l) := by
  unfold State.keepLog
  try dsimp only
  repeat' (first | with_reducible assumption | dsimp only | with_reducible apply kept_mk)

theorem logRec_kept {z : Fixed} {s : State} {r : LogRec} (h_s : Kept z s) : Kept z (State.logRec s r) := by
  unfold State.logRec
  try dsimp only
  repeat' (first | with_reducible assumption | exact rfl | exact fun _ => rfl | with_reducible apply freezeFatal_kept | with_reducible apply keepLog_kept | with_reducible apply addSat_kept | with_reducible apply wr_kept | split | dsimp only | with_reducible apply kept_mk)

theorem pldmEvent_kept {z : Fixed} {s : State} {r : LogRec} (h_s : Kept z s) : Kept z (State.pldmEvent s r) := by
  unfold State.pldmEvent
  try dsimp only
  repeat' (first | with_reducible assumption | dsimp only | with_reducible apply kept_mk)

theorem noteClass_kept {z : Fixed} {s : State} {c : Nat} (h_s : Kept z s) : Kept z (State.noteClass s c) := by
  unfold State.noteClass
  try dsimp only
  repeat' (first | with_reducible assumption | dsimp only | with_reducible apply kept_mk)

theorem flagClass_kept {z : Fixed} {s : State} {c : Nat} (h_s : Kept z s) : Kept z (State.flagClass s c) := by
  unfold State.flagClass
  try dsimp only
  repeat' (first | with_reducible assumption | exact rfl | with_reducible apply wr_kept | split | dsimp only)

theorem raise_kept {z : Fixed} {s : State} {e : E} {unit : Nat} {inst : Nat} {sub : Nat} {addr : Nat} {detail : Nat} (h_s : Kept z s) : Kept z (State.raise s e unit inst sub addr detail) := by
  unfold State.raise
  try dsimp only
  repeat' (first | with_reducible assumption | exact fun _ => rfl | with_reducible apply logRec_kept | with_reducible apply noteClass_kept | with_reducible apply flagClass_kept | with_reducible apply addSat_kept | with_reducible apply pldmEvent_kept | with_reducible apply emit_kept | with_reducible apply msix_kept | split | dsimp only)

end Sys2Proof.Machine
end

