-- ==== Sys2Proof/Laws/KeptMem.lean ====
section
/-! SUPPORT. What the operations of Machine/Mem.lean keep (Kept), one law for each. -/

set_option linter.unusedTactic false
set_option linter.unreachableTactic false

namespace Sys2Proof.Machine

theorem rewritten_kept {z : Fixed} {s : State} {p : Nat} (h_s : Kept z s) : Kept z (State.rewritten s p) := by
  unfold State.rewritten
  try dsimp only
  repeat' (first | with_reducible assumption | with_reducible apply setFlaw_kept | with_reducible apply foldl_kept | split | dsimp only | with_reducible apply kept_mk | intro _)

theorem countRow_kept {z : Fixed} {s : State} {p : Nat} {ue : Bool} (h_s : Kept z s) : Kept z (State.countRow s p ue) := by
  unfold State.countRow
  try dsimp only
  repeat' (first | with_reducible assumption | split | dsimp only | with_reducible apply kept_mk | intro _)

theorem senseDie_kept {z : Fixed} {s : State} {c : Nat} (h_s : Kept z s) : Kept z (State.senseDie s c) := by
  unfold State.senseDie
  try dsimp only
  repeat' (first | with_reducible assumption | exact fun _ => rfl | with_reducible apply addSat_kept | split | dsimp only)

theorem correctHalf_kept {z : Fixed} {s : State} {c : Nat} (h_s : Kept z s) : Kept z (State.correctHalf s c) := by
  unfold State.correctHalf
  try dsimp only
  repeat' (first | with_reducible assumption | exact fun _ => rfl | with_reducible apply raise_kept | with_reducible apply countRow_kept | with_reducible apply addSat_kept | dsimp only)

theorem senseHbm_kept {z : Fixed} {s : State} {p : Nat} {cs : List Nat} (h_s : Kept z s) : Kept z (State.senseHbm s p cs) := by
  unfold State.senseHbm
  try dsimp only
  repeat' (first | with_reducible assumption | exact fun _ => rfl | with_reducible apply senseDie_kept | with_reducible apply raise_kept | with_reducible apply countRow_kept | with_reducible apply addSat_kept | with_reducible apply mark_kept | with_reducible apply rewritten_kept | with_reducible apply correctHalf_kept | with_reducible apply foldl_kept | split | dsimp only | intro _)

theorem senseLoft_kept {z : Fixed} {s : State} {p : Nat} (h_s : Kept z s) : Kept z (State.senseLoft s p) := by
  unfold State.senseLoft
  try dsimp only
  repeat' (first | with_reducible assumption | exact fun _ => rfl | with_reducible apply raise_kept | with_reducible apply addSat_kept | with_reducible apply rewritten_kept | with_reducible apply mark_kept | split | dsimp only)

theorem sense_kept {z : Fixed} {s : State} {p : Nat} (h_s : Kept z s) : Kept z (State.sense s p) := by
  unfold State.sense
  try dsimp only
  repeat' (first | with_reducible assumption | with_reducible apply senseHbm_kept | with_reducible apply senseLoft_kept | split | dsimp only)

theorem leaveLine_kept {z : Fixed} {s : State} {p : Nat} (h_s : Kept z s) : Kept z (State.leaveLine s p) := by
  unfold State.leaveLine
  try dsimp only
  repeat' (first | with_reducible assumption | with_reducible apply raise_kept | with_reducible apply setFlaw_kept | split | dsimp only | with_reducible apply kept_mk)

theorem senseRun_kept {z : Fixed} {s : State} {p : Nat} {n : Nat} (h_s : Kept z s) : Kept z (State.senseRun s p n) := by
  unfold State.senseRun
  try dsimp only
  repeat' (first | with_reducible assumption | with_reducible apply sense_kept | with_reducible apply leaveLine_kept | with_reducible apply foldl_kept | split | dsimp only | intro _)

theorem writeUnit_kept {z : Fixed} {s : State} {g : Nat × List (Nat × PByte)} (h_s : Kept z s) : Kept z (State.writeUnit s g) := by
  unfold State.writeUnit
  try dsimp only
  repeat' (first | with_reducible assumption | with_reducible apply mark_kept | with_reducible apply sense_kept | with_reducible apply setByte_kept | with_reducible apply rewritten_kept | with_reducible apply foldl_kept | with_reducible apply foldl_kept1 | with_reducible apply foldl_kept2 | split | dsimp only | intro _)

theorem storePhys_kept {z : Fixed} {s : State} {p : Nat} {l : List PByte} (h_s : Kept z s) : Kept z (State.storePhys s p l) := by
  unfold State.storePhys
  try dsimp only
  repeat' (first | with_reducible assumption | with_reducible apply writeUnit_kept | with_reducible apply foldl_kept | split | dsimp only | intro _)

theorem arriveLine_kept {z : Fixed} {p : Nat} {x : State × List PByte} {zz : Nat} (h_x : Kept z x.1) : Kept z (arriveLine p x zz).1 := by
  unfold arriveLine
  try dsimp only
  repeat' (first | with_reducible assumption | exact fun _ => rfl | with_reducible apply setFlaw_kept | with_reducible apply addSat_kept | with_reducible apply raise_kept | split | dsimp only | with_reducible apply kept_mk)

theorem arriveLine_kept_eq {z : Fixed} {p : Nat} {x : State × List PByte} {zz : Nat} {s' : State} {r : List PByte} (heq : arriveLine p x zz = (s', r)) (h_x : Kept z x.1) : Kept z s' := by
  have := arriveLine_kept (z := z) (p := p) (x := x) (zz := zz) h_x
  rw [heq] at this
  exact this

theorem writePhys_kept {z : Fixed} {s : State} {p : Nat} {l : List PByte} (h_s : Kept z s) : Kept z (State.writePhys s p l) := by
  unfold State.writePhys
  try dsimp only
  repeat' (first | with_reducible assumption | with_reducible apply storePhys_kept | with_reducible apply arriveLine_kept | with_reducible apply foldl_kept | with_reducible apply foldl_kept1 | with_reducible apply foldl_kept2 | with_reducible refine arriveLine_kept_eq (by with_reducible assumption) ?_ | split | dsimp only | intro _)

theorem resultWord_kept {z : Fixed} {p : Nat} {x : State × List PByte} {zz : Nat} (h_x : Kept z x.1) : Kept z (resultWord p x zz).1 := by
  unfold resultWord
  try dsimp only
  repeat' (first | with_reducible assumption | exact fun _ => rfl | with_reducible apply raise_kept | with_reducible apply addSat_kept | with_reducible apply setFlaw_kept | split | dsimp only | with_reducible apply kept_mk | intro _)

theorem resultWord_kept_eq {z : Fixed} {p : Nat} {x : State × List PByte} {zz : Nat} {s' : State} {r : List PByte} (heq : resultWord p x zz = (s', r)) (h_x : Kept z x.1) : Kept z s' := by
  have := resultWord_kept (z := z) (p := p) (x := x) (zz := zz) h_x
  rw [heq] at this
  exact this

theorem resultPhys_kept {z : Fixed} {s : State} {p : Nat} {l : List PByte} (h_s : Kept z s) : Kept z (State.resultPhys s p l) := by
  unfold State.resultPhys
  try dsimp only
  repeat' (first | with_reducible assumption | with_reducible apply writePhys_kept | with_reducible apply storePhys_kept | with_reducible apply resultWord_kept | with_reducible apply foldl_kept | with_reducible apply foldl_kept1 | with_reducible apply foldl_kept2 | with_reducible refine resultWord_kept_eq (by with_reducible assumption) ?_ | split | dsimp only | intro _)

theorem poisonRun_kept {z : Fixed} {s : State} {p : Nat} {n : Nat} (h_s : Kept z s) : Kept z (State.poisonRun s p n) := by
  unfold State.poisonRun
  try dsimp only
  repeat' (first | with_reducible assumption | with_reducible apply mark_kept | with_reducible apply foldl_kept | dsimp only | intro _)

theorem setGranule_kept {z : Fixed} {s : State} {v : Nat} {g : Nat} {x : Granule} (h_s : Kept z s) : Kept z (State.setGranule s v g x) := by
  unfold State.setGranule
  try dsimp only
  repeat' (first | with_reducible assumption | dsimp only | with_reducible apply kept_mk)

theorem copyGranule_kept {z : Fixed} {s : State} {r : Vreg} {fromB : Bool} {a0 : Nat} (h_s : Kept z s) : Kept z (State.copyGranule s r fromB a0) := by
  unfold State.copyGranule
  try dsimp only
  repeat' (first | with_reducible assumption | with_reducible apply senseRun_kept | with_reducible apply storePhys_kept | dsimp only)

theorem writePlace_kept {z : Fixed} {s : State} {rs : List Vreg} {view : View} {space : Nat} {t : Nat} {a : Nat} {n : Nat} (h_s : Kept z s) : Kept z (State.writePlace s rs view space t a n).2 := by
  unfold State.writePlace
  try dsimp only
  repeat' (first | with_reducible assumption | with_reducible apply poisonRun_kept | with_reducible apply setGranule_kept | with_reducible apply copyGranule_kept | split | dsimp only | intro _)

theorem writePlace_kept_eq {z : Fixed} {s : State} {rs : List Vreg} {view : View} {space : Nat} {t : Nat} {a : Nat} {n : Nat} {s' : State} {r : Option Nat} (heq : State.writePlace s rs view space t a n = (r, s')) (h_s : Kept z s) : Kept z s' := by
  have := writePlace_kept (z := z) (s := s) (rs := rs) (view := view) (space := space) (t := t) (a := a) (n := n) h_s
  rw [heq] at this
  exact this

theorem senseAt_kept {z : Fixed} {s : State} {view : View} {space : Nat} {t : Nat} {a : Nat} {n : Nat} (h_s : Kept z s) : Kept z (State.senseAt s view space t a n) := by
  unfold State.senseAt
  try dsimp only
  repeat' (first | with_reducible assumption | with_reducible apply senseRun_kept | with_reducible apply foldl_kept | split | dsimp only | intro _)

theorem leaveAt_kept {z : Fixed} {s : State} {view : View} {space : Nat} {t : Nat} {a : Nat} {n : Nat} (h_s : Kept z s) : Kept z (State.leaveAt s view space t a n) := by
  unfold State.leaveAt
  try dsimp only
  repeat' (first | with_reducible assumption | with_reducible apply leaveLine_kept | with_reducible apply foldl_kept | split | dsimp only | intro _)

theorem writeVia_kept {z : Fixed} {put : State → Nat → List PByte → State} {s : State} {view : View} {space : Nat} {t : Nat} {a : Nat} {l : List PByte} (h_put : ∀ s a0 a1, Kept z s → Kept z (put s a0 a1)) (h_s : Kept z s) : Kept z (State.writeVia put s view space t a l) := by
  unfold State.writeVia
  try dsimp only
  repeat' (first | with_reducible assumption | with_reducible apply writePlace_kept | with_reducible apply h_put | with_reducible apply foldl_kept | with_reducible apply foldl_kept1 | with_reducible apply foldl_kept2 | with_reducible refine writePlace_kept_eq (by with_reducible assumption) ?_ | split | dsimp only | intro _)

theorem writeAt_kept {z : Fixed} {s : State} {view : View} {space : Nat} {t : Nat} {a : Nat} {l : List PByte} (h_s : Kept z s) : Kept z (State.writeAt s view space t a l) := by
  unfold State.writeAt
  try dsimp only
  repeat' (first | with_reducible assumption | with_reducible apply writeVia_kept | with_reducible apply writePhys_kept | dsimp only)

theorem writeResult_kept {z : Fixed} {s : State} {view : View} {space : Nat} {t : Nat} {a : Nat} {l : List PByte} (h_s : Kept z s) : Kept z (State.writeResult s view space t a l) := by
  unfold State.writeResult
  try dsimp only
  repeat' (first | with_reducible assumption | with_reducible apply writeVia_kept | with_reducible apply resultPhys_kept | dsimp only)

end Sys2Proof.Machine
end

