-- ==== Sys2Proof/Laws/KeptQueue.lean ====
section
/-! SUPPORT. What the operations of Machine/Queue.lean keep (Kept), one law for each. -/

set_option linter.unusedTactic false
set_option linter.unreachableTactic false

namespace Sys2Proof.Machine

theorem runState_le {s : State} {q : Nat} : s.runState q ≤ 5 := by
  unfold State.runState; split <;> omega

theorem recordFault_kept {z : Fixed} {s : State} {q : Nat} {f : EFault} (h_s : Kept z s) : Kept z (State.recordFault s q f) := by
  unfold State.recordFault
  try dsimp only
  repeat' (first | with_reducible assumption | exact rfl | exact fun _ => rfl | with_reducible apply wr_kept | with_reducible apply addSat_kept | split | dsimp only)

theorem freeTurnerOf_kept {z : Fixed} {s : State} {q : Nat} (h_s : Kept z s) : Kept z (State.freeTurnerOf s q) := by
  unfold State.freeTurnerOf
  try dsimp only
  repeat' (first | with_reducible assumption | exact rfl | with_reducible apply wri_kept | split | dsimp only)

theorem setTally_kept {z : Fixed} {s : State} {u : Nat} {n : Nat} (h_s : Kept z s) : Kept z (State.setTally s u n) := by
  unfold State.setTally
  try dsimp only
  repeat' (first | with_reducible assumption | exact rfl | with_reducible apply wri_kept | dsimp only)

theorem advance_kept {z : Fixed} {s : State} {q : Nat} {npc : Nat} (h_s : Kept z s) : Kept z (State.advance s q npc) := by
  unfold State.advance
  try dsimp only
  repeat' (first | with_reducible assumption | exact rfl | with_reducible apply wri_kept | with_reducible apply updQueue_kept | split | dsimp only | with_reducible apply kept_mk | intro _)

theorem countIssue_kept {z : Fixed} {s : State} {q : Nat} (h_s : Kept z s) : Kept z (State.countIssue s q) := by
  unfold State.countIssue
  try dsimp only
  repeat' (first | with_reducible assumption | exact fun _ => rfl | with_reducible apply updQueue_kept | with_reducible apply addWrap_kept | dsimp only | with_reducible apply kept_mk | intro _)

theorem complete_kept {z : Fixed} {s : State} {q : Nat} {id : Nat} (h_s : Kept z s) : Kept z (State.complete s q id) := by
  unfold State.complete
  try dsimp only
  repeat' (first | with_reducible assumption | with_reducible apply updQueue_kept | split | dsimp only | with_reducible apply kept_mk | intro _)

theorem orderPoint_kept {z : Fixed} {s : State} {q : Nat} (h_s : Kept z s) : Kept z (State.orderPoint s q) := by
  unfold State.orderPoint
  try dsimp only
  repeat' (first | with_reducible assumption | with_reducible apply updQueue_kept | dsimp only | with_reducible apply kept_mk | intro _)

theorem wake_kept {z : Fixed} {s : State} {q : Nat} (h_s : Kept z s) : Kept z (State.wake s q) := by
  unfold State.wake
  try dsimp only
  repeat' (first | with_reducible assumption | with_reducible apply orderPoint_kept | with_reducible apply setQState_kept | with_reducible apply advance_kept | with_reducible apply updQueue_kept | exact runState_le | split | dsimp only | with_reducible apply kept_mk | omega | intro _)

theorem serveList_kept {z : Fixed} {u : Nat} {x0 : List Waiter} {x1 : State} (h_x1 : Kept z x1) : Kept z (serveList u x0 x1) := by
  induction x0 generalizing x1 with
  | nil =>
    unfold serveList
    try dsimp only
    repeat' (first | with_reducible assumption | with_reducible apply setWaiters_kept | with_reducible apply setTally_kept | with_reducible apply wake_kept | split | dsimp only | intro _)
  | cons a l ih =>
    unfold serveList
    try dsimp only
    repeat' (first | with_reducible assumption | with_reducible apply setWaiters_kept | with_reducible apply setTally_kept | with_reducible apply wake_kept | with_reducible apply ih | split | dsimp only | intro _)

theorem serve_kept {z : Fixed} {s : State} {u : Nat} (h_s : Kept z s) : Kept z (State.serve s u) := by
  unfold State.serve
  try dsimp only
  repeat' (first | with_reducible assumption | with_reducible apply serveList_kept | dsimp only)

theorem leaveWait_kept {z : Fixed} {s : State} {q : Nat} (h_s : Kept z s) : Kept z (State.leaveWait s q) := by
  unfold State.leaveWait
  try dsimp only
  repeat' (first | with_reducible assumption | with_reducible apply setWaiters_kept | with_reducible apply serve_kept | with_reducible apply updQueue_kept | split | dsimp only | with_reducible apply kept_mk | intro _)

theorem stopQueue_kept {z : Fixed} {s : State} {q : Nat} {c : E} {pc : Nat} (h_s : Kept z s) : Kept z (State.stopQueue s q c pc) := by
  unfold State.stopQueue
  try dsimp only
  repeat' (first | with_reducible assumption | exact rfl | with_reducible apply leaveWait_kept | with_reducible apply updQueue_kept | with_reducible apply freeTurnerOf_kept | with_reducible apply wri_kept | with_reducible apply setQState_kept | exact runState_le | split | dsimp only | with_reducible apply kept_mk | omega | intro _)

theorem giveBack_kept {z : Fixed} {s : State} {q : Nat} {pc : Nat} (h_s : Kept z s) : Kept z (State.giveBack s q pc) := by
  unfold State.giveBack
  try dsimp only
  repeat' (first | with_reducible assumption | with_reducible apply updQueue_kept | with_reducible apply serve_kept | with_reducible apply setTally_kept | split | dsimp only | with_reducible apply kept_mk | intro _)

theorem engineFault_kept {z : Fixed} {s : State} {q : Nat} {f : EFault} {pc : Nat} (h_s : Kept z s) : Kept z (State.engineFault s q f pc) := by
  unfold State.engineFault
  try dsimp only
  repeat' (first | with_reducible assumption | with_reducible apply stopQueue_kept | with_reducible apply raise_kept | with_reducible apply recordFault_kept | with_reducible apply giveBack_kept | dsimp only)

theorem overflow_kept {z : Fixed} {s : State} {u : Nat} (h_s : Kept z s) : Kept z (State.overflow s u) := by
  unfold State.overflow
  try dsimp only
  repeat' (first | with_reducible assumption | exact rfl | with_reducible apply wri_kept | with_reducible apply wr_kept | split | dsimp only)

theorem signal_kept {z : Fixed} {s : State} {u : Nat} {n : Nat} (h_s : Kept z s) : Kept z (State.signal s u n) := by
  unfold State.signal
  try dsimp only
  repeat' (first | with_reducible assumption | with_reducible apply overflow_kept | with_reducible apply serve_kept | with_reducible apply setTally_kept | split | dsimp only)

theorem arm_kept {z : Fixed} {s : State} {u : Nat} {n : Nat} (h_s : Kept z s) : Kept z (State.arm s u n) := by
  unfold State.arm
  try dsimp only
  repeat' (first | with_reducible assumption | with_reducible apply serve_kept | with_reducible apply setTally_kept | dsimp only)

theorem beginWait_kept {z : Fixed} {s : State} {q : Nat} {u : Nat} {n : Nat} {operand : Bool} (h_s : Kept z s) : Kept z (State.beginWait s q u n operand) := by
  unfold State.beginWait
  try dsimp only
  repeat' (first | with_reducible assumption | with_reducible apply updQueue_kept | with_reducible apply serve_kept | with_reducible apply setWaiters_kept | with_reducible apply setQState_kept | exact runState_le | dsimp only | with_reducible apply kept_mk | omega | intro _)

theorem takeWait_kept {z : Fixed} {s : State} {q : Nat} {i : Ins} (h_s : Kept z s) : Kept z (State.takeWait s q i).1 := by
  unfold State.takeWait
  try dsimp only
  repeat' (first | with_reducible assumption | with_reducible apply engineFault_kept | with_reducible apply updQueue_kept | with_reducible apply beginWait_kept | split | dsimp only | with_reducible apply kept_mk | intro _)

theorem takeWait_kept_eq {z : Fixed} {s : State} {q : Nat} {i : Ins} {s' : State} {r : Bool} (heq : State.takeWait s q i = (s', r)) (h_s : Kept z s) : Kept z s' := by
  have := takeWait_kept (z := z) (s := s) (q := q) (i := i) h_s
  rw [heq] at this
  exact this

theorem passBy_kept {z : Fixed} {s : State} {q : Nat} {lo : Nat} {npc : Nat} (h_s : Kept z s) : Kept z (State.passBy s q lo npc) := by
  unfold State.passBy
  try dsimp only
  repeat' (first | with_reducible assumption | with_reducible apply updQueue_kept | with_reducible apply setQState_kept | exact runState_le | split | dsimp only | with_reducible apply kept_mk | omega | intro _)

theorem issue_kept {z : Fixed} {q : Nat} {op : Nat} {s : State} {body : Ins → State → State} (h_s : Kept z s) (h_body : ∀ a0 s, Kept z s → Kept z (body a0 s)) : Kept z (issue q op s body) := by
  unfold issue
  try dsimp only
  repeat' (first | with_reducible assumption | with_reducible apply engineFault_kept | with_reducible apply advance_kept | with_reducible apply passBy_kept | with_reducible apply countIssue_kept | with_reducible apply updQueue_kept | with_reducible apply takeWait_kept | with_reducible apply h_body | with_reducible refine takeWait_kept_eq (by with_reducible assumption) ?_ | split | dsimp only | with_reducible apply kept_mk | intro _)

theorem goOn_kept {z : Fixed} {s : State} {q : Nat} {i : Ins} {w : Work} (h_s : Kept z s) : Kept z (State.goOn s q i w) := by
  unfold State.goOn
  try dsimp only
  repeat' (first | with_reducible assumption | with_reducible apply advance_kept | with_reducible apply updQueue_kept | with_reducible apply countIssue_kept | dsimp only | with_reducible apply kept_mk | intro _)

theorem retireTo_kept {z : Fixed} {s : State} {q : Nat} {i : Ins} {npc : Nat} (h_s : Kept z s) : Kept z (State.retireTo s q i npc) := by
  unfold State.retireTo
  try dsimp only
  repeat' (first | with_reducible assumption | with_reducible apply advance_kept | with_reducible apply updQueue_kept | with_reducible apply countIssue_kept | split | dsimp only | with_reducible apply kept_mk | intro _)

theorem retire_kept {z : Fixed} {s : State} {q : Nat} {i : Ins} (h_s : Kept z s) : Kept z (State.retire s q i) := by
  unfold State.retire
  try dsimp only
  repeat' (first | with_reducible assumption | with_reducible apply retireTo_kept | dsimp only)

theorem flush_kept {z : Fixed} {s : State} {q : Nat} {id : Nat} (h_s : Kept z s) : Kept z (State.flush s q id) := by
  unfold State.flush
  try dsimp only
  repeat' (first | with_reducible assumption | with_reducible apply emit_kept | with_reducible apply updQueue_kept | with_reducible apply foldl_kept | split | dsimp only | with_reducible apply kept_mk | intro _)

end Sys2Proof.Machine
end

