-- ==== Sys2Proof/Laws/KeptOperands.lean ====
section
/-! SUPPORT. What the operations of Machine/Operands.lean keep (Kept), one law for each. -/

set_option linter.unusedTactic false
set_option linter.unreachableTactic false

namespace Sys2Proof.Machine

theorem withDesc_kept {z : Fixed} {q : Nat} {i : Ins} {s : State} {k : Desc → State → State} (h_s : Kept z s) (h_k : ∀ a0 s, Kept z s → Kept z (k a0 s)) : Kept z (withDesc q i s k) := by
  unfold withDesc
  try dsimp only
  repeat' (first | with_reducible assumption | with_reducible apply engineFault_kept | with_reducible apply senseAt_kept | with_reducible apply h_k | split | dsimp only)

end Sys2Proof.Machine
end

