-- ==== Sys2Proof/Laws/KeptControl.lean ====
section
/-! SUPPORT. What the operations of Machine/Control.lean keep (Kept), one law for each. -/

set_option linter.unusedTactic false
set_option linter.unreachableTactic false

namespace Sys2Proof.Machine

theorem writeEvent_kept {z : Fixed} {s : State} {e : EvtRec} (h_s : Kept z s) : Kept z (State.writeEvent s e) := by
  unfold State.writeEvent
  try dsimp only
  repeat' (first | with_reducible assumption | exact rfl | with_reducible apply msix_kept | with_reducible apply wr_kept | with_reducible apply emit_kept | dsimp only)

theorem postEvent_kept {z : Fixed} {s : State} {q : Nat} {code : Nat} {kind : Nat} {id : Nat} (h_s : Kept z s) : Kept z (State.postEvent s q code kind id).1 := by
  unfold State.postEvent
  try dsimp only
  repeat' (first | with_reducible assumption | exact fun _ => rfl | with_reducible apply writeEvent_kept | with_reducible apply addSat_kept | split | dsimp only | with_reducible apply kept_mk)

theorem postEvent_kept_eq {z : Fixed} {s : State} {q : Nat} {code : Nat} {kind : Nat} {id : Nat} {s' : State} {r : Bool} (heq : State.postEvent s q code kind id = (s', r)) (h_s : Kept z s) : Kept z s' := by
  have := postEvent_kept (z := z) (s := s) (q := q) (code := code) (kind := kind) (id := id) h_s
  rw [heq] at this
  exact this

theorem actSignal_kept {z : Fixed} {s : State} {q : Nat} {w : Work} (h_s : Kept z s) : Kept z (State.actSignal s q w) := by
  unfold State.actSignal
  try dsimp only
  repeat' (first | with_reducible assumption | with_reducible apply engineFault_kept | with_reducible apply signal_kept | split | dsimp only)

theorem discard_kept {z : Fixed} {s : State} {q : Nat} (h_s : Kept z s) : Kept z (State.discard s q) := by
  unfold State.discard
  try dsimp only
  repeat' (first | with_reducible assumption | with_reducible apply updQueue_kept | dsimp only | with_reducible apply kept_mk | intro _)

theorem settleEnd_kept {z : Fixed} {s : State} {q : Nat} (h_s : Kept z s) : Kept z (State.settleEnd s q) := by
  unfold State.settleEnd
  try dsimp only
  repeat' (first | with_reducible assumption | exact rfl | with_reducible apply flush_kept | with_reducible apply updQueue_kept | with_reducible apply discard_kept | with_reducible apply actSignal_kept | with_reducible apply wri_kept | with_reducible apply setQState_kept | with_reducible apply postEvent_kept | exact runState_le | with_reducible refine postEvent_kept_eq (by with_reducible assumption) ?_ | split | dsimp only | with_reducible apply kept_mk | omega | intro _)

theorem execNop_kept {z : Fixed} {q : Fin 52} {s : State} (h_s : Kept z s) : KeptNext z (execNop q s) := by
  unfold execNop
  try dsimp only
  repeat' (first | with_reducible assumption | with_reducible apply issue_kept | with_reducible apply retire_kept | with_reducible apply next_kept | dsimp only | intro _)

theorem execEndStream_kept {z : Fixed} {q : Fin 52} {s : State} (h_s : Kept z s) : KeptNext z (execEndStream q s) := by
  unfold execEndStream
  try dsimp only
  repeat' (first | with_reducible assumption | with_reducible apply issue_kept | with_reducible apply settleEnd_kept | with_reducible apply updQueue_kept | with_reducible apply countIssue_kept | with_reducible apply next_kept | split | dsimp only | with_reducible apply kept_mk | intro _)

theorem execSync_kept {z : Fixed} {q : Fin 52} {s : State} (h_s : Kept z s) : KeptNext z (execSync q s) := by
  unfold execSync
  try dsimp only
  repeat' (first | with_reducible assumption | with_reducible apply issue_kept | with_reducible apply retire_kept | with_reducible apply next_kept | split | dsimp only | intro _)

theorem fenceWait_kept {z : Fixed} {s : State} {q : Nat} {i : Ins} (h_s : Kept z s) : Kept z (State.fenceWait s q i) := by
  unfold State.fenceWait
  try dsimp only
  repeat' (first | with_reducible assumption | with_reducible apply flush_kept | split | dsimp only)

theorem execNotify_kept {z : Fixed} {q : Fin 52} {s : State} (h_s : Kept z s) : KeptNext z (execNotify q s) := by
  unfold execNotify
  try dsimp only
  repeat' (first | with_reducible assumption | with_reducible apply issue_kept | with_reducible apply fenceWait_kept | with_reducible apply postEvent_kept | with_reducible apply retire_kept | with_reducible apply goOn_kept | with_reducible apply next_kept | with_reducible refine postEvent_kept_eq (by with_reducible assumption) ?_ | split | dsimp only | intro _)

theorem execLoop_kept {z : Fixed} {q : Fin 52} {s : State} (h_s : Kept z s) : KeptNext z (execLoop q s) := by
  unfold execLoop
  try dsimp only
  repeat' (first | with_reducible assumption | with_reducible apply issue_kept | with_reducible apply engineFault_kept | with_reducible apply retireTo_kept | with_reducible apply passBy_kept | with_reducible apply updQueue_kept | with_reducible apply next_kept | split | dsimp only | with_reducible apply kept_mk | intro _)

theorem branchTo_kept {z : Fixed} {s : State} {q : Nat} {i : Ins} {a : Nat} (h_s : Kept z s) : Kept z (State.branchTo s q i a) := by
  unfold State.branchTo
  try dsimp only
  repeat' (first | with_reducible assumption | with_reducible apply retireTo_kept | with_reducible apply updQueue_kept | split | dsimp only | with_reducible apply kept_mk | intro _)

theorem execBr_kept {z : Fixed} {q : Fin 52} {s : State} (h_s : Kept z s) : KeptNext z (execBr q s) := by
  unfold execBr
  try dsimp only
  repeat' (first | with_reducible assumption | with_reducible apply issue_kept | with_reducible apply engineFault_kept | with_reducible apply branchTo_kept | with_reducible apply next_kept | split | dsimp only | intro _)

theorem execBrc_kept {z : Fixed} {q : Fin 52} {s : State} (h_s : Kept z s) : KeptNext z (execBrc q s) := by
  unfold execBrc
  try dsimp only
  repeat' (first | with_reducible assumption | with_reducible apply issue_kept | with_reducible apply engineFault_kept | with_reducible apply branchTo_kept | with_reducible apply setQState_kept | with_reducible apply updQueue_kept | exact runState_le | with_reducible apply next_kept | split | dsimp only | with_reducible apply kept_mk | omega | intro _)

theorem execLdc_kept {z : Fixed} {q : Fin 52} {s : State} (h_s : Kept z s) : KeptNext z (execLdc q s) := by
  unfold execLdc
  try dsimp only
  repeat' (first | with_reducible assumption | exact rfl | with_reducible apply issue_kept | with_reducible apply engineFault_kept | with_reducible apply senseAt_kept | with_reducible apply orderPoint_kept | with_reducible apply advance_kept | with_reducible apply countIssue_kept | with_reducible apply retire_kept | with_reducible apply wri_kept | with_reducible apply next_kept | split | dsimp only | intro _)

theorem start_kept {z : Fixed} {s : State} {q : Nat} {off : Nat} (h_s : Kept z s) : Kept z (State.start s q off) := by
  unfold State.start
  try dsimp only
  repeat' (first | with_reducible assumption | exact rfl | with_reducible apply setQState_kept | with_reducible apply wri_kept | with_reducible apply updQueue_kept | with_reducible apply discard_kept | exact runState_le | dsimp only | with_reducible apply kept_mk | omega | intro _)

theorem tryStart_kept {z : Fixed} {s : State} {q : Nat} {off : Nat} {valueOk : Bool} (h_s : Kept z s) : Kept z (State.tryStart s q off valueOk) := by
  unfold State.tryStart
  try dsimp only
  repeat' (first | with_reducible assumption | exact rfl | with_reducible apply start_kept | with_reducible apply wri_kept | split | dsimp only)

theorem execLaunch_kept {z : Fixed} {t : Fin 8} {s : State} (h_s : Kept z s) : KeptNext z (execLaunch t s) := by
  unfold execLaunch
  try dsimp only
  repeat' (first | with_reducible assumption | exact rfl | with_reducible apply issue_kept | with_reducible apply retire_kept | with_reducible apply start_kept | with_reducible apply engineFault_kept | with_reducible apply wri_kept | with_reducible apply next_kept | split | dsimp only | intro _)

theorem ringDoorbell_kept {z : Fixed} {s : State} {q : Nat} {value : Nat} (h_s : Kept z s) : Kept z (State.ringDoorbell s q value) := by
  unfold State.ringDoorbell
  try dsimp only
  repeat' (first | with_reducible assumption | with_reducible apply tryStart_kept | dsimp only)

theorem ringGroup_kept {z : Fixed} {s : State} {value : Nat} (h_s : Kept z s) : Kept z (State.ringGroup s value) := by
  unfold State.ringGroup
  try dsimp only
  repeat' (first | with_reducible assumption | with_reducible apply tryStart_kept | with_reducible apply foldl_kept | split | dsimp only | intro _)

theorem execQueueDoorbell_kept {z : Fixed} {q : Fin 52} {value : Nat} {s : State} (h_s : Kept z s) : KeptNext z (execQueueDoorbell q value s) := by
  unfold execQueueDoorbell
  try dsimp only
  repeat' (first | with_reducible assumption | with_reducible apply byHost_kept | with_reducible apply leaveIdle_kept | with_reducible apply holdAccess_kept | with_reducible apply ringDoorbell_kept | with_reducible apply next_kept | with_reducible apply refusal_kept | split | dsimp only | intro _)

theorem execGroupDoorbell_kept {z : Fixed} {value : Nat} {s : State} (h_s : Kept z s) : KeptNext z (execGroupDoorbell value s) := by
  unfold execGroupDoorbell
  try dsimp only
  repeat' (first | with_reducible assumption | with_reducible apply byHost_kept | with_reducible apply leaveIdle_kept | with_reducible apply holdAccess_kept | with_reducible apply ringGroup_kept | with_reducible apply next_kept | with_reducible apply refusal_kept | split | dsimp only | intro _)

theorem execQueueStop_kept {z : Fixed} {q : Fin 52} {s : State} (h_s : Kept z s) : KeptNext z (execQueueStop q s) := by
  unfold execQueueStop
  try dsimp only
  repeat' (first | with_reducible assumption | exact rfl | with_reducible apply byHost_kept | with_reducible apply wri_kept | with_reducible apply setQState_kept | with_reducible apply discard_kept | with_reducible apply leaveWait_kept | exact runState_le | with_reducible apply next_kept | split | dsimp only | omega | intro _)

theorem execQueueClear_kept {z : Fixed} {q : Fin 52} {s : State} (h_s : Kept z s) : KeptNext z (execQueueClear q s) := by
  unfold execQueueClear
  try dsimp only
  repeat' (first | with_reducible assumption | exact rfl | with_reducible apply byHost_kept | with_reducible apply wri_kept | with_reducible apply discard_kept | with_reducible apply next_kept | split | dsimp only | intro _)

theorem execQueueQuiesced_kept {z : Fixed} {q : Fin 52} {s : State} (h_s : Kept z s) : KeptNext z (execQueueQuiesced q s) := by
  unfold execQueueQuiesced
  try dsimp only
  repeat' (first | with_reducible assumption | exact rfl | with_reducible apply wri_kept | with_reducible apply setQState_kept | exact runState_le | with_reducible apply next_kept | split | dsimp only | omega)

theorem execFetch_kept {z : Fixed} {q : Fin 52} {s : State} (h_s : Kept z s) : KeptNext z (execFetch q s) := by
  unfold execFetch
  try dsimp only
  repeat' (first | with_reducible assumption | with_reducible apply senseAt_kept | with_reducible apply updQueue_kept | with_reducible apply setQState_kept | exact runState_le | with_reducible apply foldl_kept | with_reducible apply next_kept | split | dsimp only | with_reducible apply kept_mk | omega | intro _)

theorem progGo_kept {z : Fixed} {s : State} {q : Nat} {w : Work} (h_s : Kept z s) : Kept z (State.progGo s q w) := by
  unfold State.progGo
  try dsimp only
  repeat' (first | with_reducible assumption | with_reducible apply updQueue_kept | with_reducible apply actSignal_kept | with_reducible apply foldl_kept | split | dsimp only | with_reducible apply kept_mk | intro _)

theorem progAll_kept {z : Fixed} {s : State} {q : Nat} (h_s : Kept z s) : Kept z (State.progAll s q) := by
  unfold State.progAll
  try dsimp only
  repeat' (first | with_reducible assumption | with_reducible apply progGo_kept | with_reducible apply foldl_kept | dsimp only | intro _)

theorem execInstructionCompletion_kept {z : Fixed} {q : Fin 52} {id : Nat} {s : State} (h_s : Kept z s) : KeptNext z (execInstructionCompletion q id s) := by
  unfold execInstructionCompletion
  try dsimp only
  repeat' (first | with_reducible assumption | with_reducible apply complete_kept | with_reducible apply orderPoint_kept | with_reducible apply settleEnd_kept | with_reducible apply progAll_kept | with_reducible apply next_kept | split | dsimp only | intro _)

theorem execSignalRelease_kept {z : Fixed} {q : Fin 52} {id : Nat} {s : State} (h_s : Kept z s) : KeptNext z (execSignalRelease q id s) := by
  unfold execSignalRelease
  try dsimp only
  repeat' (first | with_reducible assumption | with_reducible apply flush_kept | with_reducible apply actSignal_kept | with_reducible apply updQueue_kept | with_reducible apply progGo_kept | with_reducible apply next_kept | split | dsimp only | with_reducible apply kept_mk | intro _)

theorem flushFail_kept {z : Fixed} {s : State} {q : Nat} {copy : Nat} (h_s : Kept z s) : Kept z (State.flushFail s q copy) := by
  unfold State.flushFail
  try dsimp only
  repeat' (first | with_reducible assumption | with_reducible apply updQueue_kept | with_reducible apply engineFault_kept | split | dsimp only | with_reducible apply kept_mk | intro _)

theorem execFlushCompletion_kept {z : Fixed} {q : Fin 52} {copy : Nat} {ok : Bool} {s : State} (h_s : Kept z s) : KeptNext z (execFlushCompletion q copy ok s) := by
  unfold execFlushCompletion
  try dsimp only
  repeat' (first | with_reducible assumption | with_reducible apply settleEnd_kept | with_reducible apply updQueue_kept | with_reducible apply flushFail_kept | with_reducible apply next_kept | split | dsimp only | with_reducible apply kept_mk | intro _)

theorem execFlushTimeout_kept {z : Fixed} {q : Fin 52} {copy : Nat} {s : State} (h_s : Kept z s) : KeptNext z (execFlushTimeout q copy s) := by
  unfold execFlushTimeout
  try dsimp only
  repeat' (first | with_reducible assumption | with_reducible apply flushFail_kept | with_reducible apply next_kept | dsimp only)

end Sys2Proof.Machine
end

