-- ==== Sys2Proof/Laws/KeptDigest.lean ====
section
/-! SUPPORT. What the operations of Machine/Digest.lean keep (Kept), one law for each. -/

set_option linter.unusedTactic false
set_option linter.unreachableTactic false

namespace Sys2Proof.Machine

theorem foldDigest_kept {z : Fixed} {s : State} {who : Folder} {set : Nat} {peer : Nat} {recv : Bool} {l : List Byte} (h_s : Kept z s) : Kept z (State.foldDigest s who set peer recv l) := by
  unfold State.foldDigest
  try dsimp only
  repeat' (first | with_reducible assumption | with_reducible apply senseAt_kept | with_reducible apply takeFree_kept2 | with_reducible apply writeAt_kept | with_reducible refine takeFree_kept (by with_reducible assumption) ?_ | split | dsimp only | with_reducible apply kept_mk)

theorem foldIn_kept {z : Fixed} {s : State} {who : Folder} {set : Option Nat} {peer : Nat} {recv : Bool} {l : List Byte} (h_s : Kept z s) : Kept z (State.foldIn s who set peer recv l) := by
  unfold State.foldIn
  try dsimp only
  repeat' (first | with_reducible assumption | with_reducible apply foldDigest_kept | split | dsimp only)

theorem collWrite_kept {z : Fixed} {s : State} {w : Work} {word : Nat} {off : Nat} {l : List Byte} (h_s : Kept z s) : Kept z (State.collWrite s w word off l) := by
  unfold State.collWrite
  try dsimp only
  repeat' (first | with_reducible assumption | with_reducible apply writeAt_kept | dsimp only)

theorem writeStatus_kept {z : Fixed} {s : State} {w : Work} {code : Nat} (h_s : Kept z s) : Kept z (State.writeStatus s w code) := by
  unfold State.writeStatus
  try dsimp only
  repeat' (first | with_reducible assumption | with_reducible apply collWrite_kept | dsimp only)

end Sys2Proof.Machine
end

