-- ==== Sys2Proof/Laws/KeptNet.lean ====
section
/-! SUPPORT. What the operations of Machine/Net.lean keep (Kept), one law for each. -/

set_option linter.unusedTactic false
set_option linter.unreachableTactic false

namespace Sys2Proof.Machine

theorem updLink_kept {z : Fixed} {s : State} {k : Nat} {g : Link → Link} (h_s : Kept z s) : Kept z (State.updLink s k g) := by
  unfold State.updLink
  try dsimp only
  repeat' (first | with_reducible assumption | dsimp only | with_reducible apply kept_mk)

theorem putOut_kept {z : Fixed} {s : State} {p : Nat} {x : PortOut} (h_s : Kept z s) : Kept z (State.putOut s p x) := by
  unfold State.putOut
  try dsimp only
  repeat' (first | with_reducible assumption | dsimp only | with_reducible apply kept_mk)

theorem sendControl_kept {z : Fixed} {s : State} {p : Nat} {k : Nat} {nak : Bool} (h_s : Kept z s) : Kept z (State.sendControl s p k nak) := by
  unfold State.sendControl
  try dsimp only
  repeat' (first | with_reducible assumption | with_reducible apply updLink_kept | with_reducible apply putOut_kept | dsimp only)

theorem touch_kept {z : Fixed} {s : State} {k : Nat} (h_s : Kept z s) : Kept z (State.touch s k) := by
  unfold State.touch
  try dsimp only
  repeat' (first | with_reducible assumption | dsimp only | with_reducible apply kept_mk)

theorem makeRoom_kept {z : Fixed} {s : State} {p : Nat} {k : Nat} {t : State} (e : State.makeRoom s p k = some t) (h_s : Kept z s) : Kept z t := by
  unfold State.makeRoom at e
  try dsimp only at e
  repeat' split at e
  all_goals first | (cases e; done) | (cases e; (repeat' (first | with_reducible assumption | with_reducible apply touch_kept | split | dsimp only | with_reducible apply kept_mk | intro _)); done)

theorem transmit_kept {z : Fixed} {s : State} {p : Nat} {k : Nat} {o : OutFrame} (h_s : Kept z s) : Kept z (State.transmit s p k o) := by
  unfold State.transmit
  try dsimp only
  repeat' (first | with_reducible assumption | with_reducible apply updLink_kept | with_reducible apply putOut_kept | split | dsimp only | with_reducible apply kept_mk | intro _)

theorem putOnLink_kept {z : Fixed} {s : State} {p : Nat} {k : Nat} {o : OutFrame} (h_s : Kept z s) : Kept z (State.putOnLink s p k o) := by
  unfold State.putOnLink
  try dsimp only
  repeat' (first | with_reducible assumption | with_reducible apply transmit_kept | with_reducible apply updLink_kept | with_reducible refine makeRoom_kept (by with_reducible assumption) ?_ | split | dsimp only | with_reducible apply kept_mk | intro _)

theorem drainLink_kept {z : Fixed} {p : Nat} {k : Nat} {x0 : List OutFrame} {x1 : State} (h_x1 : Kept z x1) : Kept z (drainLink p k x0 x1) := by
  induction x0 generalizing x1 with
  | nil =>
    unfold drainLink
    try dsimp only
    repeat' (first | with_reducible assumption | with_reducible apply putOnLink_kept | split | dsimp only | intro _)
  | cons a l ih =>
    unfold drainLink
    try dsimp only
    repeat' (first | with_reducible assumption | with_reducible apply putOnLink_kept | with_reducible apply ih | split | dsimp only | intro _)

theorem retryPeers_kept {z : Fixed} {s : State} {p : Nat} (h_s : Kept z s) : Kept z (State.retryPeers s p) := by
  unfold State.retryPeers
  try dsimp only
  repeat' (first | with_reducible assumption | with_reducible apply putOnLink_kept | with_reducible apply foldl_kept | split | dsimp only | with_reducible apply kept_mk | intro _)

theorem kick_kept {z : Fixed} {s : State} {p : Nat} {k : Nat} (h_s : Kept z s) : Kept z (State.kick s p k) := by
  unfold State.kick
  try dsimp only
  repeat' (first | with_reducible assumption | with_reducible apply retryPeers_kept | with_reducible apply drainLink_kept | with_reducible apply updLink_kept | dsimp only | with_reducible apply kept_mk | intro _)

theorem send_kept {z : Fixed} {s : State} {o : OutFrame} {t : State} (e : s.send o = some t) (h_s : Kept z s) :
    Kept z t := by
  unfold State.send at e
  split at e
  · cases e
  · cases e
    exact putOnLink_kept h_s

theorem updWork_kept {z : Fixed} {s : State} {q : Nat} {id : Nat} {g : Work → Work} (h_s : Kept z s) : Kept z (State.updWork s q id g) := by
  unfold State.updWork
  try dsimp only
  repeat' (first | with_reducible assumption | with_reducible apply updQueue_kept | split | dsimp only | with_reducible apply kept_mk | intro _)

theorem settleDigs_kept {z : Fixed} {s : State} {n : Nat} (h_s : Kept z s) : Kept z (State.settleDigs s n) := by
  unfold State.settleDigs
  try dsimp only
  repeat' (first | with_reducible assumption | with_reducible apply foldDigest_kept | with_reducible apply foldl_kept | split | dsimp only | with_reducible apply kept_mk | intro _)

theorem leaveDigest_kept {z : Fixed} {s : State} {q : Nat} {w : Work} (h_s : Kept z s) : Kept z (State.leaveDigest s q w) := by
  unfold State.leaveDigest
  try dsimp only
  repeat' (first | with_reducible assumption | with_reducible apply settleDigs_kept | split | dsimp only | with_reducible apply kept_mk)

theorem failWork_kept {z : Fixed} {s : State} {q : Nat} {id : Nat} {f : EFault} (h_s : Kept z s) : Kept z (State.failWork s q id f) := by
  unfold State.failWork
  try dsimp only
  repeat' (first | with_reducible assumption | with_reducible apply engineFault_kept | with_reducible apply writeStatus_kept | with_reducible apply updQueue_kept | with_reducible apply leaveDigest_kept | split | dsimp only | with_reducible apply kept_mk | intro _)

theorem sendTagged_kept {z : Fixed} {s : State} {w : TagWait} {tag : Nat} (h_s : Kept z s) : Kept z (State.sendTagged s w tag) := by
  unfold State.sendTagged
  try dsimp only
  repeat' (first | with_reducible assumption | with_reducible apply failWork_kept | with_reducible apply updWork_kept | with_reducible refine send_kept (by with_reducible assumption) ?_ | split | dsimp only | with_reducible apply kept_mk | intro _)

theorem request_kept {z : Fixed} {s : State} {w : TagWait} (h_s : Kept z s) : Kept z (State.request s w) := by
  unfold State.request
  try dsimp only
  repeat' (first | with_reducible assumption | with_reducible apply sendTagged_kept | split | dsimp only | with_reducible apply kept_mk | intro _)

theorem releaseTag_kept {z : Fixed} {s : State} {b : Nat} {tag : Nat} (h_s : Kept z s) : Kept z (State.releaseTag s b tag) := by
  unfold State.releaseTag
  try dsimp only
  repeat' (first | with_reducible assumption | with_reducible apply updWork_kept | with_reducible apply sendTagged_kept | split | dsimp only | with_reducible apply kept_mk | intro _)

end Sys2Proof.Machine
end

