-- ==== Sys2Proof/Laws/KeptTally.lean ====
section
/-! SUPPORT. What the operations of Machine/Tally.lean keep (Kept), one law for each. -/

set_option linter.unusedTactic false
set_option linter.unreachableTactic false

namespace Sys2Proof.Machine

theorem sendSignal_kept {z : Fixed} {s : State} {q : Nat} {i : Ins} (h_s : Kept z s) : Kept z (State.sendSignal s q i) := by
  unfold State.sendSignal
  try dsimp only
  repeat' (first | with_reducible assumption | with_reducible apply request_kept | with_reducible apply goOn_kept | dsimp only)

theorem execTlSignal_kept {z : Fixed} {q : Fin 52} {s : State} (h_s : Kept z s) : KeptNext z (execTlSignal q s) := by
  unfold execTlSignal
  try dsimp only
  repeat' (first | with_reducible assumption | with_reducible apply issue_kept | with_reducible apply fenceWait_kept | with_reducible apply retire_kept | with_reducible apply signal_kept | with_reducible apply sendSignal_kept | with_reducible apply next_kept | split | dsimp only | intro _)

theorem execTlWait_kept {z : Fixed} {q : Fin 52} {s : State} (h_s : Kept z s) : KeptNext z (execTlWait q s) := by
  unfold execTlWait
  try dsimp only
  repeat' (first | with_reducible assumption | with_reducible apply issue_kept | with_reducible apply retire_kept | with_reducible apply beginWait_kept | with_reducible apply updQueue_kept | with_reducible apply countIssue_kept | with_reducible apply next_kept | split | dsimp only | with_reducible apply kept_mk | intro _)

theorem execTlArm_kept {z : Fixed} {q : Fin 52} {s : State} (h_s : Kept z s) : KeptNext z (execTlArm q s) := by
  unfold execTlArm
  try dsimp only
  repeat' (first | with_reducible assumption | with_reducible apply issue_kept | with_reducible apply retire_kept | with_reducible apply arm_kept | with_reducible apply next_kept | dsimp only | intro _)

theorem execTlRead_kept {z : Fixed} {q : Fin 52} {s : State} (h_s : Kept z s) : KeptNext z (execTlRead q s) := by
  unfold execTlRead
  try dsimp only
  repeat' (first | with_reducible assumption | exact rfl | with_reducible apply issue_kept | with_reducible apply retire_kept | with_reducible apply wri_kept | with_reducible apply orderPoint_kept | with_reducible apply next_kept | dsimp only | intro _)

theorem hostOp_kept {z : Fixed} {s : State} {u : Nat} {n : Nat} {op : Nat} (h_s : Kept z s) : Kept z (State.hostOp s u n op) := by
  unfold State.hostOp
  try dsimp only
  repeat' (first | with_reducible assumption | exact rfl | with_reducible apply wr_kept | dsimp only)

theorem hostEffect_kept {z : Fixed} {s : State} {arm : Bool} {u : Nat} {n : Nat} (h_s : Kept z s) : Kept z (State.hostEffect s arm u n) := by
  unfold State.hostEffect
  try dsimp only
  repeat' (first | with_reducible assumption | exact rfl | with_reducible apply arm_kept | with_reducible apply signal_kept | with_reducible apply wr_kept | split | dsimp only)

theorem hostGo_kept {z : Fixed} {s : State} {arm : Bool} {u : Nat} {n : Nat} (h_s : Kept z s) : Kept z (State.hostGo s arm u n) := by
  unfold State.hostGo
  try dsimp only
  repeat' (first | with_reducible assumption | exact rfl | with_reducible apply hostOp_kept | with_reducible apply holdAccess_kept | with_reducible apply wr_kept | with_reducible apply hostEffect_kept | split | dsimp only)

theorem execHostSignal_kept {z : Fixed} {tally : Fin 65536} {count : Nat} {s : State} (h_s : Kept z s) : KeptNext z (execHostSignal tally count s) := by
  unfold execHostSignal
  try dsimp only
  repeat' (first | with_reducible assumption | with_reducible apply byHost_kept | with_reducible apply hostGo_kept | with_reducible apply leaveIdle_kept | with_reducible apply next_kept | with_reducible apply refusal_kept | split | dsimp only | intro _)

theorem execHostArm_kept {z : Fixed} {tally : Fin 65536} {count : Nat} {s : State} (h_s : Kept z s) : KeptNext z (execHostArm tally count s) := by
  unfold execHostArm
  try dsimp only
  repeat' (first | with_reducible assumption | with_reducible apply byHost_kept | with_reducible apply hostGo_kept | with_reducible apply leaveIdle_kept | with_reducible apply next_kept | with_reducible apply refusal_kept | split | dsimp only | intro _)

theorem clearTally_kept {z : Fixed} {s : State} {u : Nat} (h_s : Kept z s) : Kept z (State.clearTally s u) := by
  unfold State.clearTally
  try dsimp only
  repeat' (first | with_reducible assumption | exact rfl | with_reducible apply wri_kept | with_reducible apply setTally_kept | dsimp only)

theorem faultWaiters_kept {z : Fixed} {s : State} {u : Nat} (h_s : Kept z s) : Kept z (State.faultWaiters s u) := by
  unfold State.faultWaiters
  try dsimp only
  repeat' (first | with_reducible assumption | with_reducible apply engineFault_kept | with_reducible apply foldl_kept | dsimp only | intro _)

theorem uncheck_kept {z : Fixed} {s : State} {u : Nat} (h_s : Kept z s) : Kept z (State.uncheck s u) := by
  unfold State.uncheck
  try dsimp only
  repeat' (first | with_reducible assumption | dsimp only | with_reducible apply kept_mk | intro _)

theorem allocBit_kept {z : Fixed} {s : State} {w : Nat} {old : Nat} {new : Nat} {i : Nat} (h_s : Kept z s) : Kept z (State.allocBit s w old new i) := by
  unfold State.allocBit
  try dsimp only
  repeat' (first | with_reducible assumption | with_reducible apply clearTally_kept | with_reducible apply faultWaiters_kept | with_reducible apply uncheck_kept | split | dsimp only)

theorem execTlAllocWrite_kept {z : Fixed} {w : Fin 2048} {value : Nat} {s : State} (h_s : Kept z s) : KeptNext z (execTlAllocWrite w value s) := by
  unfold execTlAllocWrite
  try dsimp only
  repeat' (first | with_reducible assumption | exact rfl | with_reducible apply byHost_kept | with_reducible apply allocBit_kept | with_reducible apply wri_kept | with_reducible apply foldl_kept | with_reducible apply next_kept | with_reducible apply refusal_kept | split | dsimp only | intro _)

theorem fireWdog_kept {z : Fixed} {s : State} {q : Nat} (h_s : Kept z s) : Kept z (State.fireWdog s q) := by
  unfold State.fireWdog
  try dsimp only
  repeat' (first | with_reducible assumption | exact rfl | with_reducible apply engineFault_kept | with_reducible apply wr_kept | with_reducible apply leaveWait_kept | dsimp only)

theorem setWdog_kept {z : Fixed} {s : State} {q : Nat} {value : Nat} (h_s : Kept z s) : Kept z (State.setWdog s q value) := by
  unfold State.setWdog
  try dsimp only
  repeat' (first | with_reducible assumption | exact rfl | with_reducible apply wri_kept | with_reducible apply wr_kept | split | dsimp only)

theorem execTlWdogWrite_kept {z : Fixed} {q : Fin 52} {value : Nat} {s : State} (h_s : Kept z s) : KeptNext z (execTlWdogWrite q value s) := by
  unfold execTlWdogWrite
  try dsimp only
  repeat' (first | with_reducible assumption | with_reducible apply byHost_kept | with_reducible apply setWdog_kept | with_reducible apply fireWdog_kept | with_reducible apply next_kept | with_reducible apply refusal_kept | split | dsimp only | intro _)

theorem execWaitTimeout_kept {z : Fixed} {q : Fin 52} {s : State} (h_s : Kept z s) : KeptNext z (execWaitTimeout q s) := by
  unfold execWaitTimeout
  try dsimp only
  repeat' (first | with_reducible assumption | with_reducible apply fireWdog_kept | with_reducible apply next_kept | split | dsimp only)

end Sys2Proof.Machine
end

