-- ==== Sys2Proof/Laws/KeptTarget.lean ====
section
/-! SUPPORT. What the operations of Machine/Target.lean keep (Kept), one law for each. -/

set_option linter.unusedTactic false
set_option linter.unreachableTactic false

namespace Sys2Proof.Machine

theorem countRefusal_kept {z : Fixed} {s : State} (h_s : Kept z s) : Kept z (State.countRefusal s) := by
  unfold State.countRefusal
  try dsimp only
  repeat' (first | with_reducible assumption | exact rfl | exact fun _ => rfl | with_reducible apply wr_kept | with_reducible apply addSat_kept | dsimp only)

theorem takeWr_kept {z : Fixed} {s : State} {f : Frame} (h_s : Kept z s) : Kept z (State.takeWr s f).1 := by
  unfold State.takeWr
  try dsimp only
  repeat' (first | with_reducible assumption | exact fun _ => rfl | with_reducible apply countRefusal_kept | with_reducible apply foldIn_kept | with_reducible apply addWrap_kept | with_reducible apply writeAt_kept | split | dsimp only)

theorem takeWr_kept_eq {z : Fixed} {s : State} {f : Frame} {s' : State} {r : Except Nat Bool} (heq : State.takeWr s f = (s', r)) (h_s : Kept z s) : Kept z s' := by
  have := takeWr_kept (z := z) (s := s) (f := f) h_s
  rw [heq] at this
  exact this

theorem takeRd_kept {z : Fixed} {s : State} {f : Frame} (h_s : Kept z s) : Kept z (State.takeRd s f).1 := by
  unfold State.takeRd
  try dsimp only
  repeat' (first | with_reducible assumption | with_reducible apply leaveAt_kept | with_reducible apply senseAt_kept | with_reducible apply foldIn_kept | with_reducible apply countRefusal_kept | split | dsimp only)

theorem takeRd_kept_eq {z : Fixed} {s : State} {f : Frame} {s' : State} {r : Except Nat (List PByte)} (heq : State.takeRd s f = (s', r)) (h_s : Kept z s) : Kept z s' := by
  have := takeRd_kept (z := z) (s := s) (f := f) h_s
  rw [heq] at this
  exact this

theorem reply_kept {z : Fixed} {s : State} {f : Frame} {op : Nat} {arg : Nat} {payload : List Byte} (h_s : Kept z s) : Kept z (State.reply s f op arg payload) := by
  unfold State.reply
  try dsimp only
  repeat' (first | with_reducible assumption | with_reducible refine send_kept (by with_reducible assumption) ?_ | split | dsimp only)

theorem refuse_kept {z : Fixed} {s : State} {f : Frame} {reason : Nat} (h_s : Kept z s) : Kept z (State.refuse s f reason) := by
  unfold State.refuse
  try dsimp only
  repeat' (first | with_reducible assumption | with_reducible apply reply_kept | dsimp only)

theorem refuseTransit_kept {z : Fixed} {s : State} {op : Nat} {f : Frame} {reason : Nat} (h_s : Kept z s) : Kept z (State.refuseTransit s op f reason) := by
  unfold State.refuseTransit
  try dsimp only
  repeat' (first | with_reducible assumption | with_reducible apply refuse_kept | split | dsimp only | with_reducible apply kept_mk)

theorem answerWr_kept {z : Fixed} {s : State} {f : Frame} {r : Except Nat Bool} (h_s : Kept z s) : Kept z (State.answerWr s f r) := by
  unfold State.answerWr
  try dsimp only
  repeat' (first | with_reducible assumption | with_reducible apply reply_kept | with_reducible apply refuse_kept | split | dsimp only)

theorem answerRd_kept {z : Fixed} {s : State} {f : Frame} {r : Except Nat (List PByte)} (h_s : Kept z s) : Kept z (State.answerRd s f r) := by
  unfold State.answerRd
  try dsimp only
  repeat' (first | with_reducible assumption | with_reducible apply reply_kept | with_reducible apply refuse_kept | split | dsimp only)

theorem emptied_kept {z : Fixed} {s : State} {p : Nat} {op : Nat} {f : Frame} (h_s : Kept z s) : Kept z (State.emptied s p op f) := by
  unfold State.emptied
  try dsimp only
  repeat' (first | with_reducible assumption | with_reducible apply updLink_kept | split | dsimp only | with_reducible apply kept_mk | intro _)

theorem receiveWr_kept {z : Fixed} {s : State} {p : Nat} {f : Frame} (h_s : Kept z s) : Kept z (State.receiveWr s p f) := by
  unfold State.receiveWr
  try dsimp only
  repeat' (first | with_reducible assumption | exact fun _ => rfl | with_reducible apply addWrap_kept | with_reducible apply takeWr_kept | with_reducible apply answerWr_kept | with_reducible apply emptied_kept | with_reducible refine takeWr_kept_eq (by with_reducible assumption) ?_ | split | dsimp only | with_reducible apply kept_mk)

theorem releaseHeld_kept {z : Fixed} {x0 : List HeldFrame} {x1 : State} (h_x1 : Kept z x1) : Kept z (releaseHeld x0 x1) := by
  induction x0 generalizing x1 with
  | nil =>
    unfold releaseHeld
    try dsimp only
    repeat' (first | with_reducible assumption | with_reducible apply receiveWr_kept | split | dsimp only | intro _)
  | cons a l ih =>
    unfold releaseHeld
    try dsimp only
    repeat' (first | with_reducible assumption | with_reducible apply receiveWr_kept | with_reducible apply ih | split | dsimp only | intro _)

theorem releaseWrites_kept {z : Fixed} {s : State} (h_s : Kept z s) : Kept z (State.releaseWrites s) := by
  unfold State.releaseWrites
  try dsimp only
  repeat' (first | with_reducible assumption | with_reducible apply releaseHeld_kept | dsimp only | with_reducible apply kept_mk)

end Sys2Proof.Machine
end

