-- ==== Sys2Proof/Laws/KeptPorts.lean ====
section
/-! SUPPORT. What the operations of Machine/Ports.lean keep (Kept), one law for each. -/

set_option linter.unusedTactic false
set_option linter.unreachableTactic false

namespace Sys2Proof.Machine

theorem setPort_kept {z : Fixed} {s : State} {p st reason : Nat} (hv : st ≤ 5) (h_s : Kept z s) :
    Kept z (s.setPort p st reason) := by
  have hl : fieldLegal .WN_PORT_STAT_STATE (st % 2 ^ F.WN_PORT_STAT_STATE.info.width) = true := by
    have : st % 2 ^ F.WN_PORT_STAT_STATE.info.width ≤ st := Nat.mod_le _ _
    simp only [fieldLegal, decide_eq_true_eq]
    omega
  unfold State.setPort
  try dsimp only
  repeat' (first | with_reducible assumption | exact hl | exact rfl | exact fun _ => rfl | with_reducible apply wri_kept | with_reducible apply wr_kept | with_reducible apply raise_kept | with_reducible apply msix_kept | split | intro _)

theorem failTxn_kept {z : Fixed} {s : State} {b : Nat} {tag : Nat} {e : EFault} (h_s : Kept z s) : Kept z (State.failTxn s b tag e) := by
  unfold State.failTxn
  try dsimp only
  repeat' (first | with_reducible assumption | with_reducible apply failWork_kept | with_reducible apply releaseTag_kept | with_reducible apply foldl_kept | split | dsimp only | intro _)

theorem failHealth_kept {z : Fixed} {s : State} {q : Nat} {seq : Option Nat} (h_s : Kept z s) : Kept z (State.failHealth s q seq) := by
  unfold State.failHealth
  try dsimp only
  repeat' (first | with_reducible assumption | with_reducible apply failWork_kept | split | dsimp only | intro _)

theorem discardFrame_kept {z : Fixed} {s : State} {o : OutFrame} (h_s : Kept z s) : Kept z (State.discardFrame s o) := by
  unfold State.discardFrame
  try dsimp only
  repeat' (first | with_reducible assumption | with_reducible apply failTxn_kept | with_reducible apply failHealth_kept | with_reducible apply refuseTransit_kept | split | dsimp only)

theorem discardLink_kept {z : Fixed} {s : State} {k : Nat} (h_s : Kept z s) : Kept z (State.discardLink s k) := by
  unfold State.discardLink
  try dsimp only
  repeat' (first | with_reducible assumption | exact rfl | with_reducible apply updLink_kept | with_reducible apply discardFrame_kept | with_reducible apply wr_kept | with_reducible apply foldl_kept | split | dsimp only | intro _)

theorem killPort_kept {z : Fixed} {s : State} {p : Nat} (h_s : Kept z s) : Kept z (State.killPort s p) := by
  unfold State.killPort
  try dsimp only
  repeat' (first | with_reducible assumption | with_reducible apply setPort_kept | with_reducible apply discardLink_kept | with_reducible apply foldl_kept | dsimp only | omega | intro _)

theorem resend_kept {z : Fixed} {s : State} {p : Nat} {k : Nat} (h_s : Kept z s) : Kept z (State.resend s p k) := by
  unfold State.resend
  try dsimp only
  repeat' (first | with_reducible assumption | exact fun _ => rfl | with_reducible apply updLink_kept | with_reducible apply addSat_kept | with_reducible apply putOut_kept | with_reducible apply foldl_kept | dsimp only | with_reducible apply kept_mk | intro _)

theorem replayLimit_kept {z : Fixed} {s : State} {p : Nat} {k : Nat} (h_s : Kept z s) : Kept z (State.replayLimit s p k) := by
  unfold State.replayLimit
  try dsimp only
  repeat' (first | with_reducible assumption | with_reducible apply updLink_kept | with_reducible apply raise_kept | with_reducible apply setPort_kept | split | dsimp only | with_reducible apply kept_mk | omega | intro _)

theorem replay_kept {z : Fixed} {s : State} {p : Nat} {k : Nat} {nak : Bool} (h_s : Kept z s) : Kept z (State.replay s p k nak) := by
  unfold State.replay
  try dsimp only
  repeat' (first | with_reducible assumption | with_reducible apply replayLimit_kept | with_reducible apply updLink_kept | with_reducible apply resend_kept | split | dsimp only | with_reducible apply kept_mk | intro _)

theorem takeHeader_kept {z : Fixed} {s : State} {p : Nat} {k : Nat} {hh : LinkHeader} (h_s : Kept z s) : Kept z (State.takeHeader s p k hh) := by
  unfold State.takeHeader
  try dsimp only
  repeat' (first | with_reducible assumption | with_reducible apply updLink_kept | with_reducible apply replay_kept | with_reducible apply kick_kept | split | dsimp only | with_reducible apply kept_mk | intro _)

theorem dropFrame_kept {z : Fixed} {s : State} {p : Nat} (h_s : Kept z s) : Kept z (State.dropFrame s p) := by
  unfold State.dropFrame
  try dsimp only
  repeat' (first | with_reducible assumption | exact fun _ => rfl | with_reducible apply addSat_kept | dsimp only)

theorem execLinkControl_kept {z : Fixed} {p : Fin 16} {peer : Fin 65536} {lh : LinkHeader} {s : State} (h_s : Kept z s) : KeptNext z (execLinkControl p peer lh s) := by
  unfold execLinkControl
  try dsimp only
  repeat' (first | with_reducible assumption | with_reducible apply leaveIdle_kept | with_reducible apply dropFrame_kept | with_reducible apply takeHeader_kept | with_reducible apply next_kept | with_reducible apply refusal_kept | with_reducible refine makeRoom_kept (by with_reducible assumption) ?_ | split | dsimp only)

theorem execLinkControlTimer_kept {z : Fixed} {p : Fin 16} {peer : Fin 65536} {s : State} (h_s : Kept z s) : KeptNext z (execLinkControlTimer p peer s) := by
  unfold execLinkControlTimer
  try dsimp only
  repeat' (first | with_reducible assumption | with_reducible apply updLink_kept | with_reducible apply sendControl_kept | with_reducible apply next_kept | split | dsimp only | with_reducible apply kept_mk | intro _)

theorem execReplayTimeout_kept {z : Fixed} {p : Fin 16} {peer : Fin 65536} {s : State} (h_s : Kept z s) : KeptNext z (execReplayTimeout p peer s) := by
  unfold execReplayTimeout
  try dsimp only
  repeat' (first | with_reducible assumption | with_reducible apply replay_kept | with_reducible apply next_kept | split | dsimp only)

theorem execLinkHoldExpiry_kept {z : Fixed} {p : Fin 16} {peer : Fin 65536} {s : State} (h_s : Kept z s) : KeptNext z (execLinkHoldExpiry p peer s) := by
  unfold execLinkHoldExpiry
  try dsimp only
  repeat' (first | with_reducible assumption | with_reducible apply discardLink_kept | with_reducible apply next_kept | split | dsimp only)

theorem execTxnTimeout_kept {z : Fixed} {b : Fin 4} {tag : Fin 16384} {s : State} (h_s : Kept z s) : KeptNext z (execTxnTimeout b tag s) := by
  unfold execTxnTimeout
  try dsimp only
  repeat' (first | with_reducible assumption | with_reducible apply failTxn_kept | with_reducible apply next_kept | dsimp only)

theorem execPortEnable_kept {z : Fixed} {p : Fin 16} {s : State} (h_s : Kept z s) : KeptNext z (execPortEnable p s) := by
  unfold execPortEnable
  try dsimp only
  repeat' (first | with_reducible assumption | exact rfl | with_reducible apply byHost_kept | with_reducible apply wri_kept | with_reducible apply setPort_kept | with_reducible apply next_kept | split | dsimp only | omega | intro _)

theorem execPortQualify_kept {z : Fixed} {p : Fin 16} {cmis : Cmis} {s : State} (h_s : Kept z s) : KeptNext z (execPortQualify p cmis s) := by
  unfold execPortQualify
  try dsimp only
  repeat' (first | with_reducible assumption | exact rfl | with_reducible apply byFw_kept | with_reducible apply wri_kept | with_reducible apply setPort_kept | with_reducible apply next_kept | with_reducible apply refusal_kept | split | dsimp only | omega | intro _)

theorem comeUp_kept {z : Fixed} {s : State} {p : Nat} (h_s : Kept z s) : Kept z (State.comeUp s p) := by
  unfold State.comeUp
  try dsimp only
  repeat' (first | with_reducible assumption | exact rfl | with_reducible apply wri_kept | with_reducible apply setPort_kept | with_reducible apply kick_kept | with_reducible apply resend_kept | with_reducible apply foldl_kept | split | dsimp only | omega | intro _)

theorem execPortUp_kept {z : Fixed} {p : Fin 16} {s : State} (h_s : Kept z s) : KeptNext z (execPortUp p s) := by
  unfold execPortUp
  try dsimp only
  repeat' (first | with_reducible assumption | with_reducible apply byFw_kept | with_reducible apply comeUp_kept | with_reducible apply next_kept | split | dsimp only | intro _)

theorem execTrainFail_kept {z : Fixed} {p : Fin 16} {s : State} (h_s : Kept z s) : KeptNext z (execTrainFail p s) := by
  unfold execTrainFail
  try dsimp only
  repeat' (first | with_reducible assumption | with_reducible apply byFw_kept | with_reducible apply setPort_kept | with_reducible apply next_kept | split | dsimp only | omega | intro _)

theorem execPortDisable_kept {z : Fixed} {p : Fin 16} {s : State} (h_s : Kept z s) : KeptNext z (execPortDisable p s) := by
  unfold execPortDisable
  try dsimp only
  repeat' (first | with_reducible assumption | exact rfl | with_reducible apply byHost_kept | with_reducible apply wri_kept | with_reducible apply setPort_kept | with_reducible apply next_kept | split | dsimp only | omega | intro _)

theorem execPluggableRemoved_kept {z : Fixed} {p : Fin 16} {s : State} (h_s : Kept z s) : KeptNext z (execPluggableRemoved p s) := by
  unfold execPluggableRemoved
  try dsimp only
  repeat' (first | with_reducible assumption | exact rfl | with_reducible apply wri_kept | with_reducible apply setPort_kept | with_reducible apply next_kept | split | dsimp only | omega)

theorem execPortBudgetWrite_kept {z : Fixed} {p : Fin 16} {value : Nat} {s : State} (h_s : Kept z s) : KeptNext z (execPortBudgetWrite p value s) := by
  unfold execPortBudgetWrite
  try dsimp only
  repeat' (first | with_reducible assumption | exact rfl | with_reducible apply byHost_kept | with_reducible apply wr_kept | with_reducible apply wri_kept | with_reducible apply next_kept | with_reducible apply refusal_kept | split | dsimp only | intro _)

theorem setFraming_kept {z : Fixed} {s : State} {p : Nat} {framing : Nat} (h_s : Kept z s) : Kept z (State.setFraming s p framing) := by
  unfold State.setFraming
  try dsimp only
  repeat' (first | with_reducible assumption | exact rfl | with_reducible apply discardLink_kept | with_reducible apply wri_kept | with_reducible apply foldl_kept | split | dsimp only | with_reducible apply kept_mk | intro _)

theorem execFramingWrite_kept {z : Fixed} {p : Fin 16} {framing : Fin 2} {s : State} (h_s : Kept z s) : KeptNext z (execFramingWrite p framing s) := by
  unfold execFramingWrite
  try dsimp only
  repeat' (first | with_reducible assumption | exact rfl | with_reducible apply byHost_kept | with_reducible apply wri_kept | with_reducible apply orAfter_kept | with_reducible apply setFraming_kept | with_reducible apply next_kept | split | dsimp only | intro _)

theorem execPortRetrain_kept {z : Fixed} {p : Fin 16} {s : State} (h_s : Kept z s) : KeptNext z (execPortRetrain p s) := by
  unfold execPortRetrain
  try dsimp only
  repeat' (first | with_reducible assumption | with_reducible apply byFw_kept | with_reducible apply setPort_kept | with_reducible apply next_kept | split | dsimp only | omega | intro _)

theorem execWakeSend_kept {z : Fixed} {p : Fin 16} {s : State} (h_s : Kept z s) : KeptNext z (execWakeSend p s) := by
  unfold execWakeSend
  try dsimp only
  repeat' (first | with_reducible assumption | with_reducible apply byHost_kept | with_reducible apply putOut_kept | with_reducible apply next_kept | split | dsimp only | intro _)

end Sys2Proof.Machine
end

