-- ==== Sys2Proof/Laws/KeptClock.lean ====
section
/-! SUPPORT. What the operations of Machine/Clock.lean keep (Kept), one law for each. -/

set_option linter.unusedTactic false
set_option linter.unreachableTactic false

namespace Sys2Proof.Machine

theorem meas_legal {m : Fin 64} (h : clockCode m = true) :
    fieldLegal .CK_METER_CTL_MEAS (m.val % 2 ^ F.CK_METER_CTL_MEAS.info.width) = true := by
  change clockCode (m.val % 64) = true
  rw [Nat.mod_eq_of_lt m.isLt]; exact h

theorem gate_legal {m : Fin 64} (h : clockCode m = true) :
    fieldLegal .CK_METER_CTL_GATE (m.val % 2 ^ F.CK_METER_CTL_GATE.info.width) = true := by
  change clockCode (m.val % 64) = true
  rw [Nat.mod_eq_of_lt m.isLt]; exact h

theorem setOut_kept {z : Fixed} {s : State} {i : Nat} {o : Nat} {mhz : Nat} (h_s : Kept z s) : Kept z (State.setOut s i o mhz) := by
  unfold State.setOut
  try dsimp only
  repeat' (first | with_reducible assumption | dsimp only | with_reducible apply kept_mk)

theorem keepDivided_kept {z : Fixed} {s : State} {g : Nat → Bool} (h_s : Kept z s) : Kept z (State.keepDivided s g) := by
  unfold State.keepDivided
  try dsimp only
  repeat' (first | with_reducible assumption | dsimp only | with_reducible apply kept_mk)

theorem switchTo_kept {z : Fixed} {s : State} {i : Nat} {c : Nat} (h_s : Kept z s) : Kept z (State.switchTo s i c) := by
  unfold State.switchTo
  try dsimp only
  repeat' (first | with_reducible assumption | exact rfl | exact fun _ => rfl | with_reducible apply addSat_kept | with_reducible apply wri_kept | with_reducible apply keepDivided_kept | with_reducible apply addWrap_kept | split | dsimp only | intro _)

theorem sleepStack_kept {z : Fixed} {s : State} {k : Nat} (h_s : Kept z s) : Kept z (State.sleepStack s k) := by
  unfold State.sleepStack
  try dsimp only
  repeat' (first | with_reducible assumption | split | dsimp only | with_reducible apply kept_mk)

theorem wakeStack_kept {z : Fixed} {s : State} {k : Nat} (h_s : Kept z s) : Kept z (State.wakeStack s k) := by
  unfold State.wakeStack
  try dsimp only
  repeat' (first | with_reducible assumption | dsimp only | with_reducible apply kept_mk | intro _)

theorem portOut_kept {z : Fixed} {s : State} {p : Nat} (h_s : Kept z s) : Kept z (State.portOut s p) := by
  unfold State.portOut
  try dsimp only
  repeat' (first | with_reducible assumption | with_reducible apply setPort_kept | split | dsimp only | omega)

theorem unitsSafe_kept {z : Fixed} {s : State} {i : Nat} (h_s : Kept z s) : Kept z (State.unitsSafe s i) := by
  unfold State.unitsSafe
  try dsimp only
  repeat' (first | with_reducible assumption | with_reducible apply sleepStack_kept | with_reducible apply portOut_kept | with_reducible apply foldl_kept | split | dsimp only | with_reducible apply kept_mk | intro _)

theorem unitsNormal_kept {z : Fixed} {s : State} {i : Nat} (h_s : Kept z s) : Kept z (State.unitsNormal s i) := by
  unfold State.unitsNormal
  try dsimp only
  repeat' (first | with_reducible assumption | with_reducible apply wakeStack_kept | split | dsimp only | with_reducible apply kept_mk)

theorem moveIsland_kept {z : Fixed} {s : State} {i : Nat} {c : Nat} (h_s : Kept z s) : Kept z (State.moveIsland s i c) := by
  unfold State.moveIsland
  try dsimp only
  repeat' (first | with_reducible assumption | exact rfl | with_reducible apply wri_kept | with_reducible apply switchTo_kept | with_reducible apply unitsSafe_kept | with_reducible apply unitsNormal_kept | split | dsimp only)

theorem execMeterGo_kept {z : Fixed} {m : Fin 3} {meas : Fin 64} {gate : Fin 64} {s : State} (h_s : Kept z s) : KeptNext z (execMeterGo m meas gate s) := by
  unfold execMeterGo
  try dsimp only
  repeat' (first | with_reducible assumption | exact rfl | with_reducible apply byHost_kept | with_reducible apply wr_kept | with_reducible apply wri_kept | with_reducible exact meas_legal (by with_reducible assumption) | with_reducible exact gate_legal (by with_reducible assumption) | with_reducible apply next_kept | split | dsimp only | intro _)

theorem execMeterDone_kept {z : Fixed} {m : Fin 3} {count : Nat} {s : State} (h_s : Kept z s) : KeptNext z (execMeterDone m count s) := by
  unfold execMeterDone
  try dsimp only
  repeat' (first | with_reducible assumption | exact rfl | with_reducible apply wri_kept | with_reducible apply next_kept | with_reducible apply refusal_kept | split | dsimp only)

theorem execNoGate_kept {z : Fixed} {m : Fin 3} {s : State} (h_s : Kept z s) : KeptNext z (execNoGate m s) := by
  unfold execNoGate
  try dsimp only
  repeat' (first | with_reducible assumption | exact rfl | with_reducible apply takeFree_kept2 | with_reducible apply wri_kept | with_reducible apply next_kept | with_reducible refine takeFree_kept (by with_reducible assumption) ?_ | split | dsimp only)

theorem execCkSnap_kept {z : Fixed} {s : State} (h_s : Kept z s) : KeptNext z (execCkSnap s) := by
  unfold execCkSnap
  try dsimp only
  repeat' (first | with_reducible assumption | exact rfl | with_reducible apply byHost_kept | with_reducible apply wr_kept | with_reducible apply wri_kept | with_reducible apply foldl_kept | with_reducible apply next_kept | dsimp only | intro _)

theorem fallBack_kept {z : Fixed} {s : State} (h_s : Kept z s) : Kept z (State.fallBack s) := by
  unfold State.fallBack
  try dsimp only
  repeat' (first | with_reducible assumption | exact rfl | with_reducible apply wri_kept | with_reducible apply moveIsland_kept | with_reducible apply foldl_kept | dsimp only | intro _)

theorem beginEpisode_kept {z : Fixed} {s : State} (h_s : Kept z s) : Kept z (State.beginEpisode s) := by
  unfold State.beginEpisode
  try dsimp only
  repeat' (first | with_reducible assumption | exact rfl | exact fun _ => rfl | with_reducible apply wr_kept | with_reducible apply addSat_kept | with_reducible apply fallBack_kept | with_reducible apply raise_kept | dsimp only | with_reducible apply kept_mk | intro _)

theorem restoreIsland_kept {z : Fixed} {s : State} {i : Nat} (h_s : Kept z s) : Kept z (State.restoreIsland s i) := by
  unfold State.restoreIsland
  try dsimp only
  repeat' (first | with_reducible assumption | exact rfl | with_reducible apply wri_kept | with_reducible apply moveIsland_kept | dsimp only)

theorem restoreClocks_kept {z : Fixed} {s : State} (h_s : Kept z s) : Kept z (State.restoreClocks s) := by
  unfold State.restoreClocks
  try dsimp only
  repeat' (first | with_reducible assumption | exact rfl | with_reducible apply restoreIsland_kept | with_reducible apply wr_kept | with_reducible apply foldl_kept | split | dsimp only | with_reducible apply kept_mk | intro _)

theorem execMonitorWindow_kept {z : Fixed} {count : Nat} {s : State} (h_s : Kept z s) : KeptNext z (execMonitorWindow count s) := by
  unfold execMonitorWindow
  try dsimp only
  repeat' (first | with_reducible assumption | exact rfl | with_reducible apply wr_kept | with_reducible apply wri_kept | with_reducible apply restoreIsland_kept | with_reducible apply fallBack_kept | with_reducible apply beginEpisode_kept | with_reducible apply next_kept | split | dsimp only | with_reducible apply kept_mk)

theorem tick_kept {z : Fixed} {s : State} (h_s : Kept z s) : Kept z (State.tick s) := by
  unfold State.tick
  try dsimp only
  repeat' (first | with_reducible assumption | exact fun _ => rfl | with_reducible apply addWrap_kept | with_reducible apply updQueue_kept | with_reducible apply foldl_kept | split | dsimp only | with_reducible apply kept_mk | intro _)

end Sys2Proof.Machine
end

