-- ==== Sys2Proof/Laws/KeptPstep.lean ====
section
/-! SUPPORT. What the operations of Machine/Pstep.lean keep (Kept), one law for each. -/

set_option linter.unusedTactic false
set_option linter.unreachableTactic false

namespace Sys2Proof.Machine

theorem raiseNum_kept {z : Fixed} {s : State} {t : Nat} {bank : Nat} {ovf : Bool} {nan : Bool} (h_s : Kept z s) : Kept z (State.raiseNum s t bank ovf nan) := by
  unfold State.raiseNum
  try dsimp only
  repeat' (first | with_reducible assumption | exact rfl | with_reducible apply wri_kept | split | dsimp only)

theorem raiseEsc_kept {z : Fixed} {s : State} {bank : Nat} (h_s : Kept z s) : Kept z (State.raiseEsc s bank) := by
  unfold State.raiseEsc
  try dsimp only
  repeat' (first | with_reducible assumption | exact rfl | with_reducible apply wr_kept | split | dsimp only)

theorem moveFlag_kept {z : Fixed} {s : State} {src dst : F} (hv : ∀ v, fieldLegal src v = true) (hw : ∀ v, fieldLegal dst v = true) (h_s : Kept z s) : Kept z (s.moveFlag src dst) := by
  unfold State.moveFlag
  try dsimp only
  repeat' (first | with_reducible assumption | exact rfl | exact hv _ | exact hw _ | with_reducible apply wri_kept | with_reducible apply wr_kept | with_reducible apply msix_kept | with_reducible apply foldl_kept | split | intro _)

theorem dropFlag_kept {z : Fixed} {s : State} {f : F} (hv : ∀ v, fieldLegal f v = true) (h_s : Kept z s) : Kept z (s.dropFlag f) := by
  unfold State.dropFlag
  try dsimp only
  repeat' (first | with_reducible assumption | exact rfl | exact hv _ | with_reducible apply wri_kept | with_reducible apply wr_kept | with_reducible apply msix_kept | with_reducible apply foldl_kept | split | intro _)

theorem closeBanks_kept {z : Fixed} {s : State} (h_s : Kept z s) : Kept z (State.closeBanks s) := by
  unfold State.closeBanks
  try dsimp only
  repeat' (first | with_reducible assumption | exact rfl | exact fun _ => rfl | with_reducible apply moveFlag_kept | with_reducible apply wr_kept | split | dsimp only)

theorem confirmBanks_kept {z : Fixed} {s : State} {closed : Bool} (h_s : Kept z s) : Kept z (State.confirmBanks s closed) := by
  unfold State.confirmBanks
  try dsimp only
  repeat' (first | with_reducible assumption | exact rfl | exact fun _ => rfl | with_reducible apply moveFlag_kept | with_reducible apply wr_kept | split | dsimp only)

theorem dropBanks_kept {z : Fixed} {s : State} (h_s : Kept z s) : Kept z (State.dropBanks s) := by
  unfold State.dropBanks
  try dsimp only
  repeat' (first | with_reducible assumption | exact rfl | exact fun _ => rfl | with_reducible apply wr_kept | with_reducible apply dropFlag_kept | dsimp only)

theorem openEpoch_kept {z : Fixed} {s : State} {e : Nat} {us : List Nat} (h_s : Kept z s) : Kept z (State.openEpoch s e us) := by
  unfold State.openEpoch
  try dsimp only
  repeat' (first | with_reducible assumption | exact rfl | with_reducible apply wr_kept | with_reducible apply closeBanks_kept | split | dsimp only | with_reducible apply kept_mk | intro _)

theorem execPstepOpen_kept {z : Fixed} {t : Fin 8} {s : State} (h_s : Kept z s) : KeptNext z (execPstepOpen t s) := by
  unfold execPstepOpen
  try dsimp only
  repeat' (first | with_reducible assumption | with_reducible apply issue_kept | with_reducible apply engineFault_kept | with_reducible apply withDesc_kept | with_reducible apply senseAt_kept | with_reducible apply retire_kept | with_reducible apply openEpoch_kept | with_reducible apply next_kept | split | dsimp only | intro _)

theorem endEpoch_kept {z : Fixed} {s : State} {e : Nat} {squashed : Bool} (h_s : Kept z s) : Kept z (State.endEpoch s e squashed) := by
  unfold State.endEpoch
  try dsimp only
  repeat' (first | with_reducible assumption | exact rfl | with_reducible apply wr_kept | dsimp only | with_reducible apply kept_mk)

theorem dropCheck_kept {z : Fixed} {s : State} {e : Nat} (h_s : Kept z s) : Kept z (State.dropCheck s e) := by
  unfold State.dropCheck
  try dsimp only
  repeat' (first | with_reducible assumption | dsimp only | with_reducible apply kept_mk)

theorem confirmEpoch_kept {z : Fixed} {s : State} (h_s : Kept z s) : Kept z (State.confirmEpoch s) := by
  unfold State.confirmEpoch
  try dsimp only
  repeat' (first | with_reducible assumption | exact rfl | exact fun _ => rfl | with_reducible apply endEpoch_kept | with_reducible apply dropCheck_kept | with_reducible apply confirmBanks_kept | with_reducible apply addSat_kept | with_reducible apply wr_kept | split | dsimp only)

theorem beginSkip_kept {z : Fixed} {s : State} {q : Nat} (h_s : Kept z s) : Kept z (State.beginSkip s q) := by
  unfold State.beginSkip
  try dsimp only
  repeat' (first | with_reducible assumption | with_reducible apply updQueue_kept | with_reducible apply leaveWait_kept | with_reducible apply setQState_kept | exact runState_le | split | dsimp only | with_reducible apply kept_mk | omega | intro _)

theorem squashEpochs_kept {z : Fixed} {s : State} (h_s : Kept z s) : Kept z (State.squashEpochs s) := by
  unfold State.squashEpochs
  try dsimp only
  repeat' (first | with_reducible assumption | exact rfl | exact fun _ => rfl | with_reducible apply endEpoch_kept | with_reducible apply dropCheck_kept | with_reducible apply addSat_kept | with_reducible apply wr_kept | with_reducible apply dropBanks_kept | with_reducible apply beginSkip_kept | with_reducible apply foldl_kept | dsimp only | with_reducible apply kept_mk | intro _)

theorem execSquashRestore_kept {z : Fixed} {s : State} (h_s : Kept z s) : KeptNext z (execSquashRestore s) := by
  unfold execSquashRestore
  try dsimp only
  repeat' (first | with_reducible assumption | with_reducible apply setTally_kept | with_reducible apply serve_kept | with_reducible apply dropCheck_kept | with_reducible apply settleEnd_kept | with_reducible apply complete_kept | with_reducible apply foldl_kept | with_reducible apply next_kept | split | dsimp only | with_reducible apply kept_mk | intro _)

theorem foldGranule_kept {z : Fixed} {s : State} {k : Nat} (h_s : Kept z s) : Kept z (State.foldGranule s k) := by
  unfold State.foldGranule
  try dsimp only
  repeat' (first | with_reducible assumption | with_reducible apply setGranule_kept | with_reducible apply poisonRun_kept | split | dsimp only)

theorem execEpochFold_kept {z : Fixed} {s : State} (h_s : Kept z s) : KeptNext z (execEpochFold s) := by
  unfold execEpochFold
  try dsimp only
  repeat' (first | with_reducible assumption | exact rfl | with_reducible apply foldGranule_kept | with_reducible apply wr_kept | with_reducible apply foldl_kept | with_reducible apply next_kept | split | dsimp only | with_reducible apply kept_mk | intro _)

theorem freshGranules_kept {z : Fixed} {s : State} {v : Nat} (h_s : Kept z s) : Kept z (State.freshGranules s v) := by
  unfold State.freshGranules
  try dsimp only
  repeat' (first | with_reducible assumption | dsimp only | with_reducible apply kept_mk | intro _)

theorem putVreg_kept {z : Fixed} {s : State} {v : Nat} {w : VregWord} {value : Nat} (h_s : Kept z s) : Kept z (State.putVreg s v w value) := by
  unfold State.putVreg
  try dsimp only
  repeat' (first | with_reducible assumption | exact rfl | with_reducible apply wri_kept | with_reducible apply freshGranules_kept | split | dsimp only)

theorem writeVreg_kept {z : Fixed} {s : State} {v : Nat} {w : VregWord} {value : Nat} (h_s : Kept z s) : Kept z (State.writeVreg s v w value) := by
  unfold State.writeVreg
  try dsimp only
  repeat' (first | with_reducible assumption | exact rfl | with_reducible apply putVreg_kept | with_reducible apply wr_kept | split | dsimp only)

theorem execPsVregWrite_kept {z : Fixed} {v : Fin 64} {w : VregWord} {value : Nat} {s : State} (h_s : Kept z s) : KeptNext z (execPsVregWrite v w value s) := by
  unfold execPsVregWrite
  try dsimp only
  repeat' (first | with_reducible assumption | with_reducible apply byHost_kept | with_reducible apply writeVreg_kept | with_reducible apply next_kept | with_reducible apply refusal_kept | split | dsimp only | intro _)

theorem execPsCfgEn_kept {z : Fixed} {en : Bool} {s : State} (h_s : Kept z s) : KeptNext z (execPsCfgEn en s) := by
  unfold execPsCfgEn
  try dsimp only
  repeat' (first | with_reducible assumption | exact rfl | with_reducible apply byHost_kept | with_reducible apply orAfter_kept | with_reducible apply wr_kept | with_reducible apply next_kept | split | dsimp only | intro _)

end Sys2Proof.Machine
end

