-- ==== Sys2Proof/Laws/KeptNumerics.lean ====
section
/-! SUPPORT. What the operations of Machine/Numerics.lean keep (Kept), one law for each. -/

set_option linter.unusedTactic false
set_option linter.unreachableTactic false

namespace Sys2Proof.Machine

theorem noteConv_kept {z : Fixed} {s : State} {t : Nat} {bank : Nat} {r : Conv} (h_s : Kept z s) : Kept z (State.noteConv s t bank r) := by
  unfold State.noteConv
  try dsimp only
  repeat' (first | with_reducible assumption | exact fun _ => rfl | with_reducible apply raiseNum_kept | with_reducible apply addSat_kept | with_reducible apply raiseEsc_kept | split | dsimp only)

end Sys2Proof.Machine
end

