-- ==== Sys2Proof/Laws/KeptTurner.lean ====
section
/-! SUPPORT. What the operations of Machine/Turner.lean keep (Kept), one law for each. -/

set_option linter.unusedTactic false
set_option linter.unreachableTactic false

namespace Sys2Proof.Machine

theorem owner_legal {v : Nat} (h : v ≤ 2) : fieldLegal .TN_STAT_OWNER (v % 2 ^ F.TN_STAT_OWNER.info.width) = true := by
  have : v % 2 ^ F.TN_STAT_OWNER.info.width ≤ v := Nat.mod_le _ _
  simp only [fieldLegal, decide_eq_true_eq]
  omega

theorem ownerCode_le {c : Nat} : ownerCode c ≤ 2 := by
  unfold ownerCode; split <;> (try split) <;> omega

theorem refuseHold_kept {z : Fixed} {s : State} {t : Nat} {q : Nat} {c : E} {pc : Nat} (h_s : Kept z s) : Kept z (State.refuseHold s t q c pc) := by
  unfold State.refuseHold
  try dsimp only
  repeat' (first | with_reducible assumption | exact fun _ => rfl | with_reducible apply engineFault_kept | with_reducible apply addSat_kept | dsimp only)

theorem hold_kept {z : Fixed} {s : State} {t : Nat} {q : Nat} {i : Ins} (h_s : Kept z s) : Kept z (State.hold s t q i) := by
  unfold State.hold
  try dsimp only
  repeat' (first | with_reducible assumption | exact rfl | with_reducible apply retire_kept | with_reducible apply refuseHold_kept | with_reducible apply wri_kept | with_reducible exact owner_legal ownerCode_le | split | dsimp only)

theorem free_kept {z : Fixed} {s : State} {t : Nat} {q : Nat} {i : Ins} (h_s : Kept z s) : Kept z (State.free s t q i) := by
  unfold State.free
  try dsimp only
  repeat' (first | with_reducible assumption | exact rfl | with_reducible apply retire_kept | with_reducible apply wri_kept | split | dsimp only)

theorem countCode_kept {z : Fixed} {t : Nat} {s : State} {c : Code} (h_s : Kept z s) : Kept z (countCode t s c) := by
  unfold countCode
  try dsimp only
  repeat' (first | with_reducible assumption | exact fun _ => rfl | with_reducible apply raise_kept | with_reducible apply addSat_kept | split | dsimp only)

theorem passBanks_kept {z : Fixed} {s : State} {t : Nat} {n : Nat} (h_s : Kept z s) : Kept z (State.passBanks s t n).2 := by
  unfold State.passBanks
  try dsimp only
  repeat' (first | with_reducible assumption | with_reducible apply updTurner_kept | with_reducible apply countCode_kept | with_reducible apply foldl_kept | with_reducible apply foldl_kept1 | with_reducible apply foldl_kept2 | dsimp only | with_reducible apply kept_mk | intro _)

theorem passBanks_kept_eq {z : Fixed} {s : State} {t : Nat} {n : Nat} {s' : State} {r : List Sys2Proof.Code} (heq : State.passBanks s t n = (r, s')) (h_s : Kept z s) : Kept z s' := by
  have := passBanks_kept (z := z) (s := s) (t := t) (n := n) h_s
  rw [heq] at this
  exact this

theorem execTurnHoldFeed_kept {z : Fixed} {t : Fin 8} {s : State} (h_s : Kept z s) : KeptNext z (execTurnHoldFeed t s) := by
  unfold execTurnHoldFeed
  try dsimp only
  repeat' (first | with_reducible assumption | with_reducible apply issue_kept | with_reducible apply hold_kept | with_reducible apply next_kept | dsimp only | intro _)

theorem execTurnFreeFeed_kept {z : Fixed} {t : Fin 8} {s : State} (h_s : Kept z s) : KeptNext z (execTurnFreeFeed t s) := by
  unfold execTurnFreeFeed
  try dsimp only
  repeat' (first | with_reducible assumption | with_reducible apply issue_kept | with_reducible apply free_kept | with_reducible apply next_kept | dsimp only | intro _)

theorem execTurnHoldWeight_kept {z : Fixed} {t : Fin 8} {s : State} (h_s : Kept z s) : KeptNext z (execTurnHoldWeight t s) := by
  unfold execTurnHoldWeight
  try dsimp only
  repeat' (first | with_reducible assumption | with_reducible apply issue_kept | with_reducible apply hold_kept | with_reducible apply next_kept | dsimp only | intro _)

theorem execTurnFreeWeight_kept {z : Fixed} {t : Fin 8} {s : State} (h_s : Kept z s) : KeptNext z (execTurnFreeWeight t s) := by
  unfold execTurnFreeWeight
  try dsimp only
  repeat' (first | with_reducible assumption | with_reducible apply issue_kept | with_reducible apply free_kept | with_reducible apply next_kept | dsimp only | intro _)

theorem byThrHost_kept {z : Fixed} {s : State} {t : Nat} {k : State → State} (h_s : Kept z s) (h_k : ∀  s, Kept z s → Kept z (k  s)) : Kept z (State.byThrHost s t k) := by
  unfold State.byThrHost
  try dsimp only
  repeat' (first | with_reducible assumption | with_reducible apply byHost_kept | with_reducible apply h_k | split | dsimp only | intro _)

theorem execTnDisable_kept {z : Fixed} {t : Fin 8} {disable : Bool} {s : State} (h_s : Kept z s) : KeptNext z (execTnDisable t disable s) := by
  unfold execTnDisable
  try dsimp only
  repeat' (first | with_reducible assumption | exact rfl | with_reducible apply byThrHost_kept | with_reducible apply wri_kept | with_reducible apply next_kept | split | dsimp only | intro _)

theorem execTnTest_kept {z : Fixed} {t : Fin 8} {s : State} (h_s : Kept z s) : KeptNext z (execTnTest t s) := by
  unfold execTnTest
  try dsimp only
  repeat' (first | with_reducible assumption | exact rfl | with_reducible apply byThrHost_kept | with_reducible apply wri_kept | with_reducible apply next_kept | split | dsimp only | intro _)

theorem execTurnerTestDone_kept {z : Fixed} {t : Fin 8} {pass : Bool} {s : State} (h_s : Kept z s) : KeptNext z (execTurnerTestDone t pass s) := by
  unfold execTurnerTestDone
  try dsimp only
  repeat' (first | with_reducible assumption | exact rfl | with_reducible apply wri_kept | with_reducible apply updTurner_kept | with_reducible apply next_kept | split | dsimp only | with_reducible apply kept_mk | intro _)

end Sys2Proof.Machine
end

