-- ==== Sys2Proof/Laws/KeptPasses.lean ====
section
/-! SUPPORT. What the operations of Machine/Passes.lean keep (Kept), one law for each. -/

set_option linter.unusedTactic false
set_option linter.unreachableTactic false

namespace Sys2Proof.Machine

theorem senseOperand_kept {z : Fixed} {s : State} {view : View} {t : Nat} {o : Operand} (h_s : Kept z s) : Kept z (State.senseOperand s view t o) := by
  unfold State.senseOperand
  try dsimp only
  repeat' (first | with_reducible assumption | with_reducible apply senseAt_kept | with_reducible apply foldl_kept | split | dsimp only | intro _)

theorem takeOperand_kept {z : Fixed} {s : State} {view : View} {t : Nat} {o : Operand} {routed : Bool} (h_s : Kept z s) : Kept z (State.takeOperand s view t o routed).2 := by
  unfold State.takeOperand
  try dsimp only
  repeat' (first | with_reducible assumption | exact fun _ => rfl | with_reducible apply senseOperand_kept | with_reducible apply passBanks_kept | with_reducible apply addWrap_kept | with_reducible refine passBanks_kept_eq (by with_reducible assumption) ?_ | split | dsimp only)

theorem takeOperand_kept_eq {z : Fixed} {s : State} {view : View} {t : Nat} {o : Operand} {routed : Bool} {s' : State} {r : List (List Cell)} (heq : State.takeOperand s view t o routed = (r, s')) (h_s : Kept z s) : Kept z s' := by
  have := takeOperand_kept (z := z) (s := s) (view := view) (t := t) (o := o) (routed := routed) h_s
  rw [heq] at this
  exact this

theorem writeRuns_kept {z : Fixed} {s : State} {view : View} {l : List Run} (h_s : Kept z s) : Kept z (State.writeRuns s view l) := by
  unfold State.writeRuns
  try dsimp only
  repeat' (first | with_reducible assumption | with_reducible apply writeResult_kept | with_reducible apply foldl_kept | dsimp only | intro _)

theorem writeUnits_kept {z : Fixed} {s : State} {view : View} {t : Nat} {bank : Nat} {l : List OutUnit} (h_s : Kept z s) : Kept z (State.writeUnits s view t bank l) := by
  unfold State.writeUnits
  try dsimp only
  repeat' (first | with_reducible assumption | with_reducible apply noteConv_kept | with_reducible apply writeRuns_kept | with_reducible apply foldl_kept | dsimp only | intro _)

theorem poisonDrain_kept {z : Fixed} {s : State} {t : Nat} {bound : Option Nat} {d : PassDesc} (h_s : Kept z s) : Kept z (State.poisonDrain s t bound d) := by
  unfold State.poisonDrain
  try dsimp only
  repeat' (first | with_reducible assumption | with_reducible apply writeUnits_kept | dsimp only | intro _)

end Sys2Proof.Machine
end

