-- ==== Sys2Proof/Laws/KeptThresher.lean ====
section
/-! SUPPORT. What the operations of Machine/Thresher.lean keep (Kept), one law for each. -/

set_option linter.unusedTactic false
set_option linter.unreachableTactic false

namespace Sys2Proof.Machine

theorem applyOrg_kept {z : Fixed} {s : State} {t : Nat} {mode : Nat} {es : List (Nat × Rect)} (h_s : Kept z s) : Kept z (State.applyOrg s t mode es) := by
  unfold State.applyOrg
  try dsimp only
  repeat' (first | with_reducible assumption | exact rfl | with_reducible apply wri_kept | with_reducible apply foldl_kept | with_reducible apply foldl_kept1 | with_reducible apply foldl_kept2 | split | dsimp only | with_reducible apply kept_mk | intro _)

theorem execThOrgCommit_kept {z : Fixed} {t : Fin 8} {mode : Fin 2} {s : State} (h_s : Kept z s) : KeptNext z (execThOrgCommit t mode s) := by
  unfold execThOrgCommit
  try dsimp only
  repeat' (first | with_reducible assumption | exact rfl | with_reducible apply byThrHost_kept | with_reducible apply wri_kept | with_reducible apply orAfter_kept | with_reducible apply applyOrg_kept | with_reducible apply next_kept | split | dsimp only | intro _)

theorem markReady_kept {z : Fixed} {s : State} {q : Nat} {id : Nat} (h_s : Kept z s) : Kept z (State.markReady s q id) := by
  unfold State.markReady
  try dsimp only
  repeat' (first | with_reducible assumption | with_reducible apply updWork_kept | dsimp only | with_reducible apply kept_mk | intro _)

theorem dropWork_kept {z : Fixed} {s : State} {q : Nat} {id : Nat} (h_s : Kept z s) : Kept z (State.dropWork s q id) := by
  unfold State.dropWork
  try dsimp only
  repeat' (first | with_reducible assumption | with_reducible apply settleEnd_kept | with_reducible apply updQueue_kept | dsimp only | with_reducible apply kept_mk | intro _)

theorem endPart_kept {z : Fixed} {s : State} {t : Nat} {r : Role} {id : Nat} (h_s : Kept z s) : Kept z (State.endPart s t r id) := by
  unfold State.endPart
  try dsimp only
  repeat' (first | with_reducible assumption | with_reducible apply poisonDrain_kept | with_reducible apply markReady_kept | split | dsimp only)

theorem endPass_kept {z : Fixed} {s : State} {t : Nat} {x : Pass} (h_s : Kept z s) : Kept z (State.endPass s t x) := by
  unfold State.endPass
  try dsimp only
  repeat' (first | with_reducible assumption | with_reducible apply endPart_kept | with_reducible apply foldl_kept | split | dsimp only | intro _)

theorem discardPass_kept {z : Fixed} {s : State} {t : Nat} {x : Pass} (h_s : Kept z s) : Kept z (State.discardPass s t x) := by
  unfold State.discardPass
  try dsimp only
  repeat' (first | with_reducible assumption | with_reducible apply dropWork_kept | with_reducible apply foldl_kept | split | dsimp only | intro _)

theorem popPasses_kept {z : Fixed} {s : State} {t : Nat} {p : Nat} (h_s : Kept z s) : Kept z (State.popPasses s t p) := by
  unfold State.popPasses
  try dsimp only
  repeat' (first | with_reducible assumption | with_reducible apply updPart_kept | dsimp only | with_reducible apply kept_mk | intro _)

theorem setHead_kept {z : Fixed} {s : State} {t : Nat} {p : Nat} {x : Pass} (h_s : Kept z s) : Kept z (State.setHead s t p x) := by
  unfold State.setHead
  try dsimp only
  repeat' (first | with_reducible assumption | with_reducible apply updPart_kept | dsimp only | with_reducible apply kept_mk | intro _)

theorem loadHead_kept {z : Fixed} {s : State} {t : Nat} {p : Nat} {x : Pass} {w : Work} (h_s : Kept z s) : Kept z (State.loadHead s t p x w) := by
  unfold State.loadHead
  try dsimp only
  repeat' (first | with_reducible assumption | with_reducible apply takeOperand_kept | with_reducible apply failWork_kept | with_reducible apply setHead_kept | with_reducible apply endPass_kept | with_reducible apply updPart_kept | with_reducible apply markReady_kept | with_reducible refine takeOperand_kept_eq (by with_reducible assumption) ?_ | split | dsimp only | with_reducible apply kept_mk | intro _)

theorem advancePart_kept {z : Fixed} {t : Nat} {p : Nat} {x0 : Nat} {x1 : State} (h_x1 : Kept z x1) : Kept z (advancePart t p x0 x1) := by
  induction x0 generalizing x1 with
  | zero =>
    unfold advancePart
    try dsimp only
    repeat' (first | with_reducible assumption | with_reducible apply loadHead_kept | with_reducible apply popPasses_kept | split | dsimp only | intro _)
  | succ k ih =>
    unfold advancePart
    try dsimp only
    repeat' (first | with_reducible assumption | with_reducible apply loadHead_kept | with_reducible apply popPasses_kept | with_reducible apply ih | split | dsimp only | intro _)

theorem advanceOne_kept {z : Fixed} {s : State} {t : Nat} {p : Nat} (h_s : Kept z s) : Kept z (State.advanceOne s t p) := by
  unfold State.advanceOne
  try dsimp only
  repeat' (first | with_reducible assumption | with_reducible apply advancePart_kept | dsimp only)

theorem advanceTurned_kept {z : Fixed} {t : Nat} {x0 : Nat} {x1 : State} (h_x1 : Kept z x1) : Kept z (advanceTurned t x0 x1) := by
  induction x0 generalizing x1 with
  | zero =>
    unfold advanceTurned
    try dsimp only
    repeat' (first | with_reducible assumption | with_reducible apply advanceOne_kept | split | dsimp only | intro _)
  | succ k ih =>
    unfold advanceTurned
    try dsimp only
    repeat' (first | with_reducible assumption | with_reducible apply advanceOne_kept | with_reducible apply ih | split | dsimp only | intro _)

theorem advancePasses_kept {z : Fixed} {s : State} {t : Nat} {p : Nat} (h_s : Kept z s) : Kept z (State.advancePasses s t p) := by
  unfold State.advancePasses
  try dsimp only
  repeat' (first | with_reducible assumption | with_reducible apply advanceTurned_kept | with_reducible apply advanceOne_kept | dsimp only)

theorem passMismatch_kept {z : Fixed} {s : State} {t : Nat} {p : Nat} {r : Role} {addr : Nat} (h_s : Kept z s) : Kept z (State.passMismatch s t p r addr) := by
  unfold State.passMismatch
  try dsimp only
  repeat' (first | with_reducible assumption | with_reducible apply discardPass_kept | with_reducible apply updPart_kept | with_reducible apply advancePasses_kept | split | dsimp only | with_reducible apply kept_mk | intro _)

theorem passError_kept {z : Fixed} {s : State} {t : Nat} {p : Nat} {r : Role} {addr : Nat} (h_s : Kept z s) : Kept z (State.passError s t p r addr) := by
  unfold State.passError
  try dsimp only
  repeat' (first | with_reducible assumption | with_reducible apply endPass_kept | with_reducible apply updPart_kept | with_reducible apply advancePasses_kept | split | dsimp only | with_reducible apply kept_mk | intro _)

theorem passFault_kept {z : Fixed} {s : State} {t : Nat} {p : Nat} {r : Role} {addr : Nat} {c : E} (h_s : Kept z s) : Kept z (State.passFault s t p r addr c) := by
  unfold State.passFault
  try dsimp only
  repeat' (first | with_reducible assumption | with_reducible apply passMismatch_kept | with_reducible apply passError_kept | split | dsimp only)

theorem joinPass_kept {z : Fixed} {s : State} {t : Nat} {p : Nat} {r : Role} {addr : Nat} {id : Nat} (h_s : Kept z s) : Kept z (State.joinPass s t p r addr id) := by
  unfold State.joinPass
  try dsimp only
  repeat' (first | with_reducible assumption | with_reducible apply updPart_kept | with_reducible apply dropWork_kept | with_reducible apply endPart_kept | with_reducible apply advancePasses_kept | split | dsimp only | intro _)

theorem hold205_kept {z : Fixed} {s : State} {q : Nat} (h_s : Kept z s) : Kept z (State.hold205 s q) := by
  unfold State.hold205
  try dsimp only
  repeat' (first | with_reducible assumption | exact fun _ => rfl | with_reducible apply updQueue_kept | with_reducible apply addWrap_kept | split | dsimp only | with_reducible apply kept_mk | intro _)

theorem dropPass_kept {z : Fixed} {s : State} {t : Nat} {p : Nat} {r : Role} {id : Nat} (h_s : Kept z s) : Kept z (State.dropPass s t p r id) := by
  unfold State.dropPass
  try dsimp only
  repeat' (first | with_reducible assumption | exact rfl | with_reducible apply endPart_kept | with_reducible apply wri_kept | dsimp only)

theorem passIssue_kept {z : Fixed} {t : Nat} {r : Role} {op : Nat} {s : State} (h_s : Kept z s) : Kept z (passIssue t r op s) := by
  unfold passIssue
  try dsimp only
  repeat' (first | with_reducible assumption | with_reducible apply issue_kept | with_reducible apply withDesc_kept | with_reducible apply engineFault_kept | with_reducible apply passFault_kept | with_reducible apply hold205_kept | with_reducible apply goOn_kept | with_reducible apply dropPass_kept | with_reducible apply joinPass_kept | split | dsimp only | with_reducible apply kept_mk | intro _)

theorem execFeFeed_kept {z : Fixed} {t : Fin 8} {s : State} (h_s : Kept z s) : KeptNext z (execFeFeed t s) := by
  unfold execFeFeed
  try dsimp only
  repeat' (first | with_reducible assumption | with_reducible apply passIssue_kept | with_reducible apply next_kept | dsimp only)

theorem execWeLoad_kept {z : Fixed} {t : Fin 8} {s : State} (h_s : Kept z s) : KeptNext z (execWeLoad t s) := by
  unfold execWeLoad
  try dsimp only
  repeat' (first | with_reducible assumption | with_reducible apply passIssue_kept | with_reducible apply next_kept | dsimp only)

theorem execDeDrain_kept {z : Fixed} {t : Fin 8} {s : State} (h_s : Kept z s) : KeptNext z (execDeDrain t s) := by
  unfold execDeDrain
  try dsimp only
  repeat' (first | with_reducible assumption | with_reducible apply passIssue_kept | with_reducible apply next_kept | dsimp only)

theorem swapTile_kept {z : Fixed} {s : State} {t : Nat} {p : Nat} (h_s : Kept z s) : Kept z (State.swapTile s t p) := by
  unfold State.swapTile
  try dsimp only
  repeat' (first | with_reducible assumption | with_reducible apply updPart_kept | dsimp only | with_reducible apply kept_mk | intro _)

theorem drainPass_kept {z : Fixed} {s : State} {t : Nat} {w : Work} {tile : Tile} {xs : List (List Cell)} {halt : Nat} {sums : List PByte} {exps : List PByte} {cut : Option Nat} (h_s : Kept z s) : Kept z (State.drainPass s t w tile xs halt sums exps cut) := by
  unfold State.drainPass
  try dsimp only
  repeat' (first | with_reducible assumption | with_reducible apply raiseNum_kept | with_reducible apply writeUnits_kept | split | dsimp only | intro _)

theorem stream_kept {z : Fixed} {s : State} {t : Nat} {tile : Tile} {x : Swap} (h_s : Kept z s) : Kept z (State.stream s t tile x) := by
  unfold State.stream
  try dsimp only
  repeat' (first | with_reducible assumption | with_reducible apply takeOperand_kept | with_reducible apply senseAt_kept | with_reducible apply drainPass_kept | with_reducible apply failWork_kept | with_reducible apply markReady_kept | with_reducible refine takeOperand_kept_eq (by with_reducible assumption) ?_ | split | dsimp only)

theorem doSwap_kept {z : Fixed} {s : State} {t : Nat} {p : Nat} {x : Swap} (h_s : Kept z s) : Kept z (State.doSwap s t p x) := by
  unfold State.doSwap
  try dsimp only
  repeat' (first | with_reducible assumption | with_reducible apply swapTile_kept | with_reducible apply advancePasses_kept | with_reducible apply stream_kept | dsimp only)

theorem dropUnbegun_kept {z : Fixed} {s : State} {t : Nat} {p : Nat} {x : Pass} (h_s : Kept z s) : Kept z (State.dropUnbegun s t p x) := by
  unfold State.dropUnbegun
  try dsimp only
  repeat' (first | with_reducible assumption | exact rfl | with_reducible apply endPass_kept | with_reducible apply wri_kept | split | dsimp only | intro _)

theorem faultPart_kept {z : Fixed} {s : State} {t : Nat} {p : Nat} {c : E} (h_s : Kept z s) : Kept z (State.faultPart s t p c) := by
  unfold State.faultPart
  try dsimp only
  repeat' (first | with_reducible assumption | exact rfl | exact fun _ => rfl | with_reducible apply raise_kept | with_reducible apply addWrap_kept | with_reducible apply wri_kept | with_reducible apply swapTile_kept | with_reducible apply endPass_kept | with_reducible apply dropUnbegun_kept | with_reducible apply advancePasses_kept | with_reducible apply updPart_kept | with_reducible apply foldl_kept | split | dsimp only | with_reducible apply kept_mk | intro _)

theorem execSwap_kept {z : Fixed} {t : Fin 8} {part : Fin 576} {s : State} (h_s : Kept z s) : KeptNext z (execSwap t part s) := by
  unfold execSwap
  try dsimp only
  repeat' (first | with_reducible assumption | with_reducible apply hold205_kept | with_reducible apply faultPart_kept | with_reducible apply doSwap_kept | with_reducible apply next_kept | split | dsimp only)

theorem execPartitionFault_kept {z : Fixed} {t : Fin 8} {part : Fin 576} {cause : PartCause} {s : State} (h_s : Kept z s) : KeptNext z (execPartitionFault t part cause s) := by
  unfold execPartitionFault
  try dsimp only
  repeat' (first | with_reducible assumption | with_reducible apply faultPart_kept | with_reducible apply next_kept | split | dsimp only)

theorem execPartStall_kept {z : Fixed} {t : Fin 8} {part : Fin 576} {s : State} (h_s : Kept z s) : KeptNext z (execPartStall t part s) := by
  unfold execPartStall
  try dsimp only
  repeat' (first | with_reducible assumption | with_reducible apply faultPart_kept | with_reducible apply next_kept | split | dsimp only)

theorem execThPartClear_kept {z : Fixed} {t : Fin 8} {part : Fin 576} {s : State} (h_s : Kept z s) : KeptNext z (execThPartClear t part s) := by
  unfold execThPartClear
  try dsimp only
  repeat' (first | with_reducible assumption | exact rfl | with_reducible apply byThrHost_kept | with_reducible apply updPart_kept | with_reducible apply wri_kept | with_reducible apply next_kept | split | dsimp only | intro _)

end Sys2Proof.Machine
end

