-- ==== Sys2Proof/Laws/KeptVector.lean ====
section
/-! SUPPORT. What the operations of Machine/Vector.lean keep (Kept), one law for each. -/

set_option linter.unusedTactic false
set_option linter.unreachableTactic false

namespace Sys2Proof.Machine

theorem foldl_kept_sink {z : Fixed} {α : Type} {f : Sink → α → Sink} {l : List α} {x : Sink} (h : Kept z x.st)
    (hf : ∀ x a, Kept z x.st → Kept z (f x a).st) : Kept z (l.foldl f x).st := by
  induction l generalizing x with
  | nil => exact h
  | cons a l ih => exact ih (hf x a h)

theorem Sink_flush_kept {z : Fixed} {x : Sink} {view : View} (h : Kept z x.st) : Kept z (x.flush view).st := by
  unfold Sink.flush
  split
  · exact h
  · exact writeResult_kept h

theorem Sink_reading_kept {z : Fixed} {x : Sink} {view : View} {t a n : Nat} (h : Kept z x.st) :
    Kept z (x.reading view t a n).st := by
  unfold Sink.reading
  refine senseAt_kept ?_
  split
  · exact Sink_flush_kept h
  · exact h

theorem Sink_put_kept {z : Fixed} {x : Sink} {view : View} {t a : Nat} {l : List Byte} (h : Kept z x.st) :
    Kept z (x.put view t a l).st := by
  unfold Sink.put
  split
  · split
    · exact h
    · exact Sink_flush_kept h
  · exact h

theorem Sink_readSrc_kept {z : Fixed} {x : Sink} {view : View} {t i : Nat} {v : VecSrc} (h : Kept z x.st) :
    Kept z (x.readSrc view t i v).st := by
  unfold Sink.readSrc
  split
  · exact Sink_reading_kept h
  · exact h

theorem Sink_vecPut_kept {z : Fixed} {x : Sink} {view : View} {t bank addr : Nat} {args : List Fp} {r : Fp}
    (h : Kept z x.st) : Kept z (x.vecPut view t bank addr args r).st := by
  unfold Sink.vecPut
  exact raiseNum_kept (Sink_put_kept h)

theorem runSteps_kept {z : Fixed} {view : View} {step : Nat → Sink → Sink × Bool} {l : List Nat} {x : Sink}
    (h_step : ∀ a x, Kept z x.st → Kept z (step a x).1.st) (h_x : Kept z x.st) : Kept z (runSteps view step l x).1 := by
  induction l generalizing x with
  | nil => unfold runSteps; exact Sink_flush_kept h_x
  | cons a l ih =>
    have h := h_step a x h_x
    unfold runSteps
    split
    · rename_i e; rw [e] at h; exact Sink_flush_kept h
    · rename_i e; rw [e] at h; exact ih h

theorem vecMap_kept {z : Fixed} {n : Nat} {g : List Fp → Fp} {t : Nat} {d : VecDesc} {hop : Bool} {view : View} {bank : Nat} {s : State}
    (h_s : Kept z s) : Kept z (vecMap n g t d hop view bank s).1 := by
  unfold vecMap
  try dsimp only
  repeat' (first | with_reducible assumption | exact rfl | with_reducible apply runSteps_kept | with_reducible apply raiseNum_kept | with_reducible apply noteConv_kept | with_reducible apply Sink_flush_kept | with_reducible apply Sink_vecPut_kept | with_reducible apply Sink_readSrc_kept | with_reducible apply Sink_reading_kept | with_reducible apply Sink_put_kept | with_reducible apply foldl_kept_sink | split | dsimp only | intro _)

theorem vecReduce_kept {z : Fixed} {o : RedOp} {t : Nat} {d : VecDesc} {hop : Bool} {view : View} {bank : Nat} {s : State}
    (h_s : Kept z s) : Kept z (vecReduce o t d hop view bank s).1 := by
  unfold vecReduce
  try dsimp only
  repeat' (first | with_reducible assumption | exact rfl | with_reducible apply runSteps_kept | with_reducible apply raiseNum_kept | with_reducible apply noteConv_kept | with_reducible apply Sink_flush_kept | with_reducible apply Sink_vecPut_kept | with_reducible apply Sink_readSrc_kept | with_reducible apply Sink_reading_kept | with_reducible apply Sink_put_kept | with_reducible apply foldl_kept_sink | split | dsimp only | intro _)

theorem vecConvert_kept {z : Fixed}  {t : Nat} {d : VecDesc} {hop : Bool} {view : View} {bank : Nat} {s : State}
    (h_s : Kept z s) : Kept z (vecConvert t d hop view bank s).1 := by
  unfold vecConvert
  try dsimp only
  repeat' (first | with_reducible assumption | exact rfl | with_reducible apply runSteps_kept | with_reducible apply raiseNum_kept | with_reducible apply noteConv_kept | with_reducible apply Sink_flush_kept | with_reducible apply Sink_vecPut_kept | with_reducible apply Sink_readSrc_kept | with_reducible apply Sink_reading_kept | with_reducible apply Sink_put_kept | with_reducible apply foldl_kept_sink | split | dsimp only | intro _)

theorem vecIssue_kept {z : Fixed} {t : Nat} {op : Nat} {chk : Nat → Chk Unit} {uses : Nat → VecDesc → List Use} {run : VecRun} {s : State} (h_run : ∀ t d hop view bank s, Kept z s → Kept z (run t d hop view bank s).1) (h_s : Kept z s) : Kept z (vecIssue t op chk uses run s) := by
  unfold vecIssue
  try dsimp only
  repeat' (first | with_reducible assumption | with_reducible apply issue_kept | with_reducible apply withDesc_kept | with_reducible apply engineFault_kept | with_reducible apply hold205_kept | with_reducible apply goOn_kept | with_reducible apply failWork_kept | exact h_run | with_reducible refine kept_of_eq1 (by with_reducible assumption) (h_run _ _ _ _ _ _ ?_) | with_reducible apply h_run | split | dsimp only | with_reducible apply kept_mk | intro _)

theorem vecArith_kept {z : Fixed} {t : Nat} {op : Nat} {n : Nat} {g : List Fp → Fp} {s : State} (h_s : Kept z s) : KeptNext z (vecArith t op n g s) := by
  unfold vecArith
  try dsimp only
  repeat' (first | with_reducible assumption | with_reducible apply vecIssue_kept | with_reducible apply vecMap_kept | with_reducible apply vecReduce_kept | with_reducible apply vecConvert_kept | with_reducible apply next_kept | dsimp only)

theorem execVAdd_kept {z : Fixed} {t : Fin 8} {s : State} (h_s : Kept z s) : KeptNext z (execVAdd t s) := by
  unfold execVAdd
  try dsimp only
  repeat' (first | with_reducible assumption | with_reducible apply vecArith_kept | with_reducible apply next_kept | dsimp only | intro _)

theorem execVSub_kept {z : Fixed} {t : Fin 8} {s : State} (h_s : Kept z s) : KeptNext z (execVSub t s) := by
  unfold execVSub
  try dsimp only
  repeat' (first | with_reducible assumption | with_reducible apply vecArith_kept | with_reducible apply next_kept | dsimp only | intro _)

theorem execVMul_kept {z : Fixed} {t : Fin 8} {s : State} (h_s : Kept z s) : KeptNext z (execVMul t s) := by
  unfold execVMul
  try dsimp only
  repeat' (first | with_reducible assumption | with_reducible apply vecArith_kept | with_reducible apply next_kept | dsimp only | intro _)

theorem execVFma_kept {z : Fixed} {t : Fin 8} {s : State} (h_s : Kept z s) : KeptNext z (execVFma t s) := by
  unfold execVFma
  try dsimp only
  repeat' (first | with_reducible assumption | with_reducible apply vecArith_kept | with_reducible apply next_kept | dsimp only | intro _)

theorem execVMin_kept {z : Fixed} {t : Fin 8} {s : State} (h_s : Kept z s) : KeptNext z (execVMin t s) := by
  unfold execVMin
  try dsimp only
  repeat' (first | with_reducible assumption | with_reducible apply vecArith_kept | with_reducible apply next_kept | dsimp only | intro _)

theorem execVMax_kept {z : Fixed} {t : Fin 8} {s : State} (h_s : Kept z s) : KeptNext z (execVMax t s) := by
  unfold execVMax
  try dsimp only
  repeat' (first | with_reducible assumption | with_reducible apply vecArith_kept | with_reducible apply next_kept | dsimp only | intro _)

theorem execVDiv_kept {z : Fixed} {t : Fin 8} {s : State} (h_s : Kept z s) : KeptNext z (execVDiv t s) := by
  unfold execVDiv
  try dsimp only
  repeat' (first | with_reducible assumption | with_reducible apply vecArith_kept | with_reducible apply next_kept | dsimp only | intro _)

theorem execVRcp_kept {z : Fixed} {t : Fin 8} {s : State} (h_s : Kept z s) : KeptNext z (execVRcp t s) := by
  unfold execVRcp
  try dsimp only
  repeat' (first | with_reducible assumption | with_reducible apply vecArith_kept | with_reducible apply next_kept | dsimp only | intro _)

theorem execVSqrt_kept {z : Fixed} {t : Fin 8} {s : State} (h_s : Kept z s) : KeptNext z (execVSqrt t s) := by
  unfold execVSqrt
  try dsimp only
  repeat' (first | with_reducible assumption | with_reducible apply vecArith_kept | with_reducible apply next_kept | dsimp only | intro _)

theorem execVRsqrt_kept {z : Fixed} {t : Fin 8} {s : State} (h_s : Kept z s) : KeptNext z (execVRsqrt t s) := by
  unfold execVRsqrt
  try dsimp only
  repeat' (first | with_reducible assumption | with_reducible apply vecArith_kept | with_reducible apply next_kept | dsimp only | intro _)

theorem execVExp2_kept {z : Fixed} {t : Fin 8} {s : State} (h_s : Kept z s) : KeptNext z (execVExp2 t s) := by
  unfold execVExp2
  try dsimp only
  repeat' (first | with_reducible assumption | with_reducible apply vecArith_kept | with_reducible apply next_kept | dsimp only | intro _)

theorem execVLog2_kept {z : Fixed} {t : Fin 8} {s : State} (h_s : Kept z s) : KeptNext z (execVLog2 t s) := by
  unfold execVLog2
  try dsimp only
  repeat' (first | with_reducible assumption | with_reducible apply vecArith_kept | with_reducible apply next_kept | dsimp only | intro _)

theorem execVTanh_kept {z : Fixed} {t : Fin 8} {s : State} (h_s : Kept z s) : KeptNext z (execVTanh t s) := by
  unfold execVTanh
  try dsimp only
  repeat' (first | with_reducible assumption | with_reducible apply vecArith_kept | with_reducible apply next_kept | dsimp only | intro _)

theorem execVErf_kept {z : Fixed} {t : Fin 8} {s : State} (h_s : Kept z s) : KeptNext z (execVErf t s) := by
  unfold execVErf
  try dsimp only
  repeat' (first | with_reducible assumption | with_reducible apply vecArith_kept | with_reducible apply next_kept | dsimp only | intro _)

theorem execVAbs_kept {z : Fixed} {t : Fin 8} {s : State} (h_s : Kept z s) : KeptNext z (execVAbs t s) := by
  unfold execVAbs
  try dsimp only
  repeat' (first | with_reducible assumption | with_reducible apply vecArith_kept | with_reducible apply next_kept | dsimp only | intro _)

theorem execVCvt_kept {z : Fixed} {t : Fin 8} {s : State} (h_s : Kept z s) : KeptNext z (execVCvt t s) := by
  unfold execVCvt
  try dsimp only
  repeat' (first | with_reducible assumption | with_reducible apply vecIssue_kept | with_reducible apply vecMap_kept | with_reducible apply vecReduce_kept | with_reducible apply vecConvert_kept | with_reducible apply next_kept | dsimp only)

theorem execVRsum_kept {z : Fixed} {t : Fin 8} {s : State} (h_s : Kept z s) : KeptNext z (execVRsum t s) := by
  unfold execVRsum
  try dsimp only
  repeat' (first | with_reducible assumption | with_reducible apply vecIssue_kept | with_reducible apply vecMap_kept | with_reducible apply vecReduce_kept | with_reducible apply vecConvert_kept | with_reducible apply next_kept | dsimp only)

theorem execVRmax_kept {z : Fixed} {t : Fin 8} {s : State} (h_s : Kept z s) : KeptNext z (execVRmax t s) := by
  unfold execVRmax
  try dsimp only
  repeat' (first | with_reducible assumption | with_reducible apply vecIssue_kept | with_reducible apply vecMap_kept | with_reducible apply vecReduce_kept | with_reducible apply vecConvert_kept | with_reducible apply next_kept | dsimp only)

theorem execVRmin_kept {z : Fixed} {t : Fin 8} {s : State} (h_s : Kept z s) : KeptNext z (execVRmin t s) := by
  unfold execVRmin
  try dsimp only
  repeat' (first | with_reducible assumption | with_reducible apply vecIssue_kept | with_reducible apply vecMap_kept | with_reducible apply vecReduce_kept | with_reducible apply vecConvert_kept | with_reducible apply next_kept | dsimp only)

end Sys2Proof.Machine
end

