-- ==== Sys2Proof/Laws/KeptCopy.lean ====
section
/-! SUPPORT. What the operations of Machine/Copy.lean keep (Kept), one law for each. -/

set_option linter.unusedTactic false
set_option linter.unreachableTactic false

namespace Sys2Proof.Machine

theorem freeBytes_kept {z : Fixed} {x0 : Nat} {x1 : State} (h_x1 : Kept z x1) : Kept z (freeBytes x0 x1).2 := by
  induction x0 generalizing x1 with
  | zero =>
    unfold freeBytes
    try dsimp only
    repeat' (first | with_reducible assumption | with_reducible apply takeFree_kept2 | with_reducible apply takeFree_kept2 | with_reducible refine takeFree_kept (by with_reducible assumption) ?_ | with_reducible refine takeFree_kept (by with_reducible assumption) ?_ | split | dsimp only | intro _)
  | succ k ih =>
    unfold freeBytes
    try dsimp only
    repeat' (first | with_reducible assumption | with_reducible apply takeFree_kept2 | with_reducible apply takeFree_kept2 | with_reducible apply ih | with_reducible refine takeFree_kept (by with_reducible assumption) ?_ | with_reducible refine takeFree_kept (by with_reducible assumption) ?_ | with_reducible refine kept_of_eq2 (by with_reducible assumption) (ih ?_) | split | dsimp only | intro _)

theorem freeBytes_kept_eq {z : Fixed} {x0 : Nat} {x1 : State} {s' : State} {r : List PByte} (heq : freeBytes x0 x1 = (r, s')) (h_x1 : Kept z x1) : Kept z s' := by
  have := freeBytes_kept (z := z) (x0 := x0) (x1 := x1) h_x1
  rw [heq] at this
  exact this

theorem readRun_kept {z : Fixed} {s : State} {view : View} {x : Source} {out : Bool} {k : Nat} {off : Int} {n : Nat} (h_s : Kept z s) : Kept z (State.readRun s view x out k off n).2 := by
  unfold State.readRun
  try dsimp only
  repeat' (first | with_reducible assumption | with_reducible apply senseAt_kept | with_reducible apply leaveAt_kept | with_reducible apply freeBytes_kept | with_reducible refine freeBytes_kept_eq (by with_reducible assumption) ?_ | split | dsimp only | intro _)

theorem readRun_kept_eq {z : Fixed} {s : State} {view : View} {x : Source} {out : Bool} {k : Nat} {off : Int} {n : Nat} {s' : State} {r : List PByte} (heq : State.readRun s view x out k off n = (r, s')) (h_s : Kept z s) : Kept z s' := by
  have := readRun_kept (z := z) (s := s) (view := view) (x := x) (out := out) (k := k) (off := off) (n := n) h_s
  rw [heq] at this
  exact this

theorem readRuns_kept {z : Fixed} {s : State} {view : View} {x : Source} {out : Bool} {n : Nat} {x0 : Nat} {x1 : List Int} (h_s : Kept z s) : Kept z (State.readRuns s view x out n x0 x1).2 := by
  induction x1 generalizing s x0 with
  | nil =>
    unfold State.readRuns
    try dsimp only
    repeat' (first | with_reducible assumption | with_reducible apply readRun_kept | with_reducible refine readRun_kept_eq (by with_reducible assumption) ?_ | split | dsimp only | intro _)
  | cons a l ih =>
    unfold State.readRuns
    try dsimp only
    repeat' (first | with_reducible assumption | with_reducible apply readRun_kept | with_reducible apply ih | with_reducible refine readRun_kept_eq (by with_reducible assumption) ?_ | with_reducible refine kept_of_eq2 (by with_reducible assumption) (ih ?_) | split | dsimp only | intro _)

theorem readRuns_kept_eq {z : Fixed} {s : State} {view : View} {x : Source} {out : Bool} {n : Nat} {x0 : Nat} {x1 : List Int} {s' : State} {r : List (List PByte)} (heq : State.readRuns s view x out n x0 x1 = (r, s')) (h_s : Kept z s) : Kept z s' := by
  have := readRuns_kept (z := z) (s := s) (view := view) (x := x) (out := out) (n := n) (x0 := x0) (x1 := x1) h_s
  rw [heq] at this
  exact this

theorem convertGroups_kept {z : Fixed} {c : CopyRun} {x0 : Nat} {x1 : List (List PByte)} {x2 : State} (h_x2 : Kept z x2) : Kept z (convertGroups c x0 x1 x2).2.2 := by
  induction x1 generalizing x0 x2 with
  | nil =>
    unfold convertGroups
    try dsimp only
    repeat' (first | with_reducible assumption | with_reducible apply noteConv_kept | with_reducible apply raiseNum_kept | with_reducible apply senseAt_kept | with_reducible apply foldl_kept | with_reducible apply foldl_kept1 | with_reducible apply foldl_kept2 | split | dsimp only | intro _)
  | cons a l ih =>
    unfold convertGroups
    try dsimp only
    repeat' (first | with_reducible assumption | with_reducible apply noteConv_kept | with_reducible apply raiseNum_kept | with_reducible apply senseAt_kept | with_reducible apply ih | with_reducible apply foldl_kept | with_reducible apply foldl_kept1 | with_reducible apply foldl_kept2 | with_reducible refine kept_of_eq22 (by with_reducible assumption) (ih ?_) | split | dsimp only | intro _)

theorem convertGroups_kept_eq {z : Fixed} {c : CopyRun} {x0 : Nat} {x1 : List (List PByte)} {x2 : State} {s' : State} {r : List PByte} {b : Bool} (heq : convertGroups c x0 x1 x2 = (r, b, s')) (h_x2 : Kept z x2) : Kept z s' := by
  have := convertGroups_kept (z := z) (c := c) (x0 := x0) (x1 := x1) (x2 := x2) h_x2
  rw [heq] at this
  exact this

theorem copyOut_kept {z : Fixed} {c : CopyRun} {k : Nat} {ls : List (List PByte)} {s : State} (h_s : Kept z s) : Kept z (copyOut c k ls s).2.2 := by
  unfold copyOut
  try dsimp only
  repeat' (first | with_reducible assumption | with_reducible apply convertGroups_kept | with_reducible refine convertGroups_kept_eq (by with_reducible assumption) ?_ | split | dsimp only)

theorem copyOut_kept_eq {z : Fixed} {c : CopyRun} {k : Nat} {ls : List (List PByte)} {s : State} {s' : State} {r : List PByte} {b : Bool} (heq : copyOut c k ls s = (r, b, s')) (h_s : Kept z s) : Kept z s' := by
  have := copyOut_kept (z := z) (c := c) (k := k) (ls := ls) (s := s) h_s
  rw [heq] at this
  exact this

theorem writeHost_kept {z : Fixed} {s : State} {a : Nat} {l : List PByte} (h_s : Kept z s) : Kept z (State.writeHost s a l) := by
  unfold State.writeHost
  try dsimp only
  repeat' (first | with_reducible assumption | with_reducible apply emit_kept | with_reducible apply foldl_kept | dsimp only | intro _)

theorem sendWrites_kept {z : Fixed} {c : CopyRun} {e : Ep} {x0 : List (Nat × List PByte)} {x1 : State} (h_x1 : Kept z x1) : Kept z (sendWrites c e x0 x1).1 := by
  induction x0 generalizing x1 with
  | nil =>
    unfold sendWrites
    try dsimp only
    repeat' (first | with_reducible assumption | with_reducible apply request_kept | with_reducible apply takeWr_kept | with_reducible refine takeWr_kept_eq (by with_reducible assumption) ?_ | split | dsimp only | intro _)
  | cons a l ih =>
    unfold sendWrites
    try dsimp only
    repeat' (first | with_reducible assumption | with_reducible apply request_kept | with_reducible apply takeWr_kept | with_reducible apply ih | with_reducible refine takeWr_kept_eq (by with_reducible assumption) ?_ | with_reducible refine kept_of_eq1 (by with_reducible assumption) (ih ?_) | split | dsimp only | intro _)

theorem sendWrites_kept_eq {z : Fixed} {c : CopyRun} {e : Ep} {x0 : List (Nat × List PByte)} {x1 : State} {s' : State} {r : Option EFault} (heq : sendWrites c e x0 x1 = (s', r)) (h_x1 : Kept z x1) : Kept z s' := by
  have := sendWrites_kept (z := z) (c := c) (e := e) (x0 := x0) (x1 := x1) h_x1
  rw [heq] at this
  exact this

theorem putRun_kept {z : Fixed} {s : State} {c : CopyRun} {e : Ep} {off : Int} {l : List PByte} (h_s : Kept z s) : Kept z (State.putRun s c e off l).1 := by
  unfold State.putRun
  try dsimp only
  repeat' (first | with_reducible assumption | with_reducible apply sendWrites_kept | with_reducible apply writeHost_kept | with_reducible apply writeAt_kept | with_reducible refine sendWrites_kept_eq (by with_reducible assumption) ?_ | split | dsimp only)

theorem putRun_kept_eq {z : Fixed} {s : State} {c : CopyRun} {e : Ep} {off : Int} {l : List PByte} {s' : State} {r : Option EFault} (heq : State.putRun s c e off l = (s', r)) (h_s : Kept z s) : Kept z s' := by
  have := putRun_kept (z := z) (s := s) (c := c) (e := e) (off := off) (l := l) h_s
  rw [heq] at this
  exact this

theorem runJobs_kept {z : Fixed} {c : CopyRun} {x : Source} {e : Ep} {n : Nat} {x0 : Nat} {x1 : List Job} {x2 : State} (h_x2 : Kept z x2) : Kept z (runJobs c x e n x0 x1 x2).1 := by
  induction x1 generalizing x0 x2 with
  | nil =>
    unfold runJobs
    try dsimp only
    repeat' (first | with_reducible assumption | with_reducible apply readRuns_kept | with_reducible apply putRun_kept | with_reducible apply copyOut_kept | with_reducible refine readRuns_kept_eq (by with_reducible assumption) ?_ | with_reducible refine putRun_kept_eq (by with_reducible assumption) ?_ | with_reducible refine copyOut_kept_eq (by with_reducible assumption) ?_ | split | dsimp only | intro _)
  | cons a l ih =>
    unfold runJobs
    try dsimp only
    repeat' (first | with_reducible assumption | with_reducible apply readRuns_kept | with_reducible apply putRun_kept | with_reducible apply copyOut_kept | with_reducible apply ih | with_reducible refine readRuns_kept_eq (by with_reducible assumption) ?_ | with_reducible refine putRun_kept_eq (by with_reducible assumption) ?_ | with_reducible refine copyOut_kept_eq (by with_reducible assumption) ?_ | with_reducible refine kept_of_eq1 (by with_reducible assumption) (ih ?_) | split | dsimp only | intro _)

theorem runJobs_kept_eq {z : Fixed} {c : CopyRun} {x : Source} {e : Ep} {n : Nat} {x0 : Nat} {x1 : List Job} {x2 : State} {s' : State} {r : Option EFault} (heq : runJobs c x e n x0 x1 x2 = (s', r)) (h_x2 : Kept z x2) : Kept z s' := by
  have := runJobs_kept (z := z) (c := c) (x := x) (e := e) (n := n) (x0 := x0) (x1 := x1) (x2 := x2) h_x2
  rw [heq] at this
  exact this

theorem moveBytes_kept {z : Fixed} {c : CopyRun} {x : Source} {s : State} (h_s : Kept z s) : Kept z (moveBytes c x s) := by
  unfold moveBytes
  try dsimp only
  repeat' (first | with_reducible assumption | with_reducible apply runJobs_kept | with_reducible apply failWork_kept | with_reducible refine runJobs_kept_eq (by with_reducible assumption) ?_ | split | dsimp only)

theorem askPiece_kept {z : Fixed} {s : State} {c : CopyRun} {e : Ep} {vol : Bool} {pos : Nat} {a : Nat} {n : Nat} (h_s : Kept z s) : Kept z (State.askPiece s c e vol pos a n) := by
  unfold State.askPiece
  try dsimp only
  repeat' (first | with_reducible assumption | with_reducible apply updWork_kept | with_reducible apply request_kept | split | dsimp only | with_reducible apply kept_mk | intro _)

theorem askRun_kept {z : Fixed} {s : State} {c : CopyRun} {e : Ep} {vol : Bool} {pos : Nat} {a : Nat} {n : Nat} (h_s : Kept z s) : Kept z (State.askRun s c e vol pos a n) := by
  unfold State.askRun
  try dsimp only
  repeat' (first | with_reducible assumption | with_reducible apply askPiece_kept | with_reducible apply foldl_kept | split | dsimp only | intro _)

theorem ownReads_kept {z : Fixed} {c : CopyRun} {e : Ep} {n : Nat} {x0 : List Int} {x1 : State} (h_x1 : Kept z x1) : Kept z (ownReads c e n x0 x1).1 := by
  induction x0 generalizing x1 with
  | nil =>
    unfold ownReads
    try dsimp only
    repeat' (first | with_reducible assumption | with_reducible apply discard_kept | with_reducible apply countRefusal_kept | with_reducible apply refuse_kept | with_reducible apply senseAt_kept | split | dsimp only | intro _)
  | cons a l ih =>
    unfold ownReads
    try dsimp only
    repeat' (first | with_reducible assumption | with_reducible apply discard_kept | with_reducible apply countRefusal_kept | with_reducible apply refuse_kept | with_reducible apply senseAt_kept | with_reducible apply ih | with_reducible refine kept_of_eq1 (by with_reducible assumption) (ih ?_) | split | dsimp only | intro _)

theorem ownReads_kept_eq {z : Fixed} {c : CopyRun} {e : Ep} {n : Nat} {x0 : List Int} {x1 : State} {s' : State} {r : Except EFault (List PByte)} (heq : ownReads c e n x0 x1 = (s', r)) (h_x1 : Kept z x1) : Kept z s' := by
  have := ownReads_kept (z := z) (c := c) (e := e) (n := n) (x0 := x0) (x1 := x1) h_x1
  rw [heq] at this
  exact this

theorem readRemote_kept {z : Fixed} {s : State} {c : CopyRun} {vol : Bool} (h_s : Kept z s) : Kept z (State.readRemote s c vol) := by
  unfold State.readRemote
  try dsimp only
  repeat' (first | with_reducible assumption | with_reducible apply ownReads_kept | with_reducible apply moveBytes_kept | with_reducible apply updWork_kept | with_reducible apply failWork_kept | with_reducible apply askRun_kept | with_reducible apply foldl_kept | with_reducible apply foldl_kept1 | with_reducible apply foldl_kept2 | with_reducible refine ownReads_kept_eq (by with_reducible assumption) ?_ | split | dsimp only | with_reducible apply kept_mk | intro _)

theorem noteHostCopy_kept {z : Fixed} {s : State} {q : Nat} {id : Nat} {addr : Nat} (h_s : Kept z s) : Kept z (State.noteHostCopy s q id addr) := by
  unfold State.noteHostCopy
  try dsimp only
  repeat' (first | with_reducible assumption | with_reducible apply updQueue_kept | with_reducible apply emit_kept | split | dsimp only | with_reducible apply kept_mk | intro _)

theorem copyBody_kept {z : Fixed} {t : Nat} {fill : Bool} {i : Ins} {x : Desc} {s : State} (h_s : Kept z s) : Kept z (copyBody t fill i x s) := by
  unfold copyBody
  try dsimp only
  repeat' (first | with_reducible assumption | with_reducible apply engineFault_kept | with_reducible apply hold205_kept | with_reducible apply goOn_kept | with_reducible apply noteHostCopy_kept | with_reducible apply failWork_kept | with_reducible apply countRefusal_kept | with_reducible apply readRemote_kept | with_reducible apply moveBytes_kept | split | dsimp only | with_reducible apply kept_mk)

theorem senseIndices_kept {z : Fixed} {s : State} {view : View} {t : Nat} {d : CopyDesc} (h_s : Kept z s) : Kept z (State.senseIndices s view t d) := by
  unfold State.senseIndices
  try dsimp only
  repeat' (first | with_reducible assumption | with_reducible apply senseAt_kept | with_reducible apply foldl_kept | dsimp only | intro _)

theorem fetchItem_kept {z : Fixed} {s : State} {view : View} {d : CopyDesc} {i : Nat} (h_s : Kept z s) : Kept z (State.fetchItem s view d i).2.2 := by
  unfold State.fetchItem
  try dsimp only
  repeat' (first | with_reducible assumption | exact fun _ => rfl | with_reducible apply leaveLine_kept | with_reducible apply senseHbm_kept | with_reducible apply addWrap_kept | with_reducible apply raise_kept | with_reducible apply addSat_kept | split | dsimp only | intro _)

theorem fetchItem_kept_eq {z : Fixed} {s : State} {view : View} {d : CopyDesc} {i : Nat} {s' : State} {r : List PByte} {b : Nat} (heq : State.fetchItem s view d i = (r, b, s')) (h_s : Kept z s) : Kept z s' := by
  have := fetchItem_kept (z := z) (s := s) (view := view) (d := d) (i := i) h_s
  rw [heq] at this
  exact this

theorem Gather_packets_kept {z : Fixed} {g : Gather} {d : CopyDesc} {vol : Bool} (h_g : Kept z g.st) : Kept z (Gather.packets g d vol).1 := by
  unfold Gather.packets
  try dsimp only
  repeat' (first | with_reducible assumption | exact fun _ => rfl | with_reducible apply addWrap_kept | with_reducible apply foldl_kept | with_reducible apply foldl_kept1 | with_reducible apply foldl_kept2 | split | dsimp only | intro _)

theorem Gather_packets_kept_eq {z : Fixed} {g : Gather} {d : CopyDesc} {vol : Bool} {s' : State} {r : List Nat} (heq : Gather.packets g d vol = (s', r)) (h_g : Kept z g.st) : Kept z s' := by
  have := Gather_packets_kept (z := z) (g := g) (d := d) (vol := vol) h_g
  rw [heq] at this
  exact this

theorem gatherItems_kept {z : Fixed} {c : CopyRun} {table : Option Span} {l : List (Option Nat × Option Nat)} {g : Gather}
    (h : Kept z g.st) : Kept z (gatherItems c table l g).2.st := by
  induction l generalizing g with
  | nil => exact h
  | cons a l ih =>
    obtain ⟨i, _ | k⟩ := a
    · simp only [gatherItems]
      split
      · exact h
      · exact ih h
    · simp only [gatherItems]
      split
      · split
        · exact wr_kept rfl h
        · exact ih (wr_kept rfl h)
      · split
        · exact fetchItem_kept h
        · exact ih (fetchItem_kept h)

theorem gatherRuns_kept {z : Fixed} {c : CopyRun} {e : Ep} {table : Option Span} {l : List (Job × List (Option Nat))}
    {g : Gather} (h : Kept z g.st) : Kept z (gatherRuns c e table l g).st := by
  induction l generalizing g with
  | nil => exact h
  | cons a l ih =>
    obtain ⟨j, is⟩ := a
    simp only [gatherRuns]
    split
    · exact writeAt_kept (gatherItems_kept h)
    · exact ih (writeAt_kept (gatherItems_kept h))

theorem gatherBody_kept {z : Fixed} {t : Nat} {i : Ins} {x : Desc} {s : State} (h_s : Kept z s) :
    Kept z (gatherBody t i x s) := by
  unfold gatherBody
  extract_lets q d bound e us table first there s1 runs w0 w s2 c g
  split
  · exact h_s
  · have h1 : Kept z s1 := by
      show Kept z (if there then _ else _)
      split
      · exact senseIndices_kept h_s
      · exact h_s
    split
    · exact engineFault_kept h1
    · split
      · exact hold205_kept h1
      · split
        · exact h1
        · have h2 : Kept z g.st := gatherRuns_kept (goOn_kept h1)
          split
          rename_i s3 packs e3
          have h3 : Kept z s3 := Gather_packets_kept_eq e3 h2
          split
          · exact failWork_kept h3
          · exact updWork_kept h3

theorem execCeCopy_kept {z : Fixed} {t : Fin 8} {s : State} (h_s : Kept z s) : KeptNext z (execCeCopy t s) := by
  unfold execCeCopy
  try dsimp only
  repeat' (first | with_reducible assumption | with_reducible apply issue_kept | with_reducible apply withDesc_kept | with_reducible apply engineFault_kept | with_reducible apply copyBody_kept | with_reducible apply gatherBody_kept | with_reducible apply next_kept | split | dsimp only | intro _)

theorem execCeFill_kept {z : Fixed} {t : Fin 8} {s : State} (h_s : Kept z s) : KeptNext z (execCeFill t s) := by
  unfold execCeFill
  try dsimp only
  repeat' (first | with_reducible assumption | with_reducible apply issue_kept | with_reducible apply withDesc_kept | with_reducible apply engineFault_kept | with_reducible apply copyBody_kept | with_reducible apply next_kept | split | dsimp only | intro _)

end Sys2Proof.Machine
end

