-- ==== Sys2Proof/Laws/KeptCollectives.lean ====
section
/-! SUPPORT. What the operations of Machine/Collectives.lean keep (Kept), one law for each. -/

set_option linter.unusedTactic false
set_option linter.unreachableTactic false

namespace Sys2Proof.Machine

theorem bank_legal {n v : Nat} : fieldLegal (bankFields n).1 v = true ∧ fieldLegal (bankFields n).2.1 v = true ∧
    fieldLegal (bankFields n).2.2 v = true := by
  unfold bankFields; split <;> exact ⟨rfl, rfl, rfl⟩

theorem setRanks_kept {z : Fixed} {s : State} {ids : List Nat} {self : Nat} (h_s : Kept z s) : Kept z (State.setRanks s ids self) := by
  unfold State.setRanks
  try dsimp only
  repeat' (first | with_reducible assumption | exact rfl | with_reducible apply wr_kept | dsimp only | with_reducible apply kept_mk)

theorem commitRanks_kept {z : Fixed} {s : State} (h_s : Kept z s) : Kept z (State.commitRanks s) := by
  unfold State.commitRanks
  try dsimp only
  repeat' (first | with_reducible assumption | exact rfl | with_reducible apply wr_kept | with_reducible apply senseAt_kept | with_reducible apply setRanks_kept | split | dsimp only)

theorem execRankCommit_kept {z : Fixed} {s : State} (h_s : Kept z s) : KeptNext z (execRankCommit s) := by
  unfold execRankCommit
  try dsimp only
  repeat' (first | with_reducible assumption | with_reducible apply byHost_kept | with_reducible apply commitRanks_kept | with_reducible apply next_kept | dsimp only)

theorem landStall_kept {z : Fixed} {s : State} {w : Work} (h_s : Kept z s) : Kept z (State.landStall s w) := by
  unfold State.landStall
  try dsimp only
  repeat' (first | with_reducible assumption | exact fun _ => rfl | with_reducible apply addWrap_kept | split | dsimp only | intro _)

theorem updColl_kept {z : Fixed} {s : State} {q : Nat} {id : Nat} {g : Coll → Coll} (h_s : Kept z s) : Kept z (State.updColl s q id g) := by
  unfold State.updColl
  try dsimp only
  repeat' (first | with_reducible assumption | with_reducible apply updWork_kept | dsimp only | with_reducible apply kept_mk | intro _)

theorem collFlag_kept {z : Fixed} {s : State} {e : E} (h_s : Kept z s) : Kept z (State.collFlag s e) := by
  unfold State.collFlag
  try dsimp only
  repeat' (first | with_reducible assumption | exact rfl | with_reducible apply wr_kept | split | dsimp only)

theorem endRscat_kept {z : Fixed} {s : State} {q : Nat} {w : Work} {e : E} (h_s : Kept z s) : Kept z (State.endRscat s q w e) := by
  unfold State.endRscat
  try dsimp only
  repeat' (first | with_reducible assumption | with_reducible apply failWork_kept | with_reducible apply collFlag_kept | dsimp only)

theorem finishRscat_kept {z : Fixed} {s : State} {q : Nat} {id : Nat} (h_s : Kept z s) : Kept z (State.finishRscat s q id) := by
  unfold State.finishRscat
  try dsimp only
  repeat' (first | with_reducible assumption | with_reducible apply writeStatus_kept | with_reducible apply raise_kept | with_reducible apply collFlag_kept | with_reducible apply leaveDigest_kept | with_reducible apply updWork_kept | split | dsimp only | with_reducible apply kept_mk | intro _)

theorem countSat_kept {z : Fixed} {s : State} {w : Work} (h_s : Kept z s) : Kept z (State.countSat s w) := by
  unfold State.countSat
  try dsimp only
  repeat' (first | with_reducible assumption | exact fun _ => rfl | with_reducible apply addSat_kept | with_reducible apply raiseEsc_kept | dsimp only)

theorem addBlocks_kept {z : Fixed} {s : State} {q : Nat} {w : Work} {a : GBlock} {b : GBlock} (h_s : Kept z s) : Kept z (State.addBlocks s q w a b).2 := by
  unfold State.addBlocks
  try dsimp only
  repeat' (first | with_reducible assumption | exact fun _ => rfl | with_reducible apply updColl_kept | with_reducible apply addSat_kept | with_reducible apply countSat_kept | split | dsimp only | with_reducible apply kept_mk | intro _)

theorem addBlocks_kept_eq {z : Fixed} {s : State} {q : Nat} {w : Work} {a : GBlock} {b : GBlock} {s' : State} {r : GBlock} (heq : State.addBlocks s q w a b = (r, s')) (h_s : Kept z s) : Kept z s' := by
  have := addBlocks_kept (z := z) (s := s) (q := q) (w := w) (a := a) (b := b) h_s
  rw [heq] at this
  exact this

theorem srcBlock_kept {z : Fixed} {s : State} {w : Work} {g : Nat} (h_s : Kept z s) : Kept z (State.srcBlock s w g).2 := by
  unfold State.srcBlock
  try dsimp only
  repeat' (first | with_reducible assumption | with_reducible apply senseAt_kept | dsimp only)

theorem srcBlock_kept_eq {z : Fixed} {s : State} {w : Work} {g : Nat} {s' : State} {r : GBlock} (heq : State.srcBlock s w g = (r, s')) (h_s : Kept z s) : Kept z s' := by
  have := srcBlock_kept (z := z) (s := s) (w := w) (g := g) h_s
  rw [heq] at this
  exact this

theorem meshRest_kept {z : Fixed} {q : Nat} {w : Work} {g : Nat} {x0 : List Work} {x1 : GBlock} {x2 : State} (h_x2 : Kept z x2) : Kept z (meshRest q w g x0 x1 x2).2 := by
  induction x0 generalizing x1 x2 with
  | nil =>
    unfold meshRest
    try dsimp only
    repeat' (first | with_reducible assumption | with_reducible apply addBlocks_kept | with_reducible apply srcBlock_kept | with_reducible refine addBlocks_kept_eq (by with_reducible assumption) ?_ | with_reducible refine srcBlock_kept_eq (by with_reducible assumption) ?_ | split | dsimp only | intro _)
  | cons a l ih =>
    unfold meshRest
    try dsimp only
    repeat' (first | with_reducible assumption | with_reducible apply addBlocks_kept | with_reducible apply srcBlock_kept | with_reducible apply ih | with_reducible refine addBlocks_kept_eq (by with_reducible assumption) ?_ | with_reducible refine srcBlock_kept_eq (by with_reducible assumption) ?_ | with_reducible refine kept_of_eq2 (by with_reducible assumption) (ih ?_) | split | dsimp only | intro _)

theorem meshRest_kept_eq {z : Fixed} {q : Nat} {w : Work} {g : Nat} {x0 : List Work} {x1 : GBlock} {x2 : State} {s' : State} {r : GBlock} (heq : meshRest q w g x0 x1 x2 = (r, s')) (h_x2 : Kept z x2) : Kept z s' := by
  have := meshRest_kept (z := z) (q := q) (w := w) (g := g) (x0 := x0) (x1 := x1) (x2 := x2) h_x2
  rw [heq] at this
  exact this

theorem meshBlock_kept {z : Fixed} {q : Nat} {w : Work} {ws : List Work} {g : Nat} {s : State} (h_s : Kept z s) : Kept z (meshBlock q w ws g s).2 := by
  unfold meshBlock
  try dsimp only
  repeat' (first | with_reducible assumption | with_reducible apply srcBlock_kept | with_reducible apply meshRest_kept | with_reducible refine srcBlock_kept_eq (by with_reducible assumption) ?_ | with_reducible refine meshRest_kept_eq (by with_reducible assumption) ?_ | split | dsimp only)

theorem meshBlock_kept_eq {z : Fixed} {q : Nat} {w : Work} {ws : List Work} {g : Nat} {s : State} {s' : State} {r : GBlock} (heq : meshBlock q w ws g s = (r, s')) (h_s : Kept z s) : Kept z s' := by
  have := meshBlock_kept (z := z) (q := q) (w := w) (ws := ws) (g := g) (s := s) h_s
  rw [heq] at this
  exact this

theorem meshBlocks_kept {z : Fixed} {q : Nat} {w : Work} {ws : List Work} {x0 : List Nat} {x1 : State} (h_x1 : Kept z x1) : Kept z (meshBlocks q w ws x0 x1).2 := by
  induction x0 generalizing x1 with
  | nil =>
    unfold meshBlocks
    try dsimp only
    repeat' (first | with_reducible assumption | with_reducible apply meshBlock_kept | with_reducible refine meshBlock_kept_eq (by with_reducible assumption) ?_ | split | dsimp only | intro _)
  | cons a l ih =>
    unfold meshBlocks
    try dsimp only
    repeat' (first | with_reducible assumption | with_reducible apply meshBlock_kept | with_reducible apply ih | with_reducible refine meshBlock_kept_eq (by with_reducible assumption) ?_ | with_reducible refine kept_of_eq2 (by with_reducible assumption) (ih ?_) | split | dsimp only | intro _)

theorem meshBlocks_kept_eq {z : Fixed} {q : Nat} {w : Work} {ws : List Work} {x0 : List Nat} {x1 : State} {s' : State} {r : List GBlock} (heq : meshBlocks q w ws x0 x1 = (r, s')) (h_x1 : Kept z x1) : Kept z s' := by
  have := meshBlocks_kept (z := z) (q := q) (w := w) (ws := ws) (x0 := x0) (x1 := x1) h_x1
  rw [heq] at this
  exact this

theorem meshStage_kept {z : Fixed} {s : State} {ws : List Work} {q : Nat} {w : Work} (h_s : Kept z s) : Kept z (State.meshStage s ws q w) := by
  unfold State.meshStage
  try dsimp only
  repeat' (first | with_reducible assumption | with_reducible apply meshBlocks_kept | with_reducible apply updColl_kept | with_reducible refine meshBlocks_kept_eq (by with_reducible assumption) ?_ | split | dsimp only | with_reducible apply kept_mk | intro _)

theorem sendRing_kept {z : Fixed} {s : State} {q : Nat} {id : Nat} {d : RscatDesc} {j : Nat} {g : Nat} {ring : Nat} {l : List GBlock} (h_s : Kept z s) : Kept z (State.sendRing s q id d j g ring l) := by
  unfold State.sendRing
  try dsimp only
  repeat' (first | with_reducible assumption | with_reducible apply request_kept | with_reducible apply updColl_kept | split | dsimp only | with_reducible apply kept_mk | intro _)

theorem firstPartials_kept {z : Fixed} {s : State} {q : Nat} {w : Work} (h_s : Kept z s) : Kept z (State.firstPartials s q w) := by
  unfold State.firstPartials
  try dsimp only
  repeat' (first | with_reducible assumption | with_reducible apply sendRing_kept | with_reducible apply foldl_kept | split | dsimp only | intro _)

theorem setEscBit_kept {z : Fixed} {s : State} {w : Work} {word : Nat} {i : Nat} {b : Bool} (h_s : Kept z s) : Kept z (State.setEscBit s w word i b) := by
  unfold State.setEscBit
  try dsimp only
  repeat' (first | with_reducible assumption | with_reducible apply collWrite_kept | dsimp only)

theorem deliver_kept {z : Fixed} {s : State} {q : Nat} {w : Work} {i : Nat} {a : GBlock} {m : GBlock} (h_s : Kept z s) : Kept z (State.deliver s q w i a m) := by
  unfold State.deliver
  try dsimp only
  repeat' (first | with_reducible assumption | with_reducible apply countSat_kept | with_reducible apply collWrite_kept | with_reducible apply setEscBit_kept | with_reducible apply updColl_kept | split | dsimp only | with_reducible apply kept_mk | intro _)

theorem deliverOwn_kept {z : Fixed} {s : State} {q : Nat} {w : Work} (h_s : Kept z s) : Kept z (State.deliverOwn s q w) := by
  unfold State.deliverOwn
  try dsimp only
  repeat' (first | with_reducible assumption | with_reducible apply landStall_kept | with_reducible apply deliver_kept | with_reducible apply foldl_kept | split | dsimp only | intro _)

theorem addRun_kept {z : Fixed} {q : Nat} {w : Work} {x0 : List (GBlock × GBlock)} {x1 : State} (h_x1 : Kept z x1) : Kept z (addRun q w x0 x1).2 := by
  induction x0 generalizing x1 with
  | nil =>
    unfold addRun
    try dsimp only
    repeat' (first | with_reducible assumption | with_reducible apply addBlocks_kept | with_reducible refine addBlocks_kept_eq (by with_reducible assumption) ?_ | split | dsimp only | intro _)
  | cons a l ih =>
    unfold addRun
    try dsimp only
    repeat' (first | with_reducible assumption | with_reducible apply addBlocks_kept | with_reducible apply ih | with_reducible refine addBlocks_kept_eq (by with_reducible assumption) ?_ | with_reducible refine kept_of_eq2 (by with_reducible assumption) (ih ?_) | split | dsimp only | intro _)

theorem addRun_kept_eq {z : Fixed} {q : Nat} {w : Work} {x0 : List (GBlock × GBlock)} {x1 : State} {s' : State} {r : List GBlock} (heq : addRun q w x0 x1 = (r, s')) (h_x1 : Kept z x1) : Kept z s' := by
  have := addRun_kept (z := z) (q := q) (w := w) (x0 := x0) (x1 := x1) h_x1
  rw [heq] at this
  exact this

theorem consumeRing_kept {z : Fixed} {s : State} {p : Nat} {q : Nat} {w : Work} {c : Coll} {f : Frame} (h_s : Kept z s) : Kept z (State.consumeRing s p q w c f) := by
  unfold State.consumeRing
  try dsimp only
  repeat' (first | with_reducible assumption | with_reducible apply emptied_kept | with_reducible apply endRscat_kept | with_reducible apply updColl_kept | with_reducible apply deliver_kept | with_reducible apply addRun_kept | with_reducible apply sendRing_kept | with_reducible apply finishRscat_kept | with_reducible apply reply_kept | with_reducible apply foldl_kept | with_reducible apply foldl_kept1 | with_reducible apply foldl_kept2 | with_reducible refine addRun_kept_eq (by with_reducible assumption) ?_ | split | dsimp only | with_reducible apply kept_mk | intro _)

theorem receiveRing_kept {z : Fixed} {s : State} {p : Nat} {f : Frame} (h_s : Kept z s) : Kept z (State.receiveRing s p f) := by
  unfold State.receiveRing
  try dsimp only
  repeat' (first | with_reducible assumption | with_reducible apply landStall_kept | with_reducible apply consumeRing_kept | split | dsimp only | with_reducible apply kept_mk)

theorem takeHeld_kept {z : Fixed} {s : State} {seq : Nat} (h_s : Kept z s) : Kept z (State.takeHeld s seq) := by
  unfold State.takeHeld
  try dsimp only
  repeat' (first | with_reducible assumption | with_reducible apply receiveRing_kept | with_reducible apply foldl_kept | dsimp only | with_reducible apply kept_mk | intro _)

theorem beginRscat_kept {z : Fixed} {s : State} {seq : Nat} {ws : List Work} (h_s : Kept z s) : Kept z (State.beginRscat s seq ws) := by
  unfold State.beginRscat
  try dsimp only
  repeat' (first | with_reducible assumption | with_reducible apply settleDigs_kept | with_reducible apply meshStage_kept | with_reducible apply deliverOwn_kept | with_reducible apply firstPartials_kept | with_reducible apply finishRscat_kept | with_reducible apply takeHeld_kept | with_reducible apply endRscat_kept | with_reducible apply foldl_kept | split | dsimp only | intro _)

theorem tryRscat_kept {z : Fixed} {s : State} {seq : Nat} (h_s : Kept z s) : Kept z (State.tryRscat s seq) := by
  unfold State.tryRscat
  try dsimp only
  repeat' (first | with_reducible assumption | with_reducible apply beginRscat_kept | split | dsimp only | intro _)

theorem dupRscat_kept {z : Fixed} {s : State} {q : Nat} {i : Ins} {w : Nat} (h_s : Kept z s) : Kept z (State.dupRscat s q i w) := by
  unfold State.dupRscat
  try dsimp only
  repeat' (first | with_reducible assumption | with_reducible apply engineFault_kept | with_reducible apply writeStatus_kept | with_reducible apply collFlag_kept | dsimp only | with_reducible apply kept_mk)

theorem execWnRscat_kept {z : Fixed} {b : Fin 4} {s : State} (h_s : Kept z s) : KeptNext z (execWnRscat b s) := by
  unfold execWnRscat
  try dsimp only
  repeat' (first | with_reducible assumption | with_reducible apply issue_kept | with_reducible apply engineFault_kept | with_reducible apply withDesc_kept | with_reducible apply dupRscat_kept | with_reducible apply hold205_kept | with_reducible apply tryRscat_kept | with_reducible apply goOn_kept | with_reducible apply next_kept | split | dsimp only | with_reducible apply kept_mk | intro _)

theorem askShards_kept {z : Fixed} {s : State} {q : Nat} {w : Work} {vol : Bool} (h_s : Kept z s) : Kept z (State.askShards s q w vol) := by
  unfold State.askShards
  try dsimp only
  repeat' (first | with_reducible assumption | with_reducible apply askRun_kept | with_reducible apply foldl_kept | split | dsimp only | intro _)

theorem senseShard_kept {z : Fixed} {s : State} {w : Work} {d : GatherDesc} {k : Nat} (h_s : Kept z s) : Kept z (State.senseShard s w d k) := by
  unfold State.senseShard
  try dsimp only
  repeat' (first | with_reducible assumption | with_reducible apply senseAt_kept | split | dsimp only)

theorem landShard_kept {z : Fixed} {s : State} {q : Nat} {w : Work} {d : GatherDesc} {k : Nat} {l : List PByte} (h_s : Kept z s) : Kept z (State.landShard s q w d k l) := by
  unfold State.landShard
  try dsimp only
  repeat' (first | with_reducible assumption | with_reducible apply writeAt_kept | with_reducible apply foldDigest_kept | with_reducible apply updColl_kept | with_reducible apply foldl_kept | split | dsimp only | with_reducible apply kept_mk | intro _)

theorem landShards_kept {z : Fixed} {q : Nat} {id : Nat} {x0 : List Nat} {x1 : State} (h_x1 : Kept z x1) : Kept z (landShards q id x0 x1) := by
  induction x0 generalizing x1 with
  | nil =>
    unfold landShards
    try dsimp only
    repeat' (first | with_reducible assumption | with_reducible apply landStall_kept | with_reducible apply senseShard_kept | with_reducible apply landShard_kept | split | dsimp only | intro _)
  | cons a l ih =>
    unfold landShards
    try dsimp only
    repeat' (first | with_reducible assumption | with_reducible apply landStall_kept | with_reducible apply senseShard_kept | with_reducible apply landShard_kept | with_reducible apply ih | split | dsimp only | intro _)

theorem gatherGo_kept {z : Fixed} {s : State} {q : Nat} {id : Nat} (h_s : Kept z s) : Kept z (State.gatherGo s q id) := by
  unfold State.gatherGo
  try dsimp only
  repeat' (first | with_reducible assumption | with_reducible apply landShards_kept | with_reducible apply progGo_kept | split | dsimp only)

theorem execWnGather_kept {z : Fixed} {b : Fin 4} {s : State} (h_s : Kept z s) : KeptNext z (execWnGather b s) := by
  unfold execWnGather
  try dsimp only
  repeat' (first | with_reducible assumption | with_reducible apply issue_kept | with_reducible apply engineFault_kept | with_reducible apply withDesc_kept | with_reducible apply collFlag_kept | with_reducible apply hold205_kept | with_reducible apply gatherGo_kept | with_reducible apply askShards_kept | with_reducible apply goOn_kept | with_reducible apply next_kept | split | dsimp only | with_reducible apply kept_mk | intro _)

theorem execCollTimeout_kept {z : Fixed} {b : Fin 4} {id : Nat} {s : State} (h_s : Kept z s) : KeptNext z (execCollTimeout b id s) := by
  unfold execCollTimeout
  try dsimp only
  repeat' (first | with_reducible assumption | with_reducible apply endRscat_kept | with_reducible apply failWork_kept | with_reducible apply collFlag_kept | with_reducible apply next_kept | split | dsimp only)

theorem clearBanks_kept {z : Fixed} {s : State} {d : HealthDesc} (h_s : Kept z s) : Kept z (s.clearBanks d) := by
  unfold State.clearBanks
  rw [List.foldl_map]
  exact foldl_kept h_s fun s n h =>
    wr_kept bank_legal.2.2 (dropFlag_kept (fun _ => bank_legal.2.1) (dropFlag_kept (fun _ => bank_legal.1) h))

theorem endHealth_kept {z : Fixed} {s : State} {seq : Nat} {v : Nat} (h_s : Kept z s) : Kept z (State.endHealth s seq v) := by
  unfold State.endHealth
  try dsimp only
  repeat' (first | with_reducible assumption | with_reducible apply updWork_kept | with_reducible apply collWrite_kept | with_reducible apply emptied_kept | with_reducible apply foldl_kept | dsimp only | with_reducible apply kept_mk | intro _)

theorem healthGo_kept {z : Fixed} {q id seq k : Nat} {l : List (Bool × Nat × Nat)} {v : Nat} {s : State}
    (h_s : Kept z s) : Kept z (healthGo q id seq k l v s) := by
  induction l generalizing k v s with
  | nil => unfold healthGo; exact endHealth_kept h_s
  | cons a l ih =>
    obtain ⟨_ | _, peer, rnd⟩ := a
    · unfold healthGo
      dsimp only
      repeat' (first | with_reducible assumption | with_reducible apply updColl_kept | with_reducible apply failWork_kept | with_reducible apply endHealth_kept | with_reducible apply emptied_kept | with_reducible apply ih | with_reducible refine send_kept (by with_reducible assumption) ?_ | split | dsimp only | with_reducible apply kept_mk)
    · unfold healthGo
      dsimp only
      repeat' (first | with_reducible assumption | with_reducible apply updColl_kept | with_reducible apply failWork_kept | with_reducible apply endHealth_kept | with_reducible apply emptied_kept | with_reducible apply ih | with_reducible refine send_kept (by with_reducible assumption) ?_ | split | dsimp only | with_reducible apply kept_mk)

theorem healthOn_kept {z : Fixed} {s : State} {seq : Nat} (h_s : Kept z s) : Kept z (State.healthOn s seq) := by
  unfold State.healthOn
  try dsimp only
  repeat' (first | with_reducible assumption | with_reducible apply healthGo_kept | split | dsimp only | intro _)

theorem receiveHealth_kept {z : Fixed} {s : State} {p : Nat} {f : Frame} (h_s : Kept z s) : Kept z (State.receiveHealth s p f) := by
  unfold State.receiveHealth
  try dsimp only
  repeat' (first | with_reducible assumption | with_reducible apply healthOn_kept | dsimp only | with_reducible apply kept_mk)

theorem execWnHealth_kept {z : Fixed} {b : Fin 4} {s : State} (h_s : Kept z s) : KeptNext z (execWnHealth b s) := by
  unfold execWnHealth
  try dsimp only
  repeat' (first | with_reducible assumption | with_reducible apply issue_kept | with_reducible apply engineFault_kept | with_reducible apply withDesc_kept | with_reducible apply collFlag_kept | with_reducible apply hold205_kept | with_reducible apply clearBanks_kept | with_reducible apply goOn_kept | with_reducible apply healthOn_kept | with_reducible apply next_kept | split | dsimp only | with_reducible apply kept_mk | intro _)

theorem execHealthTimeout_kept {z : Fixed} {b : Fin 4} {id : Nat} {s : State} (h_s : Kept z s) : KeptNext z (execHealthTimeout b id s) := by
  unfold execHealthTimeout
  try dsimp only
  repeat' (first | with_reducible assumption | with_reducible apply endHealth_kept | with_reducible apply next_kept | split | dsimp only | intro _)

end Sys2Proof.Machine
end

