-- ==== Sys2Proof/Laws/KeptPower.lean ====
section
/-! SUPPORT. What the operations of Machine/Power.lean keep (Kept), one law for each. -/

set_option linter.unusedTactic false
set_option linter.unreachableTactic false

namespace Sys2Proof.Machine

theorem sensor_legal {i : Sensor} {v : Nat} :
    fieldLegal (sensorFields i).1 v = true ∧ fieldLegal (sensorFields i).2.1 v = true := by
  cases i <;> exact ⟨rfl, rfl⟩

theorem cap_legal {w : Nat} (h : 900 ≤ w ∧ w ≤ 2800) :
    fieldLegal .PW_CAP_WATTS (w % 2 ^ F.PW_CAP_WATTS.info.width) = true := by
  change (decide (900 ≤ w % 4096) && decide (w % 4096 ≤ 2800)) = true
  rw [Nat.mod_eq_of_lt (by omega)]
  simp [h.1, h.2]

theorem setFrac_kept {z : Fixed} {s : State} {g : Nat} {x : Frac} (h_s : Kept z s) : Kept z (State.setFrac s g x) := by
  unfold State.setFrac
  try dsimp only
  repeat' (first | with_reducible assumption | split | dsimp only | with_reducible apply kept_mk)

theorem showFracs_kept {z : Fixed} {s : State} (h_s : Kept z s) : Kept z (State.showFracs s) := by
  unfold State.showFracs
  try dsimp only
  repeat' (first | with_reducible assumption | exact rfl | with_reducible apply wr_kept | dsimp only)

theorem giveFrac_kept {z : Fixed} {x0 : List Nat} {x1 : Frac} {x2 : State} (h_x2 : Kept z x2) : Kept z (giveFrac x0 x1 x2) := by
  induction x0 generalizing x1 x2 with
  | nil =>
    unfold giveFrac
    try dsimp only
    repeat' (first | with_reducible assumption | with_reducible apply setFrac_kept | split | dsimp only | intro _)
  | cons a l ih =>
    unfold giveFrac
    try dsimp only
    repeat' (first | with_reducible assumption | with_reducible apply setFrac_kept | with_reducible apply ih | split | dsimp only | intro _)

theorem takeFrac_kept {z : Fixed} {x0 : List Nat} {x1 : Frac} {x2 : State} (h_x2 : Kept z x2) : Kept z (takeFrac x0 x1 x2) := by
  induction x0 generalizing x1 x2 with
  | nil =>
    unfold takeFrac
    try dsimp only
    repeat' (first | with_reducible assumption | with_reducible apply setFrac_kept | split | dsimp only | intro _)
  | cons a l ih =>
    unfold takeFrac
    try dsimp only
    repeat' (first | with_reducible assumption | with_reducible apply setFrac_kept | with_reducible apply ih | split | dsimp only | intro _)

theorem countBubbles_kept {z : Fixed} {s : State} {t : Nat} (h_s : Kept z s) : Kept z (State.countBubbles s t) := by
  unfold State.countBubbles
  try dsimp only
  repeat' (first | with_reducible assumption | exact fun _ => rfl | with_reducible apply addWrap_kept | dsimp only | with_reducible apply kept_mk)

theorem capPeriod_kept {z : Fixed} {s : State} {meas : List Nat} (h_s : Kept z s) : Kept z (State.capPeriod s meas) := by
  unfold State.capPeriod
  try dsimp only
  repeat' (first | with_reducible assumption | exact rfl | exact fun _ => rfl | with_reducible apply wr_kept | with_reducible apply addWrap_kept | with_reducible apply addSat_kept | with_reducible apply countBubbles_kept | with_reducible apply giveFrac_kept | with_reducible apply takeFrac_kept | with_reducible apply showFracs_kept | with_reducible apply foldl_kept | split | dsimp only | intro _)

theorem clampLinks_kept {z : Fixed} {s : State} (h_s : Kept z s) : Kept z (State.clampLinks s) := by
  unfold State.clampLinks
  try dsimp only
  repeat' (first | with_reducible assumption | with_reducible apply showFracs_kept | with_reducible apply setFrac_kept | dsimp only)

theorem execCalibrationTick_kept {z : Fixed} {gains : List Gain} {s : State} (h_s : Kept z s) : KeptNext z (execCalibrationTick gains s) := by
  unfold execCalibrationTick
  try dsimp only
  repeat' (first | with_reducible assumption | exact rfl | with_reducible apply byFw_kept | with_reducible apply wr_kept | with_reducible apply next_kept | with_reducible apply refusal_kept | split | dsimp only | with_reducible apply kept_mk | intro _)

theorem raiseFlag5_kept {z : Fixed} {s : State} {f : F} (hv : ∀ v, fieldLegal f v = true) (h_s : Kept z s) : Kept z (s.raiseFlag5 f) := by
  unfold State.raiseFlag5
  try dsimp only
  repeat' (first | with_reducible assumption | exact rfl | exact hv _ | with_reducible apply wri_kept | with_reducible apply wr_kept | with_reducible apply msix_kept | with_reducible apply foldl_kept | split | intro _)

theorem notePin_kept {z : Fixed} {s : State} (h_s : Kept z s) : Kept z (State.notePin s) := by
  unfold State.notePin
  try dsimp only
  repeat' (first | with_reducible assumption | exact fun _ => rfl | with_reducible apply raiseFlag5_kept | split | dsimp only | intro _)

theorem noteHeat_kept {z : Fixed} {s : State} (h_s : Kept z s) : Kept z (State.noteHeat s) := by
  unfold State.noteHeat
  try dsimp only
  repeat' (first | with_reducible assumption | exact rfl | exact fun _ => rfl | with_reducible apply wri_kept | with_reducible apply raiseFlag5_kept | with_reducible apply wr_kept | with_reducible apply foldl_kept | split | dsimp only | intro _)

theorem runAt_kept {z : Fixed} {s : State} {t : Nat} {p : Nat} (h_s : Kept z s) : Kept z (State.runAt s t p) := by
  unfold State.runAt
  try dsimp only
  repeat' (first | with_reducible assumption | exact rfl | with_reducible apply wri_kept | with_reducible apply switchTo_kept | with_reducible apply setOut_kept | split | dsimp only)

theorem execCkIslSrcWrite_kept {z : Fixed} {i : Fin 43} {src : Fin 4} {s : State} (h_s : Kept z s) : KeptNext z (execCkIslSrcWrite i src s) := by
  unfold execCkIslSrcWrite
  try dsimp only
  repeat' (first | with_reducible assumption | exact rfl | with_reducible apply byHost_kept | with_reducible apply wr_kept | with_reducible apply wri_kept | with_reducible apply next_kept | split | dsimp only | intro _)

theorem settleFloor_kept {z : Fixed} {s : State} {t : Nat} (h_s : Kept z s) : Kept z (State.settleFloor s t) := by
  unfold State.settleFloor
  try dsimp only
  repeat' (first | with_reducible assumption | with_reducible apply runAt_kept | split | dsimp only)

theorem stepToward_kept {z : Fixed} {s : State} {t : Nat} {w : Nat} (h_s : Kept z s) : Kept z (State.stepToward s t w) := by
  unfold State.stepToward
  try dsimp only
  repeat' (first | with_reducible assumption | with_reducible apply runAt_kept | split | dsimp only)

theorem execPstateChange_kept {z : Fixed} {t : Fin 8} {s : State} (h_s : Kept z s) : KeptNext z (execPstateChange t s) := by
  unfold execPstateChange
  try dsimp only
  repeat' (first | with_reducible assumption | with_reducible apply settleFloor_kept | with_reducible apply stepToward_kept | with_reducible apply next_kept | split | dsimp only)

theorem setAuto_kept {z : Fixed} {s : State} {t : Nat} {p : Nat} (h_s : Kept z s) : Kept z (State.setAuto s t p) := by
  unfold State.setAuto
  try dsimp only
  repeat' (first | with_reducible assumption | dsimp only | with_reducible apply kept_mk)

theorem execAutoPstateStep_kept {z : Fixed} {t : Fin 8} {s : State} (h_s : Kept z s) : KeptNext z (execAutoPstateStep t s) := by
  unfold execAutoPstateStep
  try dsimp only
  repeat' (first | with_reducible assumption | with_reducible apply setAuto_kept | with_reducible apply next_kept | split | dsimp only)

theorem execDroop_kept {z : Fixed} {t : Fin 8} {s : State} (h_s : Kept z s) : KeptNext z (execDroop t s) := by
  unfold execDroop
  try dsimp only
  repeat' (first | with_reducible assumption | exact fun _ => rfl | with_reducible apply addSat_kept | with_reducible apply next_kept | split | dsimp only | with_reducible apply kept_mk)

theorem execDroopHoldExpiry_kept {z : Fixed} {t : Fin 8} {s : State} (h_s : Kept z s) : KeptNext z (execDroopHoldExpiry t s) := by
  unfold execDroopHoldExpiry
  try dsimp only
  repeat' (first | with_reducible assumption | exact fun _ => rfl | with_reducible apply takeFree_kept2 | with_reducible apply addWrap_kept | with_reducible apply next_kept | with_reducible refine takeFree_kept (by with_reducible assumption) ?_ | split | dsimp only | with_reducible apply kept_mk | intro _)

theorem floorThresher_kept {z : Fixed} {s : State} {t : Nat} (h_s : Kept z s) : Kept z (State.floorThresher s t) := by
  unfold State.floorThresher
  try dsimp only
  repeat' (first | with_reducible assumption | exact rfl | with_reducible apply wri_kept | split | dsimp only | with_reducible apply kept_mk)

theorem enterFloor_kept {z : Fixed} {s : State} (h_s : Kept z s) : Kept z (State.enterFloor s) := by
  unfold State.enterFloor
  try dsimp only
  repeat' (first | with_reducible assumption | with_reducible apply floorThresher_kept | with_reducible apply foldl_kept | dsimp only | intro _)

theorem execPwAlertAssert_kept {z : Fixed} {s : State} (h_s : Kept z s) : KeptNext z (execPwAlertAssert s) := by
  unfold execPwAlertAssert
  try dsimp only
  repeat' (first | with_reducible assumption | exact rfl | exact fun _ => rfl | with_reducible apply wr_kept | with_reducible apply addSat_kept | with_reducible apply raiseFlag5_kept | with_reducible apply enterFloor_kept | with_reducible apply showFracs_kept | with_reducible apply notePin_kept | with_reducible apply next_kept | split | dsimp only | with_reducible apply kept_mk)

theorem execPwAlertRelease_kept {z : Fixed} {s : State} (h_s : Kept z s) : KeptNext z (execPwAlertRelease s) := by
  unfold execPwAlertRelease
  try dsimp only
  repeat' (first | with_reducible assumption | with_reducible apply next_kept | split | dsimp only | with_reducible apply kept_mk)

theorem execFloorHoldExpiry_kept {z : Fixed} {s : State} (h_s : Kept z s) : KeptNext z (execFloorHoldExpiry s) := by
  unfold execFloorHoldExpiry
  try dsimp only
  repeat' (first | with_reducible assumption | exact rfl | with_reducible apply keepDivided_kept | with_reducible apply settleFloor_kept | with_reducible apply wri_kept | with_reducible apply showFracs_kept | with_reducible apply wr_kept | with_reducible apply foldl_kept | with_reducible apply next_kept | split | dsimp only | with_reducible apply kept_mk | intro _)

theorem execFloorReturnStep_kept {z : Fixed} {s : State} (h_s : Kept z s) : KeptNext z (execFloorReturnStep s) := by
  unfold execFloorReturnStep
  try dsimp only
  repeat' (first | with_reducible assumption | with_reducible apply stepToward_kept | with_reducible apply foldl_kept | with_reducible apply next_kept | split | dsimp only | with_reducible apply kept_mk | intro _)

theorem failSensor_kept {z : Fixed} {s : State} {i : Sensor} (h_s : Kept z s) : Kept z (State.failSensor s i) := by
  unfold State.failSensor
  try dsimp only
  repeat' (first | with_reducible assumption | exact rfl | with_reducible apply wr_kept | split | dsimp only | with_reducible apply kept_mk | intro _)

theorem stackHeat_kept {z : Fixed} {s : State} {k : Nat} {temp : Int} (h_s : Kept z s) : Kept z (State.stackHeat s k temp) := by
  unfold State.stackHeat
  try dsimp only
  repeat' (first | with_reducible assumption | split | dsimp only | with_reducible apply kept_mk | intro _)

theorem execSensorSample_kept {z : Fixed} {i : Sensor} {temp : Nat} {ok : Bool} {s : State} (h_s : Kept z s) : KeptNext z (execSensorSample i temp ok s) := by
  unfold execSensorSample
  try dsimp only
  repeat' (first | with_reducible assumption | exact rfl | with_reducible apply wri_kept | with_reducible apply noteHeat_kept | with_reducible apply stackHeat_kept | with_reducible apply notePin_kept | with_reducible apply failSensor_kept | exact sensor_legal.1 | exact sensor_legal.2 | with_reducible apply next_kept | with_reducible apply refusal_kept | split | dsimp only | with_reducible apply kept_mk | intro _)

theorem setHeat_kept {z : Fixed} {s : State} {t : Nat} {p : Nat} (h_s : Kept z s) : Kept z (State.setHeat s t p) := by
  unfold State.setHeat
  try dsimp only
  repeat' (first | with_reducible assumption | dsimp only | with_reducible apply kept_mk)

theorem execThrottleStep_kept {z : Fixed} {t : Fin 8} {s : State} (h_s : Kept z s) : KeptNext z (execThrottleStep t s) := by
  unfold execThrottleStep
  try dsimp only
  repeat' (first | with_reducible assumption | exact fun _ => rfl | with_reducible apply notePin_kept | with_reducible apply noteHeat_kept | with_reducible apply addSat_kept | with_reducible apply setHeat_kept | with_reducible apply next_kept | split | dsimp only)

theorem applyProfile_kept {z : Fixed} {s : State} {p : Nat} (h_s : Kept z s) : Kept z (State.applyProfile s p) := by
  unfold State.applyProfile
  try dsimp only
  repeat' (first | with_reducible assumption | exact rfl | with_reducible apply notePin_kept | with_reducible apply wr_kept | split | dsimp only)

theorem beginProfile_kept {z : Fixed} {s : State} {p : Nat} (h_s : Kept z s) : Kept z (State.beginProfile s p) := by
  unfold State.beginProfile
  try dsimp only
  repeat' (first | with_reducible assumption | with_reducible apply applyProfile_kept | dsimp only | with_reducible apply kept_mk)

theorem writeProfile_kept {z : Fixed} {s : State} {v : Nat} (h_s : Kept z s) : Kept z (State.writeProfile s v) := by
  unfold State.writeProfile
  try dsimp only
  repeat' (first | with_reducible assumption | exact rfl | with_reducible apply wr_kept | with_reducible apply orAfter_kept | with_reducible apply beginProfile_kept | split | dsimp only | intro _)

theorem writeCap_kept {z : Fixed} {s : State} {v : Nat} (h_s : Kept z s) : Kept z (State.writeCap s v) := by
  unfold State.writeCap
  try dsimp only
  repeat' (first | with_reducible assumption | exact rfl | with_reducible apply wr_kept | with_reducible exact cap_legal (by with_reducible assumption) | split | dsimp only)

theorem execPwProfileWrite_kept {z : Fixed} {value : Nat} {s : State} (h_s : Kept z s) : KeptNext z (execPwProfileWrite value s) := by
  unfold execPwProfileWrite
  try dsimp only
  repeat' (first | with_reducible assumption | with_reducible apply byHost_kept | with_reducible apply writeProfile_kept | with_reducible apply next_kept | with_reducible apply refusal_kept | split | dsimp only | intro _)

theorem execPwCapWrite_kept {z : Fixed} {value : Nat} {s : State} (h_s : Kept z s) : KeptNext z (execPwCapWrite value s) := by
  unfold execPwCapWrite
  try dsimp only
  repeat' (first | with_reducible assumption | with_reducible apply byHost_kept | with_reducible apply writeCap_kept | with_reducible apply next_kept | with_reducible apply refusal_kept | split | dsimp only | intro _)

theorem execPwPrioWrite_kept {z : Fixed} {value : Nat} {s : State} (h_s : Kept z s) : KeptNext z (execPwPrioWrite value s) := by
  unfold execPwPrioWrite
  try dsimp only
  repeat' (first | with_reducible assumption | exact rfl | with_reducible apply byHost_kept | with_reducible apply wr_kept | with_reducible apply next_kept | with_reducible apply refusal_kept | split | dsimp only | intro _)

theorem dropMem_kept {z : Fixed} {s : State} {lo n : Nat} (h_s : Kept z s) : Kept z (s.dropMem lo n) := by
  obtain ⟨⟨h1, h2, h3, h4, h5⟩, h6⟩ := h_s
  exact ⟨⟨h1, h2, Tbl.wf_filter _ h3, Tbl.wf_filter _ h4, Tbl.wf_filter _ h5⟩, h6⟩

theorem dropUnits_kept {z : Fixed} {s : State} {d : Nat} (h_s : Kept z s) : Kept z (State.dropUnits s d) := by
  unfold State.dropUnits
  try dsimp only
  repeat' (first | with_reducible assumption | exact rfl | exact fun _ => rfl | with_reducible apply dropMem_kept | with_reducible apply wri_kept | with_reducible apply wrBit_kept | with_reducible apply keepDivided_kept | with_reducible apply foldl_kept | with_reducible apply foldl_kept1 | with_reducible apply foldl_kept2 | split | dsimp only | with_reducible apply kept_mk | intro _)

theorem dropDomain_kept {z : Fixed} {s : State} {d : Nat} (h_s : Kept z s) : Kept z (s.dropDomain d) := by
  obtain ⟨⟨h1, h2, h3, h4, h5⟩, h6⟩ := dropUnits_kept (d := d) h_s
  exact ⟨⟨Tbl.rising_filter _ h1, fun e he => h2 e (List.mem_filter.1 he).1, h3, h4, h5⟩, h6⟩

theorem execPwDomWrite_kept {z : Fixed} {d : Fin 20} {off : Bool} {s : State} (h_s : Kept z s) : KeptNext z (execPwDomWrite d off s) := by
  unfold execPwDomWrite
  try dsimp only
  repeat' (first | with_reducible assumption | exact rfl | with_reducible apply byHost_kept | with_reducible apply wri_kept | with_reducible apply next_kept | split | dsimp only | intro _)

theorem switchOff_kept {z : Fixed} {s : State} {d : Nat} (h_s : Kept z s) : Kept z (State.switchOff s d) := by
  unfold State.switchOff
  try dsimp only
  repeat' (first | with_reducible assumption | exact rfl | with_reducible apply noteHeat_kept | with_reducible apply wri_kept | with_reducible apply dropDomain_kept | dsimp only)

theorem switchOn_kept {z : Fixed} {s : State} {d : Nat} (h_s : Kept z s) : Kept z (State.switchOn s d) := by
  unfold State.switchOn
  try dsimp only
  repeat' (first | with_reducible assumption | exact rfl | with_reducible apply wri_kept | with_reducible apply floorThresher_kept | split | dsimp only)

theorem execEnterIdle_kept {z : Fixed} {s : State} (h_s : Kept z s) : KeptNext z (execEnterIdle s) := by
  unfold execEnterIdle
  try dsimp only
  repeat' (first | with_reducible assumption | exact rfl | with_reducible apply byHost_kept | with_reducible apply wr_kept | with_reducible apply next_kept | split | dsimp only | intro _)

theorem execLeaveIdle_kept {z : Fixed} {access : Bool} {s : State} (h_s : Kept z s) : KeptNext z (execLeaveIdle access s) := by
  unfold execLeaveIdle
  try dsimp only
  repeat' (first | with_reducible assumption | with_reducible apply leaveIdle_kept | with_reducible apply byHost_kept | with_reducible apply next_kept | split | dsimp only)

end Sys2Proof.Machine
end

