-- ==== Sys2Proof/Laws/KeptErrors.lean ====
section
/-! SUPPORT. What the operations of Machine/Errors.lean keep (Kept), one law for each. -/

set_option linter.unusedTactic false
set_option linter.unreachableTactic false

namespace Sys2Proof.Machine

theorem setService_kept {z : Fixed} {s : State} {v : Nat} (hv : v ≤ 5) (h_s : Kept z s) :
    Kept z (s.setService v) := by
  have hl : fieldLegal .ER_SERVICE_STATE (v % 2 ^ F.ER_SERVICE_STATE.info.width) = true := by
    have : v % 2 ^ F.ER_SERVICE_STATE.info.width ≤ v := Nat.mod_le _ _
    simp only [fieldLegal, decide_eq_true_eq]
    omega
  unfold State.setService
  try dsimp only
  repeat' (first | with_reducible assumption | exact hl | exact rfl | with_reducible apply wr_kept | with_reducible apply msix_kept | split)

theorem faultQueues_kept {z : Fixed} {s : State} {l : List Nat} {spared : List Nat} {c : E} (h_s : Kept z s) : Kept z (State.faultQueues s l spared c) := by
  unfold State.faultQueues
  try dsimp only
  repeat' (first | with_reducible assumption | with_reducible apply engineFault_kept | with_reducible apply foldl_kept | split | dsimp only | intro _)

theorem killPorts_kept {z : Fixed} {s : State} {l : List Nat} (h_s : Kept z s) : Kept z (State.killPorts s l) := by
  unfold State.killPorts
  try dsimp only
  repeat' (first | with_reducible assumption | with_reducible apply killPort_kept | with_reducible apply foldl_kept | split | dsimp only | intro _)

theorem goFatal_kept {z : Fixed} {s : State} {c : E} {unit : Nat} {inst : Nat} {sub : Nat} {detail : Nat} {st : Nat} (hv : st ≤ 5) (h_s : Kept z s) : Kept z (State.goFatal s c unit inst sub detail st) := by
  unfold State.goFatal
  try dsimp only
  repeat' (first | with_reducible assumption | exact rfl | with_reducible apply raise_kept | with_reducible apply setService_kept | with_reducible apply wr_kept | with_reducible apply faultQueues_kept | with_reducible apply killPorts_kept | exact hv | split | dsimp only | omega)

theorem faultBayWaiters_kept {z : Fixed} {s : State} {b : Nat} (h_s : Kept z s) : Kept z (State.faultBayWaiters s b) := by
  unfold State.faultBayWaiters
  try dsimp only
  repeat' (first | with_reducible assumption | with_reducible apply faultQueues_kept | dsimp only | intro _)

theorem endMasked_kept {z : Fixed} {s : State} {b : Nat} (h_s : Kept z s) : Kept z (State.endMasked s b) := by
  unfold State.endMasked
  try dsimp only
  repeat' (first | with_reducible assumption | with_reducible apply endRscat_kept | with_reducible apply foldl_kept | dsimp only | intro _)

theorem faultBay_kept {z : Fixed} {s : State} {b : Nat} {c : E} (h_s : Kept z s) : Kept z (State.faultBay s b c) := by
  unfold State.faultBay
  try dsimp only
  repeat' (first | with_reducible assumption | exact rfl | exact fun _ => rfl | with_reducible apply raise_kept | with_reducible apply wr_kept | with_reducible apply wrBit_kept | with_reducible apply endMasked_kept | with_reducible apply faultBayWaiters_kept | with_reducible apply faultQueues_kept | with_reducible apply killPorts_kept | with_reducible apply goFatal_kept | split | dsimp only | omega)

theorem execBayFault_kept {z : Fixed} {b : Fin 4} {cause : BayCause} {s : State} (h_s : Kept z s) : KeptNext z (execBayFault b cause s) := by
  unfold execBayFault
  try dsimp only
  repeat' (first | with_reducible assumption | with_reducible apply faultBay_kept | with_reducible apply next_kept | split | dsimp only)

theorem execMeshLinkRetrain_kept {z : Fixed} {b : Fin 4} {ok : Bool} {s : State} (h_s : Kept z s) : KeptNext z (execMeshLinkRetrain b ok s) := by
  unfold execMeshLinkRetrain
  try dsimp only
  repeat' (first | with_reducible assumption | with_reducible apply byFw_kept | with_reducible apply faultBay_kept | with_reducible apply next_kept | split | dsimp only | intro _)

theorem execModuleFatal_kept {z : Fixed} {cause : FatalCause} {s : State} (h_s : Kept z s) : KeptNext z (execModuleFatal cause s) := by
  unfold execModuleFatal
  try dsimp only
  repeat' (first | with_reducible assumption | with_reducible apply goFatal_kept | with_reducible apply next_kept | split | dsimp only | omega)

theorem execMcWdog_kept {z : Fixed} {s : State} (h_s : Kept z s) : KeptNext z (execMcWdog s) := by
  unfold execMcWdog
  try dsimp only
  repeat' (first | with_reducible assumption | with_reducible apply byFw_kept | with_reducible apply goFatal_kept | with_reducible apply next_kept | dsimp only | with_reducible apply kept_mk | omega | intro _)

theorem execLogPop_kept {z : Fixed} {s : State} (h_s : Kept z s) : KeptNext z (execLogPop s) := by
  unfold execLogPop
  try dsimp only
  repeat' (first | with_reducible assumption | with_reducible apply byHost_kept | with_reducible apply next_kept | dsimp only | with_reducible apply kept_mk | intro _)

theorem showPin_kept {z : Fixed} {s : State} {n : Nat} {outside : Nat} (h_s : Kept z s) : Kept z (State.showPin s n outside) := by
  unfold State.showPin
  try dsimp only
  repeat' (first | with_reducible assumption | exact rfl | with_reducible apply wri_kept | dsimp only)

theorem setPin_kept {z : Fixed} {s : State} {n : Nat} {who : Nat} {fn : Nat} (h_s : Kept z s) : Kept z (State.setPin s n who fn) := by
  unfold State.setPin
  try dsimp only
  repeat' (first | with_reducible assumption | exact rfl | with_reducible apply wri_kept | split | dsimp only)

theorem hostFn_kept {z : Fixed} {s : State} {n : Nat} {fn : Nat} (h_s : Kept z s) : Kept z (State.hostFn s n fn) := by
  unfold State.hostFn
  try dsimp only
  repeat' (first | with_reducible assumption | exact rfl | with_reducible apply setPin_kept | with_reducible apply wr_kept | split | dsimp only)

theorem hostOut_kept {z : Fixed} {s : State} {n : Nat} {fn : Nat} {out : Nat} {owned : Bool} (h_s : Kept z s) : Kept z (State.hostOut s n fn out owned) := by
  unfold State.hostOut
  try dsimp only
  repeat' (first | with_reducible assumption | exact rfl | with_reducible apply wri_kept | with_reducible apply wr_kept | split | dsimp only)

theorem hostPin_kept {z : Fixed} {s : State} {n : Nat} {v : Nat} (h_s : Kept z s) : Kept z (State.hostPin s n v) := by
  unfold State.hostPin
  try dsimp only
  repeat' (first | with_reducible assumption | exact rfl | with_reducible apply wri_kept | with_reducible apply showPin_kept | with_reducible apply hostOut_kept | with_reducible apply hostFn_kept | split | dsimp only)

theorem execGpioWrite_kept {z : Fixed} {n : Fin 4} {value : Nat} {s : State} (h_s : Kept z s) : KeptNext z (execGpioWrite n value s) := by
  unfold execGpioWrite
  try dsimp only
  repeat' (first | with_reducible assumption | with_reducible apply byHost_kept | with_reducible apply hostPin_kept | with_reducible apply next_kept | with_reducible apply refusal_kept | split | dsimp only | intro _)

theorem execAttentionEdge_kept {z : Fixed} {n : Fin 4} {s : State} (h_s : Kept z s) : KeptNext z (execAttentionEdge n s) := by
  unfold execAttentionEdge
  try dsimp only
  repeat' (first | with_reducible assumption | exact rfl | with_reducible apply wri_kept | with_reducible apply next_kept | split | dsimp only)

end Sys2Proof.Machine
end

