-- ==== Sys2Proof/Laws/KeptReset.lean ====
section
/-! SUPPORT. What the operations of Machine/Reset.lean keep (Kept), one law for each. -/

set_option linter.unusedTactic false
set_option linter.unreachableTactic false

namespace Sys2Proof.Machine

theorem cleared_kept {z : Fixed} {s : State} {keep : List F} (h_s : Kept z s) : Kept z (s.cleared keep) := by
  obtain ⟨⟨h1, h2, h3, h4, h5⟩, h6⟩ := h_s
  exact ⟨⟨Tbl.rising_filter _ h1, fun e he => h2 e (List.mem_filter.1 he).1, rfl, rfl, rfl⟩, h6⟩

theorem holdFor_kept {z : Fixed} {s : State} {keep : List F} {cs : List Nat} (h_s : Kept z s) : Kept z (State.holdFor s keep cs) := by
  unfold State.holdFor
  try dsimp only
  repeat' (first | with_reducible assumption | exact rfl | with_reducible apply cleared_kept | with_reducible apply wr_kept | dsimp only | with_reducible apply kept_mk)

theorem resetTo_kept {z : Fixed} {s : State} {c : Nat} (h_s : Kept z s) : Kept z (State.resetTo s c) := by
  unfold State.resetTo
  try dsimp only
  repeat' (first | with_reducible assumption | with_reducible apply holdFor_kept | split | dsimp only)

theorem execPowerOn_kept {z : Fixed} {s : State} (h_s : Kept z s) : KeptNext z (execPowerOn s) := by
  unfold execPowerOn
  try dsimp only
  repeat' (first | with_reducible assumption | with_reducible apply holdFor_kept | with_reducible apply next_kept | split | dsimp only)

theorem execPowerLoss_kept {z : Fixed} {s : State} (h_s : Kept z s) : KeptNext z (execPowerLoss s) := by
  unfold execPowerLoss
  try dsimp only
  repeat' (first | with_reducible assumption | exact rfl | with_reducible apply holdFor_kept | with_reducible apply wr_kept | with_reducible apply next_kept | split | dsimp only | with_reducible apply kept_mk)

theorem execPerstAssert_kept {z : Fixed} {s : State} (h_s : Kept z s) : KeptNext z (execPerstAssert s) := by
  unfold execPerstAssert
  try dsimp only
  repeat' (first | with_reducible assumption | with_reducible apply resetTo_kept | with_reducible apply next_kept | split | dsimp only | with_reducible apply kept_mk)

theorem execPerstRelease_kept {z : Fixed} {s : State} (h_s : Kept z s) : KeptNext z (execPerstRelease s) := by
  unfold execPerstRelease
  try dsimp only
  repeat' (first | with_reducible assumption | with_reducible apply next_kept | dsimp only | with_reducible apply kept_mk)

theorem execHotReset_kept {z : Fixed} {cause : HotCause} {s : State} (h_s : Kept z s) : KeptNext z (execHotReset cause s) := by
  unfold execHotReset
  try dsimp only
  repeat' (first | with_reducible assumption | with_reducible apply resetTo_kept | with_reducible apply next_kept | split | dsimp only)

theorem execFlr_kept {z : Fixed} {s : State} (h_s : Kept z s) : KeptNext z (execFlr s) := by
  unfold execFlr
  try dsimp only
  repeat' (first | with_reducible assumption | with_reducible apply byHost_kept | with_reducible apply resetTo_kept | with_reducible apply next_kept | dsimp only | with_reducible apply kept_mk | intro _)

theorem execErResetKey_kept {z : Fixed} {key : Nat} {s : State} (h_s : Kept z s) : KeptNext z (execErResetKey key s) := by
  unfold execErResetKey
  try dsimp only
  repeat' (first | with_reducible assumption | with_reducible apply byHost_kept | with_reducible apply resetTo_kept | with_reducible apply next_kept | with_reducible apply refusal_kept | split | dsimp only | intro _)

theorem execClkTimeout_kept {z : Fixed} {s : State} (h_s : Kept z s) : KeptNext z (execClkTimeout s) := by
  unfold execClkTimeout
  try dsimp only
  repeat' (first | with_reducible assumption | with_reducible apply resetTo_kept | with_reducible apply next_kept | split | dsimp only)

theorem allOff_kept {z : Fixed} {s : State} {keep : List F} (h_s : Kept z s) : Kept z (State.allOff s keep) := by
  unfold State.allOff
  try dsimp only
  repeat' (first | with_reducible assumption | exact rfl | with_reducible apply wri_kept | with_reducible apply cleared_kept | with_reducible apply foldl_kept | dsimp only | intro _)

theorem goDormant_kept {z : Fixed} {s : State} (h_s : Kept z s) : Kept z (State.goDormant s) := by
  unfold State.goDormant
  try dsimp only
  repeat' (first | with_reducible assumption | with_reducible apply allOff_kept | dsimp only | with_reducible apply kept_mk)

theorem execEnterDormant_kept {z : Fixed} {s : State} (h_s : Kept z s) : KeptNext z (execEnterDormant s) := by
  unfold execEnterDormant
  try dsimp only
  repeat' (first | with_reducible assumption | exact rfl | with_reducible apply byHost_kept | with_reducible apply goDormant_kept | with_reducible apply wr_kept | with_reducible apply next_kept | split | dsimp only | intro _)

theorem wakeBy_kept {z : Fixed} {s : State} {source : Nat} {p : Nat} (h_s : Kept z s) : Kept z (State.wakeBy s source p) := by
  unfold State.wakeBy
  try dsimp only
  repeat' (first | with_reducible assumption | exact rfl | with_reducible apply resetTo_kept | with_reducible apply wr_kept | dsimp only)

theorem execWake_kept {z : Fixed} {seen : WakeSeen} {s : State} (h_s : Kept z s) : KeptNext z (execWake seen s) := by
  unfold execWake
  try dsimp only
  repeat' (first | with_reducible assumption | with_reducible apply wakeBy_kept | with_reducible apply next_kept | with_reducible apply refusal_kept | split | dsimp only)

theorem execThermtrip_kept {z : Fixed} {i : Sensor} {s : State} (h_s : Kept z s) : KeptNext z (execThermtrip i s) := by
  unfold execThermtrip
  try dsimp only
  repeat' (first | with_reducible assumption | exact rfl | with_reducible apply allOff_kept | with_reducible apply wr_kept | with_reducible apply next_kept | split | dsimp only | with_reducible apply kept_mk)

theorem execBootRom_kept {z : Fixed} {s : State} (h_s : Kept z s) : KeptNext z (execBootRom s) := by
  unfold execBootRom
  try dsimp only
  repeat' (first | with_reducible assumption | exact rfl | with_reducible apply wr_kept | with_reducible apply foldl_kept | with_reducible apply next_kept | split | dsimp only | with_reducible apply kept_mk | intro _)

theorem execStagingWrite_kept {z : Fixed} {offset : Nat} {data : List Byte} {s : State} (h_s : Kept z s) : KeptNext z (execStagingWrite offset data s) := by
  unfold execStagingWrite
  try dsimp only
  repeat' (first | with_reducible assumption | exact rfl | with_reducible apply byHost_kept | with_reducible apply wr_kept | with_reducible apply foldl_kept | with_reducible apply next_kept | with_reducible apply refusal_kept | split | dsimp only | with_reducible apply kept_mk | intro _)

theorem execFwGo_kept {z : Fixed} {length : Nat} {s : State} (h_s : Kept z s) : KeptNext z (execFwGo length s) := by
  unfold execFwGo
  try dsimp only
  repeat' (first | with_reducible assumption | exact rfl | with_reducible apply byHost_kept | with_reducible apply wr_kept | with_reducible apply next_kept | with_reducible apply refusal_kept | split | dsimp only | intro _)

theorem runImage_kept {z : Fixed} {s : State} (h_s : Kept z s) : Kept z (State.runImage s) := by
  unfold State.runImage
  try dsimp only
  repeat' (first | with_reducible assumption | exact rfl | with_reducible apply wri_kept | with_reducible apply wr_kept | with_reducible apply setService_kept | with_reducible apply foldl_kept | dsimp only | with_reducible apply kept_mk | omega | intro _)

theorem execFwVerifyDone_kept {z : Fixed} {s : State} (h_s : Kept z s) : KeptNext z (execFwVerifyDone s) := by
  unfold execFwVerifyDone
  try dsimp only
  repeat' (first | with_reducible assumption | exact rfl | with_reducible apply wr_kept | with_reducible apply runImage_kept | with_reducible apply next_kept | split | dsimp only | with_reducible apply kept_mk)

theorem loadBudgets_kept {z : Fixed} {s : State} {l : List Nat} (h_s : Kept z s) : Kept z (State.loadBudgets s l) := by
  unfold State.loadBudgets
  try dsimp only
  repeat' (first | with_reducible assumption | exact rfl | with_reducible apply wri_kept | with_reducible apply foldl_kept | split | dsimp only | with_reducible apply kept_mk | intro _)

theorem loadFru_kept {z : Fixed} {s : State} {r : Fru} (h_s : Kept z s) : Kept z (State.loadFru s r) := by
  unfold State.loadFru
  try dsimp only
  repeat' (first | with_reducible assumption | exact rfl | with_reducible apply loadBudgets_kept | with_reducible apply wr_kept | split | dsimp only)

theorem execFruRead_kept {z : Fixed} {rec : Fru} {s : State} (h_s : Kept z s) : KeptNext z (execFruRead rec s) := by
  unfold execFruRead
  try dsimp only
  repeat' (first | with_reducible assumption | with_reducible apply byFw_kept | with_reducible apply loadFru_kept | with_reducible apply next_kept | with_reducible apply refusal_kept | split | dsimp only | intro _)

theorem execListDone_kept {z : Fixed} {s : State} (h_s : Kept z s) : KeptNext z (execListDone s) := by
  unfold execListDone
  try dsimp only
  repeat' (first | with_reducible assumption | exact rfl | with_reducible apply byHost_kept | with_reducible apply wr_kept | with_reducible apply next_kept | dsimp only | intro _)

theorem bistArray_kept {z : Fixed} {s : State} {t : Nat} {pass : Bool} (h_s : Kept z s) : Kept z (State.bistArray s t pass) := by
  unfold State.bistArray
  try dsimp only
  repeat' (first | with_reducible assumption | exact rfl | exact fun _ => rfl | with_reducible apply wrBit_kept | with_reducible apply raise_kept | with_reducible apply switchOff_kept | with_reducible apply wri_kept | split | dsimp only)

theorem bistTurner_kept {z : Fixed} {s : State} {t : Nat} {pass : Bool} (h_s : Kept z s) : Kept z (State.bistTurner s t pass) := by
  unfold State.bistTurner
  try dsimp only
  repeat' (first | with_reducible assumption | with_reducible apply raise_kept | with_reducible apply updTurner_kept | split | dsimp only | with_reducible apply kept_mk | intro _)

theorem execBistDone_kept {z : Fixed} {b : Fin 4} {arrays : Fin 4} {turners : Fin 4} {s : State} (h_s : Kept z s) : KeptNext z (execBistDone b arrays turners s) := by
  unfold execBistDone
  try dsimp only
  repeat' (first | with_reducible assumption | with_reducible apply byFw_kept | with_reducible apply bistTurner_kept | with_reducible apply bistArray_kept | with_reducible apply next_kept | split | dsimp only | intro _)

theorem execReduced_kept {z : Fixed} {s : State} (h_s : Kept z s) : KeptNext z (execReduced s) := by
  unfold execReduced
  try dsimp only
  repeat' (first | with_reducible assumption | with_reducible apply byFw_kept | with_reducible apply setService_kept | with_reducible apply next_kept | split | dsimp only | omega | intro _)

theorem execBringupComplete_kept {z : Fixed} {s : State} (h_s : Kept z s) : KeptNext z (execBringupComplete s) := by
  unfold execBringupComplete
  try dsimp only
  repeat' (first | with_reducible assumption | exact rfl | with_reducible apply byFw_kept | with_reducible apply msix_kept | with_reducible apply wr_kept | with_reducible apply next_kept | split | dsimp only | intro _)

theorem execReqFull_kept {z : Fixed} {s : State} (h_s : Kept z s) : KeptNext z (execReqFull s) := by
  unfold execReqFull
  try dsimp only
  repeat' (first | with_reducible assumption | exact rfl | with_reducible apply byHost_kept | with_reducible apply orAfter_kept | with_reducible apply setService_kept | with_reducible apply wr_kept | with_reducible apply next_kept | split | dsimp only | omega | intro _)

end Sys2Proof.Machine
end

