-- ==== Sys2Proof/Laws/KeptGranary.lean ====
section
/-! SUPPORT. What the operations of Machine/Granary.lean keep (Kept), one law for each. -/

set_option linter.unusedTactic false
set_option linter.unreachableTactic false

namespace Sys2Proof.Machine

theorem updGran_kept {z : Fixed} {s : State} {g : Granary → Granary} (h_s : Kept z s) : Kept z (State.updGran s g) := by
  unfold State.updGran
  try dsimp only
  repeat' (first | with_reducible assumption | dsimp only | with_reducible apply kept_mk)

theorem setSpare_kept {z : Fixed} {s : State} {k : Nat} {b : Nat} {j : Nat} {x : Spare} (h_s : Kept z s) : Kept z (State.setSpare s k b j x) := by
  unfold State.setSpare
  try dsimp only
  repeat' (first | with_reducible assumption | with_reducible apply updGran_kept | dsimp only | with_reducible apply kept_mk | intro _)

theorem postRecord_kept {z : Fixed} {s : State} {k : Nat} {r : Nat} {kind : Nat} {j : Nat} (h_s : Kept z s) : Kept z (State.postRecord s k r kind j) := by
  unfold State.postRecord
  try dsimp only
  repeat' (first | with_reducible assumption | exact rfl | with_reducible apply updGran_kept | with_reducible apply msix_kept | with_reducible apply wr_kept | split | dsimp only | with_reducible apply kept_mk | intro _)

theorem execRepairPop_kept {z : Fixed} {s : State} (h_s : Kept z s) : KeptNext z (execRepairPop s) := by
  unfold execRepairPop
  try dsimp only
  repeat' (first | with_reducible assumption | with_reducible apply byHost_kept | with_reducible apply updGran_kept | with_reducible apply next_kept | dsimp only | with_reducible apply kept_mk | intro _)

theorem noteSpares_kept {z : Fixed} {s : State} {k : Nat} (h_s : Kept z s) : Kept z (State.noteSpares s k) := by
  unfold State.noteSpares
  try dsimp only
  repeat' (first | with_reducible assumption | exact rfl | with_reducible apply wr_kept | with_reducible apply wri_kept | dsimp only | intro _)

theorem forgetRow_kept {z : Fixed} {s : State} {k : Nat} {r : Nat} (h_s : Kept z s) : Kept z (State.forgetRow s k r) := by
  unfold State.forgetRow
  try dsimp only
  repeat' (first | with_reducible assumption | with_reducible apply updGran_kept | dsimp only | with_reducible apply kept_mk | intro _)

theorem retireRow_kept {z : Fixed} {s : State} {k : Nat} {r : Nat} {post : Bool} (h_s : Kept z s) : Kept z (State.retireRow s k r post) := by
  unfold State.retireRow
  try dsimp only
  repeat' (first | with_reducible assumption | exact fun _ => rfl | with_reducible apply addSat_kept | with_reducible apply updGran_kept | with_reducible apply forgetRow_kept | with_reducible apply raise_kept | with_reducible apply postRecord_kept | split | dsimp only | with_reducible apply kept_mk | intro _)

theorem retireSpare_kept {z : Fixed} {s : State} {k : Nat} {b : Nat} {j : Nat} (h_s : Kept z s) : Kept z (State.retireSpare s k b j) := by
  unfold State.retireSpare
  try dsimp only
  repeat' (first | with_reducible assumption | exact fun _ => rfl | with_reducible apply addSat_kept | with_reducible apply setSpare_kept | dsimp only | with_reducible apply kept_mk)

theorem copyRow_kept {z : Fixed} {s : State} {k : Nat} {r : Nat} (h_s : Kept z s) : Kept z (State.copyRow s k r) := by
  unfold State.copyRow
  try dsimp only
  repeat' (first | with_reducible assumption | with_reducible apply rewritten_kept | with_reducible apply sense_kept | with_reducible apply foldl_kept | split | dsimp only | intro _)

theorem moveRow_kept {z : Fixed} {s : State} {k : Nat} {r : Nat} (h_s : Kept z s) : Kept z (State.moveRow s k r) := by
  unfold State.moveRow
  try dsimp only
  repeat' (first | with_reducible assumption | with_reducible apply retireRow_kept | with_reducible apply forgetRow_kept | with_reducible apply copyRow_kept | with_reducible apply setSpare_kept | with_reducible apply raise_kept | with_reducible apply postRecord_kept | split | dsimp only | with_reducible apply kept_mk)

theorem repairRow_kept {z : Fixed} {s : State} {k : Nat} {r : Nat} (h_s : Kept z s) : Kept z (State.repairRow s k r) := by
  unfold State.repairRow
  try dsimp only
  repeat' (first | with_reducible assumption | with_reducible apply postRecord_kept | with_reducible apply retireSpare_kept | with_reducible apply noteSpares_kept | with_reducible apply moveRow_kept | split | dsimp only)

theorem execRepairRequest_kept {z : Fixed} {k : Fin 24} {pch : Fin 64} {bank : Fin 64} {row : Fin 32768} {s : State} (h_s : Kept z s) : KeptNext z (execRepairRequest k pch bank row s) := by
  unfold execRepairRequest
  try dsimp only
  repeat' (first | with_reducible assumption | with_reducible apply byFw_kept | with_reducible apply repairRow_kept | with_reducible apply next_kept | split | dsimp only | intro _)

theorem refreshId_kept {z : Fixed} {s : State} {k : Nat} {used : Nat} {ret : Nat} (h_s : Kept z s) : Kept z (State.refreshId s k used ret) := by
  unfold State.refreshId
  try dsimp only
  repeat' (first | with_reducible assumption | exact rfl | with_reducible apply wri_kept | dsimp only)

theorem hardenSpare_kept {z : Fixed} {s : State} {e : Nat × Spare} (h_s : Kept z s) : Kept z (State.hardenSpare s e) := by
  unfold State.hardenSpare
  try dsimp only
  repeat' (first | with_reducible assumption | with_reducible apply refreshId_kept | with_reducible apply setSpare_kept | with_reducible apply postRecord_kept | split | dsimp only | with_reducible apply kept_mk)

theorem hardenAll_kept {z : Fixed} {s : State} (h_s : Kept z s) : Kept z (State.hardenAll s) := by
  unfold State.hardenAll
  try dsimp only
  repeat' (first | with_reducible assumption | with_reducible apply hardenSpare_kept | with_reducible apply noteSpares_kept | with_reducible apply foldl_kept | dsimp only | intro _)

theorem execQuietPoint_kept {z : Fixed} {s : State} (h_s : Kept z s) : KeptNext z (execQuietPoint s) := by
  unfold execQuietPoint
  try dsimp only
  repeat' (first | with_reducible assumption | with_reducible apply byFw_kept | with_reducible apply hardenAll_kept | with_reducible apply next_kept | split | dsimp only | intro _)

theorem applyEntry_kept {z : Fixed} {s : State} {w : Nat} (h_s : Kept z s) : Kept z (State.applyEntry s w) := by
  unfold State.applyEntry
  try dsimp only
  repeat' (first | with_reducible assumption | with_reducible apply noteSpares_kept | with_reducible apply moveRow_kept | with_reducible apply retireRow_kept | with_reducible apply retireSpare_kept | split | dsimp only)

theorem execRlistEntry_kept {z : Fixed} {record : Nat} {s : State} (h_s : Kept z s) : KeptNext z (execRlistEntry record s) := by
  unfold execRlistEntry
  try dsimp only
  repeat' (first | with_reducible assumption | exact rfl | exact fun _ => rfl | with_reducible apply byHost_kept | with_reducible apply wr_kept | with_reducible apply addWrap_kept | with_reducible apply updGran_kept | with_reducible apply byFw_kept | with_reducible apply applyEntry_kept | with_reducible apply next_kept | with_reducible apply refusal_kept | split | dsimp only | with_reducible apply kept_mk | intro _)

theorem markTrained_kept {z : Fixed} {s : State} {k : Nat} (h_s : Kept z s) : Kept z (State.markTrained s k) := by
  unfold State.markTrained
  try dsimp only
  repeat' (first | with_reducible assumption | exact rfl | exact fun _ => rfl | with_reducible apply updGran_kept | with_reducible apply wrBit_kept | with_reducible apply wri_kept | dsimp only | with_reducible apply kept_mk | intro _)

theorem failStack_kept {z : Fixed} {s : State} {k : Nat} {reason : Nat} {ch : Nat} (h_s : Kept z s) : Kept z (State.failStack s k reason ch) := by
  unfold State.failStack
  try dsimp only
  repeat' (first | with_reducible assumption | exact rfl | exact fun _ => rfl | with_reducible apply wri_kept | with_reducible apply wr_kept | with_reducible apply wrBit_kept | with_reducible apply goFatal_kept | split | dsimp only | omega)

theorem trainStack_kept {z : Fixed} {s : State} {k : Nat} (h_s : Kept z s) : Kept z (State.trainStack s k) := by
  unfold State.trainStack
  try dsimp only
  repeat' (first | with_reducible assumption | with_reducible apply failStack_kept | with_reducible apply applyEntry_kept | with_reducible apply markTrained_kept | with_reducible apply foldl_kept | split | dsimp only | intro _)

theorem execStackTraining_kept {z : Fixed} {k : Fin 24} {s : State} (h_s : Kept z s) : KeptNext z (execStackTraining k s) := by
  unfold execStackTraining
  try dsimp only
  repeat' (first | with_reducible assumption | with_reducible apply byFw_kept | with_reducible apply trainStack_kept | with_reducible apply next_kept | split | dsimp only | intro _)

theorem execStackFail_kept {z : Fixed} {k : Fin 24} {reason : StackReason} {ch : Fin 32} {s : State} (h_s : Kept z s) : KeptNext z (execStackFail k reason ch s) := by
  unfold execStackFail
  try dsimp only
  repeat' (first | with_reducible assumption | with_reducible apply failStack_kept | with_reducible apply next_kept | split | dsimp only)

theorem execChannelRetrain_kept {z : Fixed} {k : Fin 24} {ch : Fin 32} {ok : Bool} {s : State} (h_s : Kept z s) : KeptNext z (execChannelRetrain k ch ok s) := by
  unfold execChannelRetrain
  try dsimp only
  repeat' (first | with_reducible assumption | with_reducible apply byFw_kept | with_reducible apply raise_kept | with_reducible apply failStack_kept | with_reducible apply next_kept | split | dsimp only | intro _)

theorem execInterleaveChange_kept {z : Fixed} {mode : Fin 2} {s : State} (h_s : Kept z s) : KeptNext z (execInterleaveChange mode s) := by
  unfold execInterleaveChange
  try dsimp only
  repeat' (first | with_reducible assumption | exact rfl | with_reducible apply byHost_kept | with_reducible apply wr_kept | with_reducible apply next_kept | split | dsimp only | with_reducible apply kept_mk | intro _)

theorem askScrub_kept {z : Fixed} {s : State} {mode : Nat} (h_s : Kept z s) : Kept z (State.askScrub s mode) := by
  unfold State.askScrub
  try dsimp only
  repeat' (first | with_reducible assumption | exact rfl | with_reducible apply wr_kept | split | dsimp only | with_reducible apply kept_mk)

theorem execScrubChange_kept {z : Fixed} {mode : Fin 4} {s : State} (h_s : Kept z s) : KeptNext z (execScrubChange mode s) := by
  unfold execScrubChange
  try dsimp only
  repeat' (first | with_reducible assumption | with_reducible apply byHost_kept | with_reducible apply askScrub_kept | with_reducible apply next_kept | dsimp only | intro _)

theorem scrubOn_kept {z : Fixed} {s : State} {k : Nat} {n : Nat} (h_s : Kept z s) : Kept z (State.scrubOn s k n) := by
  unfold State.scrubOn
  try dsimp only
  repeat' (first | with_reducible assumption | exact fun _ => rfl | with_reducible apply updGran_kept | with_reducible apply addWrap_kept | split | dsimp only | with_reducible apply kept_mk | intro _)

theorem scrubFinds_kept {z : Fixed} {s : State} {p : Nat} {x : Finding} (h_s : Kept z s) : Kept z (State.scrubFinds s p x) := by
  unfold State.scrubFinds
  try dsimp only
  repeat' (first | with_reducible assumption | with_reducible apply setFlaw_kept | split | dsimp only | with_reducible apply kept_mk)

theorem scrubAt_kept {z : Fixed} {s : State} {k : Nat} {x : SectorFinding} (h_s : Kept z s) : Kept z (State.scrubAt s k x) := by
  unfold State.scrubAt
  try dsimp only
  repeat' (first | with_reducible assumption | with_reducible apply scrubOn_kept | with_reducible apply rewritten_kept | with_reducible apply sense_kept | with_reducible apply scrubFinds_kept | split | dsimp only)

theorem execPackTimeout_kept {z : Fixed} {q : Fin 52} {k : Fin 24} {s : State} (h_s : Kept z s) : KeptNext z (execPackTimeout q k s) := by
  unfold execPackTimeout
  try dsimp only
  repeat' (first | with_reducible assumption | exact fun _ => rfl | with_reducible apply addSat_kept | with_reducible apply addWrap_kept | with_reducible apply updWork_kept | with_reducible apply next_kept | split | dsimp only | with_reducible apply kept_mk | intro _)

end Sys2Proof.Machine
end

