-- ==== Sys2Proof/Laws/KeptWindow.lean ====
section
/-! SUPPORT. What the operations of Machine/Window.lean keep (Kept), one law for each. -/

set_option linter.unusedTactic false
set_option linter.unreachableTactic false

namespace Sys2Proof.Machine

theorem windowSense_kept {z : Fixed} {s : State} {p : Nat × Nat} (h_s : Kept z s) : Kept z (State.windowSense s p) := by
  unfold State.windowSense
  try dsimp only
  repeat' (first | with_reducible assumption | with_reducible apply senseAt_kept | split | dsimp only)

theorem serveRead_kept {z : Fixed} {s : State} {w : Nat} {n : Nat} (h_s : Kept z s) : Kept z (State.serveRead s w n) := by
  unfold State.serveRead
  try dsimp only
  repeat' (first | with_reducible assumption | with_reducible apply windowSense_kept | with_reducible apply foldl_kept | split | dsimp only | with_reducible apply kept_mk | intro _)

theorem windowWritePiece_kept {z : Fixed} {x : State × Bool} {p : Nat × List PByte} (h_x : Kept z x.1) : Kept z (windowWritePiece x p).1 := by
  unfold windowWritePiece
  try dsimp only
  repeat' (first | with_reducible assumption | exact rfl | with_reducible apply wr_kept | with_reducible apply writeAt_kept | split | dsimp only)

theorem windowWritePiece_kept_eq {z : Fixed} {x : State × Bool} {p : Nat × List PByte} {s' : State} {r : Bool} (heq : windowWritePiece x p = (s', r)) (h_x : Kept z x.1) : Kept z s' := by
  have := windowWritePiece_kept (z := z) (x := x) (p := p) h_x
  rw [heq] at this
  exact this

theorem serveWrite_kept {z : Fixed} {s : State} {w : Nat} {data : List Byte} {ep : Bool} (h_s : Kept z s) : Kept z (State.serveWrite s w data ep) := by
  unfold State.serveWrite
  try dsimp only
  repeat' (first | with_reducible assumption | with_reducible apply windowWritePiece_kept | with_reducible apply raise_kept | with_reducible apply emit_kept | with_reducible apply foldl_kept | with_reducible apply foldl_kept1 | with_reducible apply foldl_kept2 | with_reducible refine windowWritePiece_kept_eq (by with_reducible assumption) ?_ | split | dsimp only | intro _)

theorem execMemoryWindowRead_kept {z : Fixed} {addr : Nat} {len : Nat} {s : State} (h_s : Kept z s) : KeptNext z (execMemoryWindowRead addr len s) := by
  unfold execMemoryWindowRead
  try dsimp only
  repeat' (first | with_reducible assumption | with_reducible apply byHost_kept | with_reducible apply leaveIdle_kept | with_reducible apply holdAccess_kept | with_reducible apply serveRead_kept | with_reducible apply next_kept | with_reducible apply refusal_kept | split | dsimp only | intro _)

theorem execMemoryWindowWrite_kept {z : Fixed} {addr : Nat} {data : List Byte} {ep : Bool} {s : State} (h_s : Kept z s) : KeptNext z (execMemoryWindowWrite addr data ep s) := by
  unfold execMemoryWindowWrite
  try dsimp only
  repeat' (first | with_reducible assumption | with_reducible apply byHost_kept | with_reducible apply leaveIdle_kept | with_reducible apply holdAccess_kept | with_reducible apply serveWrite_kept | with_reducible apply next_kept | with_reducible apply refusal_kept | split | dsimp only | intro _)

theorem execMwinOffsetWrite_kept {z : Fixed} {value : Nat} {s : State} (h_s : Kept z s) : KeptNext z (execMwinOffsetWrite value s) := by
  unfold execMwinOffsetWrite
  try dsimp only
  repeat' (first | with_reducible assumption | exact rfl | with_reducible apply byHost_kept | with_reducible apply wr_kept | with_reducible apply next_kept | with_reducible apply refusal_kept | split | dsimp only | intro _)

theorem execBarResize_kept {z : Fixed} {log2 : Nat} {s : State} (h_s : Kept z s) : KeptNext z (execBarResize log2 s) := by
  unfold execBarResize
  try dsimp only
  repeat' (first | with_reducible assumption | exact rfl | with_reducible apply byHost_kept | with_reducible apply wr_kept | with_reducible apply next_kept | with_reducible apply refusal_kept | split | dsimp only | with_reducible apply kept_mk | intro _)

theorem eventDone_kept {z : Fixed} {s : State} {e : EvtRec} (h_s : Kept z s) : Kept z (State.eventDone s e) := by
  unfold State.eventDone
  try dsimp only
  repeat' (first | with_reducible assumption | with_reducible apply settleEnd_kept | with_reducible apply complete_kept | split | dsimp only)

theorem execEventRelease_kept {z : Fixed} {s : State} (h_s : Kept z s) : KeptNext z (execEventRelease s) := by
  unfold execEventRelease
  try dsimp only
  repeat' (first | with_reducible assumption | with_reducible apply eventDone_kept | with_reducible apply writeEvent_kept | with_reducible apply next_kept | split | dsimp only | with_reducible apply kept_mk)

theorem execEvtHeadWrite_kept {z : Fixed} {value : Nat} {s : State} (h_s : Kept z s) : KeptNext z (execEvtHeadWrite value s) := by
  unfold execEvtHeadWrite
  try dsimp only
  repeat' (first | with_reducible assumption | exact rfl | with_reducible apply byHost_kept | with_reducible apply wr_kept | with_reducible apply next_kept | with_reducible apply refusal_kept | split | dsimp only | intro _)

theorem dropEvents_kept {z : Fixed} {s : State} (h_s : Kept z s) : Kept z (State.dropEvents s) := by
  unfold State.dropEvents
  try dsimp only
  repeat' (first | with_reducible assumption | exact rfl | exact fun _ => rfl | with_reducible apply eventDone_kept | with_reducible apply addSat_kept | with_reducible apply wr_kept | with_reducible apply foldl_kept | dsimp only | with_reducible apply kept_mk | intro _)

theorem execEvtCfgWrite_kept {z : Fixed} {value : Nat} {s : State} (h_s : Kept z s) : KeptNext z (execEvtCfgWrite value s) := by
  unfold execEvtCfgWrite
  try dsimp only
  repeat' (first | with_reducible assumption | exact rfl | with_reducible apply byHost_kept | with_reducible apply wr_kept | with_reducible apply dropEvents_kept | with_reducible apply next_kept | with_reducible apply refusal_kept | split | dsimp only | intro _)

end Sys2Proof.Machine
end

