-- ==== Sys2Proof/Laws/KeptLinks.lean ====
section
/-! SUPPORT. What the operations of Machine/Links.lean keep (Kept), one law for each. -/

set_option linter.unusedTactic false
set_option linter.unreachableTactic false

namespace Sys2Proof.Machine

theorem ackWrites_kept {z : Fixed} {q : Nat} {m : Nat} {x0 : Nat} {x1 : State} (h_x1 : Kept z x1) : Kept z (ackWrites q m x0 x1) := by
  induction x0 generalizing x1 with
  | zero =>
    unfold ackWrites
    try dsimp only
    repeat' (first | with_reducible assumption | with_reducible apply foldIn_kept | with_reducible apply releaseTag_kept | split | dsimp only | intro _)
  | succ k ih =>
    unfold ackWrites
    try dsimp only
    repeat' (first | with_reducible assumption | with_reducible apply foldIn_kept | with_reducible apply releaseTag_kept | with_reducible apply ih | split | dsimp only | intro _)

theorem noteSent_kept {z : Fixed} {s : State} {x : Txn} {l : List Byte} (h_s : Kept z s) : Kept z (State.noteSent s x l) := by
  unfold State.noteSent
  try dsimp only
  repeat' (first | with_reducible assumption | with_reducible apply updColl_kept | split | dsimp only | with_reducible apply kept_mk | intro _)

theorem ackRing_kept {z : Fixed} {q : Nat} {m : Nat} {x0 : Nat} {x1 : Nat} {x2 : State} (h_x2 : Kept z x2) : Kept z (ackRing q m x0 x1 x2) := by
  induction x0 generalizing x1 x2 with
  | zero =>
    unfold ackRing
    try dsimp only
    repeat' (first | with_reducible assumption | with_reducible apply noteSent_kept | with_reducible apply releaseTag_kept | with_reducible apply finishRscat_kept | split | dsimp only | with_reducible apply kept_mk | intro _)
  | succ k ih =>
    unfold ackRing
    try dsimp only
    repeat' (first | with_reducible assumption | with_reducible apply noteSent_kept | with_reducible apply releaseTag_kept | with_reducible apply finishRscat_kept | with_reducible apply ih | split | dsimp only | with_reducible apply kept_mk | intro _)

theorem finishRead_kept {z : Fixed} {s : State} {q : Nat} {id : Nat} (h_s : Kept z s) : Kept z (State.finishRead s q id) := by
  unfold State.finishRead
  try dsimp only
  repeat' (first | with_reducible assumption | with_reducible apply landStall_kept | with_reducible apply foldDigest_kept | with_reducible apply moveBytes_kept | with_reducible apply updWork_kept | split | dsimp only | with_reducible apply kept_mk | intro _)

theorem readOn_kept {z : Fixed} {s : State} {r : Nat × Nat} (h_s : Kept z s) : Kept z (State.readOn s r) := by
  unfold State.readOn
  try dsimp only
  repeat' (first | with_reducible assumption | with_reducible apply gatherGo_kept | with_reducible apply finishRead_kept | split | dsimp only)

theorem completeRead_kept {z : Fixed} {s : State} {b : Nat} {tag : Nat} {m : Nat} {l : List PByte} (h_s : Kept z s) : Kept z (State.completeRead s b tag m l) := by
  unfold State.completeRead
  try dsimp only
  repeat' (first | with_reducible assumption | with_reducible apply updWork_kept | with_reducible apply readOn_kept | with_reducible apply releaseTag_kept | with_reducible apply foldl_kept | split | dsimp only | intro _)

theorem refused_kept {z : Fixed} {s : State} {q : Nat} {tag : Nat} {reason : Nat} (h_s : Kept z s) : Kept z (State.refused s q tag reason) := by
  unfold State.refused
  try dsimp only
  repeat' (first | with_reducible assumption | with_reducible apply failHealth_kept | with_reducible apply failTxn_kept | with_reducible apply refusal_kept | split | dsimp only)

theorem signalTaken_kept {z : Fixed} {s : State} {q : Nat} {m : Nat} (h_s : Kept z s) : Kept z (State.signalTaken s q m) := by
  unfold State.signalTaken
  try dsimp only
  repeat' (first | with_reducible assumption | with_reducible apply settleEnd_kept | with_reducible apply complete_kept | with_reducible apply releaseTag_kept | split | dsimp only)

theorem receiveSig_kept {z : Fixed} {s : State} {f : Frame} (h_s : Kept z s) : Kept z (State.receiveSig s f) := by
  unfold State.receiveSig
  try dsimp only
  repeat' (first | with_reducible assumption | exact rfl | exact fun _ => rfl | with_reducible apply reply_kept | with_reducible apply signal_kept | with_reducible apply refuse_kept | with_reducible apply wr_kept | with_reducible apply addSat_kept | split | dsimp only)

theorem receiveRd_kept {z : Fixed} {s : State} {p : Nat} {f : Frame} (h_s : Kept z s) : Kept z (State.receiveRd s p f) := by
  unfold State.receiveRd
  try dsimp only
  repeat' (first | with_reducible assumption | with_reducible apply takeRd_kept | with_reducible apply answerRd_kept | with_reducible apply emptied_kept | with_reducible refine takeRd_kept_eq (by with_reducible assumption) ?_ | split | dsimp only)

theorem receiveAccess_kept {z : Fixed} {s : State} {p : Nat} {op : Nat} {f : Frame} (h_s : Kept z s) : Kept z (State.receiveAccess s p op f) := by
  unfold State.receiveAccess
  try dsimp only
  repeat' (first | with_reducible assumption | with_reducible apply holdAccess_kept | with_reducible apply receiveWr_kept | with_reducible apply receiveRd_kept | split | dsimp only)

theorem deliverFrame_kept {z : Fixed} {s : State} {p : Nat} {op : Nat} {f : Frame} (h_s : Kept z s) : Kept z (State.deliverFrame s p op f) := by
  unfold State.deliverFrame
  try dsimp only
  repeat' (first | with_reducible assumption | with_reducible apply receiveAccess_kept | with_reducible apply completeRead_kept | with_reducible apply emptied_kept | with_reducible apply ackWrites_kept | with_reducible apply receiveSig_kept | with_reducible apply signalTaken_kept | with_reducible apply receiveRing_kept | with_reducible apply ackRing_kept | with_reducible apply receiveHealth_kept | with_reducible apply refused_kept | with_reducible apply refusal_kept | split | dsimp only)

theorem forward_kept {z : Fixed} {s : State} {p op : Nat} {f : Frame} (h_s : Kept z s) : Kept z (State.forward s p op f) := by
  have h := emptied_kept (p := p) (op := op) (f := f) h_s
  unfold State.forward
  generalize s.emptied p op f = s' at h
  dsimp only
  split
  · exact refuseTransit_kept h
  · generalize e : s'.send _ = o
    cases o with
    | none => exact refuseTransit_kept h
    | some t => exact send_kept e h

theorem endCheck_kept {z : Fixed} {s : State} {p : Nat} {op : Nat} {f : Frame} (h_s : Kept z s) : Kept z (State.endCheck s p op f) := by
  unfold State.endCheck
  try dsimp only
  repeat' (first | with_reducible assumption | with_reducible apply deliverFrame_kept | with_reducible apply raise_kept | with_reducible apply emptied_kept | split | dsimp only)

theorem nakOnce_kept {z : Fixed} {s : State} {p : Nat} {k : Nat} (h_s : Kept z s) : Kept z (State.nakOnce s p k) := by
  unfold State.nakOnce
  try dsimp only
  repeat' (first | with_reducible assumption | with_reducible apply updLink_kept | with_reducible apply sendControl_kept | split | dsimp only | with_reducible apply kept_mk | intro _)

theorem takeFrame_kept {z : Fixed} {s : State} {p : Nat} {op : Nat} {f : Frame} (h_s : Kept z s) : Kept z (State.takeFrame s p op f) := by
  unfold State.takeFrame
  try dsimp only
  repeat' (first | with_reducible assumption | with_reducible apply takeHeader_kept | with_reducible apply updLink_kept | with_reducible apply dropFrame_kept | with_reducible apply emptied_kept | with_reducible apply endCheck_kept | with_reducible apply forward_kept | split | dsimp only | with_reducible apply kept_mk | intro _)

theorem inOrder_kept {z : Fixed} {s : State} {p : Nat} {op : Nat} {f : Frame} (h_s : Kept z s) : Kept z (State.inOrder s p op f) := by
  unfold State.inOrder
  try dsimp only
  repeat' (first | with_reducible assumption | with_reducible apply dropFrame_kept | with_reducible apply nakOnce_kept | with_reducible apply takeFrame_kept | split | dsimp only)

theorem receive_kept {z : Fixed} {s : State} {p : Nat} {op : Nat} {f : Frame} (h_s : Kept z s) : Kept z (State.receive s p op f) := by
  unfold State.receive
  try dsimp only
  repeat' (first | with_reducible assumption | exact fun _ => rfl | with_reducible apply addSat_kept | with_reducible apply leaveIdle_kept | with_reducible apply dropFrame_kept | with_reducible apply inOrder_kept | with_reducible refine makeRoom_kept (by with_reducible assumption) ?_ | split | dsimp only)

theorem badFrame_kept {z : Fixed} {s : State} {p : Nat} {peer : Nat} {bad : BadFrame} (h_s : Kept z s) : Kept z (State.badFrame s p peer bad) := by
  unfold State.badFrame
  try dsimp only
  repeat' (first | with_reducible assumption | exact fun _ => rfl | with_reducible apply nakOnce_kept | with_reducible apply addSat_kept | with_reducible apply dropFrame_kept | with_reducible apply receive_kept | split | dsimp only)

theorem execBadCrcOrGap_kept {z : Fixed} {p : Fin 16} {peer : Fin 65536} {bad : BadFrame} {s : State} (h_s : Kept z s) : KeptNext z (execBadCrcOrGap p peer bad s) := by
  unfold execBadCrcOrGap
  try dsimp only
  repeat' (first | with_reducible assumption | with_reducible apply badFrame_kept | with_reducible apply leaveIdle_kept | with_reducible apply next_kept | with_reducible apply refusal_kept | split | dsimp only)

theorem frameIn_kept {z : Fixed} {p : Nat} {op : Nat} {f : Frame} {s : State} (h_s : Kept z s) : KeptNext z (frameIn p op f s) := by
  unfold frameIn
  try dsimp only
  repeat' (first | with_reducible assumption | with_reducible apply receive_kept | with_reducible apply next_kept | with_reducible apply refusal_kept | split | dsimp only)

theorem execWr_kept {z : Fixed} {p : Fin 16} {f : Frame} {s : State} (h_s : Kept z s) : KeptNext z (execWr p f s) := by
  unfold execWr
  try dsimp only
  repeat' (first | with_reducible assumption | with_reducible apply frameIn_kept | with_reducible apply next_kept | dsimp only)

theorem execRdReq_kept {z : Fixed} {p : Fin 16} {f : Frame} {s : State} (h_s : Kept z s) : KeptNext z (execRdReq p f s) := by
  unfold execRdReq
  try dsimp only
  repeat' (first | with_reducible assumption | with_reducible apply frameIn_kept | with_reducible apply next_kept | dsimp only)

theorem execRdCpl_kept {z : Fixed} {p : Fin 16} {f : Frame} {s : State} (h_s : Kept z s) : KeptNext z (execRdCpl p f s) := by
  unfold execRdCpl
  try dsimp only
  repeat' (first | with_reducible assumption | with_reducible apply frameIn_kept | with_reducible apply next_kept | dsimp only)

theorem execAck_kept {z : Fixed} {p : Fin 16} {f : Frame} {s : State} (h_s : Kept z s) : KeptNext z (execAck p f s) := by
  unfold execAck
  try dsimp only
  repeat' (first | with_reducible assumption | with_reducible apply frameIn_kept | with_reducible apply next_kept | dsimp only)

theorem execTlSig_kept {z : Fixed} {p : Fin 16} {f : Frame} {s : State} (h_s : Kept z s) : KeptNext z (execTlSig p f s) := by
  unfold execTlSig
  try dsimp only
  repeat' (first | with_reducible assumption | with_reducible apply frameIn_kept | with_reducible apply next_kept | dsimp only)

theorem execTlAck_kept {z : Fixed} {p : Fin 16} {f : Frame} {s : State} (h_s : Kept z s) : KeptNext z (execTlAck p f s) := by
  unfold execTlAck
  try dsimp only
  repeat' (first | with_reducible assumption | with_reducible apply frameIn_kept | with_reducible apply next_kept | dsimp only)

theorem execRing_kept {z : Fixed} {p : Fin 16} {f : Frame} {s : State} (h_s : Kept z s) : KeptNext z (execRing p f s) := by
  unfold execRing
  try dsimp only
  repeat' (first | with_reducible assumption | with_reducible apply receive_kept | with_reducible apply next_kept | with_reducible apply refusal_kept | split | dsimp only)

theorem execRingAck_kept {z : Fixed} {p : Fin 16} {f : Frame} {s : State} (h_s : Kept z s) : KeptNext z (execRingAck p f s) := by
  unfold execRingAck
  try dsimp only
  repeat' (first | with_reducible assumption | with_reducible apply frameIn_kept | with_reducible apply next_kept | dsimp only)

theorem execHealth_kept {z : Fixed} {p : Fin 16} {f : Frame} {s : State} (h_s : Kept z s) : KeptNext z (execHealth p f s) := by
  unfold execHealth
  try dsimp only
  repeat' (first | with_reducible assumption | with_reducible apply frameIn_kept | with_reducible apply next_kept | dsimp only)

theorem execRefuse_kept {z : Fixed} {p : Fin 16} {f : Frame} {s : State} (h_s : Kept z s) : KeptNext z (execRefuse p f s) := by
  unfold execRefuse
  try dsimp only
  repeat' (first | with_reducible assumption | with_reducible apply frameIn_kept | with_reducible apply next_kept | dsimp only)

theorem serveHeld_kept {z : Fixed} {s : State} {a : HeldAccess} (h_s : Kept z s) : Kept z (State.serveHeld s a) := by
  unfold State.serveHeld
  try dsimp only
  repeat' (first | with_reducible assumption | exact rfl | with_reducible apply receiveAccess_kept | with_reducible apply holdAccess_kept | with_reducible apply serveRead_kept | with_reducible apply serveWrite_kept | with_reducible apply hostEffect_kept | with_reducible apply wr_kept | with_reducible apply ringDoorbell_kept | with_reducible apply ringGroup_kept | split | dsimp only)

theorem serveAccesses_kept {z : Fixed} {s : State} (h_s : Kept z s) : Kept z (State.serveAccesses s) := by
  unfold State.serveAccesses
  try dsimp only
  repeat' (first | with_reducible assumption | with_reducible apply serveHeld_kept | with_reducible apply foldl_kept | dsimp only | with_reducible apply kept_mk | intro _)

end Sys2Proof.Machine
end

