-- ==== Sys2Proof/Laws/KeptEpochs.lean ====
section
/-! SUPPORT. What the operations of Machine/Epochs.lean keep (Kept), one law for each. -/

set_option linter.unusedTactic false
set_option linter.unreachableTactic false

namespace Sys2Proof.Machine

theorem resumeRscat_kept {z : Fixed} {s : State} {q : Nat} {w : Work} {c : Coll} (h_s : Kept z s) : Kept z (State.resumeRscat s q w c) := by
  unfold State.resumeRscat
  try dsimp only
  repeat' (first | with_reducible assumption | with_reducible apply deliverOwn_kept | with_reducible apply finishRscat_kept | with_reducible apply takeHeld_kept | split | dsimp only)

theorem resumeWork_kept {z : Fixed} {s : State} {q : Nat} {id : Nat} (h_s : Kept z s) : Kept z (State.resumeWork s q id) := by
  unfold State.resumeWork
  try dsimp only
  repeat' (first | with_reducible assumption | with_reducible apply finishRead_kept | with_reducible apply gatherGo_kept | with_reducible apply resumeRscat_kept | with_reducible apply tryRscat_kept | split | dsimp only)

theorem resume_kept {z : Fixed} {s : State} (h_s : Kept z s) : Kept z (State.resume s) := by
  unfold State.resume
  try dsimp only
  repeat' (first | with_reducible assumption | with_reducible apply resumeWork_kept | with_reducible apply foldl_kept | dsimp only | intro _)

theorem execPstepConfirm_kept {z : Fixed} {t : Fin 8} {s : State} (h_s : Kept z s) : KeptNext z (execPstepConfirm t s) := by
  unfold execPstepConfirm
  try dsimp only
  repeat' (first | with_reducible assumption | with_reducible apply issue_kept | with_reducible apply engineFault_kept | with_reducible apply retire_kept | with_reducible apply resume_kept | with_reducible apply releaseWrites_kept | with_reducible apply confirmEpoch_kept | with_reducible apply next_kept | split | dsimp only | intro _)

theorem execPstepSquash_kept {z : Fixed} {t : Fin 8} {s : State} (h_s : Kept z s) : KeptNext z (execPstepSquash t s) := by
  unfold execPstepSquash
  try dsimp only
  repeat' (first | with_reducible assumption | with_reducible apply issue_kept | with_reducible apply engineFault_kept | with_reducible apply retire_kept | with_reducible apply goOn_kept | with_reducible apply resume_kept | with_reducible apply releaseWrites_kept | with_reducible apply squashEpochs_kept | with_reducible apply next_kept | split | dsimp only | with_reducible apply kept_mk | intro _)

end Sys2Proof.Machine
end

