-- ==== Sys2Proof/Laws/KeptMailbox.lean ====
section
/-! SUPPORT. What the operations of Machine/Mailbox.lean keep (Kept), one law for each. -/

set_option linter.unusedTactic false
set_option linter.unreachableTactic false

namespace Sys2Proof.Machine

theorem updMbx_kept {z : Fixed} {s : State} {g : Mailbox → Mailbox} (h_s : Kept z s) : Kept z (State.updMbx s g) := by
  unfold State.updMbx
  try dsimp only
  repeat' (first | with_reducible assumption | dsimp only | with_reducible apply kept_mk)

theorem answerMbx_kept {z : Fixed} {s : State} {tag : Nat} {status : Nat} (h_s : Kept z s) : Kept z (State.answerMbx s tag status) := by
  unfold State.answerMbx
  try dsimp only
  repeat' (first | with_reducible assumption | exact rfl | with_reducible apply msix_kept | with_reducible apply wr_kept | with_reducible apply updMbx_kept | dsimp only | with_reducible apply kept_mk | intro _)

theorem sendMbx_kept {z : Fixed} {s : State} (h_s : Kept z s) : Kept z (State.sendMbx s) := by
  unfold State.sendMbx
  try dsimp only
  repeat' (first | with_reducible assumption | exact rfl | with_reducible apply wr_kept | with_reducible apply answerMbx_kept | with_reducible apply updMbx_kept | split | dsimp only | with_reducible apply kept_mk | intro _)

theorem mbxStart_kept {z : Fixed} {s : State} {c : MbxCmd} (h_s : Kept z s) : Kept z (State.mbxStart s c) := by
  unfold State.mbxStart
  try dsimp only
  repeat' (first | with_reducible assumption | exact rfl | exact fun _ => rfl | with_reducible apply wr_kept | with_reducible apply wrBit_kept | with_reducible apply wri_kept | with_reducible apply setPort_kept | split | dsimp only | omega)

theorem mbxAnswer_kept {z : Fixed} {s : State} {op : Nat} {k : MbxCmd → State → State} (h_s : Kept z s) (h_k : ∀ a0 s, Kept z s → Kept z (k a0 s)) : Kept z (State.mbxAnswer s op k) := by
  unfold State.mbxAnswer
  try dsimp only
  repeat' (first | with_reducible assumption | with_reducible apply byFw_kept | with_reducible apply h_k | split | dsimp only | intro _)

theorem mbxLong_kept {z : Fixed} {s : State} {op : Nat} (h_s : Kept z s) : Kept z (State.mbxLong s op) := by
  unfold State.mbxLong
  try dsimp only
  repeat' (first | with_reducible assumption | with_reducible apply mbxAnswer_kept | with_reducible apply answerMbx_kept | with_reducible apply updMbx_kept | with_reducible apply mbxStart_kept | split | dsimp only | with_reducible apply kept_mk | intro _)

theorem execGetVersion_kept {z : Fixed} {s : State} (h_s : Kept z s) : KeptNext z (execGetVersion s) := by
  unfold execGetVersion
  try dsimp only
  repeat' (first | with_reducible assumption | exact rfl | with_reducible apply mbxAnswer_kept | with_reducible apply answerMbx_kept | with_reducible apply wri_kept | with_reducible apply next_kept | dsimp only | intro _)

theorem execHarden_kept {z : Fixed} {s : State} (h_s : Kept z s) : KeptNext z (execHarden s) := by
  unfold execHarden
  try dsimp only
  repeat' (first | with_reducible assumption | with_reducible apply mbxLong_kept | with_reducible apply next_kept | dsimp only)

theorem execRetrainStack_kept {z : Fixed} {s : State} (h_s : Kept z s) : KeptNext z (execRetrainStack s) := by
  unfold execRetrainStack
  try dsimp only
  repeat' (first | with_reducible assumption | with_reducible apply mbxLong_kept | with_reducible apply next_kept | dsimp only)

theorem execRetrainPort_kept {z : Fixed} {s : State} (h_s : Kept z s) : KeptNext z (execRetrainPort s) := by
  unfold execRetrainPort
  try dsimp only
  repeat' (first | with_reducible assumption | with_reducible apply mbxLong_kept | with_reducible apply next_kept | dsimp only)

theorem execCalibrate_kept {z : Fixed} {s : State} (h_s : Kept z s) : KeptNext z (execCalibrate s) := by
  unfold execCalibrate
  try dsimp only
  repeat' (first | with_reducible assumption | with_reducible apply mbxLong_kept | with_reducible apply next_kept | dsimp only)

theorem execRaiseSvn_kept {z : Fixed} {s : State} (h_s : Kept z s) : KeptNext z (execRaiseSvn s) := by
  unfold execRaiseSvn
  try dsimp only
  repeat' (first | with_reducible assumption | with_reducible apply mbxLong_kept | with_reducible apply next_kept | dsimp only)

theorem execRevokeKey_kept {z : Fixed} {s : State} (h_s : Kept z s) : KeptNext z (execRevokeKey s) := by
  unfold execRevokeKey
  try dsimp only
  repeat' (first | with_reducible assumption | with_reducible apply mbxLong_kept | with_reducible apply next_kept | dsimp only)

theorem execRereadFru_kept {z : Fixed} {s : State} (h_s : Kept z s) : KeptNext z (execRereadFru s) := by
  unfold execRereadFru
  try dsimp only
  repeat' (first | with_reducible assumption | with_reducible apply mbxLong_kept | with_reducible apply next_kept | dsimp only)

theorem mbxRecord_kept {z : Fixed} {s : State} {c : MbxCmd} {ok : Bool} {result : Nat} (h_s : Kept z s) : Kept z (State.mbxRecord s c ok result) := by
  unfold State.mbxRecord
  try dsimp only
  repeat' (first | with_reducible assumption | exact rfl | with_reducible apply msix_kept | with_reducible apply updMbx_kept | with_reducible apply wr_kept | split | dsimp only | with_reducible apply kept_mk | intro _)

theorem mbxEnd_kept {z : Fixed} {s : State} {c : MbxCmd} {ok : Bool} (h_s : Kept z s) : Kept z (State.mbxEnd s c ok).1 := by
  unfold State.mbxEnd
  try dsimp only
  repeat' (first | with_reducible assumption | exact rfl | exact fun _ => rfl | with_reducible apply wr_kept | with_reducible apply hardenAll_kept | with_reducible apply trainStack_kept | with_reducible apply takeFree_kept2 | with_reducible apply failStack_kept | with_reducible apply comeUp_kept | with_reducible apply setPort_kept | with_reducible apply wrBit_kept | with_reducible refine takeFree_kept (by with_reducible assumption) ?_ | split | dsimp only | omega)

theorem mbxEnd_kept_eq {z : Fixed} {s : State} {c : MbxCmd} {ok : Bool} {s' : State} {r : Nat} (heq : State.mbxEnd s c ok = (s', r)) (h_s : Kept z s) : Kept z s' := by
  have := mbxEnd_kept (z := z) (s := s) (c := c) (ok := ok) h_s
  rw [heq] at this
  exact this

theorem execMailboxDone_kept {z : Fixed} {tag : Nat} {ok : Bool} {s : State} (h_s : Kept z s) : KeptNext z (execMailboxDone tag ok s) := by
  unfold execMailboxDone
  try dsimp only
  repeat' (first | with_reducible assumption | with_reducible apply byFw_kept | with_reducible apply updMbx_kept | with_reducible apply mbxEnd_kept | with_reducible apply mbxRecord_kept | with_reducible apply next_kept | with_reducible apply refusal_kept | with_reducible refine mbxEnd_kept_eq (by with_reducible assumption) ?_ | split | dsimp only | with_reducible apply kept_mk | intro _)

theorem execMbxPop_kept {z : Fixed} {s : State} (h_s : Kept z s) : KeptNext z (execMbxPop s) := by
  unfold execMbxPop
  try dsimp only
  repeat' (first | with_reducible assumption | with_reducible apply byHost_kept | with_reducible apply updMbx_kept | with_reducible apply next_kept | dsimp only | with_reducible apply kept_mk | intro _)

end Sys2Proof.Machine
end

