-- ==== Sys2Proof/Laws/KeptSideband.lean ====
section
/-! SUPPORT. What the operations of Machine/Sideband.lean keep (Kept), one law for each. -/

set_option linter.unusedTactic false
set_option linter.unreachableTactic false

namespace Sys2Proof.Machine

theorem updSide_kept {z : Fixed} {s : State} {g : Sideband → Sideband} (h_s : Kept z s) : Kept z (State.updSide s g) := by
  unfold State.updSide
  try dsimp only
  repeat' (first | with_reducible assumption | dsimp only | with_reducible apply kept_mk)

theorem answer_kept {z : Fixed} {s : State} {p : Proto} {code : Nat} {data : List Byte} (h_s : Kept z s) : Kept z (State.answer s p code data) := by
  unfold State.answer
  try dsimp only
  repeat' (first | with_reducible assumption | with_reducible apply updSide_kept | dsimp only | with_reducible apply kept_mk | intro _)

theorem bySide_kept {z : Fixed} {s : State} {k : State → State} (h_s : Kept z s) (h_k : ∀  s, Kept z s → Kept z (k  s)) : Kept z (State.bySide s k) := by
  unfold State.bySide
  try dsimp only
  repeat' (first | with_reducible assumption | with_reducible apply h_k | split | dsimp only)

theorem vendor_kept {z : Fixed} {s : State} {k : State → State} (h_s : Kept z s) (h_k : ∀  s, Kept z s → Kept z (k  s)) : Kept z (State.vendor s k) := by
  unfold State.vendor
  try dsimp only
  repeat' (first | with_reducible assumption | with_reducible apply bySide_kept | with_reducible apply answer_kept | with_reducible apply h_k | split | dsimp only | intro _)

theorem vend_kept {z : Fixed} {s : State} {code : Nat} (h_s : Kept z s) : Kept z (State.vend s code) := by
  unfold State.vend
  try dsimp only
  repeat' (first | with_reducible assumption | with_reducible apply answer_kept | dsimp only)

theorem execGetState_kept {z : Fixed} {s : State} (h_s : Kept z s) : KeptNext z (execGetState s) := by
  unfold execGetState
  try dsimp only
  repeat' (first | with_reducible assumption | with_reducible apply bySide_kept | with_reducible apply answer_kept | with_reducible apply next_kept | dsimp only | intro _)

theorem execSetProfile_kept {z : Fixed} {value : Nat} {s : State} (h_s : Kept z s) : KeptNext z (execSetProfile value s) := by
  unfold execSetProfile
  try dsimp only
  repeat' (first | with_reducible assumption | with_reducible apply vendor_kept | with_reducible apply vend_kept | with_reducible apply writeProfile_kept | with_reducible apply next_kept | with_reducible apply refusal_kept | split | dsimp only | intro _)

theorem execSetCap_kept {z : Fixed} {value : Nat} {s : State} (h_s : Kept z s) : KeptNext z (execSetCap value s) := by
  unfold execSetCap
  try dsimp only
  repeat' (first | with_reducible assumption | with_reducible apply vendor_kept | with_reducible apply vend_kept | with_reducible apply writeCap_kept | with_reducible apply next_kept | with_reducible apply refusal_kept | split | dsimp only | intro _)

theorem execSetScrub_kept {z : Fixed} {value : Nat} {s : State} (h_s : Kept z s) : KeptNext z (execSetScrub value s) := by
  unfold execSetScrub
  try dsimp only
  repeat' (first | with_reducible assumption | with_reducible apply vendor_kept | with_reducible apply vend_kept | with_reducible apply askScrub_kept | with_reducible apply next_kept | with_reducible apply refusal_kept | split | dsimp only | intro _)

theorem execDormant_kept {z : Fixed} {s : State} (h_s : Kept z s) : KeptNext z (execDormant s) := by
  unfold execDormant
  try dsimp only
  repeat' (first | with_reducible assumption | exact rfl | with_reducible apply vendor_kept | with_reducible apply vend_kept | with_reducible apply goDormant_kept | with_reducible apply wr_kept | with_reducible apply next_kept | split | dsimp only | intro _)

theorem execSidebandWake_kept {z : Fixed} {s : State} (h_s : Kept z s) : KeptNext z (execSidebandWake s) := by
  unfold execSidebandWake
  try dsimp only
  repeat' (first | with_reducible assumption | with_reducible apply bySide_kept | with_reducible apply vend_kept | with_reducible apply wakeBy_kept | with_reducible apply next_kept | split | dsimp only | intro _)

theorem execSoftReset_kept {z : Fixed} {key : Nat} {s : State} (h_s : Kept z s) : KeptNext z (execSoftReset key s) := by
  unfold execSoftReset
  try dsimp only
  repeat' (first | with_reducible assumption | with_reducible apply bySide_kept | with_reducible apply vend_kept | with_reducible apply resetTo_kept | with_reducible apply next_kept | with_reducible apply refusal_kept | split | dsimp only | intro _)

theorem execGpio_kept {z : Fixed} {n : Fin 4} {act : GpioAct} {s : State} (h_s : Kept z s) : KeptNext z (execGpio n act s) := by
  unfold execGpio
  try dsimp only
  repeat' (first | with_reducible assumption | exact rfl | with_reducible apply vendor_kept | with_reducible apply vend_kept | with_reducible apply showPin_kept | with_reducible apply setPin_kept | with_reducible apply wri_kept | with_reducible apply answer_kept | with_reducible apply next_kept | with_reducible apply refusal_kept | split | dsimp only | intro _)

theorem execAlertAck_kept {z : Fixed} {mask : Nat} {s : State} (h_s : Kept z s) : KeptNext z (execAlertAck mask s) := by
  unfold execAlertAck
  try dsimp only
  repeat' (first | with_reducible assumption | exact rfl | with_reducible apply vendor_kept | with_reducible apply wr_kept | with_reducible apply vend_kept | with_reducible apply next_kept | with_reducible apply refusal_kept | split | dsimp only | intro _)

theorem execSetEndpointId_kept {z : Fixed} {eid : Nat} {s : State} (h_s : Kept z s) : KeptNext z (execSetEndpointId eid s) := by
  unfold execSetEndpointId
  try dsimp only
  repeat' (first | with_reducible assumption | with_reducible apply bySide_kept | with_reducible apply answer_kept | with_reducible apply updSide_kept | with_reducible apply next_kept | with_reducible apply refusal_kept | split | dsimp only | with_reducible apply kept_mk | intro _)

theorem pldm_kept {z : Fixed} {s : State} {k : State → State} (h_s : Kept z s) (h_k : ∀  s, Kept z s → Kept z (k  s)) : Kept z (State.pldm s k) := by
  unfold State.pldm
  try dsimp only
  repeat' (first | with_reducible assumption | with_reducible apply bySide_kept | with_reducible apply answer_kept | with_reducible apply h_k | split | dsimp only | intro _)

theorem execGetPdr_kept {z : Fixed} {s : State} (h_s : Kept z s) : KeptNext z (execGetPdr s) := by
  unfold execGetPdr
  try dsimp only
  repeat' (first | with_reducible assumption | with_reducible apply pldm_kept | with_reducible apply answer_kept | with_reducible apply next_kept | split | dsimp only | intro _)

theorem execGetSensorReading_kept {z : Fixed} {id : Nat} {s : State} (h_s : Kept z s) : KeptNext z (execGetSensorReading id s) := by
  unfold execGetSensorReading
  try dsimp only
  repeat' (first | with_reducible assumption | with_reducible apply pldm_kept | with_reducible apply answer_kept | with_reducible apply next_kept | with_reducible apply refusal_kept | split | dsimp only | intro _)

theorem execGetStateSensorReadings_kept {z : Fixed} {id : Nat} {s : State} (h_s : Kept z s) : KeptNext z (execGetStateSensorReadings id s) := by
  unfold execGetStateSensorReadings
  try dsimp only
  repeat' (first | with_reducible assumption | with_reducible apply pldm_kept | with_reducible apply answer_kept | with_reducible apply updSide_kept | with_reducible apply next_kept | with_reducible apply refusal_kept | split | dsimp only | with_reducible apply kept_mk | intro _)

theorem execPollForPlatformEventMessage_kept {z : Fixed} {s : State} (h_s : Kept z s) : KeptNext z (execPollForPlatformEventMessage s) := by
  unfold execPollForPlatformEventMessage
  try dsimp only
  repeat' (first | with_reducible assumption | with_reducible apply pldm_kept | with_reducible apply answer_kept | with_reducible apply updSide_kept | with_reducible apply next_kept | split | dsimp only | with_reducible apply kept_mk | intro _)

theorem execSensorRefresh_kept {z : Fixed} {s : State} (h_s : Kept z s) : KeptNext z (execSensorRefresh s) := by
  unfold execSensorRefresh
  try dsimp only
  repeat' (first | with_reducible assumption | with_reducible apply byFw_kept | with_reducible apply updSide_kept | with_reducible apply next_kept | dsimp only | with_reducible apply kept_mk | intro _)

theorem spdm_kept {z : Fixed} {s : State} {k : State → State} (h_s : Kept z s) (h_k : ∀  s, Kept z s → Kept z (k  s)) : Kept z (State.spdm s k) := by
  unfold State.spdm
  try dsimp only
  repeat' (first | with_reducible assumption | with_reducible apply bySide_kept | with_reducible apply answer_kept | with_reducible apply h_k | split | dsimp only | intro _)

theorem spdmAgreed_kept {z : Fixed} {s : State} {k : State → State} (h_s : Kept z s) (h_k : ∀  s, Kept z s → Kept z (k  s)) : Kept z (State.spdmAgreed s k) := by
  unfold State.spdmAgreed
  try dsimp only
  repeat' (first | with_reducible assumption | with_reducible apply spdm_kept | with_reducible apply answer_kept | with_reducible apply h_k | split | dsimp only | intro _)

theorem execSpdmGetVersion_kept {z : Fixed} {s : State} (h_s : Kept z s) : KeptNext z (execSpdmGetVersion s) := by
  unfold execSpdmGetVersion
  try dsimp only
  repeat' (first | with_reducible assumption | with_reducible apply spdm_kept | with_reducible apply answer_kept | with_reducible apply next_kept | dsimp only | intro _)

theorem execGetCapabilities_kept {z : Fixed} {s : State} (h_s : Kept z s) : KeptNext z (execGetCapabilities s) := by
  unfold execGetCapabilities
  try dsimp only
  repeat' (first | with_reducible assumption | with_reducible apply spdm_kept | with_reducible apply answer_kept | with_reducible apply next_kept | dsimp only | intro _)

theorem execNegotiateAlgorithms_kept {z : Fixed} {asym : Nat} {hash : Nat} {s : State} (h_s : Kept z s) : KeptNext z (execNegotiateAlgorithms asym hash s) := by
  unfold execNegotiateAlgorithms
  try dsimp only
  repeat' (first | with_reducible assumption | with_reducible apply spdm_kept | with_reducible apply answer_kept | with_reducible apply updSide_kept | with_reducible apply next_kept | with_reducible apply refusal_kept | split | dsimp only | with_reducible apply kept_mk | intro _)

theorem execGetDigests_kept {z : Fixed} {s : State} (h_s : Kept z s) : KeptNext z (execGetDigests s) := by
  unfold execGetDigests
  try dsimp only
  repeat' (first | with_reducible assumption | with_reducible apply spdmAgreed_kept | with_reducible apply answer_kept | with_reducible apply next_kept | dsimp only | intro _)

theorem execGetCertificate_kept {z : Fixed} {offset : Nat} {len : Nat} {s : State} (h_s : Kept z s) : KeptNext z (execGetCertificate offset len s) := by
  unfold execGetCertificate
  try dsimp only
  repeat' (first | with_reducible assumption | with_reducible apply spdmAgreed_kept | with_reducible apply answer_kept | with_reducible apply next_kept | with_reducible apply refusal_kept | split | dsimp only | intro _)

theorem execChallenge_kept {z : Fixed} {nonce : List Byte} {s : State} (h_s : Kept z s) : KeptNext z (execChallenge nonce s) := by
  unfold execChallenge
  try dsimp only
  repeat' (first | with_reducible assumption | with_reducible apply spdmAgreed_kept | with_reducible apply answer_kept | with_reducible apply next_kept | with_reducible apply refusal_kept | split | dsimp only | intro _)

theorem execGetMeasurements_kept {z : Fixed} {index : Nat} {nonce : List Byte} {s : State} (h_s : Kept z s) : KeptNext z (execGetMeasurements index nonce s) := by
  unfold execGetMeasurements
  try dsimp only
  repeat' (first | with_reducible assumption | with_reducible apply spdmAgreed_kept | with_reducible apply answer_kept | with_reducible apply next_kept | with_reducible apply refusal_kept | split | dsimp only | intro _)

end Sys2Proof.Machine
end

