-- ==== Sys2Proof/Laws/KeptHostRegs.lean ====
section
/-! SUPPORT. What the operations of Machine/HostRegs.lean keep (Kept), one law for each. -/

set_option linter.unusedTactic false
set_option linter.unreachableTactic false

namespace Sys2Proof.Machine

/-- The fields a write stores without a row of their own judging them (R358). -/
def F.plain (f : F) : Bool := f != .PW_CAP_WATTS && f != .PW_PROFILE_PROFILE

theorem legal_of_ok {f : F} {x : Nat} (ha : f.info.acc ≠ .ro) (hp : f.plain = true) (hx : fieldOk f x = true) :
    fieldLegal f x = true := by
  cases f <;> first | exact hx | exact absurd rfl ha | exact absurd hp (by decide)

theorem legal_of_w1 {f : F} (ha : f.info.acc = .w1c ∨ f.info.acc = .w1s) (v : Nat) : fieldLegal f v = true := by
  cases f <;> first | rfl | exact absurd ha (by decide)

theorem reg_of_mem {r : Reg} : ∀ f ∈ r.fields, f.info.reg = r := by
  cases r <;> decide

theorem plain_of_mem {r : Reg} (h1 : r ≠ .PW_CAP) (h2 : r ≠ .PW_PROFILE) : ∀ f ∈ r.fields, f.plain = true := by
  intro f hf
  have h := reg_of_mem f hf
  simp only [F.plain, Bool.and_eq_true, bne_iff_ne, ne_eq]
  constructor
  · rintro rfl; exact h1 h.symm
  · rintro rfl; exact h2 h.symm

theorem flag_legal {r : Reg} {f : F} {v : Nat} (h : refusalFlag r = some f) : fieldLegal f v = true := by
  unfold refusalFlag at h
  split at h <;> first | (cases h; rfl) | cases h

theorem writeContract_kept {z : Fixed} {s : State} {v : Nat} (h_s : Kept z s) : Kept z (State.writeContract s v) := by
  unfold State.writeContract
  try dsimp only
  repeat' (first | with_reducible assumption | exact rfl | with_reducible apply wr_kept | split | dsimp only)

theorem execEnContractWrite_kept {z : Fixed} {version : Nat} {s : State} (h_s : Kept z s) : KeptNext z (execEnContractWrite version s) := by
  unfold execEnContractWrite
  try dsimp only
  repeat' (first | with_reducible assumption | with_reducible apply byHost_kept | with_reducible apply writeContract_kept | with_reducible apply next_kept | with_reducible apply refusal_kept | split | dsimp only | intro _)

theorem putRegionSize_kept {z : Fixed} {s : State} {r : Nat} {n : Nat} (h_s : Kept z s) : Kept z (State.putRegionSize s r n) := by
  unfold State.putRegionSize
  try dsimp only
  repeat' (first | with_reducible assumption | exact rfl | with_reducible apply wr_kept | with_reducible apply wri_kept | split | dsimp only)

theorem writeRegion_kept {z : Fixed} {s : State} {r : Nat} {size : Bool} {v : Nat} (h_s : Kept z s) : Kept z (State.writeRegion s r size v) := by
  unfold State.writeRegion
  try dsimp only
  repeat' (first | with_reducible assumption | exact rfl | with_reducible apply wr_kept | with_reducible apply wri_kept | with_reducible apply putRegionSize_kept | split | dsimp only)

theorem execRegionWrite_kept {z : Fixed} {r : Fin 4096} {size : Bool} {value : Nat} {s : State} (h_s : Kept z s) : KeptNext z (execRegionWrite r size value s) := by
  unfold execRegionWrite
  try dsimp only
  repeat' (first | with_reducible assumption | with_reducible apply byHost_kept | with_reducible apply writeRegion_kept | with_reducible apply next_kept | with_reducible apply refusal_kept | split | dsimp only | intro _)

theorem noteRefused_kept {z : Fixed} {s : State} {r : Reg} {i : Nat} (h_s : Kept z s) : Kept z (State.noteRefused s r i) := by
  unfold State.noteRefused
  try dsimp only
  repeat' (first | with_reducible assumption | exact rfl | with_reducible apply wri_kept | with_reducible exact flag_legal (by with_reducible assumption) | split | dsimp only)

theorem putField_kept {z : Fixed} {s : State} {locked : Bool} {f : F} {i x : Nat} (hp : f.plain = true)
    (hx : x < 2 ^ f.info.width) (h_s : Kept z s) : Kept z (s.putField locked f i x) := by
  have hset (ha : f.info.acc ≠ .ro) : Kept z (if fieldOk f x then s.wri f i x else s.noteRefused f.info.reg i) := by
    split
    · rename_i ho
      refine wri_kept ?_ h_s
      rw [Nat.mod_eq_of_lt hx]
      exact legal_of_ok ha hp ho
    · exact noteRefused_kept h_s
  unfold State.putField
  dsimp only
  split <;> rename_i ha
  · exact hset (by simp [ha])
  · split
    · exact h_s
    · exact hset (by simp [ha])
  · exact wri_kept (legal_of_w1 (.inl ha) _) h_s
  · exact wri_kept (legal_of_w1 (.inr ha) _) h_s
  · exact h_s
  · exact h_s
  · exact h_s

theorem putFields_kept {z : Fixed} {s : State} {l : List F} {i v : Nat} (hp : ∀ f ∈ l, f.plain = true) (h_s : Kept z s) :
    Kept z (s.putFields l i v) := by
  have key : ∀ (k : F → Bool) (t : State), Kept z t →
      Kept z (l.foldl (fun t f => t.putField (k f) f i (fieldPart f v)) t) := by
    intro k
    induction l with
    | nil => exact fun _ h => h
    | cons f l ih =>
      exact fun t h => ih (fun g hg => hp g (List.mem_cons_of_mem _ hg)) _
        (putField_kept (hp f List.mem_cons_self) (Nat.mod_lt _ (Nat.two_pow_pos _)) h)
  exact key _ s h_s

theorem after_kept {z : Fixed} {c : State → Host.Outcome State Fault Refusal} {s : State}
    (h_c : ∀ s, Kept z s → KeptNext z (c s)) (h_s : Kept z s) : Kept z (after c s) := by
  unfold after
  split
  · rename_i e; exact h_c s h_s _ e
  · exact h_s

theorem writeGnCfg_kept {z : Fixed} {s : State} {v : Nat} (h_s : Kept z s) : Kept z (State.writeGnCfg s v) := by
  unfold State.writeGnCfg
  try dsimp only
  repeat' (first | with_reducible assumption | with_reducible apply after_kept | with_reducible apply execInterleaveChange_kept | with_reducible apply askScrub_kept | split | dsimp only)

theorem writePsCfg_kept {z : Fixed} {s : State} {v : Nat} (h_s : Kept z s) : Kept z (State.writePsCfg s v) := by
  unfold State.writePsCfg
  try dsimp only
  repeat' (first | with_reducible assumption | exact rfl | with_reducible apply after_kept | with_reducible apply execPsCfgEn_kept | with_reducible apply wr_kept | split | dsimp only)

theorem writePortCtl_kept {z : Fixed} {s : State} {p : Nat} {v : Nat} (h_s : Kept z s) : Kept z (State.writePortCtl s p v) := by
  unfold State.writePortCtl
  try dsimp only
  repeat' (first | with_reducible assumption | exact rfl | with_reducible apply after_kept | with_reducible apply execFramingWrite_kept | with_reducible apply putFields_kept | with_reducible apply execWakeSend_kept | with_reducible apply execPortEnable_kept | with_reducible apply execPortDisable_kept | with_reducible exact plain_of_mem (by first | assumption | decide) (by first | assumption | decide) | with_reducible decide | split | dsimp only)

theorem writePwState_kept {z : Fixed} {s : State} {v : Nat} (h_s : Kept z s) : Kept z (State.writePwState s v) := by
  unfold State.writePwState
  try dsimp only
  repeat' (first | with_reducible assumption | with_reducible apply after_kept | with_reducible apply execEnterIdle_kept | with_reducible apply execEnterDormant_kept | with_reducible apply leaveIdle_kept | split | dsimp only)

theorem writeMeter_kept {z : Fixed} {s : State} {m : Nat} {v : Nat} (h_s : Kept z s) : Kept z (State.writeMeter s m v) := by
  unfold State.writeMeter
  try dsimp only
  repeat' (first | with_reducible assumption | exact rfl | with_reducible apply wr_kept | with_reducible apply after_kept | with_reducible apply execMeterGo_kept | with_reducible apply putFields_kept | with_reducible exact plain_of_mem (by first | assumption | decide) (by first | assumption | decide) | with_reducible decide | split | dsimp only)

theorem writeHostCtl_kept {z : Fixed} {s : State} {v : Nat} (h_s : Kept z s) : Kept z (State.writeHostCtl s v) := by
  unfold State.writeHostCtl
  try dsimp only
  repeat' (first | with_reducible assumption | exact rfl | with_reducible apply putFields_kept | with_reducible apply after_kept | with_reducible apply execHostArm_kept | with_reducible apply execHostSignal_kept | with_reducible exact plain_of_mem (by first | assumption | decide) (by first | assumption | decide) | with_reducible decide | split | dsimp only)

theorem writeReg_kept {z : Fixed} {s : State} {r : Reg} {i : Nat} {v : Nat} (h_s : Kept z s) : Kept z (State.writeReg s r i v) := by
  unfold State.writeReg
  try dsimp only
  repeat' (first | with_reducible assumption | exact rfl | with_reducible apply putFields_kept | with_reducible apply noteRefused_kept | with_reducible apply after_kept | with_reducible apply execThOrgCommit_kept | with_reducible apply execThPartClear_kept | with_reducible apply execTnDisable_kept | with_reducible apply execTnTest_kept | with_reducible apply writeContract_kept | with_reducible apply execQueueStop_kept | with_reducible apply execQueueClear_kept | with_reducible apply wr_kept | with_reducible apply writeHostCtl_kept | with_reducible apply execTlWdogWrite_kept | with_reducible apply execTlAllocWrite_kept | with_reducible apply writeRegion_kept | with_reducible apply writeGnCfg_kept | with_reducible apply execRlistEntry_kept | with_reducible apply execRepairPop_kept | with_reducible apply writePsCfg_kept | with_reducible apply writeVreg_kept | with_reducible apply commitRanks_kept | with_reducible apply writePortCtl_kept | with_reducible apply execPortBudgetWrite_kept | with_reducible apply writeProfile_kept | with_reducible apply writeCap_kept | with_reducible apply notePin_kept | with_reducible apply clampLinks_kept | with_reducible apply execPwPrioWrite_kept | with_reducible apply writePwState_kept | with_reducible apply execPwDomWrite_kept | with_reducible apply execCkSnap_kept | with_reducible apply writeMeter_kept | with_reducible apply execCkIslSrcWrite_kept | with_reducible apply execErResetKey_kept | with_reducible apply execReqFull_kept | with_reducible apply execLogPop_kept | with_reducible apply hostPin_kept | with_reducible apply execMwinOffsetWrite_kept | with_reducible apply execFwGo_kept | with_reducible apply execEvtCfgWrite_kept | with_reducible apply execEvtHeadWrite_kept | with_reducible apply sendMbx_kept | with_reducible apply execMbxPop_kept | with_reducible exact plain_of_mem (by first | assumption | decide) (by first | assumption | decide) | with_reducible decide | split | dsimp only)

theorem writeAccess_kept {z : Fixed} {s : State} {o : Nat} {wide : Bool} {v : Nat} (h_s : Kept z s) : Kept z (State.writeAccess s o wide v) := by
  unfold State.writeAccess
  try dsimp only
  repeat' (first | with_reducible assumption | exact rfl | with_reducible apply wr_kept | with_reducible apply writeReg_kept | split | dsimp only)

theorem sendPending_kept {z : Fixed} {s : State} (h_s : Kept z s) : Kept z (State.sendPending s) := by
  unfold State.sendPending
  try dsimp only
  repeat' (first | with_reducible assumption | with_reducible apply emit_kept | with_reducible apply foldl_kept | split | dsimp only | with_reducible apply kept_mk | intro _)

theorem writeMsix_kept {z : Fixed} {s : State} {o : Nat} {wide : Bool} {v : Nat} (h_s : Kept z s) : Kept z (State.writeMsix s o wide v) := by
  unfold State.writeMsix
  try dsimp only
  repeat' (first | with_reducible assumption | with_reducible apply sendPending_kept | split | dsimp only | with_reducible apply kept_mk)

theorem execRegisterWrite_kept {z : Fixed} {offset : Nat} {wide : Bool} {value : Nat} {s : State} (h_s : Kept z s) : KeptNext z (execRegisterWrite offset wide value s) := by
  unfold execRegisterWrite
  try dsimp only
  repeat' (first | with_reducible assumption | with_reducible apply byHost_kept | with_reducible apply after_kept | with_reducible apply execStagingWrite_kept | with_reducible apply writeMsix_kept | with_reducible apply writeAccess_kept | with_reducible apply next_kept | with_reducible apply refusal_kept | split | dsimp only | intro _)

end Sys2Proof.Machine
end

