-- ==== Sys2Proof/Laws/KeptModes.lean ====
section
/-! SUPPORT. What the operations of Machine/Modes.lean keep (Kept), one law for each. -/

set_option linter.unusedTactic false
set_option linter.unreachableTactic false

namespace Sys2Proof.Machine

theorem serveWaiting_kept {z : Fixed} {s : State} (h_s : Kept z s) : Kept z (State.serveWaiting s) := by
  unfold State.serveWaiting
  try dsimp only
  repeat' (first | with_reducible assumption | with_reducible apply resume_kept | with_reducible apply serveAccesses_kept | dsimp only)

theorem applyMode_kept {z : Fixed} {s : State} {m : ModeChange} (h_s : Kept z s) : Kept z (State.applyMode s m) := by
  unfold State.applyMode
  try dsimp only
  repeat' (first | with_reducible assumption | exact rfl | with_reducible apply applyOrg_kept | with_reducible apply wr_kept | with_reducible apply applyProfile_kept | with_reducible apply setFraming_kept | with_reducible apply setService_kept | split | dsimp only | omega)

theorem startModes_kept {z : Fixed} {x0 : List ModeChange} {x1 : State} (h_x1 : Kept z x1) : Kept z (startModes x0 x1) := by
  induction x0 generalizing x1 with
  | nil =>
    unfold startModes
    try dsimp only
    repeat' (first | with_reducible assumption | with_reducible apply applyProfile_kept | with_reducible apply applyMode_kept | split | dsimp only | with_reducible apply kept_mk | intro _)
  | cons a l ih =>
    unfold startModes
    try dsimp only
    repeat' (first | with_reducible assumption | with_reducible apply applyProfile_kept | with_reducible apply applyMode_kept | with_reducible apply ih | split | dsimp only | with_reducible apply kept_mk | intro _)

theorem modeDone_kept {z : Fixed} {s : State} (h_s : Kept z s) : Kept z (State.modeDone s) := by
  unfold State.modeDone
  try dsimp only
  repeat' (first | with_reducible assumption | with_reducible apply startModes_kept | dsimp only)

theorem execInterleaveSwitch_kept {z : Fixed} {s : State} (h_s : Kept z s) : KeptNext z (execInterleaveSwitch s) := by
  unfold execInterleaveSwitch
  try dsimp only
  repeat' (first | with_reducible assumption | with_reducible apply serveWaiting_kept | with_reducible apply modeDone_kept | with_reducible apply applyMode_kept | with_reducible apply next_kept | split | dsimp only)

theorem execScrubSector_kept {z : Fixed} {k : Fin 24} {found : SectorFinding} {s : State} (h_s : Kept z s) : KeptNext z (execScrubSector k found s) := by
  unfold execScrubSector
  try dsimp only
  repeat' (first | with_reducible assumption | with_reducible apply scrubAt_kept | with_reducible apply modeDone_kept | with_reducible apply applyMode_kept | with_reducible apply next_kept | split | dsimp only)

theorem execCapLoopPeriod_kept {z : Fixed} {meas : List Nat} {s : State} (h_s : Kept z s) : KeptNext z (execCapLoopPeriod meas s) := by
  unfold execCapLoopPeriod
  try dsimp only
  repeat' (first | with_reducible assumption | with_reducible apply capPeriod_kept | with_reducible apply modeDone_kept | with_reducible apply next_kept | with_reducible apply refusal_kept | split | dsimp only)

theorem execIslandSwitch_kept {z : Fixed} {i : Fin 43} {s : State} (h_s : Kept z s) : KeptNext z (execIslandSwitch i s) := by
  unfold execIslandSwitch
  try dsimp only
  repeat' (first | with_reducible assumption | with_reducible apply serveWaiting_kept | with_reducible apply moveIsland_kept | with_reducible apply next_kept | split | dsimp only)

theorem execPllLock_kept {z : Fixed} {s : State} (h_s : Kept z s) : KeptNext z (execPllLock s) := by
  unfold execPllLock
  try dsimp only
  repeat' (first | with_reducible assumption | with_reducible apply restoreClocks_kept | with_reducible apply serveWaiting_kept | with_reducible apply enterFloor_kept | with_reducible apply next_kept | split | dsimp only)

theorem execDomainSwitched_kept {z : Fixed} {d : Fin 20} {s : State} (h_s : Kept z s) : KeptNext z (execDomainSwitched d s) := by
  unfold execDomainSwitched
  try dsimp only
  repeat' (first | with_reducible assumption | with_reducible apply serveWaiting_kept | with_reducible apply switchOff_kept | with_reducible apply switchOn_kept | with_reducible apply next_kept | split | dsimp only)

end Sys2Proof.Machine
end

