-- ==== Sys2Proof/Machine/Wire.lean ====
section
/-! DEFINITION. What a port's lanes carry for what the state says a port has put out: the bytes of link frames with their
link CRC-32 and end-to-end CRC-32C (R239 to R241), the Ethernet frame around them (R243), the wake pattern (R253). No
command reads a lane; this is what a reader of the state sees there. -/

namespace Sys2Proof.Machine

/-! ### The IEEE 802.3 CRC-32 (R239) -/

/-- One bit of the division, by the reflected polynomial of IEEE 802.3. -/
def crc32Bit (c : Nat) : Nat := if bit c 0 then Nat.xor (c / 2) 0xEDB88320 else c / 2

/-- One byte taken in. -/
def crc32Byte (c : Nat) (b : Byte) : Nat := (List.range 8).foldl (fun c _ => crc32Bit c) (Nat.xor c b.toNat)

/-- The CRC-32 of some bytes. -/
def crc32 (l : List Byte) : Nat := Nat.xor (l.foldl crc32Byte 0xFFFFFFFF) 0xFFFFFFFF

/-! ### Link frames (R239 to R241) -/

/-- The 8 bytes of a link header, on a channel. -/
def headerBytes (h : LinkHeader) (vc eclass : Nat) : List Byte :=
  leBytes 8 (h.lseq + h.ack * 2 ^ 16 + vc * 2 ^ 32 + eclass * 2 ^ 35 + b2n h.nak * 2 ^ 37 + h.crVc * 2 ^ 38 + h.crN * 2 ^ 41 +
    h.crClass * 2 ^ 52 + h.rsv * 2 ^ 54)

/-- The transport header of a frame, with the HOPS given: 32 bytes, 48 of a RING frame. -/
def OutFrame.header (o : OutFrame) (hops : Nat) : List Byte :=
  let f := o.f
  leBytes 4 (o.op + hops * 2 ^ 4 + f.payload.length * 2 ^ 8 + f.sq * 2 ^ 19 + b2n f.prov * 2 ^ 25 + b2n f.vol * 2 ^ 26 +
    b2n f.digest * 2 ^ 27 + f.dset * 2 ^ 28 + b2n f.rsv * 2 ^ 31) ++
  leBytes 4 (f.src + f.dst * 2 ^ 16) ++ leBytes 4 (f.job + f.tag * 2 ^ 16) ++ leBytes 4 f.epoch ++ leBytes 8 f.addr ++
  leBytes 8 f.arg ++ (if o.op = 6 then leBytes 16 (pNat (clean (f.flags.map (BitVec.ofNat 8)))) else [])

/-- The end-to-end CRC-32C a frame is sent with: over its transport header with HOPS as zero and its payload. A frame sent
on keeps the check it came with, `kept`, where that fails (R248). -/
def OutFrame.endCrc (o : OutFrame) (kept : Nat) : Nat := if o.f.intact then crc32c (o.header 0 ++ o.f.payload) else kept

/-- Bytes with the CRC-32 over them behind. -/
def withCrc (l : List Byte) : List Byte := l ++ leBytes 4 (crc32 l)

/-- The link frame of a transport frame. -/
def OutFrame.bytes (o : OutFrame) (kept : Nat) : List Byte :=
  withCrc (headerBytes o.f.lh o.f.vc o.f.eclass ++ o.header o.f.hops ++ o.f.payload ++ leBytes 4 (o.endCrc kept))

/-- A link-control frame: header and link CRC-32 alone. -/
def controlBytes (h : LinkHeader) : List Byte := withCrc (headerBytes h 7 0)

/-! ### Ethernet (R243) -/

/-- The bytes of a field of `n` bytes, the most significant first, as Ethernet sends its own (PRESUMED, assumption log
entry 104). -/
def beBytes (n v : Nat) : List Byte := (leBytes n v).reverse

/-- The Ethernet fields ahead of a link frame: addresses, the 802.1Q tag where there is one, EtherType. -/
def Ether.bytes (e : Ether) : List Byte :=
  beBytes 6 e.dst ++ beBytes 6 e.src ++
    (match e.tag with
      | some t => beBytes 2 0x8100 ++ beBytes 2 t
      | none => []) ++ beBytes 2 e.etype

/-- A link frame as a port sends it: in direct framing as it is, in switched framing in an Ethernet frame with FCS. -/
def framed (e : Option Ether) (l : List Byte) : List Byte :=
  match e with
  | none => l
  | some e => withCrc (e.bytes ++ l)

/-! ### The lanes -/

/-- The 128 symbols of the wake pattern, most significant bit first (R253). -/
def wakePattern : List Bool := (List.range 128).map fun i => bit 0xFFFFFFFF00000000F0F0F0F0CCCCAAAA (127 - i)

/-- What the lanes of a port carry: a frame's bytes, or two-level symbols on all four lanes at an eighth of the symbol
rate. -/
inductive OnLanes where
  | bytes (l : List Byte) | symbols (l : List Bool)
  deriving DecidableEq, Repr

/-- What a port has put out, on its lanes. -/
def PortOut.onLanes (x : PortOut) (kept : Nat) : OnLanes :=
  match x with
  | .frame e o => .bytes (framed e (o.bytes kept))
  | .control e h => .bytes (framed e (controlBytes h))
  | .wake => .symbols (List.replicate 64 wakePattern).flatten

end Sys2Proof.Machine
end

