-- ==== Sys2Proof/Tests/Slice0.lean ====
section
/-! SUPPORT. Tests: a command refused for each check of well-formedness, and for every statement of
Certificates/Slice0/Obligations.lean that has hypotheses a concrete state and operands that meet them together, clause by
clause, at boundary values; and worked examples of the spec. -/

set_option maxRecDepth 100000
set_option exponentiation.threshold 1000

namespace Sys2Proof.Tests

open Sys2Proof.Machine

/-! ### Ill-formed commands, one for each check -/

def lh0 : LinkHeader := .bare 0

/-- A frame from module 9 to module 5. -/
def fr0 (addr : Nat) (payload : List Byte) : Frame :=
  { lh := lh0, vc := 0, eclass := 0, hops := 0, sq := 51, prov := false, vol := false, digest := false, dset := 0, src := 9,
    dst := 5, job := 0, tag := 0, epoch := 0, addr := addr, arg := 0, payload := payload, flags := [],
    rsv := false, intact := true, fec := 0 }

theorem test_illformed_link_headers :
    ([{ lh0 with ack := 65536 }, { lh0 with crVc := 8 }, { lh0 with crN := 2048 }, { lh0 with crClass := 4 },
      { lh0 with lseq := 65536 }, { lh0 with rsv := 1024 }] : List LinkHeader).all
      (fun h => !h.wf && !(Instr.linkControl 0 0 h).wf && !(Instr.ack 0 { fr0 0 [] with lh := h }).wf) = true := by decide

theorem test_illformed_frames :
    ([{ fr0 0 [] with vc := 8 }, { fr0 0 [] with eclass := 4 }, { fr0 0 [] with hops := 16 }, { fr0 0 [] with sq := 52 },
      { fr0 0 [] with dset := 8 }, { fr0 0 [] with src := 65536 }, { fr0 0 [] with dst := 65536 },
      { fr0 0 [] with job := 65536 }, { fr0 0 [] with tag := 65536 }, { fr0 0 [] with epoch := 2 ^ 32 },
      { fr0 0 [] with addr := 2 ^ 64 }, { fr0 0 [] with arg := 2 ^ 64 }, fr0 0 (List.replicate 1041 0),
      { fr0 0 [] with flags := [1] },
      { fr0 0 [] with fec := 2 ^ 48 }] : List Frame).all
      (fun f => !(Instr.wr 0 f).wf && !(Instr.rdReq 0 f).wf && !(Instr.rdCpl 0 f).wf && !(Instr.tlSig 0 f).wf &&
        !(Instr.tlAck 0 f).wf && !(Instr.ringAck 0 f).wf && !(Instr.health 0 f).wf && !(Instr.refuse 0 f).wf &&
        (f.flags != [] || !(Instr.badCrcOrGap 0 51 (.strange f)).wf)) = true := by decide

theorem test_illformed_ring_frames :
    ([fr0 0 [], { fr0 0 (List.replicate 66 0) with flags := [0] }, { fr0 0 (List.replicate 65 0) with flags := [256] },
      { fr0 0 (List.replicate 65 0) with flags := List.replicate 17 0 }] : List Frame).all
      (fun f => !(Instr.ring 0 f).wf) = true := by decide

theorem test_illformed_register_writes :
    [Instr.enContractWrite 65536, .queueDoorbell 0 (2 ^ 64), .groupDoorbell (2 ^ 64), .tlAllocWrite 0 (2 ^ 32),
      .tlWdogWrite 0 (2 ^ 32), .hostSignal 0 65536, .hostArm 0 65536, .regionWrite 0 true (2 ^ 64), .rlistEntry (2 ^ 64),
      .mwinOffsetWrite (2 ^ 64), .psVregWrite 0 .a (2 ^ 64), .psVregWrite 0 .cfg (2 ^ 32), .portBudgetWrite 0 (2 ^ 32),
      .pwProfileWrite (2 ^ 32), .pwCapWrite (2 ^ 32), .pwPrioWrite (2 ^ 32), .evtHeadWrite (2 ^ 32), .evtCfgWrite (2 ^ 32),
      .gpioWrite 0 (2 ^ 32), .erResetKey 65536, .fwGo (2 ^ 24), .registerWrite (2 ^ 27) true 0,
      .registerWrite 0 false (2 ^ 32), .registerWrite 0 true (2 ^ 64)].all (fun c => !c.wf) = true := by decide

theorem test_illformed_events :
    [Instr.portQualify 0 ⟨true, true, 4, true, true, 4096, false⟩, .portQualify 0 ⟨true, true, 256, true, true, 0, false⟩,
      .wake ⟨false, false, 65536, 0⟩, .wake ⟨false, false, 0, 65536⟩, .capLoopPeriod [], .calibrationTick [], .sensorSample (.stack 0) 4096 true, .meterDone 0 (2 ^ 64),
      .stagingWrite (2 ^ 23) [0], .memoryWindowRead 0 0, .memoryWindowRead 0 4097, .memoryWindowRead (2 ^ 42) 1,
      .memoryWindowWrite 0 [] false, .memoryWindowWrite 0 (List.replicate 513 0) false, .memoryWindowWrite (2 ^ 42) [0] true,
      .barResize 29, .barResize 43, .mailboxDone 256 true].all (fun c => !c.wf) = true := by decide

theorem test_illformed_sideband_requests :
    [Instr.softReset 65536, .setProfile (2 ^ 32), .setCap (2 ^ 32), .setScrub (2 ^ 32), .alertAck (2 ^ 32), .gpio 0 (.claim 8),
      .setEndpointId 256, .getSensorReading 65536, .getStateSensorReadings 65536, .negotiateAlgorithms (2 ^ 32) 0,
      .negotiateAlgorithms 0 (2 ^ 32), .getCertificate 65536 0, .getCertificate 0 65536, .challenge [0],
      .getMeasurements 256 (List.replicate 32 0), .getMeasurements 0 []].all (fun c => !c.wf) = true := by decide

theorem test_illformed_carrier_records :
    ([Fru.record 256 0 0 (List.replicate 16 0), .record 0 256 0 (List.replicate 16 0), .record 0 0 65536 (List.replicate 16 0),
      .record 0 0 0 (List.replicate 15 0), .record 0 0 0 (List.replicate 16 256)] : List Fru).all
      (fun r => !(Instr.fruRead r).wf) = true := by decide

theorem test_wellformed_at_the_bounds :
    [Instr.queueDoorbell 51 (2 ^ 64 - 1), .fwGo (2 ^ 24 - 1), .memoryWindowRead (2 ^ 42 - 4096) 4096, .barResize 30,
      .barResize 42, .stagingWrite (2 ^ 23) [], .ring 15 { fr0 0 (List.replicate 1040 0) with flags := List.replicate 16 255 },
      .wr 15 (fr0 (2 ^ 64 - 1) (List.replicate 1040 0))].all Instr.wf = true := by decide

/-! ### States to test with -/

/-- The module just booted: out of reset, the host's link up. -/
def up : State :=
  { State.reset with boot := { State.reset.boot with phase := .up, perstLow := false }, host := { State.reset.host with linkUp := true } }

/-- A state with register fields written. -/
def sets (s : State) (l : List (F × Nat × Nat)) : State := l.foldr (fun e s => s.wri e.1 e.2.1 e.2.2) s

/-- Firmware runs. -/
def fw : State := sets up [(.HI_FW_STAT_STATE, 0, 3)]

/-- Full service, bay-local interleave, stack 0 and bay 3's stacks trained, tallies 0 to 31 allocated, and three
regions: region 0 over HBM, regions 1 and 8 over the lofts of threshers 0 and 7. -/
def full : State :=
  sets fw ([(F.ER_SERVICE_STATE, 0, 3), (.TL_ALLOC_BITS, 0, 2 ^ 32 - 1), (.GN_CFG_INTERLEAVE, 0, 0)] ++
    [0, 1, 8].flatMap (fun r =>
      [(.LF_REGION_BASE_BASE, r, if r = 0 then 0 else 2 ^ 62 + (r - 1) * 2 ^ 32),
       (.LF_REGION_SIZE_SIZE, r, if r = 0 then 24 * 2 ^ 37 else 201326592), (.LF_REGION_SIZE_V, r, 1),
       (.LF_REGION_SIZE_RD, r, 1), (.LF_REGION_SIZE_WR, r, 1), (.LF_REGION_SIZE_RRD, r, 1), (.LF_REGION_SIZE_RWR, r, 1)]) ++
    [0, 18, 19, 20, 21, 22, 23].map fun k => (.GN_STACK_STAT_STATE, k, 2))

/-- An instruction word without a wait: opcode, class, signal with count 3 (none where 0xFFFF), operand. -/
def word (op cls sig operand : Nat) : Nat :=
  op * 2 ^ 120 + cls * 2 ^ 116 + 0xFFFF * 2 ^ 96 + sig * 2 ^ 80 + 3 * 2 ^ 64 + operand

/-- Queue `q` runs with an instruction word at its head, at address 0x1000. -/
def headed (s : State) (q w : Nat) : State :=
  sets (s.updQueue q fun x => { x with buf := [(0x1000, ⟨w, false⟩)] })
    [(.EN_Q_STAT_STATE, q, 1), (.EN_Q_PC_PC, q, 0x1000), (.EN_Q_PRG_SIZE_SIZE, q, 65536)]

/-- That instruction. -/
def insOf (w : Nat) : Ins := Ins.ofWord 0x1000 w

/-- Bytes put at an address of space 0 or of a loft. -/
def putAt (s : State) (space t a : Nat) (l : List Byte) : State := s.writeAt .unbound space t a (clean l)

/-- A descriptor from its fields: byte offset, bytes, value. -/
def descOf (l : List (Nat × Nat × Nat)) : Nat := l.foldl (fun n e => n + e.2.2 % 2 ^ (8 * e.2.1) * 2 ^ (8 * e.1)) 0

/-- The state an outcome answers. -/
def nx (o : Host.Outcome State Fault Refusal) : State :=
  match o with
  | .next s => s
  | _ => State.reset

def issuesB (s : State) (q op : Nat) (i : Ins) : Bool :=
  s.mayIssue q && decide (s.head q = .ins i) && decide (i.opcode = op) && decide (decodeFault q i = none) &&
    !(s.queue q).skipping && decide (i.waitIdx = 0xFFFF) && decide (s.check6 q i = none)

theorem issues_of {s : State} {q op : Nat} {i : Ins} (h : issuesB s q op i = true) : s.issues q op i := by
  simp only [issuesB, Bool.and_eq_true, decide_eq_true_eq, Bool.not_eq_true'] at h
  obtain ⟨⟨⟨⟨⟨⟨a, b⟩, c⟩, d⟩, e⟩, f⟩, g⟩ := h
  exact ⟨a, b, c, d, e, f, g⟩

/-- The descriptor an instruction finds. -/
def found (s : State) (q : Nat) (i : Ins) : Desc :=
  match s.descAt q i with
  | .ok x => ⟨x.lo.toNat, x.space, pNat (s.readAt (s.viewOf (s.bindEpoch i)) x.space x.sub x.lo.toNat 64), x⟩
  | .error _ => ⟨0, 0, 0, ⟨0, 0, 0, 0⟩⟩

def okC {α : Type} (c : Chk α) : Bool :=
  match c with
  | .ok _ => true
  | .error _ => false

theorem ok_of {c : Chk Unit} (h : okC c = true) : c = .ok () := by
  cases c with
  | ok _ => rfl
  | error _ => simp [okC] at h

def findsB (s : State) (q : Nat) (i : Ins) : Bool :=
  okC (s.descAt q i) &&
    !anyBad (s.readAt (s.viewOf (s.bindEpoch i)) (found s q i).space (found s q i).span.sub (found s q i).addr 64)

theorem finds_of {s : State} {q : Nat} {i : Ins} (h : findsB s q i = true) : s.finds q i (found s q i) := by
  simp only [findsB, Bool.and_eq_true, Bool.not_eq_true'] at h
  obtain ⟨a, b⟩ := h
  cases e : s.descAt q i with
  | error _ => simp [okC, e] at a
  | ok x => constructor <;> simp_all [found]

def clearB (s : State) (q : Nat) (i : Ins) (us : List Use) (chk : Chk Unit) : Bool :=
  findsB s q i && s.flaws.isEmpty && okC chk && !s.heldBy205 (s.bindEpoch i) us &&
    !s.mustStall q (usesSpans false (us ++ [(found s q i).use])) (usesSpans true us) none

theorem clear_of {s : State} {q : Nat} {i : Ins} {us : List Use} {chk : Chk Unit} (h : clearB s q i us chk = true) :
    s.clear q i (found s q i) us chk := by
  simp only [clearB, Bool.and_eq_true, Bool.not_eq_true', List.isEmpty_iff] at h
  obtain ⟨⟨⟨⟨a, b⟩, c⟩, d⟩, e⟩ := h
  exact ⟨finds_of a, b, ok_of c, d, e⟩

def calmB (s : State) : Bool :=
  s.host.accesses.isEmpty && s.net.heldWr.isEmpty &&
    (List.range 52).all fun q => (s.queue q).work.all fun w => w.ready || w.kind == .pass

theorem calm_of {s : State} (h : calmB s = true) : s.Calm := by
  simp only [calmB, Bool.and_eq_true, List.isEmpty_iff, List.all_eq_true, List.mem_range, Bool.or_eq_true,
    beq_iff_eq] at h
  exact ⟨h.1.1, h.1.2, h.2⟩
/-! ### The whole machine -/

theorem witness_StepRunsFrontCommand : ({ State.reset with pending := [.nop 51, .ckSnap] } : State).pending = .nop 51 :: [.ckSnap] := rfl

theorem witness_WellFormedCommandsGoOn : (Instr.barResize 42).wf = true ∧ (Instr.barResize 43).wf = false := by decide

theorem witness_StepKeepsInvariant : State.reset.Inv ∧ step State.reset = .next (nx (step State.reset)) :=
  ⟨⟨by simp [State.reset], by simp [State.reset], by decide, by decide, by decide⟩, rfl⟩

theorem witness_CommandsKeepFusesAndQueue : State.reset.Inv ∧ exec .powerOn State.reset = .next (nx (exec .powerOn State.reset)) :=
  ⟨witness_StepKeepsInvariant.1, rfl⟩

theorem witness_CapabilitiesAreFixed : State.reset.Inv ∧ regAt 0x480 = some (.ID_CAP_VE_DEPTH, 0, 0) ∧
    regAt 0x437 = some (.ID_CAP_STACK_BYTES, 0, 7) := ⟨witness_StepKeepsInvariant.1, by decide, by decide⟩

/-! ### Engine queues and control instructions -/

/-- Queue 51 with a control instruction at its head. -/
def ctl (op sig operand : Nat) : State := headed full 51 (word op 15 sig operand)

def ctlI (op sig operand : Nat) : Ins := insOf (word op 15 sig operand)

/-- An instruction in progress in queue 51, and a second behind it. -/
def busy (s : State) (g : Work → Work) : State :=
  s.updQueue 51 fun q => { q with work := [g (newWork q (ctlI 0 9 0) .copy none), newWork q (ctlI 0 8 0) .plain none] }

def firstWork (s : State) (q : Nat) : Work := (s.queue q).work.getD 0 (newWork (s.queue q) (insOf 0) .plain none)

theorem witness_NopAndSyncMoveOn :
    (ctl 0 5 0).issues 51 0x00 (ctlI 0 5 0) ∧ (ctl 2 0xFFFF 0).issues 51 0x02 (ctlI 2 0xFFFF 0) ∧
      (ctl 2 0xFFFF 0).drained 51 = true :=
  ⟨issues_of (by decide), issues_of (by decide), by decide⟩

theorem witness_NopAndSyncMoveOn_waits :
    (busy (ctl 2 0xFFFF 0) id).issues 51 0x02 (ctlI 2 0xFFFF 0) ∧ (busy (ctl 2 0xFFFF 0) id).drained 51 = false :=
  ⟨issues_of (by decide), by decide⟩

/-- A loop operand: COUNT and the length of the body. -/
def loopOp (count body : Nat) : Nat := count + body * 2 ^ 32

theorem witness_LoopsAndBranches_loop :
    (ctl 4 0xFFFF (loopOp 0 4096)).issues 51 0x04 (ctlI 4 0xFFFF (loopOp 0 4096)) ∧ ((ctl 4 5 0).queue 51).loops = [] ∧
      bits (ctlI 4 0xFFFF (loopOp 0 4096)).operand 0 24 = 0 ∧
      (ctl 4 0xFFFF (loopOp (2 ^ 24 - 1) 1)).issues 51 0x04 (ctlI 4 0xFFFF (loopOp (2 ^ 24 - 1) 1)) ∧
      bits (ctlI 4 0xFFFF (loopOp (2 ^ 24 - 1) 1)).operand 0 24 ≠ 0 :=
  ⟨issues_of (by decide), by decide, by decide, issues_of (by decide), by decide⟩

theorem witness_LoopsAndBranches_branches :
    (ctl 5 0xFFFF (2 ^ 24 - 1)).issues 51 0x05 (ctlI 5 0xFFFF (2 ^ 24 - 1)) ∧
      (ctl 6 0xFFFF (5 * 2 ^ 32)).issues 51 0x06 (ctlI 6 0xFFFF (5 * 2 ^ 32)) :=
  ⟨issues_of (by decide), issues_of (by decide)⟩

/-- The loop level at the end of its body: more iterations left, none left, and elsewhere. -/
theorem witness_LoopsAndBranches_levels :
    ((0x40 : Nat) = (LoopLevel.mk 0x10 0x40 2 0).stop ∧ (LoopLevel.mk 0x10 0x40 2 0).index + 1 < (LoopLevel.mk 0x10 0x40 2 0).count) ∧
      (LoopLevel.mk 0x10 0x40 2 1).count ≤ (LoopLevel.mk 0x10 0x40 2 1).index + 1 ∧ (0x30 : Nat) ≠ (LoopLevel.mk 0x10 0x40 2 1).stop := by
  decide

/-- LDC of loft 0 by queue 1 of thresher 0. -/
def ldcS : State := headed (putAt full 1 0 0x100 (leBytes 8 0x1122334455667788)) 1 (word 7 15 0xFFFF (0x100 + 2 ^ 42))

theorem witness_LdcLoadsCr :
    ldcS.issues 1 0x07 (ctlI 7 0xFFFF (0x100 + 2 ^ 42)) ∧
      ldcS.checkUses (ldcS.bindEpoch (ctlI 7 0xFFFF (0x100 + 2 ^ 42))) [⟨some ⟨1, 0, 0x100, 0x107⟩, false, 0⟩] (.ok ()) = .ok () :=
  ⟨issues_of (by decide), ok_of (by decide)⟩

theorem witness_LdcLoadsCr_rest :
    ldcS.flaws = [] ∧ qThr 1 = 0 ∧ ldcS.mustStall 1 [⟨1, 0, 0x100, 0x107⟩] [] none = false ∧
      anyBad (ldcS.readAt .unbound 1 0 0x100 8) = false := by decide

/-- NOTIFY with the event ring on, its TAIL about to wrap, vector 59 unmasked. -/
def ringS : State :=
  let s := sets (ctl 3 0xFFFF 0xABCD) [(.HI_EVT_CFG_EN, 0, 1), (.HI_EVT_CFG_LOG2N, 0, 6), (.HI_EVT_TAIL_TAIL, 0, 2 ^ 32 - 1),
    (.HI_EVT_HEAD_HEAD, 0, 2 ^ 32 - 3)]
  { s with host := { s.host with msix := [(239, 0)] } }

theorem witness_NotifyAndEnd_notify :
    ((ctl 3 0xFFFF 7).issues 51 0x03 (ctlI 3 0xFFFF 7) ∧ (ctl 3 0xFFFF 7).fenceDone 51 (ctlI 3 0xFFFF 7) = true ∧
      (ctl 3 0xFFFF 7).flag .HI_EVT_CFG_EN 0 = false) ∧
    ringS.issues 51 0x03 (ctlI 3 0xFFFF 0xABCD) ∧ ringS.fenceDone 51 (ctlI 3 0xFFFF 0xABCD) = true ∧
      ringS.flag .HI_EVT_CFG_EN 0 = true ∧ ringS.eventReady = true ∧ ringS.masked 59 = false :=
  ⟨⟨issues_of (by decide), by decide⟩, issues_of (by decide), by decide⟩

/-- NOTIFY with the ring full: 255 and then 256 events in the holding buffer. -/
def heldN (n : Nat) (s : State) : State := { s with host := { s.host with held := List.replicate n ⟨0, 0, 0, 0, 0⟩ } }

def fullRing (op n : Nat) : State :=
  heldN n (sets (ctl op 0xFFFF 1) [(.HI_EVT_CFG_EN, 0, 1), (.HI_EVT_CFG_LOG2N, 0, 6), (.HI_EVT_TAIL_TAIL, 0, 64)])

theorem witness_NotifyAndEnd_full_ring :
    ((fullRing 3 255).issues 51 0x03 (ctlI 3 0xFFFF 1) ∧ (fullRing 3 255).fenceDone 51 (ctlI 3 0xFFFF 1) = true ∧
      (fullRing 3 255).eventReady = false ∧ (fullRing 3 255).host.held.length < 256) ∧
    (fullRing 3 256).issues 51 0x03 (ctlI 3 0xFFFF 1) ∧ (fullRing 3 256).fenceDone 51 (ctlI 3 0xFFFF 1) = true ∧
      (fullRing 3 256).flag .HI_EVT_CFG_EN 0 = true ∧ (fullRing 3 256).eventReady = false ∧
      256 ≤ (fullRing 3 256).host.held.length :=
  ⟨⟨issues_of (by decide), by decide⟩, issues_of (by decide), by decide⟩

/-- END without a signal, and with one on a tally whose count it brings to 65,535. -/
def endS : State := sets (ctl 1 9 0) [(.TL_COUNT_COUNT, 9, 65532)]

theorem witness_NotifyAndEnd_end :
    ((ctl 1 0xFFFF 0).issues 51 0x01 (ctlI 1 0xFFFF 0) ∧ (ctl 1 0xFFFF 0).drained 51 = true ∧
      (ctlI 1 0xFFFF 0).hostFence = false ∧ bit (ctlI 1 0xFFFF 0).operand 0 = false) ∧
    endS.issues 51 0x01 (ctlI 1 9 0) ∧ endS.waitersOf 9 = [] ∧ endS.tally 9 + (ctlI 1 9 0).sigCnt = 65535 ∧
      (ctlI 1 9 0).sigCnt ≠ 0 ∧ endS.drained 51 = true :=
  ⟨⟨issues_of (by decide), by decide⟩, issues_of (by decide), by decide⟩

/-- END with NOTIFY: a full holding buffer, a ring with room; and END behind work in progress. -/
theorem witness_NotifyAndEnd_end_notify :
    ((fullRing 1 256).issues 51 0x01 (ctlI 1 0xFFFF 1) ∧ bit (ctlI 1 0xFFFF 1).operand 0 = true ∧
      (fullRing 1 256).eventStall = true) ∧
    ((heldN 0 (sets (fullRing 1 0) [(.HI_EVT_HEAD_HEAD, 0, 1)])).issues 51 0x01 (ctlI 1 0xFFFF 1) ∧
      (sets (fullRing 1 0) [(.HI_EVT_HEAD_HEAD, 0, 1)]).eventReady = true ∧
      (sets (fullRing 1 0) [(.HI_EVT_HEAD_HEAD, 0, 1)]).eventStall = false) ∧
    (busy (ctl 1 0xFFFF 0) id).issues 51 0x01 (ctlI 1 0xFFFF 0) ∧ (busy (ctl 1 0xFFFF 0) id).drained 51 = false :=
  ⟨⟨issues_of (by decide), by decide⟩, ⟨issues_of (by decide), by decide⟩, issues_of (by decide), by decide⟩

/-- END under HOSTFENCE with nothing to flush. -/
def fenceW : Nat := word 1 15 0xFFFF 0 + 2 ^ 114

theorem witness_NotifyAndEnd_end_fence :
    (headed full 51 fenceW).issues 51 0x01 (insOf fenceW) ∧ (insOf fenceW).hostFence = true ∧
      (headed full 51 fenceW).flushed 51 ((headed full 51 fenceW).queue 51).nextId = true ∧
      (headed full 51 fenceW).drained 51 = true :=
  ⟨issues_of (by decide), by decide⟩

/-- Heads outside the region, in a poisoned sector, and with a reserved opcode, a foreign class, a nonzero reserved bit. -/
theorem witness_EngineFaults :
    ((sets (ctl 0 0xFFFF 0) [(.EN_Q_PRG_SIZE_SIZE, 51, 0x1000)]).mayIssue 51 = true ∧
      (sets (ctl 0 0xFFFF 0) [(.EN_Q_PRG_SIZE_SIZE, 51, 0x1000)]).head 51 = .bad .fetchBounds) ∧
    ((full.updQueue 51 fun q => { q with buf := [(0, ⟨0, true⟩)] }).rdi .EN_Q_PC_PC 51 = 0 ∧
      (sets (full.updQueue 51 fun q => { q with buf := [(0, ⟨0, true⟩)] }) [(.EN_Q_PRG_SIZE_SIZE, 51, 16)]).head 51 =
        .bad .fetchPoison) ∧
    decodeFault 51 (ctlI 0xFF 0xFFFF 0) = some .opcode ∧ decodeFault 51 (insOf (word 0xA0 5 0xFFFF 0)) = some .engineClass ∧
    decodeFault 51 (ctlI 0 0xFFFF 1) = some .encoding ∧ (ctl 0 0xFFFF 1).head 51 = .ins (ctlI 0 0xFFFF 1) ∧
    (ctl 0 0xFFFF 1).mayIssue 51 = true ∧ ((ctl 0 0xFFFF 1).queue 51).wait = none ∧ (ctl 0 0xFFFF 1).qState 51 ≠ 5 ∧
    ((ctl 0 0xFFFF 1).queue 51).skipping = false ∧ ((ctl 0 0xFFFF 1).queue 51).taken = false ∧
    (sets full [(.EN_Q_STAT_STATE, 51, 5)]).qState 51 = 5 ∧ full.waiters = [] := by
  decide

/-! ### Starting, stopping and fetching a queue; the end of an instruction -/

/-- A program region of queue `q`, all threshers tested. -/
def prg (q : Nat) (s : State) : State :=
  sets s [(.ER_BRINGUP_BIST_PASS, 0, 255), (.EN_Q_PRG_BASE_BASE, q, 0x10000), (.EN_Q_PRG_SIZE_SIZE, q, 0x1000)]

theorem witness_StartsAndDoorbells :
    full.hostUp = true ∧ full.flag .PW_STATE_IDLE 0 = false ∧ (prg 51 full).canStart 51 0 = true ∧
      (prg 51 full).canStart 51 0xFF0 = true ∧ (prg 51 full).canStart 51 0x1000 = false ∧
      (prg 51 full).canStart 51 8 = false ∧ (prg 0 full).canStart 0 0 = true ∧ full.writesHeld = false ∧
      ({ full with host := { full.host with accesses := [.write 0 [0] false] } } : State).writesHeld = true := by decide

/-- LAUNCH of queue 5 of thresher 7, at offset 16. -/
def launchW : Nat := word 0x20 0 0xFFFF (5 + 16 * 2 ^ 32)
def launchS : State := prg (thrQ 7 5) (headed full (thrQ 7 0) launchW)

theorem witness_StartsAndDoorbells_launch :
    launchS.issues (thrQ 7 0) 0x20 (insOf launchW) ∧ launchS.canStart (thrQ 7 5) 16 = true ∧
      (sets launchS [(.EN_Q_STAT_STATE, thrQ 7 5, 5)]).issues (thrQ 7 0) 0x20 (insOf launchW) ∧
      (sets launchS [(.EN_Q_STAT_STATE, thrQ 7 5, 5)]).canStart (thrQ 7 5) 16 = false :=
  ⟨issues_of (by decide), by decide, issues_of (by decide), by decide⟩

theorem witness_StopClearQuiesce :
    ((ctl 0 0xFFFF 0).qState 51 = 1 ∧ ((ctl 0 0xFFFF 0).queue 51).wait = none ∧ (ctl 0 0xFFFF 0).hostUp = true) ∧
    ((sets full [(.EN_Q_STAT_STATE, 51, 5)]).qState 51 = 5 ∧ full.bayFaulted (qBay 51) = false ∧ full.fatal = false) ∧
    ((sets full [(.EN_Q_STAT_STATE, 51, 4)]).drained 51 = true ∧ (full.queue 51).ending = none ∧ (sets full [(.EN_Q_STAT_STATE, 51, 4)]).qState 51 = 4) ∧
    (sets full [(.EN_Q_STAT_STATE, 51, 5), (.EN_Q_CTL_CLEAR, 51, 1)]).flag .EN_Q_CTL_CLEAR 51 = true := by decide

/-- The last instruction of its region. -/
def fetchS : State := sets (prg 51 full) [(.EN_Q_STAT_STATE, 51, 1), (.EN_Q_PC_PC, 51, 0x10FF0)]

theorem witness_FetchFillsBuffer :
    fetchS.qState 51 = 1 ∧ (fetchS.queue 51).buf = [] ∧ (fetchS.queue 51).brcStop = false ∧ fetchS.flaws = [] ∧
      fetchS.gran.asleep = [] ∧
      fetchS.rdi .EN_Q_PRG_BASE_BASE 51 ≤ fetchS.rdi .EN_Q_PC_PC 51 ∧
      fetchS.rdi .EN_Q_PC_PC 51 + 16 = fetchS.rdi .EN_Q_PRG_BASE_BASE 51 + fetchS.rdi .EN_Q_PRG_SIZE_SIZE 51 := by decide

theorem witness_CompletionSignalAndFlush_completion :
    (((busy full id).queue 51).work.find? fun x => x.id == (firstWork (busy full id) 51).id) = some (firstWork (busy full id) 51) ∧
      (busy full id).mayComplete 51 (firstWork (busy full id) 51) = true ∧ (firstWork (busy full id) 51).volRead = false ∧
      ((firstWork (busy full id) 51).writes.any fun x => x.space == 2) = false ∧
      (((busy full id).queue 51).work.all fun x => x.coll.isNone) = true ∧ ((busy full id).queue 51).ending = none := by decide

/-- A completed instruction whose signal brings tally 9 to 65,535. -/
def sigS : State := sets (busy full fun w => { w with done := true }) [(.TL_COUNT_COUNT, 9, 65532)]

theorem witness_CompletionSignalAndFlush_signal :
    ((sigS.queue 51).work.find? fun x => x.id == (firstWork sigS 51).id) = some (firstWork sigS 51) ∧
      (firstWork sigS 51).done = true ∧ sigS.released 51 (firstWork sigS 51).id = true ∧
      (firstWork sigS 51).hostFence = false ∧ (firstWork sigS 51).kind = .copy ∧ (firstWork sigS 51).sigIdx = 9 ∧ (firstWork sigS 51).bound = none ∧
      sigS.allocated 9 = true ∧ sigS.bayFaulted (tallyBay 9) = false ∧ sigS.waitersOf 9 = [] ∧
      sigS.tally 9 + (firstWork sigS 51).sigCnt = 65535 ∧ (firstWork sigS 51).sigCnt ≠ 0 := by decide

/-- A copy to host memory whose flush read is out. -/
def flushS : State := full.updQueue 51 fun q => { q with copies := [⟨3, 0, true⟩] }

theorem witness_CompletionSignalAndFlush_flush :
    (flushS.queue 51).ending = none ∧ ((flushS.queue 51).copies.any fun c => c.id == 3 && c.flushing) = true ∧
      (flushS.queue 51).wait = none ∧ (flushS.queue 51).taken = false ∧ flushS.qState 51 ≠ 5 := by decide

/-! ### Tallies -/

/-- Queue 51 waits for `n` on tally 9, whose count is `c`. -/
def waitS (c n : Nat) : State :=
  { sets (full.updQueue 51 fun q => { q with wait := some ⟨9, n, 60000000, false⟩ }) [(.TL_COUNT_COUNT, 9, c), (.EN_Q_STAT_STATE, 51, 2),
    (.TL_WDOG_EN, 51, 1)] with waiters := [(9, [⟨51, n⟩])] }

theorem witness_SignalsArmsAndWaiters_served :
    (waitS 65535 65535).waitersOf 9 = [⟨51, 65535⟩] ∧ ((waitS 65535 65535).queue 51).wait = some ⟨9, 65535, 60000000, false⟩ ∧
      ((waitS 65535 65535).queue 51).brcStop = false ∧ 65535 ≤ (waitS 65535 65535).tally 9 ∧
      (waitS 4 5).waitersOf 9 = [⟨51, 5⟩] ∧ (waitS 4 5).tally 9 < 5 := by decide

theorem witness_SignalsArmsAndWaiters_overflow :
    (sets full [(.TL_COUNT_COUNT, 9, 1)]).waitersOf 9 = [] ∧ 65535 < (sets full [(.TL_COUNT_COUNT, 9, 1)]).tally 9 + 65535 := by
  decide

/-- A tally instruction of queue 51 on tally 9 of the module, its count being 5. -/
def tlOp (n : Nat) : Nat := 9 + n * 2 ^ 16 + 2 ^ 32
def tlS (op n : Nat) : State := sets (ctl op 0xFFFF (tlOp n)) [(.TL_COUNT_COUNT, 9, 5)]

theorem witness_TallyInstructions_signal :
    (tlS 8 65535).issues 51 0x08 (ctlI 8 0xFFFF (tlOp 65535)) ∧ (tlS 8 65535).fenceDone 51 (ctlI 8 0xFFFF (tlOp 65535)) = true ∧
      (tlS 8 65535).localTally 51 (ctlI 8 0xFFFF (tlOp 65535)) = some 9 ∧ operandTally 51 (ctlI 8 0xFFFF (tlOp 65535)).operand = 9 ∧
      (tlS 8 65535).waitersOf 9 = [] ∧ (tlS 8 0).issues 51 0x08 (ctlI 8 0xFFFF (tlOp 0)) ∧
      (tlS 8 0).fenceDone 51 (ctlI 8 0xFFFF (tlOp 0)) = true ∧ (tlS 8 0).localTally 51 (ctlI 8 0xFFFF (tlOp 0)) = some 9 :=
  ⟨issues_of (by decide), by decide, by decide, by decide, by decide, issues_of (by decide), by decide⟩

theorem witness_TallyInstructions_arm_read :
    (tlS 10 0).issues 51 0x0A (ctlI 10 0xFFFF (tlOp 0)) ∧ (tlS 11 0).issues 51 0x0B (ctlI 11 0xFFFF (tlOp 0)) ∧
      (tlS 10 0).waitersOf 9 = [] ∧ (tlS 11 0).waitersOf 9 = [] :=
  ⟨issues_of (by decide), issues_of (by decide), by decide⟩

theorem witness_TallyInstructions_wait :
    (tlS 9 0).issues 51 0x09 (ctlI 9 0xFFFF (tlOp 0)) ∧
      (tlS 9 5).issues 51 0x09 (ctlI 9 0xFFFF (tlOp 5)) ∧ (tlS 9 6).issues 51 0x09 (ctlI 9 0xFFFF (tlOp 6)) ∧
      (tlS 9 5).tally 9 = 5 ∧ (tlS 9 5).waitersOf 9 = [] ∧ (ctlI 9 0xFFFF (tlOp 5)).sigIdx = 0xFFFF :=
  ⟨issues_of (by decide), issues_of (by decide), issues_of (by decide), by decide⟩

theorem witness_HostTalliesAndAllocation :
    full.hostUp = true ∧ full.waiters = [] ∧ full.flag .PW_STATE_IDLE 0 = false ∧ full.hostMay 31 = true ∧ full.waitersOf 31 = [] ∧
      full.hostMay 32 = false ∧ full.hostMay 65535 = false ∧ full.flag .TL_HOST_CTL_GO 0 = false ∧ full.writesHeld = false ∧
      ({ full with host := { full.host with accesses := [.write 0 [0] false] } } : State).writesHeld = true := by decide

theorem witness_WaitWatchdog :
    (full.hostUp = true ∧ (full.queue 51).wait = none ∧ full.wdogDue 51 = false) ∧
      ((waitS 4 5).queue 51).wait = some ⟨9, 5, 60000000, false⟩ ∧ (waitS 4 5).rdi .TL_WDOG_PERIOD 51 ≤ 60000000 ∧
      ((waitS 4 5).queue 51).taken = false ∧
      (waitS 4 5).waitersOf 9 = [⟨51, 5⟩] ∧ (waitS 4 5).flag .TL_WDOG_EN 51 = true ∧ (waitS 4 5).qState 51 ≠ 5 := by decide

/-! ### Provisional steps -/

/-- A provisional-step instruction of thresher 3, which controls them where `ctlT` is 3. -/
def psW (op : Nat) : Nat := word op 0 0xFFFF (if op = 0x21 then 0x8000 else 0)
def psS (op ctlT : Nat) (l : List (F × Nat × Nat)) : State :=
  sets (headed (putAt full 0 0 0x8000 (leBytes 64 (descOf [(0, 4, 7)]))) (thrQ 3 0) (psW op))
    ([(.PS_CFG_CTL_T, 0, ctlT), (.PS_CFG_EN, 0, 1)] ++ l)
def epoch7 : List (F × Nat × Nat) := [(.PS_STAT_OPEN, 0, 1), (.PS_EPOCH_OPEN_EPOCH, 0, 7), (.PS_EPOCH_LAST_EPOCH, 0, 7)]

theorem witness_ConfirmAndSquash_confirm :
    (psS 0x22 3 epoch7).issues (thrQ 3 0) 0x22 (insOf (psW 0x22)) ∧ (psS 0x22 3 epoch7).Calm ∧
      (psS 0x22 3 epoch7).rd .PS_CFG_CTL_T = 3 ∧ (psS 0x22 3 epoch7).flag .PS_CFG_EN 0 = true ∧
      (psS 0x22 3 epoch7).liveEpochs = [7] :=
  ⟨issues_of (by decide), calm_of (by decide), by decide⟩

theorem witness_ConfirmAndSquash_squash :
    (psS 0x23 3 epoch7).issues (thrQ 3 0) 0x23 (insOf (psW 0x23)) ∧ (psS 0x23 3 epoch7).Calm ∧
      (psS 0x23 3 epoch7).liveEpochs = [7] ∧
      (psS 0x23 3 []).issues (thrQ 3 0) 0x23 (insOf (psW 0x23)) ∧ (psS 0x23 3 []).liveEpochs = [] ∧
      (psS 0x22 3 []).issues (thrQ 3 0) 0x22 (insOf (psW 0x22)) ∧ (psS 0x22 3 []).liveEpochs = [] :=
  ⟨issues_of (by decide), calm_of (by decide), by decide, issues_of (by decide), by decide, issues_of (by decide), by decide⟩

theorem witness_ConfirmAndSquash_owner :
    (psS 0x21 4 []).issues (thrQ 3 0) 0x21 (insOf (psW 0x21)) ∧ (psS 0x22 4 []).issues (thrQ 3 0) 0x22 (insOf (psW 0x22)) ∧
      (psS 0x23 4 []).issues (thrQ 3 0) 0x23 (insOf (psW 0x23)) ∧ (psS 0x23 4 []).rd .PS_CFG_CTL_T ≠ 3 :=
  ⟨issues_of (by decide), issues_of (by decide), issues_of (by decide), by decide⟩

def openS : State := psS 0x21 3 [(.PS_EPOCH_LAST_EPOCH, 0, 6)]

theorem witness_OpenStartsEpoch :
    openS.issues (thrQ 3 0) 0x21 (insOf (psW 0x21)) ∧ openS.finds (thrQ 3 0) (insOf (psW 0x21)) (found openS (thrQ 3 0) (insOf (psW 0x21))) ∧
      (found openS (thrQ 3 0) (insOf (psW 0x21))).word = 7 ∧
      openS.openCheck 3 (found openS (thrQ 3 0) (insOf (psW 0x21))) = .ok () ∧
      openS.mustStall (thrQ 3 0) [(found openS (thrQ 3 0) (insOf (psW 0x21))).span] [] none = false :=
  ⟨issues_of (by decide), finds_of (by decide), by decide, ok_of (by decide), by decide⟩

theorem witness_OpenStartsEpoch_rest :
    (openS.openTallies 3 7).toOption = some [] ∧ openS.liveEpochs = [] ∧ openS.flaws = [] ∧
      openS.liveEpochs.length + openS.unfolded.length < 4 ∧ openS.rd .PS_CFG_CTL_T = 3 ∧ openS.flag .PS_CFG_EN 0 = true := by
  decide

/-- The restore of epoch 4, which checkpointed tally 9, its SQUASH in progress in queue 36. -/
def restoreS : State :=
  { full.updQueue 36 fun x => { x with work := [{ newWork x (insOf (psW 0x23)) .squash none with desc := 4 }] } with
    prov := { full.prov with squashing := [4], checks := [(4, [(9, 65535)])] } }

theorem witness_RestoreAndFold_restore :
    restoreS.prov.squashing = [4] ∧ restoreS.squashDrained = true ∧ restoreS.waiters = [] ∧
      Tbl.get [] restoreS.prov.checks 4 = [(9, 65535)] ∧ restoreS.allocated 9 = true ∧
      restoreS.squasher 4 = some (36, 0) ∧ (restoreS.queue 36).ending = none ∧ full.prov.squashing = [] := by decide

theorem test_restore_completes_the_squash :
    (nx (exec .squashRestore restoreS)).tally 9 = 65535 ∧ (nx (exec .squashRestore restoreS)).prov.squashing = [] ∧
      ((nx (exec .squashRestore restoreS)).queue 36).work.all (fun w => w.done) = true := by decide

/-- An ended epoch with the last granule of the last entry tagged. -/
def foldS (squashed : Bool) : State :=
  { sets full [(.PS_EPOCH_LAST_EPOCH, 0, 4)] with
    prov := { full.prov with ended := [⟨4, squashed, false⟩], granules := [(granKey 63 (2 ^ 23 - 1), ⟨true, some 4⟩)] } }

theorem witness_RestoreAndFold_fold : ∀ b : Bool,
    (foldS b).prov.ended = ⟨4, b, false⟩ :: [] ∧ (foldS b).prov.granules = [(granKey 63 (2 ^ 23 - 1), ⟨true, some 4⟩)] ∧
      (foldS b).flag .PS_VREG_CFG_KIND 63 = false ∧ (foldS b).live 4 = false ∧ (foldS b).squashed 4 = b := by decide

/-! ### Clocks -/

theorem witness_ClockCommands_source :
    full.islandOwner 39 = 0 ∧ full.flag .CK_ISL_STAT_SWITCHING 39 = false ∧
      (sets full [(.CK_ISL_STAT_READY0, 39, 1)]).rdi .CK_ISL_STAT_READY0 39 ≠ 0 ∧ full.rdi .CK_ISL_STAT_READY0 39 = 0 ∧
      full.rdi .CK_ISL_STAT_READYS 39 ≠ 0 ∧ (sets full [(.CK_ISL_STAT_SWITCHING, 0, 1)]).flag .CK_ISL_STAT_SWITCHING 0 = true := by
  decide

/-- The island of stack 23 on its way from a PLL output to the safe clock. -/
def switchS : State := sets full [(.CK_ISL_STAT_SWITCHING, 35, 1), (.CK_ISL_CTL_SRC, 35, 2), (.CK_ISL_STAT_CUR, 35, 0)]

theorem witness_ClockCommands_switch :
    switchS.Calm ∧ switchS.flag .CK_ISL_STAT_SWITCHING 35 = true ∧ switchS.rdi .CK_ISL_CTL_SRC 35 = 2 ∧
      switchS.rdi .CK_ISL_STAT_CUR 35 ≠ 2 ∧ switchS.online 23 = true := ⟨calm_of (by decide), by decide⟩

theorem witness_ClockCommands_meters :
    full.hostUp = true ∧ full.flag .CK_METER_CTL_GO 2 = false ∧ clockCode 0 = true ∧ clockCode 42 = true ∧
      (sets full [(.CK_METER_CTL_GO, 2, 1)]).flag .CK_METER_CTL_GO 2 = true := by decide

/-- A REFCLK failure episode, and 101 windows that pass after it. -/
def episode : State := nx (exec (.monitorWindow 87) (sets full [(.CK_STAT_ARMED, 0, 1)]))
def settled : State :=
  { sets episode [(.CK_STAT_ARMED, 0, 1), (.CK_STAT_REFCLK_OK, 0, 1)] with
    clock := { episode.clock with passes := 100, before := [] } }

theorem witness_ClockFailureAndRestore :
    full.boot.phase ≠ .off ∧ (sets full [(.CK_STAT_ARMED, 0, 1)]).flag .CK_STAT_ARMED 0 = true ∧
      full.flag .CK_STAT_EPISODE 0 = false ∧ full.flag .CK_STAT_ARMED 0 = false ∧
      episode.flag .CK_STAT_EPISODE 0 = true ∧ full.pllDue = false := by decide

theorem witness_ClockFailureAndRestore_lock :
    settled.pllDue = true ∧ settled.floorOn = false ∧ settled.homeSource 40 ≠ 2 ∧ settled.boot.phase ≠ .off ∧
      ((List.range 16).all fun p => settled.portState p != 3) = true ∧ settled.Calm :=
  ⟨by decide, by decide, by decide, by decide, by decide, calm_of (by decide)⟩

/-! ### Power and temperature -/

theorem witness_PowerConfiguration : full.hostUp = true ∧ isOrder (bits 0x15 0 2) (bits 0x15 2 2) (bits 0x15 4 2) = false ∧
    isOrder (bits 0x24 0 2) (bits 0x24 2 2) (bits 0x24 4 2) = true ∧ full.modes = [] ∧
    ({ full with modes := [.interleave 1] } : State).modeBusy (.profile 2) = false ∧
    ({ full with modes := [.profile 1] } : State).modeBusy (.profile 2) = true := by decide

/-- Thresher 7 on a PLL output at P6, the P-state pinned to P7; and at P1, to rise. -/
def pinS : State :=
  sets full [(.PW_PSTATE_CEIL, 0, 7), (.PW_PSTATE_PIN_EN, 0, 1), (.PW_PSTATE_PIN, 0, 7), (.CK_ISL_STAT_CUR, 7, 0),
    (.PW_THR_STAT_PSTATE, 7, 6)]
def riseS : State := sets full [(.CK_ISL_STAT_CUR, 7, 0), (.PW_THR_STAT_PSTATE, 7, 1)]

theorem witness_PstateCommands_change :
    (pinS.pstateFree 7 = true ∧ pinS.floorOn = false ∧ pinS.rdi .PW_THR_STAT_PSTATE 7 = 6 ∧ pinS.pstateWanted 7 = 7) ∧
      (riseS.pstateFree 7 = true ∧ riseS.floorOn = false ∧ riseS.power.returning = false ∧ riseS.pstateWanted 7 = 0) ∧
      (sets pinS [(.PW_THR_STAT_PSTATE, 7, 7)]).pstateWanted 7 = 7 ∧ (sets pinS [(.PW_THR_STAT_PSTATE, 7, 7)]).pstateFree 7 = true := by
  decide

theorem witness_PstateCommands_auto :
    full.flag .PW_PSTATE_AUTO 0 = true ∧ full.flag .PW_PSTATE_PIN_EN 0 = false ∧ (Frac.of 1 2).lt (Frac.of 3 4) = true ∧
      ({ full with power := { full.power with compute := Frac.of 3 4 } } : State).power.compute = Frac.of 3 4 := by decide

theorem witness_PstateCommands_droop :
    full.domainOff (thrDomain 7) = false ∧ full.boot.phase ≠ .off ∧ full.rdi .PW_DROOP_CNT_COUNT 7 < 2 ^ 32 - 1 ∧
      7 ∈ (nx (exec (.droop 7) full)).power.droop := by decide

/-- A sensor of thresher 7 at its throttle limit. -/
def hotS : State := nx (exec (.sensorSample (.thresher 7 3) (8 * full.rd .TM_LIMIT_THROTTLE) true) full)

theorem witness_PstateCommands_throttle :
    hotS.hottest 7 = some (8 * (hotS.rd .TM_LIMIT_THROTTLE : Int)) ∧ hotS.rdi .PW_THR_STAT_PSTATE 7 < 7 ∧
      Tbl.get 0 hotS.power.heat 7 ≤ hotS.rdi .PW_THR_STAT_PSTATE 7 ∧
      (nx (exec (.throttleStep 7) hotS)).rdi .PW_THR_STAT_PSTATE 7 < Tbl.get 0 (nx (exec (.throttleStep 7) hotS)).power.heat 7 := by
  decide

theorem witness_MeasurementsAndCalibration :
    full.boot.phase ≠ .off ∧ full.domainOff (sensorDomain (.thresher 7 3)) = false ∧
      full.domainOff (sensorDomain (.stack 23)) = false ∧ full.power.gains = List.replicate 21 ⟨1, 1⟩ ∧ full.fwUp = true ∧
      full.modes = [] ∧ (List.replicate 21 195).sum = 4095 := by decide

/-- The Floor state: entered with every thresher on a PLL output, released, its hold over. -/
def floorS : State := nx (exec .pwAlertAssert (sets full ((List.range 8).map fun k => (.CK_ISL_STAT_CUR, k, 0))))
def releasedS : State := nx (exec .pwAlertRelease floorS)
def returnS : State := nx (exec .floorHoldExpiry releasedS)

theorem witness_PstateCommands_floor : floorS.floorOn = true ∧ floorS.pstateFree 7 = true ∧ 7 ∈ floorS.clock.divided := by decide

theorem witness_FloorState :
    full.power.alertLow = false ∧ full.flag .CK_STAT_EPISODE 0 = false ∧ floorS.power.alertLow = true ∧
      releasedS.power.holding = true ∧ returnS.power.returning = true ∧ returnS.pstateFree 7 = true ∧
      returnS.pstateWanted 7 < returnS.rdi .PW_THR_STAT_PSTATE 7 ∧ returnS.rdi .PW_THR_STAT_PSTATE 7 ≤ 7 := by decide

theorem witness_DomainsAndIdle_write :
    full.flag .PW_DOM_OFF 19 = false ∧ full.mayGoOff 0 = true ∧ full.mayGoOff 7 = false ∧
      (sets full [(.PW_DOM_OFF, 0, 1)]).flag .PW_DOM_OFF 0 = true ∧ (sets full [(.PW_DOM_OFF, 0, 1)]).mayComeOn 0 = true ∧
      (sets full [(.PW_DOM_OFF, 0, 1), (.ER_BRINGUP_BIST_FAIL, 0, 255)]).mayComeOn 0 = false := by decide

theorem witness_DomainsAndIdle_switch :
    ((sets full [(.PW_DOM_OFF, thrDomain 7, 1)]).flag .PW_DOM_OFF (thrDomain 7) = true ∧
      full.domainOff (thrDomain 7) = false ∧ (sets full [(.PW_DOM_OFF, thrDomain 7, 1)]).Calm) ∧
    (sets full [(.PW_DOM_IS_OFF, 19, 1)]).domainOff 19 = true ∧ full.flag .PW_DOM_OFF 19 = false ∧ full.floorOn = false ∧
    full.power.dormant = false ∧ full.power.tripOff = false :=
  ⟨⟨by decide, by decide, calm_of (by decide)⟩, by decide⟩

theorem witness_DomainsAndIdle_idle :
    full.quiet = true ∧ (ctl 0 0xFFFF 0).quiet = false ∧ (sets full [(.PW_STATE_IDLE, 0, 1)]).flag .PW_STATE_IDLE 0 = true := by
  decide

theorem witness_DomainsAndIdle_held :
    ({ full with power := { full.power with dormant := true } } : State).power.dormant = true := rfl
/-! ### Resets, power and the climb to Full service -/

/-- The module held in reset by PERST_N, and without power. -/
def heldS : State := nx (exec .perstAssert full)
def offS : State := nx (exec .powerLoss full)

theorem witness_ResetsAndPower :
    offS.boot.phase = .off ∧ full.boot.phase ≠ .off ∧ full.boot.perstLow = false ∧ full.hostUp = true ∧
      heldS.boot.phase = .held ∧ (sets heldS [(.CK_STAT_EPISODE, 0, 1)]).flag .CK_STAT_EPISODE 0 = true ∧
      heldS.clock.passes ≠ 100 := by decide

/-- PERST_N released, the clock qualified. -/
def readyS : State := { nx (exec .perstRelease heldS) with clock := { heldS.clock with passes := 100 } }

theorem witness_BootRecordsCause : readyS.mayBoot = true := by decide

/-- Dormant, with ports 14 and 15 watched, port 15 for signal energy too. -/
def dormantS : State :=
  nx (exec .enterDormant (sets full [(.WN_PORT_CTL_WAKE_EN, 14, 1), (.WN_PORT_CTL_WAKE_EN, 15, 1), (.WN_PORT_CTL_WAKE_ENERGY, 15, 1)]))

theorem witness_DormantWakeAndTrip_dormant :
    full.allIdle = true ∧ full.hostUp = true ∧ (ctl 0 0xFFFF 0).allIdle = false ∧ (ctl 0 0xFFFF 0).hostUp = true ∧
      dormantS.power.dormant = true := by decide

theorem witness_DormantWakeAndTrip_wake :
    (∀ w ∈ [WakeSeen.mk true true 0xFFFF 0, ⟨false, true, 0, 0⟩, ⟨false, false, 0xFFFF, 0⟩, ⟨false, false, 0, 0xFFFF⟩], w.wf = true) ∧
      dormantS.wakeSource ⟨true, true, 0xFFFF, 0⟩ = some (3, 0) ∧ dormantS.wakeSource ⟨false, true, 0, 0⟩ = some (2, 0) ∧
      dormantS.wakeSource ⟨false, false, 0xFFFF, 0⟩ = some (1, 14) ∧ dormantS.wakeSource ⟨false, false, 0, 0xFFFF⟩ = some (1, 15) ∧
      dormantS.wakeSource ⟨false, false, 1, 2 ^ 14⟩ = none ∧ dormantS.portWakes ⟨false, false, 0, 0xFFFF⟩ 15 = true ∧
      ((List.range 15).all fun k => !dormantS.portWakes ⟨false, false, 0, 0xFFFF⟩ k) = true := by decide

theorem witness_DormantWakeAndTrip_trip :
    (sets full [((sensorFields (.stack 23)).2.1, 23, 1), (.PW_PSTATE_PIN_EN, 0, 1)]).flag (sensorFields (.stack 23)).2.1
      (sensorFields (.stack 23)).2.2 = true ∧ full.boot.phase ≠ .off := by decide

/-- An image of 257 bytes under verification whose key is the neutral point of the curve, with a signature of that key, and
the fused hash of the key. -/
def imageS : State :=
  { sets up [(.HI_FW_STAT_STATE, 0, 1), (.HI_FW_CTL_LEN, 0, 0x101)] with
    staging := [(0, 0x54), (1, 0x53), (2, 0x46), (3, 0x57), (4, 1), (7, 1), (8, 0x23), (0x10, 1), (0x11, 1), (0x15, 1), (0x40, 1), (0x60, 1)]
    fuses := { up.fuses with rootKeys := [sha512 (leBytes 32 1)] } }

theorem witness_FirmwareAndCarrierRecord_image :
    imageS.rd .HI_FW_STAT_STATE = 1 ∧ imageS.imageReason = 0 := by decide +kernel

theorem witness_FirmwareAndCarrierRecord_record :
    fw.fwUp = true ∧ fw.rd .ID_BOARD_FRU_STATUS = 0 ∧ (Fru.record 3 255 2800 (List.replicate 16 255)).wf = true ∧
      fruOk (.record 3 255 2800 (List.replicate 16 255)) = true := by decide

theorem witness_FirmwareAndCarrierRecord_staging :
    up.hostUp = true ∧ up.rd .HI_FW_STAT_STATE = 0 ∧ fw.rd .HI_FW_STAT_STATE = 3 ∧ fw.hostUp = true ∧
      (sets up [(.HI_FW_STAT_STATE, 0, 1)]).imageReason ≠ 0 ∧ (sets up [(.HI_FW_STAT_STATE, 0, 1)]).rd .HI_FW_STAT_STATE = 1 := by
  decide

theorem witness_ClimbToService_bist :
    up.hostUp = true ∧ fw.fwUp = true ∧ fw.fatal = false ∧ fw.bistKnown 6 = false ∧ fw.bistKnown 7 = false := by decide

/-- Every stack trained, every thresher tested, in FIRMWARE. -/
def trainedS : State :=
  sets fw ([(F.ER_SERVICE_STATE, 0, 1), (.ER_BRINGUP_BIST_PASS, 0, 15), (.ER_BRINGUP_BIST_FAIL, 0, 240)] ++
    (List.range 24).map fun k => (.GN_STACK_STAT_STATE, k, 2))

theorem witness_ClimbToService_states :
    (trainedS.rd .ER_SERVICE_STATE = 1 ∧ (List.range 6).all trainedS.trained = true ∧ trainedS.bistKnown 0 = true ∧
      trainedS.bistKnown 1 = true ∧ trainedS.fwUp = true) ∧
    (trainedS.flag .ER_BRINGUP_COMPLETE 0 = false ∧ (List.range 24).all trainedS.trained = true ∧
      (List.range 8).all trainedS.bistKnown = true ∧ ((List.range 16).all fun p => !trainedS.flag .WN_PORT_CTL_EN p) = true ∧
      trainedS.fatal = false) ∧
    ((sets up [(.ER_BRINGUP_COMPLETE, 0, 1), (.ER_SERVICE_STATE, 0, 2)]).rd .ER_SERVICE_STATE = 2 ∧
      (sets up [(.ER_BRINGUP_COMPLETE, 0, 1), (.ER_SERVICE_STATE, 0, 2)]).flag .ER_BRINGUP_COMPLETE 0 = true ∧
      up.allIdle = true ∧ up.modes = [] ∧ ({ up with modes := [.scrub 1] } : State).modeBusy .service = false ∧
      ({ up with modes := [.service] } : State).modeBusy .service = true ∧ trainedS.hostUp = true) := by decide

/-! ### Errors -/

theorem witness_FaultedBayAndModule :
    full.bayPowered 3 = true ∧ full.bayFaulted 3 = false ∧ full.waiters = [] ∧ full.fatal = false ∧ full.fwUp = true ∧
      full.boot.phase = .up ∧ (∀ w ∈ (full.queue 51).work, w.kind ≠ .rscat) ∧ full.net.links = [] := by decide

theorem witness_LogAndPins :
    up.hostUp = true ∧ up.pinMay 3 1 1 = true ∧ up.pinMay 3 1 4 = true ∧
      (sets up [(.ER_GPIO_FN, 3, 4), (.ER_GPIO_OWN, 3, 3)]).pinMay 3 1 4 = false ∧
      (sets up [(.ER_GPIO_FN, 3, 4)]).rdi .ER_GPIO_FN 3 = 4 := by decide

/-! ### The turners and the threshers -/

/-- A turner instruction of a queue of thresher 7, the turner owned by `o`. -/
def turnS (c op o : Nat) : State := sets (headed full (thrQ 7 c) (word op c 0xFFFF 0)) [(.TN_STAT_OWNER, 7, o)]

theorem witness_TurnerCommands_registers :
    full.hostUp = true ∧ full.domainOff (thrDomain 7) = false ∧ full.rdi .TN_STAT_OWNER 7 = 0 ∧
      (sets full [(.TN_STAT_OWNER, 7, 2)]).rdi .TN_STAT_OWNER 7 ≠ 0 ∧
      (sets full [(.TN_CTL_TEST, 7, 1)]).flag .TN_CTL_TEST 7 = true := by decide

theorem witness_TurnerCommands_hold :
    (turnS 1 0x31 0).issues (thrQ 7 1) 0x31 (insOf (word 0x31 1 0xFFFF 0)) ∧ (turnS 1 0x31 0).turnerAvail 7 = true ∧
      (turnS 1 0x31 1).issues (thrQ 7 1) 0x31 (insOf (word 0x31 1 0xFFFF 0)) ∧ (turnS 1 0x31 1).rdi .TN_STAT_OWNER 7 = 1 ∧
      (turnS 2 0x41 1).issues (thrQ 7 2) 0x41 (insOf (word 0x41 2 0xFFFF 0)) ∧
      (sets (turnS 2 0x41 0) [(.TN_CTL_DISABLE, 7, 1)]).issues (thrQ 7 2) 0x41 (insOf (word 0x41 2 0xFFFF 0)) ∧
      (sets (turnS 2 0x41 0) [(.TN_CTL_DISABLE, 7, 1)]).turnerAvail 7 = false :=
  ⟨issues_of (by decide), by decide, issues_of (by decide), by decide, issues_of (by decide), issues_of (by decide), by decide⟩

/-- A turner-routed instruction of queue 1 of thresher 7 that has not delivered. -/
def turnedS : State :=
  (turnS 1 0x32 2).updQueue (thrQ 7 1) fun q => { q with work := [{ newWork q (insOf 0) .pass none with desc := 2 ^ 57, ready := false }] }

theorem witness_TurnerCommands_free :
    (turnS 1 0x32 2).issues (thrQ 7 1) 0x32 (insOf (word 0x32 1 0xFFFF 0)) ∧ (turnS 1 0x32 2).turnedAll (thrQ 7 1) = true ∧
      (turnS 2 0x42 2).issues (thrQ 7 2) 0x42 (insOf (word 0x42 2 0xFFFF 0)) ∧ (turnS 2 0x42 2).rdi .TN_STAT_OWNER 7 ≠ 1 ∧
      turnedS.issues (thrQ 7 1) 0x32 (insOf (word 0x32 1 0xFFFF 0)) ∧ turnedS.turnedAll (thrQ 7 1) = false :=
  ⟨issues_of (by decide), by decide, issues_of (by decide), by decide, issues_of (by decide), by decide⟩

/-- A pass of BF16 by BF16, 3 by 2 by 2, FP32 results to the loft. -/
def passWord : Nat :=
  descOf [(0, 4, 2 * 2 ^ 16 + 2 * 2 ^ 20 + 2 ^ 24), (4, 4, 2), (12, 2, 3), (14, 2, 2), (16, 4, 0x1000), (20, 4, 64), (24, 4, 0x2000),
    (28, 4, 64), (32, 8, 2 ^ 62 + 2 ^ 32 * 7 + 0x3000), (40, 4, 64)]

def passW (r : Role) (op : Nat) : Nat := word op (qClass (r.queue 7)) 0xFFFF 0x8000

/-- One of its instructions at the head of its queue, the partition in a state of R57. -/
def passS (r : Role) (op st : Nat) : State :=
  headed (sets (putAt full 0 0 0x8000 (leBytes 64 passWord)) [(.TH_PART_STAT_STATE, partKey 7 0, st)]) (r.queue 7) (passW r op)

/-- The hypotheses about one pass instruction. -/
def passB (r : Role) (op st : Nat) : Bool :=
  let s := passS r op st
  let i := insOf (passW r op)
  let q := r.queue 7
  let x := found s q i
  let d := PassDesc.ofWord x.word
  issuesB s q op i && findsB s q i && s.flaws.isEmpty && okC (s.passCheck 7 r (s.bindEpoch i) x) &&
    !s.heldBy205 (s.bindEpoch i) (d.uses 7 r) &&
    !s.mustStall q [x.span] [] none && decide (s.turnNext 7 = none) &&
    !s.mustStall q (usesSpans false (d.uses 7 r ++ [x.use])) (usesSpans true (d.uses 7 r)) (some d.part) &&
    !s.channelFull q d.part && s.partFaulted 7 d.part == (st == 3) && decide (s.part 7 d.part = Part.empty) && !i.hop &&
    ((s.queue q).work.all fun y => y.id != (s.queue q).nextId)

theorem witness_PassInstructions : passB .feed 0x30 1 = true ∧ passB .load 0x40 1 = true ∧ passB .drain 0x50 1 = true := by decide

theorem witness_PassInstructions_faulted : passB .feed 0x30 3 = true ∧ passB .load 0x40 3 = true ∧ passB .drain 0x50 3 = true := by
  decide

/-- The head of another queue once more an instruction. -/
def nextAt (s : State) (r : Role) (op : Nat) : State := headed s (r.queue 7) (passW r op)

/-- The whole pass issued: its three instructions in progress. -/
def joined : State :=
  nx (exec (.deDrain 7) (nextAt (nx (exec (.weLoad 7) (nextAt (nx (exec (.feFeed 7) (passS .feed 0x30 1))) .load 0x40))) .drain 0x50))

/-- The hypotheses about a SWAP of the one pass of partition 0 of thresher 7: whether its drain is held, sleeps, and its tile's
parity holds. -/
def swapB (s : State) (held sleeps sound : Bool) : Bool :=
  match (s.part 7 0).passes with
  | [y] =>
    match y.load, y.feed, y.drain with
    | some l, some f, some e =>
      match s.workOf (thrQ 7 1) f.id, s.workOf (thrQ 7 3) e.id with
      | some wf, some wd =>
        !s.partFaulted 7 0 && y.mode == .active && l.done && s.turnCome (thrQ 7 1) wf &&
          s.heldBy205 wd.bound ((PassDesc.ofWord wd.desc).uses 7 .drain) == held &&
          ((usesSpans true ((PassDesc.ofWord wd.desc).uses 7 .drain)).any s.sleeps) == sleeps &&
          ((s.part 7 0).shadow.getD .none).sound == sound && s.flaws.isEmpty && decide (s.turnNext 7 = none) && !wf.hop &&
          !wd.hop && !(PassDesc.ofWord wf.desc).xTurn
      | _, _ => false
    | _, _, _ => false
  | _ => false

/-- A tile in the shadow registers whose one cell has the wrong parity. -/
def unsound : State :=
  joined.updPart 7 0 fun y => { y with shadow := some ⟨2, [[⟨1, 127, false, !codeParity 1⟩]]⟩ }

theorem witness_SwapRunsPass :
    full.swapOf 7 575 = none ∧ swapB joined false false true = true ∧ swapB unsound false false false = true := by decide

/-- The same pass, its drain bound to open epoch 8 and its destination a granule of closed epoch 7. -/
def heldPass : State :=
  let s := sets joined [(.PS_STAT_OPEN, 0, 1), (.PS_STAT_CLOSED, 0, 1), (.PS_EPOCH_OPEN_EPOCH, 0, 8), (.PS_EPOCH_CLOSED_EPOCH, 0, 7),
    (.PS_VREG_A_BASE, 0, 2 ^ 62 + 7 * 2 ^ 32), (.PS_VREG_CFG_V, 0, 1), (.PS_VREG_CFG_GRANULES, 0, 256)]
  let s := { s with prov := { s.prov with granules := (List.range 256).map fun g => (granKey 0 g, ⟨false, some 7⟩) } }
  s.updQueue (thrQ 7 3) fun q => { q with work := q.work.map fun w => { w with bound := some 8 } }

theorem witness_SwapRunsPass_held : swapB heldPass true false true = true := by decide

/-- The same pass, its drain going to HBM, every stack in self-refresh. -/
def sleepPass : State :=
  let s := joined.updQueue (thrQ 7 3) fun q => { q with work := q.work.map fun w =>
    { w with desc := w.desc - (2 ^ 62 + 2 ^ 32 * 7) * 2 ^ 256 } }
  { s with gran := { s.gran with asleep := List.range 24 } }

theorem witness_SwapRunsPass_asleep : swapB sleepPass false true true = true := by decide

theorem witness_PartitionsAndOrganisations_faults :
    full.partFaulted 7 0 = false ∧ (full.rectOf 7 0).isSome = true ∧ joined.partFaulted 7 0 = false ∧
      ((sets joined [(.TH_FREEZE_LIMIT_LIMIT, 7, 1)]).swapOf 7 0).isSome = true ∧
      ((joined.swapOf 7 0).map fun x => (PassDesc.ofWord x.feed.desc).steps) = some 2 := by decide

theorem witness_PartitionsAndOrganisations_clear :
    (sets full [(.TH_PART_STAT_STATE, partKey 7 575, 3)]).partFaulted 7 575 = true ∧ full.hostUp = true ∧
      full.domainOff (thrDomain 7) = false ∧ full.bayFaulted (thrBay 7) = false ∧ full.fatal = false := by decide

/-- Entry 575 staged with one tile at the far corner, and one past it. -/
def stagedS (width : Nat) : State :=
  sets full [(.TH_PART_CFG_EN, partKey 7 575, 1), (.TH_PART_CFG_ROW_ORG, partKey 7 575, 23), (.TH_PART_CFG_COL_ORG, partKey 7 575, 23),
    (.TH_PART_CFG_HEIGHT, partKey 7 575, 1), (.TH_PART_CFG_WIDTH, partKey 7 575, width)]

theorem witness_PartitionsAndOrganisations_commit :
    full.modes = [] ∧ (stagedS 1).commitStatus 7 0 = 0 ∧ (stagedS 1).commitStatus 7 1 = 0 ∧ (stagedS 2).commitStatus 7 1 ≠ 0 ∧
      (stagedS 1).hostUp = true ∧ (stagedS 1).domainOff (thrDomain 7) = false := by decide

/-! ### The vector and copy engines -/

/-- A vector instruction of thresher 7, with or without HALT_ON_POISON, over three elements from 0x1000, 0x2000 and 0x2800
to 0x3000, its descriptor's format field `fmt`; element 2 of A poisoned or not. -/
def vecWord (op : Nat) (hop : Bool) : Nat := word op 4 0xFFFF 0x8000 + (if hop then 2 ^ 115 else 0)

def vecS (op : Nat) (hop bad : Bool) (fmt n : Nat) : State :=
  let d := descOf [(0, 4, 0x1000), (4, 4, 0x2000), (8, 4, 0x2800), (12, 4, 0x3000), (16, 4, n), (20, 4, fmt), (32, 4, 1), (36, 4, 1),
    (40, 4, 1), (44, 4, 1)]
  let s := putAt (putAt full 0 0 0x8000 (leBytes 64 d)) 1 7 0x1000 ([0x3F800000, 0xC0000000, 0x40490FDB].flatMap (leBytes 4))
  let s := headed s (thrQ 7 4) (vecWord op hop)
  if bad then s.mark (s.phys 1 7 0x1008) true else s

/-- The hypotheses of ElementwiseVectors for a row of its list, the poisoned operands first met at element 2 or nowhere. -/
def mapB (hop bad : Bool) (e : Instr × Nat × Nat × (List Fp → Fp)) : Bool :=
  let s := vecS e.2.1 hop bad 17 3
  let i := insOf (vecWord e.2.1 hop)
  let q := thrQ 7 4
  let x := found s q i
  let d := VecDesc.ofWord x.word
  let us := mapUses e.2.2.1 7 d
  let v := ((s.begun q).goOn q i (s.workFor q i .vector x.word us)).vecAfter e.2.2.1 e.2.2.2 7 d (s.viewOf (s.bindEpoch i))
    (s.bankOf (s.bindEpoch i))
  let hit (k : Nat) := ((v k).args e.2.2.1 7 d (s.viewOf (s.bindEpoch i)) k).contains Fp.poison
  issuesB s q e.2.1 i && clearB s q i us (do vecPlainCheck x.word; s.checkUses (s.bindEpoch i) (us ++ [x.use]) (.ok ())) &&
    decide (d.count = 3) && s.vregs.isEmpty && i.hop == hop && !hit 0 && !hit 1 && hit 2 == bad

theorem witness_ElementwiseVectors : ((elementwise 7).take 1).all (mapB false false) = true := by decide

theorem witness_ElementwiseVectors_three_operands : (((elementwise 7).drop 3).take 1).all (mapB true false) = true := by decide

theorem witness_ElementwiseVectors_one_operand : ((elementwise 7).drop 14).all (mapB true false) = true := by decide

theorem witness_ElementwiseVectors_poison : ((elementwise 7).take 1).all (mapB true true) = true := by decide

/-- The hypotheses of ReductionsAndConversion for a reduction. -/
def reduceB (op : Nat) (hop bad : Bool) : Bool :=
  let s := vecS op hop bad 17 3
  let i := insOf (vecWord op hop)
  let q := thrQ 7 4
  let x := found s q i
  let d := VecDesc.ofWord x.word
  let us := reduceUses 7 d
  issuesB s q op i && clearB s q i us (do vecPlainCheck x.word; s.checkUses (s.bindEpoch i) (us ++ [x.use]) (.ok ())) &&
    ((List.range d.count).map fun k => s.vecValue (s.viewOf (s.bindEpoch i)) 7 k (.at d.a d.aStep)).contains .poison == bad

theorem witness_ReductionsAndConversion_reductions :
    reduceB 0x71 false false = true ∧ reduceB 0x72 true false = true ∧ reduceB 0x73 true true = true := by decide

/-- The hypotheses of its conversion clauses: one FP32 element to BF16. -/
def convertB (hop bad : Bool) : Bool :=
  let s := vecS 0x70 hop bad 33 (if bad then 3 else 1)
  let i := insOf (vecWord 0x70 hop)
  let q := thrQ 7 4
  let x := found s q i
  let d := VecDesc.ofWord x.word
  let us := cvtUses 7 d
  let v := (s.begun q).goOn q i (s.workFor q i .vector x.word us)
  issuesB s q 0x70 i && clearB s q i us (do vecCvtCheck x.word; s.checkUses (s.bindEpoch i) (us ++ [x.use]) (.ok ())) &&
    (vecConvert 7 d i.hop (s.viewOf (s.bindEpoch i)) (s.bankOf (s.bindEpoch i)) v).2 == bad &&
    decide (d.srcFmt = 1) && decide (d.dstFmt = 2) && !d.rnd && decide (d.count = if bad then 3 else 1)

theorem witness_ReductionsAndConversion_conversion : convertB false false = true ∧ convertB true true = true := by decide

/-- A copy engine instruction of thresher 7 and its descriptor. -/
def copyS (op : Nat) (d : Nat) : State :=
  headed (putAt (putAt full 0 0 0x8000 (leBytes 64 d)) 1 7 0x100 ([2, 0, 1].flatMap (leBytes 4))) (thrQ 7 5) (word op 5 0xFFFF 0x8000)

/-- Six runs of `len` bytes from HBM, across two sectors, to the last bytes of the loft. -/
def copyWord (src len : Nat) : Nat :=
  descOf [(0, 8, src), (8, 8, 2 ^ 62 + 7 * 2 ^ 32 + 201326592 - 50), (16, 4, len), (20, 4, 3), (24, 4, 2), (28, 4, 1), (32, 4, 8),
    (36, 4, 32), (44, 4, 9), (48, 4, 27)]

/-- A region of host memory that may be read. -/
def hostR (s : State) : State :=
  sets s [(.LF_REGION_BASE_BASE, 20, 3 * 2 ^ 62), (.LF_REGION_SIZE_SIZE, 20, 2 ^ 40), (.LF_REGION_SIZE_V, 20, 1),
    (.LF_REGION_SIZE_RD, 20, 1)]

/-- The hypotheses of LocalCopies. -/
def copyB (src len : Nat) (none : Bool) : Bool :=
  let s := hostR (copyS 0xA0 (copyWord src len))
  let i := insOf (word 0xA0 5 0xFFFF 0x8000)
  let q := thrQ 7 5
  let x := found s q i
  let d := CopyDesc.ofWord x.word
  issuesB s q 0xA0 i && okC (copyCheck 7 x.word) &&
    clearB s q i (d.uses false 7) (s.copySpans (s.bindEpoch i) d false (d.uses false 7 ++ [x.use])) && !s.copiesFull q &&
    d.empty == none && decide ((Ep.ofWord d.dst).space = 1) && decide ((Ep.ofWord d.src).space = if src < 2 ^ 63 then 0 else 3) && decide (d.glean = 0) &&
    decide (d.srcFmt = d.dstFmt) && !d.transpose && !i.hop

theorem witness_LocalCopies : copyB 0x1FF0 5 false = true ∧ copyB 0x1FF0 0 true = true ∧
    copyB (3 * 2 ^ 62 + 0x1FF0) 5 false = true := by decide

/-- Two runs of 11 bytes of a pattern. -/
def fillWord : Nat := descOf [(0, 8, 0x0807060504030201), (8, 8, 0x9003), (16, 4, 11), (20, 4, 2), (24, 4, 1), (28, 4, 1), (44, 4, 12)]

theorem witness_FillsAndGathers_fill :
    (let s := copyS 0xA1 fillWord
     let i := insOf (word 0xA1 5 0xFFFF 0x8000)
     let q := thrQ 7 5
     let x := found s q i
     let d := CopyDesc.ofWord x.word
     let us := ({ d with digest := false } : CopyDesc).uses true 7
     issuesB s q 0xA1 i && okC (fillCheck x.word) && !s.copiesFull q &&
       clearB s q i us (s.copySpans (s.bindEpoch i) { d with digest := false } true (us ++ [x.use])) && !d.empty) = true := by decide

/-- A gleaner gather of the items 2, 0 and 1 of a table at 0x1FF0, whose indices lie in the loft. -/
def gatherWord : Nat :=
  descOf [(0, 8, 2 ^ 62 + 7 * 2 ^ 32 + 0x100), (8, 8, 0x9000), (16, 4, 12), (20, 4, 1), (24, 4, 1 + 2 ^ 27), (28, 4, 1), (56, 8, 0x1FF0)]

theorem witness_FillsAndGathers_gather :
    (let s := copyS 0xA0 gatherWord
     let i := insOf (word 0xA0 5 0xFFFF 0x8000)
     let q := thrQ 7 5
     let x := found s q i
     let d := CopyDesc.ofWord x.word
     let us : List Use := [⟨d.srcSpan (Ep.ofWord d.src), false, 0⟩, ⟨d.dstSpan (Ep.ofWord d.dst), true, 1⟩]
     let runs := s.gatherIndices (s.viewOf (s.bindEpoch i)) 7 d
     issuesB s q 0xA0 i && okC (copyCheck 7 x.word) && decide (d.glean = 1) && !i.hop && !d.empty && findsB s q i && s.flaws.isEmpty &&
       okC (s.gatherSpans (s.bindEpoch i) d (us ++ [x.use]) ((runs.flatten.filterMap id).map d.itemSpan)) &&
       !s.heldBy205 (s.bindEpoch i) us &&
       (match s.tableRegion (bits d.aux 0 42) with
        | some r => !s.mustStall q (r :: usesSpans false (us ++ [x.use])) (usesSpans true us) none
        | none => false)) = true := by decide

/-! ### Collectives -/

/-- A rank list of module 5 at 0x40, with its own rank `self`. -/
def rankS (l : List Nat) (self : Nat) : State :=
  sets (putAt full 0 0 0x40 (l.flatMap (leBytes 2))) [(.WN_ID_MODULE, 0, 5), (.WN_RANK_BASE_BASE, 0, 0x40),
    (.WN_RANK_COUNT_COUNT, 0, l.length), (.WN_RANK_SELF_RANK, 0, self)]

def rankIds (s : State) : List Nat := halves (s.rd .WN_RANK_COUNT_COUNT) (s.readRanks.map PByte.val)

theorem witness_RanksAndTimeLimits_ranks :
    ((sets full [(.EN_Q_STAT_STATE, 51, 1)]).wainIdle = false) ∧ (rankS [5, 5] 0).wainIdle = true ∧
      (rankS [5, 5] 0).badList (rankS [5, 5] 0).readRanks (rankIds (rankS [5, 5] 0)) = true ∧
      (rankS [5, 6] 2).badList (rankS [5, 6] 2).readRanks (rankIds (rankS [5, 6] 2)) = false ∧
      (rankIds (rankS [5, 6] 1)).getD 1 0 = 6 ∧ rankIds (rankS [4, 9, 5] 2) = [4, 9, 5] ∧
      (rankS [4, 9, 5] 2).badList (rankS [4, 9, 5] 2).readRanks [4, 9, 5] = false ∧ (rankS [4, 9, 5] 2).hostUp = true ∧
      (rankS [4, 9, 5] 2).flaws = [] := by decide

/-- Three ranks in force, and one. -/
def ranked : State := nx (exec .rankCommit (rankS [4, 9, 5] 2))
def alone : State := nx (exec .rankCommit (rankS [5] 0))

/-- A collective at the head of a wain queue. -/
def collWord (op : Nat) : Nat := word op 6 0xFFFF 0x8000
def collS (s : State) (q op d : Nat) : State := headed (putAt s 0 0 0x8000 (leBytes 64 d)) q (collWord op)

def rscatWord : Nat :=
  descOf [(0, 8, 0x100000), (8, 8, 0x200000), (16, 4, 4), (20, 2, 15), (22, 2, 77), (24, 8, 0x300000), (32, 8, 0x300100), (40, 8, 0x300200)]

def shardWord : Nat :=
  descOf [(0, 8, 0x100000), (8, 4, 0x1000), (12, 4, 128), (16, 4, 128), (20, 2, 0x81), (22, 2, 78), (26, 2, 0xFFFF), (28, 4, 3)]

def healthWord : Nat := descOf [(0, 8, 0x100000), (12, 2, 79), (14, 2, 2)]

/-- The reduce-scatter of bays 0, 1 and 2 issued. -/
def rscat (s : State) (b : Fin 4) : State := nx (exec (.wnRscat b) (collS s (48 + b) 0xB1 rscatWord))
def three : State := rscat (rscat (rscat alone 0) 1) 2

theorem witness_CollectivesIssue_no_list :
    full.flag .WN_RANK_CTL_VALID 0 = false ∧ issuesB (headed full 51 (collWord 0xB1)) 51 0xB1 (insOf (collWord 0xB1)) = true ∧
      issuesB (headed full 51 (collWord 0xB2)) 51 0xB2 (insOf (collWord 0xB2)) = true := by decide

/-- The hypotheses of the reduce-scatter's clause for bay 3: whether it is the last of the four, and whether memory of theirs
sleeps. -/
def rscatB (s0 : State) (last asleep : Bool) : Bool :=
  let s := collS s0 51 0xB1 rscatWord
  let i := insOf (collWord 0xB1)
  let x := found s 51 i
  let d := RscatDesc.ofWord x.word
  let us := d.uses s.rankCount
  let w : Work := { s.workFor 51 i .rscat x.word us with ready := false, coll := some (Coll.fresh d.seq) }
  s.flag .WN_RANK_CTL_VALID 0 && issuesB s 51 0xB1 i &&
    clearB s 51 i us (do rscatCheck 3 x.word; s.checkUses (s.bindEpoch i) (us ++ [x.use]) (.ok ())) && !s.seqBusy 51 d.seq false &&
    !s.collFull 51 &&
    (match ((s.begun 51).goOn 51 i w).rscatGroup d.seq with
      | some ws => last && (ws.any fun w => (w.reads ++ w.writes).any ((s.begun 51).goOn 51 i w).sleeps) == asleep
      | none => !last)

/-- The same, a stack that the reduce-scatter of bay 0 writes in self-refresh. -/
def threeAsleep : State :=
  let s := three.updQueue 48 fun q => { q with work := q.work.map fun w => { w with writes := [⟨0, 0, 18 * 2 ^ 37, 18 * 2 ^ 37 + 7⟩] } }
  { s with gran := { s.gran with asleep := [18] } }

theorem witness_CollectivesIssue_rscat :
    rscatB ranked false false = true ∧ rscatB three true false = true ∧ rscatB threeAsleep true true = true := by decide

theorem witness_CollectivesIssue_gather :
    (let s := collS ranked 51 0xB0 shardWord
     let i := insOf (collWord 0xB0)
     let x := found s 51 i
     let d := GatherDesc.ofWord x.word
     let us := d.uses s.rankCount
     s.flag .WN_RANK_CTL_VALID 0 && issuesB s 51 0xB0 i &&
       clearB s 51 i us (do gatherCheck s.rankCount x.word; s.checkUses (s.bindEpoch i) (us ++ [x.use]) (.ok ())) &&
       decide (d.prog = 0xFFFF) && !s.seqBusy 51 d.seq false && !s.collFull 51) = true := by decide

/-- The hypotheses of the health check's clause: it leads, and with one rank it writes its result. -/
def healthB (s0 : State) (one : Bool) : Bool :=
  let s := collS s0 51 0xB2 healthWord
  let i := insOf (collWord 0xB2)
  let x := found s 51 i
  let d := HealthDesc.ofWord x.word
  let us := [wordUse d.result 8 true 1]
  s.flag .WN_RANK_CTL_VALID 0 && issuesB s 51 0xB2 i &&
    clearB s 51 i us (do s.healthCheck 3 x.word; s.checkUses (s.bindEpoch i) (us ++ [x.use]) (.ok ())) && !s.seqBusy 51 d.seq true &&
    !s.collFull 51 && (s.healthsOf d.seq).isEmpty && (decide (s.rankCount = 1) && decide (s.net.rankSelf = 0) && (s.queue 51).work.isEmpty) == one

theorem witness_CollectivesIssue_health : healthB ranked false = true ∧ healthB alone true = true := by decide

/-- A reduce-scatter of queue 51 in progress. -/
def rscatT : State := rscat ranked 3

theorem witness_RanksAndTimeLimits_rscat :
    rscatT.workAt 51 (firstWork rscatT 51).id = some (firstWork rscatT 51) ∧ (firstWork rscatT 51).ready = false ∧
      (rscatT.queue 51).wait = none ∧ rscatT.qState 51 ≠ 5 ∧ (firstWork rscatT 51).kind = .rscat := by decide

/-- A gather in progress. -/
def gatherW : State := ranked.updQueue 51 fun q =>
  { q with work := [{ newWork q (insOf (collWord 0xB0)) .gather none with ready := false, coll := some (Coll.fresh 78) }] }

theorem witness_RanksAndTimeLimits_gather :
    gatherW.workAt 51 0 = some (firstWork gatherW 51) ∧ (firstWork gatherW 51).ready = false ∧ (gatherW.queue 51).wait = none ∧
      gatherW.qState 51 ≠ 5 ∧ (firstWork gatherW 51).kind = .gather := by decide

/-- A health check in progress that leads its collective. -/
def healthW : State := ranked.updQueue 51 fun q =>
  { q with work := [{ newWork q (insOf (collWord 0xB2)) .health none with
      ready := false, desc := healthWord, coll := some { Coll.fresh 79 with started := true } }] }

theorem witness_RanksAndTimeLimits_health :
    healthW.workAt 51 0 = some (firstWork healthW 51) ∧ (firstWork healthW 51).kind = .health ∧ (firstWork healthW 51).ready = false ∧
      (healthW.healthsOf (HealthDesc.ofWord (firstWork healthW 51).desc).seq).find? (fun x => x.2.coll.any fun c => c.started) =
        some (51, firstWork healthW 51) := by decide

/-! ### The granary -/

theorem witness_GranaryModes_interleave :
    full.allIdle = true ∧ (∀ q, q < 52 → full.drained q = true) ∧ full.net.txns = [] ∧
      full.modeBusy (.interleave 1) = false ∧ (ctl 0 0xFFFF 0).allIdle = false ∧
      (nx (exec (.interleaveChange 1) full)).modes = [.interleave 1] ∧
      (nx (exec (.interleaveChange 1) full)).modeBusy (.interleave 0) = true := by decide

theorem witness_GranaryModes_switch : (nx (exec (.interleaveChange 1) full)).Calm := calm_of (by decide)

/-- Scrub on, the last sector but one of stack 23 next. -/
def scrubS (l : List ModeChange) : State :=
  { sets full [(.GN_CFG_SCRUB, 0, 2)] with gran := { full.gran with scrubPos := [(23, 2 ^ 31 - 2)] }, modes := l }

theorem witness_GranaryModes_scrub :
    ((sets full [(.GN_CFG_SCRUB, 0, 0)]).modes = [] ∧ (sets full [(.GN_CFG_SCRUB, 0, 0)]).scrubRuns = false) ∧
      ((scrubS []).scrubRuns = true ∧ (scrubS []).modeBusy (.scrub 0) = false ∧ (scrubS [.scrub 1]).modeBusy (.scrub 0) = true) ∧
      (scrubS [.scrub 1]).scrubs 23 = true ∧ (scrubS []).scrubs 23 = true ∧ (scrubS []).gran.retired = [] ∧ (scrubS []).flaws = [] ∧
      Tbl.get 0 (scrubS []).gran.scrubPos 23 + 1 < 2 ^ 31 ∧ (scrubS []).poisoned (23 * 2 ^ 37 + 64 * (2 ^ 31 - 2)) = false := by
  decide

/-- The last row of the last bank of stack 23 a repair candidate; its bank's spares all used, or none. -/
def lastRow : Nat := rowNo (63 : Fin 64) (63 : Fin 64) (32767 : Fin 32768)
def candidateS : State := { full with gran := { full.gran with rowErr := [(23, [(lastRow, 256)])] } }
def repairedS : State := nx (exec (.repairRequest 23 63 63 32767) candidateS)

theorem witness_RowRepair_request :
    candidateS.fwUp = true ∧ candidateS.online 23 = true ∧ candidateS.candidate 23 lastRow = true ∧
      candidateS.spareOf 23 lastRow = none ∧ candidateS.gran.records.length < 256 ∧ candidateS.flaws = [] ∧
      candidateS.freeSpare 23 (rowBank lastRow) = some 0 ∧ repairedS.spareOf 23 lastRow = some 0 := by decide

/-- Four repairs of rows 0 to 3 of that bank, so that no spare is left. -/
def repairRow (s : State) (r : Fin 32768) : State :=
  nx (exec (.repairRequest 23 63 63 r) { s with gran := { s.gran with rowErr := [(23, [(rowNo (63 : Fin 64) (63 : Fin 64) r, 256)])] } })
def sparelessS : State :=
  let s := repairRow (repairRow (repairRow (repairRow full 0) 1) 2) 3
  { s with gran := { s.gran with rowErr := [(23, [(lastRow, 256)])] } }

theorem witness_RowRepair_retire :
    sparelessS.freeSpare 23 (rowBank lastRow) = none ∧ sparelessS.candidate 23 lastRow = true ∧
      sparelessS.spareOf 23 lastRow = none ∧ sparelessS.gran.records.length < 256 := by decide

/-- The repaired row a candidate again, in its spare. -/
def againS : State := { repairedS with gran := { repairedS.gran with rowErr := [(23, [(lastRow, 256)])] } }

theorem witness_RowRepair_again :
    againS.candidate 23 lastRow = true ∧ againS.spareOf 23 lastRow = some 0 ∧ againS.online 23 = true ∧ againS.fwUp = true ∧
      againS.gran.records.length + 1 < 256 := by decide

/-- Records that retire, and that repair, row 1 of bank 0 of stack 23. -/
def rlistW (kind : Nat) : Nat := 23 + 2 ^ 17 + kind * 2 ^ 32

theorem witness_RowRepair_list :
    up.hostUp = true ∧ up.rd .GN_RLIST_CTL_COUNT < 4096 ∧ bits (23 + 2 ^ 35 + 2 ^ 48) 36 12 = 0 ∧ bits (23 + 2 ^ 35 + 2 ^ 48) 0 5 < 24 ∧
      up.trained (bits (23 + 2 ^ 35 + 2 ^ 48) 0 5) = false ∧ bits (2 ^ 36) 36 12 ≠ 0 ∧ bits (2 ^ 47) 36 12 ≠ 0 ∧ 24 ≤ bits 24 0 5 ∧
      4096 ≤ (sets up [(.GN_RLIST_CTL_COUNT, 0, 4096)]).rd .GN_RLIST_CTL_COUNT := by decide

theorem witness_RowRepair_list_trained :
    full.hostUp = true ∧ full.fwUp = true ∧ full.trained (bits (rlistW 2) 0 5) = true ∧ bits (rlistW 2) 36 12 = 0 ∧
      bits (rlistW 2) 32 2 = 2 ∧ bits (rlistW 0) 32 2 = 0 ∧
      full.rowRetired 23 (rowNo (bits (rlistW 0) 5 6) (bits (rlistW 0) 11 6) (bits (rlistW 0) 17 15)) = false ∧
      full.spareOf 23 (rowNo (bits (rlistW 0) 5 6) (bits (rlistW 0) 11 6) (bits (rlistW 0) 17 15)) = none ∧
      full.freeSpare 23 (rowBank (rowNo (bits (rlistW 0) 5 6) (bits (rlistW 0) 11 6) (bits (rlistW 0) 17 15))) = some 0 := by decide

theorem witness_RowRepair_quiet :
    fw.fwUp = true ∧ fw.allIdle = true ∧ (sets fw [(.GN_REPAIR_CFG_AUTO_HARDEN, 0, 0)]).flag .GN_REPAIR_CFG_AUTO_HARDEN 0 = false ∧
      (sets fw [(.GN_REPAIR_CFG_AUTO_HARDEN, 0, 1)]).flag .GN_REPAIR_CFG_AUTO_HARDEN 0 = true ∧
      (ctl 0 0xFFFF 0).allIdle = false ∧ (repairedS.gran.spares.map fun e => e.1).Pairwise (fun a b => a < b) := by decide

theorem witness_StacksTrainAndFail_training :
    (sets fw [(.ER_BRINGUP_LIST_DONE, 0, 1)]).flag .ER_BRINGUP_LIST_DONE 0 = true ∧ fw.fwUp = true ∧
      fw.rdi .GN_STACK_STAT_STATE 23 = 0 ∧ fw.fatal = false ∧ fw.domainOff (granDomain (stackBay 23)) = false ∧
      (fw.gran.rlist.filter fun w => bits w 0 5 == 23) = [] ∧ fw.rdi .GN_ID_DATA (16 * 23 + 15) = fw.idCrc 23 ∧
      (sets fw [(.GN_ID_DATA, 16 * 23 + 14, 1)]).rdi .GN_ID_DATA (16 * 23 + 15) ≠ (sets fw [(.GN_ID_DATA, 16 * 23 + 14, 1)]).idCrc 23 := by
  decide

/-- An instruction with a partial packet of stack 23. -/
def packS : State := full.updQueue 51 fun q => { q with work := [{ newWork q (insOf 0) .copy none with packs := [2, 23] }] }

theorem witness_StacksTrainAndFail_loss :
    full.boot.phase = .up ∧ full.rdi .GN_STACK_STAT_STATE 23 ≠ 3 ∧ (∀ w ∈ (packS.queue 51).work, w.kind ≠ .rscat) ∧
      full.domainOff (granDomain (stackBay 23)) = false ∧ full.fwUp = true ∧ full.online 23 = true ∧
      ((packS.queue 51).work.find? fun w => w.packs.contains 23) = some (firstWork packS 51) := by decide

/-! ### Tables and registers the host writes -/

/-- Entry 4095 with its base written. -/
def regionS : State := sets up [(.LF_REGION_BASE_BASE, 4095, 0x4000)]

theorem witness_ConfigurationWrites_regions :
    up.hostUp = true ∧ up.allIdle = true ∧ regionS.flag .LF_REGION_SIZE_V 4095 = false ∧
      bit (24 * 2 ^ 37 - 0x4000 + 2 ^ 48) 48 = true ∧
      regionOk (regionS.rdi .LF_REGION_BASE_BASE 4095) (24 * 2 ^ 37 - 0x4000 + 2 ^ 48) = true ∧
      regionS.regionRefused 4095 true (24 * 2 ^ 37 - 0x3FFF + 2 ^ 48) = true ∧
      (sets up [(.LF_REGION_SIZE_V, 4095, 1)]).regionRefused 4095 false 0 = true ∧
      (sets up [(.EN_Q_STAT_STATE, 51, 5)]).allIdle = false ∧ bits (2 ^ 63 : Nat) 62 2 = 2 ∧ bits (3 * 2 ^ 62 : Nat) 62 2 ≠ 2 ∧
      bit (2 ^ 49) 48 = false ∧ bits (2 ^ 49) 0 48 = 0 := by decide

theorem witness_ConfigurationWrites_versioned :
    up.flag .PS_CFG_EN 0 = false ∧ (up.putVreg 63 .cfg 5).flag .PS_VREG_CFG_V 63 = false ∧ vregInRange .cfg 5 = true ∧
      vregInRange .cfg 0 = false ∧ (up.putVreg 63 .cfg 0).flag .PS_VREG_CFG_V 63 = false ∧
      (up.putVreg 63 .cfg (1 + 2 ^ 24)).flag .PS_VREG_CFG_V 63 = true ∧ (up.putVreg 63 .cfg (1 + 2 ^ 24)).vregOk 63 = false ∧
      up.modes = [] ∧ ({ up with modes := [.scrub 1] } : State).modeBusy (.provisional true) = false ∧
      ({ up with modes := [.provisional false] } : State).modeBusy (.provisional true) = true ∧
      ((sets up [(.PS_VREG_B_BASE, 63, 2 ^ 20)]).putVreg 63 .cfg (1 + 2 ^ 24)).vregOk 63 = true ∧
      (sets up [(.PS_CFG_EN, 0, 1)]).flag .PS_CFG_EN 0 = true ∧ up.liveEpochs = [] ∧
      (sets up epoch7).liveEpochs ≠ [] ∧ (sets up epoch7).hostUp = true := by decide

theorem witness_ConfigurationWrites_registers :
    regAt 0x90000 = some (.PS_CFG, 0, 0) ∧ Reg.PS_CFG.info.wide = false ∧ (regDomain .PS_CFG 0).any up.domainOff = false ∧
      regAt 0x434 = some (.ID_CAP_STACK_BYTES, 0, 4) ∧ accessOk .ID_CAP_STACK_BYTES 4 true = false ∧
      touchesReg 0x484 8 = false ∧ 0x484 + 8 ≤ 0x1000000 := by decide

/-! ### Links and ports -/

/-- Module 5, every port UP, tally 7 allocated, job 0 permitted. -/
def net : State :=
  sets full [(.WN_ID_MODULE, 0, 5), (.TL_JOB_REMOTE_EN, 0, 1), (.WN_PORT_STAT_STATE, 15, 3), (.WN_PORT_STAT_STATE, 2, 3),
    (.WN_PORT_CTL_EN, 2, 1), (.WN_ROUTE_VALID, 9, 1), (.WN_ROUTE_P0, 9, 2), (.WN_ROUTE_VALID, 8, 1), (.WN_ROUTE_P0, 8, 3)]
def wr64 : Frame := fr0 0x100040 (leBytes 64 77)

/-- How a frame fares on an UP port, in the order of FramesArrive's clauses: dropped by a switched port (1), beyond the next
LSEQ (2), taken before (3), without room (4), delivered (5), its end-to-end check failed with and without payload (6, 7),
forwarded (8), with reserved fields (9). -/
def fate (s : State) (p op : Nat) (f : Frame) : Nat :=
  let b := s.leaveIdle.addSat .WN_PORT_FEC_CE p f.fec
  let k := b.keyOf p f
  if b.flag .WN_PORT_CTL_FRAMING p && f.dst != b.rd .WN_ID_MODULE then 1
  else match b.makeRoom p k with
    | none => 1
    | some a =>
      let n := (f.lh.lseq + 65536 - (a.link k).rxNext) % 65536
      if n ≠ 0 then if n < 32768 then 2 else 3
      else if a.flag .WN_PORT_CTL_FRAMING p && channelOk f && a.bufferFull p op f then 4
      else if !frameOk op f then 9
      else if f.dst ≠ a.rd .WN_ID_MODULE then 8
      else if f.intact then 5
      else if f.payload ≠ [] then 6 else 7

def swNet : State := sets net [(.WN_PORT_CTL_FRAMING, 15, 1)]

/-- 130 frames of the channel held in the buffer of port 15. -/
def fullNet : State := { swNet with net := { swNet.net with heldWr := List.replicate 130 ⟨15, { fr0 0 (List.replicate 1024 1) with vc := 1 }⟩ } }

theorem witness_FramesArrive_arrival :
    wr64.plainWf = true ∧ full.portState 15 ≠ 3 ∧ net.portState 15 = 3 ∧ swNet.portState 15 = 3 ∧
      fate swNet 15 0 { wr64 with dst := 8 } = 1 ∧ fate net 15 0 { wr64 with lh := .bare 32767 } = 2 ∧
      fate net 15 0 { wr64 with lh := .bare 32768 } = 3 ∧ fate net 15 0 { wr64 with lh := .bare 65535 } = 3 ∧
      fate net 15 0 wr64 = 5 ∧ fate swNet 15 0 wr64 = 5 ∧ fate net 15 0 { wr64 with intact := false } = 6 ∧
      fate net 15 4 { fr0 7 [] with intact := false } = 7 ∧ fate net 15 0 { wr64 with dst := 8 } = 8 ∧
      fate net 15 0 { wr64 with epoch := 3 } = 9 ∧ fate net 15 0 { wr64 with rsv := true } = 9 := by decide

theorem witness_FramesArrive_full : fullNet.portState 15 = 3 ∧ fate fullNet 15 0 { wr64 with vc := 1 } = 4 := by decide

def judged (s : State) (f : Frame) (n : Nat) : Option Bool :=
  match s.judge f n true with
  | .go _ => some true
  | .refuse _ => some false
  | _ => none

theorem judged_go {s : State} {f : Frame} {n : Nat} (h : judged s f n = some true) : ∃ v, s.judge f n true = .go v := by
  revert h; unfold judged; split <;> simp_all

theorem judged_refuse {s : State} {f : Frame} {n : Nat} (h : judged s f n = some false) : ∃ r, s.judge f n true = .refuse r := by
  revert h; unfold judged; split <;> simp_all

theorem witness_FramesArrive_write :
    (∃ v, net.judge wr64 wr64.payload.length true = .go v) ∧ wr64.lh.nak = false ∧ wr64.digest = false ∧ net.net.heldWr = [] ∧
      wr64.intact = true ∧ wr64.lh.lseq = (net.link (net.keyOf 15 wr64)).rxNext ∧ net.frameWaits 0 wr64 = false ∧ net.pairWaits wr64 = false ∧
      net.flag .PW_STATE_IDLE 0 = false ∧ net.flag .WN_PORT_CTL_FRAMING 15 = false ∧ swNet.bufferFull 15 0 wr64 = false ∧
      net.closedWrite wr64 wr64.payload.length = false := ⟨judged_go (by decide), by decide⟩

theorem witness_FramesArrive_refused :
    (∃ r, net.judge { wr64 with job := 3 } 64 true = .refuse r) ∧ frameOk 0 { wr64 with job := 3 } = true ∧
      ({ wr64 with job := 3 } : Frame).plainWf = true := ⟨judged_refuse (by decide), by decide⟩

theorem witness_FramesArrive_signal :
    (fr0 7 []).plainWf = true ∧ frameOk 4 (fr0 7 []) = true ∧ net.sigReason (fr0 7 []) = none ∧ net.waitersOf 7 = [] ∧
      frameOk 4 { fr0 7 [] with arg := 65535 } = true ∧ ({ fr0 7 [] with arg := 65535 } : Frame).plainWf = true ∧
      net.sigReason { fr0 7 [] with arg := 65535 } = none ∧ (net.sigReason { fr0 7 [] with arg := 2, job := 4 }).isSome = true ∧
      frameOk 4 { fr0 7 [] with arg := 2, job := 4 } = true := by decide

/-- Port 15's link from module 9 with frames unacknowledged, replayed `r` times. -/
def linkS (n r : Nat) : State :=
  net.updLink (net.linkKey 15 9) fun l => { l with unacked := (List.range n).map fun j => ⟨j + 1, ⟨0, fr0 0 []⟩, r⟩ }
def again (s : State) (r : Option Bool) : State := s.updLink (s.linkKey 15 9) fun l => { l with replaying := r }
def linkOf (s : State) : Link := s.link (s.linkKey 15 9)

theorem witness_LinkUpkeep_links :
    ((linkS 0 0).portState 15 = 3 ∧ (linkS 0 0).flag .PW_STATE_IDLE 0 = false ∧ lh0.wf = true ∧ lh0.nak = false ∧ lh0.rsv = 0) ∧
      ({ lh0 with rsv := 1023 } : LinkHeader).wf = true ∧ (linkOf net).unacked = [] ∧
      ((linkOf (linkS 2 7)).unacked ≠ [] ∧ (linkOf (linkS 2 7)).replaying ≠ some true ∧ (linkOf (again (linkS 2 7) (some true))).replaying = some true ∧
        ((linkOf (linkS 2 7)).unacked.any fun x => decide (8 ≤ x.replays)) = false ∧ (linkS 2 7).rdi .WN_PORT_ERR_REPLAY 15 < 2 ^ 32 - 1 ∧
        afterAck 0 (linkOf (linkS 2 7)).unacked ≠ [] ∧ (linkOf (linkS 2 7)).replaying ≠ some false) ∧
      ((linkOf (linkS 2 8)).unacked.any fun x => decide (8 ≤ x.replays)) = true ∧ (linkS 2 8).flag .WN_PORT_CTL_FRAMING 15 = false ∧
      full.portState 15 ≠ 3 ∧ (linkOf full).waiting = [] ∧ (linkOf full).unacked = [] ∧ (linkOf net).unreachable = false := by decide

theorem witness_LinkUpkeep_switched :
    (sets (linkS 2 8) [(.WN_PORT_CTL_FRAMING, 15, 1)]).flag .WN_PORT_CTL_FRAMING 15 = true ∧
      (((sets (linkS 2 8) [(.WN_PORT_CTL_FRAMING, 15, 1)]).link (net.linkKey 15 9)).unacked = (linkOf (linkS 2 8)).unacked) ∧
      (fr0 5 [1, 2]).wf = true ∧ (fr0 5 [1, 2]).lh.lseq = (net.link (net.keyOf 15 (fr0 5 [1, 2]))).rxNext ∧
      net.rdi .WN_PORT_DROP_FRAMES 15 < 2 ^ 16 - 1 ∧ net.rdi .WN_PORT_DROP_PAUSE 15 < 2 ^ 16 - 1 ∧
      net.rdi .WN_PORT_ERR_CRC 15 < 2 ^ 32 - 1 ∧ net.rdi .WN_PORT_FEC_UE 15 < 2 ^ 16 - 1 := by decide

/-- The last tag of bay 3 taken by a write of queue 51. -/
def txnS : State :=
  { net with net := { net.net with txns := [(tagKey (3 : Fin 4) (16383 : Fin 16384), ⟨51, 0, 0, 9, 64, none, false, 0, 64, none, []⟩)] } }

theorem witness_LinkUpkeep_timeout :
    Tbl.find txnS.net.txns (tagKey (3 : Fin 4) (16383 : Fin 16384)) = some ⟨51, 0, 0, 9, 64, none, false, 0, 64, none, []⟩ ∧
      Tbl.find net.net.txns (tagKey (3 : Fin 4) (16383 : Fin 16384)) = none ∧ txnS.net.tagWait = [] ∧ (txnS.queue 51).wait = none ∧ txnS.qState 51 ≠ 5 := by decide

/-- Port 15 in a state, its budget 100. -/
def portS (st : Nat) : State := sets full [(.WN_PORT_STAT_STATE, 15, st), (.WN_PORT_BUDGET_BUDGET, 15, 100)]

theorem witness_PortCommands_enable :
    full.hostUp = true ∧ (portS 0).portOn 15 = true ∧ (portS 0).portDead 15 = false ∧ (portS 5).portState 15 = 5 ∧
      (portS 4).portState 15 = 4 ∧ (portS 1).portState 15 = 1 ∧ (portS 2).portState 15 = 2 ∧ (portS 3).portState 15 = 3 ∧
      (sets (portS 2) [(.WN_PORT_CTL_EN, 15, 1)]).portTrains 15 = true ∧
      (sets (portS 2) [(.CK_ISL_STAT_CUR, 39, 0)]).portClocked 15 = true ∧ ((List.range 16).all fun j => !(portS 3).retraining j) = true ∧
      (portS 0).portTrains 15 = false ∧ full.fullService = true ∧ (portS 3).rdi .WN_PORT_STAT_RATE 15 = 0 ∧ up.portOn 15 = true ∧
      (sets full [(.PW_DOM_IS_OFF, 19, 1)]).portOn 15 = false ∧
      (sets (portS 4) [(.ER_SERVICE_STATE, 0, 5)]).portDead 15 = true := by decide

theorem witness_PortCommands_qualify :
    (portS 1).fwUp = true ∧ (portS 1).rdi .WN_PORT_BUDGET_BUDGET 15 = 100 ∧ (portS 1).fullService = true ∧
      (sets (portS 1) [(.WN_PORT_BUDGET_BUDGET, 15, 0)]).rdi .WN_PORT_BUDGET_BUDGET 15 = 0 ∧ (portS 1).portState 15 = 1 ∧
      (Cmis.mk true true 4 true false 4095 false).power = 4095 ∧ (Cmis.mk true true 4 true false 100 true).fullRate = true := by decide

theorem witness_PortCommands_writes :
    ({ portS 3 with boot := { full.boot with budgets := [(15, 200)] } } : State).loadedBudget 15 = 200 ∧
      (sets (portS 3) [(.WN_PORT_BUDGET_MODULE_PWR, 15, 101)]).rdi .WN_PORT_BUDGET_MODULE_PWR 15 = 101 ∧
      (portS 3).flag .WN_PORT_CTL_EN 15 = false ∧ full.modes = [] ∧
      ({ full with modes := [.scrub 1] } : State).modeBusy (.framing 15 0) = false ∧
      ({ full with modes := [.framing 15 1] } : State).modeBusy (.framing 15 0) = true ∧ (sets (portS 3) [(.WN_PORT_CTL_EN, 15, 1)]).flag .WN_PORT_CTL_EN 15 = true := by decide
/-! ### The host's window and events, mailbox and sideband -/

/-- The aperture at a size. -/
def bar (s : State) (n : Nat) : State := { s with host := { s.host with barLog2 := n } }
def win : State := bar full 42

theorem witness_WindowAndEventRing_access :
    win.hostUp = true ∧ win.leaveIdle = win ∧ win.vregs = [] ∧ win.flaws = [] ∧ win.windowWaits 5 59 = false ∧
      win.windowWaits (Config.loftBase 7 + Config.loftBytes - 8) 8 = false ∧ win.rd .HI_MWIN_OFFSET_OFFSET = 0 ∧ win.inBar 5 59 = true ∧ windowPieces 5 59 = [(5, 59)] ∧
      windowPlace 5 = some (0, 0, 5) ∧ win.windowThere 0 0 5 = true ∧
      win.inBar (Config.loftBase 7 + Config.loftBytes - 8) 8 = true ∧
      windowPieces (Config.loftBase 7 + Config.loftBytes - 8) 8 = [(Config.loftBase 7 + Config.loftBytes - 8, 8)] ∧
      windowPlace (Config.loftBase 7 + Config.loftBytes - 8) = some (1, 7, Config.loftBytes - 8) ∧
      win.windowThere 1 7 (Config.loftBytes - 8) = true := by decide

/-- An interleave change is accepted and has not taken effect. -/
def changing : State := { win with modes := [.interleave 1] }

theorem witness_WindowAndEventRing_waits :
    changing.hostUp = true ∧ changing.inBar 5 59 = true ∧ changing.leaveIdle.windowWaits 5 59 = true ∧
      (bar full 32).inBar (2 ^ 32 - 1) 2 = false ∧ up.hostUp = true ∧
      ({ up with host := { up.host with linkUp := false } } : State).hostUp = false := by decide

theorem witness_WindowAndEventRing_unmapped :
    win.inBar (Config.loftBase 0 + Config.loftBytes - 512) 513 = true ∧
      windowMapped (Config.loftBase 0 + Config.loftBytes - 512) 513 = false ∧
      win.windowWaits (Config.loftBase 0 + Config.loftBytes - 512) 513 = false ∧ win.inBar (2 ^ 42 - 1) 1 = true ∧
      win.windowWaits (2 ^ 42 - 1) 1 = false ∧
      windowMapped (2 ^ 42 - 1) 1 = false := by decide

/-- The event ring with entries between HEAD and TAIL, and held events. -/
def evtS (h t : Nat) : State :=
  { sets full [(.HI_EVT_HEAD_HEAD, 0, h), (.HI_EVT_TAIL_TAIL, 0, t), (.HI_EVT_CFG_LOG2N, 0, 6), (.HI_EVT_CFG_EN, 0, 1)] with
    host := { full.host with held := [⟨3, 0, 1, 0, 1⟩, ⟨4, 0, 2, 0, 1⟩] } }

theorem witness_WindowAndEventRing_registers :
    (bar full 32).hostUp = true ∧ (2 ^ 42 - 2 ^ 32) % 2 ^ (bar full 32).host.barLog2 = 0 ∧
      2 ^ 31 % 2 ^ (bar full 32).host.barLog2 ≠ 0 ∧ (3 + 2 ^ 32 - (2 ^ 32 - 2)) % 2 ^ 32 ≤
        ((evtS (2 ^ 32 - 2) 3).rd .HI_EVT_TAIL_TAIL + 2 ^ 32 - (evtS (2 ^ 32 - 2) 3).rd .HI_EVT_HEAD_HEAD) % 2 ^ 32 ∧
      ((evtS (2 ^ 32 - 2) 3).rd .HI_EVT_TAIL_TAIL + 2 ^ 32 - (2 ^ 32 - 2)) % 2 ^ 32 < (4 + 2 ^ 32 - (2 ^ 32 - 2)) % 2 ^ 32 ∧
      full.flag .HI_EVT_CFG_EN 0 = false ∧ (sets full [(.HI_EVT_CFG_EN, 0, 1)]).flag .HI_EVT_CFG_EN 0 = true ∧
      full.host.held = [] ∧ (sets full [(.HI_EVT_CFG_LOG2N, 0, 16)]).rd .HI_EVT_CFG_LOG2N = 16 ∧
      (evtS 0 64).ringFull = true ∧ (evtS (2 ^ 32 - 5) (2 ^ 32 - 1)).flag .HI_EVT_CFG_EN 0 = true ∧
      (evtS (2 ^ 32 - 5) (2 ^ 32 - 1)).host.held = ⟨3, 0, 1, 0, 1⟩ :: [⟨4, 0, 2, 0, 1⟩] ∧ (evtS (2 ^ 32 - 5) (2 ^ 32 - 1)).ringFull = false ∧
      (nx (exec .eventRelease (evtS (2 ^ 32 - 5) (2 ^ 32 - 1)))).rd .HI_EVT_TAIL_TAIL = 0 := by decide

/-- A command waits in the mailbox, others run. -/
def mbx (c : MbxCmd) (act : List MbxCmd) : State := { full with mailbox := { full.mailbox with waiting := some c, active := act } }

theorem witness_MailboxCommands_answers :
    (mbx ⟨1, 255, 0⟩ []).fwUp = true ∧ (mbx ⟨1, 255, 0⟩ []).mailbox.waiting = some ⟨1, 255, 0⟩ := by decide

theorem witness_MailboxCommands_conditions :
    ([⟨2, 9, 15⟩, ⟨3, 9, 23⟩, ⟨4, 9, 15⟩, ⟨5, 9, 0⟩, ⟨6, 9, 3⟩, ⟨7, 9, 3⟩, ⟨8, 9, 0⟩] : List MbxCmd).all (fun c => c.argOk &&
        (sets { mbx c [] with boot := { full.boot with imageSvn := 3 } }
          [(.WN_PORT_CTL_EN, 15, 1), (.WN_PORT_STAT_STATE, 15, 4)]).mbxMay c) = true ∧
      ([⟨3, 9, 24⟩, ⟨4, 9, 16⟩, ⟨6, 9, 0⟩, ⟨6, 9, 65⟩, ⟨7, 9, 4⟩] : List MbxCmd).all (fun c => !c.argOk) = true ∧
      (⟨3, 9, 23⟩ : MbxCmd).resource = (⟨3, 1, 23⟩ : MbxCmd).resource ∧ full.mbxMay ⟨4, 9, 15⟩ = false := by decide

theorem witness_MailboxCommands_done :
    ([⟨2, 1, 0⟩, ⟨8, 255, 0⟩] : List MbxCmd).find? (fun c => c.tag == 255) = some ⟨8, 255, 0⟩ ∧ (8 : Nat) ∈ [5, 7, 8] ∧
      ([⟨5, 0, 0⟩, ⟨7, 9, 3⟩] : List MbxCmd).find? (fun c => c.tag == 0) = some ⟨5, 0, 0⟩ ∧
      ([⟨5, 0, 0⟩, ⟨7, 9, 3⟩] : List MbxCmd).find? (fun c => c.tag == 9) = some ⟨7, 9, 3⟩ ∧
      64 ≤ ({ full.mailbox with records := List.replicate 64 0 } : Mailbox).records.length ∧
      ([⟨2, 1, 0⟩, ⟨8, 255, 0⟩] : List MbxCmd).find? (fun c => c.tag == 7) = none ∧ full.mailbox.records.length < 64 ∧
      full.hostUp = true := by decide

def sleepS : State := nx (exec .dormant full)

theorem witness_VendorCommands :
    full.boot.phase ≠ .off ∧ full.fwUp = true ∧ up.fwUp = false ∧ up.boot.phase ≠ .off ∧ sleepS.boot.phase ≠ .off ∧
      sleepS.power.dormant = true ∧ full.power.dormant = false ∧ full.allIdle = true ∧
      (sets full [(.EN_Q_STAT_STATE, 51, 1)]).allIdle = false ∧ full.pinMay 3 3 1 = true ∧
      full.rdi .ER_GPIO_OWN 3 ≠ 3 ∧ (sets full [(.ER_GPIO_OWN, 2, 3)]).rdi .ER_GPIO_OWN 2 = 3 ∧
      full.pinMay 2 3 5 = false ∧
      (sets full [(.ER_GPIO_OWN, 2, 1), (.ER_GPIO_FN, 2, 1)]).pinMay 2 3 1 = false ∧ (nx (exec .powerLoss full)).boot.phase = .off := by decide

theorem witness_VendorCommands_modes :
    full.modes = [] ∧ changing.modes ≠ [] ∧ changing.modeBusy (.profile 0) = false ∧
      ({ full with modes := [.profile 2] } : State).modeBusy (.profile 0) = true ∧
      ({ full with modes := [.scrub 2] } : State).modeBusy (.scrub 0) = true ∧ changing.modeBusy (.scrub 0) = false ∧
      (sets full [(.GN_CFG_SCRUB, 0, 0)]).scrubRuns = false ∧ (sets full [(.GN_CFG_SCRUB, 0, 0)]).modes = [] ∧ full.modeBusy (.scrub 0) = false ∧
      full.scrubRuns = true := by decide

/-- The endpoint with its algorithms agreed. -/
def agreedS : State := { full with sideband := { full.sideband with negotiated := true } }

theorem witness_ManagementRequests :
    isNumeric 1 = true ∧ full.sideband.negotiated = false ∧ agreedS.sideband.negotiated = true ∧ agreedS.fwUp = true ∧ isNumeric 100 = false ∧
      0 < agreedS.chain.length ∧ agreedS.chain.length ≤ 65535 ∧ full.boot.phase ≠ .off := by decide
/-! ### Memory and numbers -/

/-- The last word of thresher 7's loft, marked. -/
def lastWord : Nat := Config.loftBase 7 + 8 * (Config.loftBytes / 8 - 1)

theorem witness_MemoryKeepsWrites_marks :
    8 * (Config.loftBytes / 8 - 1) + 8 ≤ Config.loftBytes ∧ (full.mark lastWord true).poisoned lastWord = true ∧
      (full.mark lastWord true).flaws = [] := by decide

theorem witness_MemoryKeepsWrites_bytes :
    full.vregs = [] ∧ full.flaws = [] ∧ 24 * 2 ^ 37 - 4 + 4 ≤ Config.hbmBytes ∧
      (∀ k, k < 4 → full.poisoned (full.phys 0 0 (24 * 2 ^ 37 - 4 + k)) = false ∧
        full.onFailed (full.phys 0 0 (24 * 2 ^ 37 - 4 + k)) = false) ∧
      (∀ k, k < 4 → full.poisoned (full.phys 1 7 (Config.loftBytes - 4 + k)) = false ∧
        full.onFailed (full.phys 1 7 (Config.loftBytes - 4 + k)) = false) ∧
      (full.writeAt .unbound 0 0 (24 * 2 ^ 37 - 4) (clean (leBytes 4 77))).readAt .unbound 0 0 (24 * 2 ^ 37 - 4) 4 =
        clean (leBytes 4 77) := by decide

theorem witness_MemoryKeepsWrites_granules : 24 * 2 ^ 37 - 1 < 24 * 2 ^ 37 ∧ hbmPlace 1 (24 * 2 ^ 37 - 1) = (23, 2 ^ 37 - 1) := by decide

/-- A block of bytes of zeros and a scale. -/
def blockOf (n x : Nat) : List PByte := clean (List.replicate (n - 1) 0 ++ [BitVec.ofNat 8 x])

theorem witness_BlocksInMemory :
    (blockOf 33 255).length = 33 ∧ anyBad (blockOf 33 255) = false ∧ ((blockOf 33 255).getD 32 ⟨0, false⟩).val.toNat = 0xFF ∧
      (blockOf 17 254).length = 17 ∧ ((blockOf 17 254).getD 16 ⟨0, false⟩).val.toNat < 0xFF ∧
      (List.replicate 32 (2 ^ 16 - 1)).length = 32 ∧ ∀ e ∈ List.replicate 32 (2 ^ 16 - 1), e < 2 ^ 16 := by decide

theorem witness_NumbersReadBack :
    0x78 < 2 ^ (fmtOf 4).width ∧ ((fmtOf 4).value 0x77).finite = true ∧ ((fmtOf 1).value 0x7F800000).finite = false ∧
      (fmtOf 1).value 0x7F800000 ≠ .nan ∧ (⟨.poison, .num false 1 0, 0⟩ : Term).x = .poison ∧ 0 < 3 * 5 ∧ 3 * 5 < 2 ^ 60 := by decide
/-! ### Worked examples of the spec -/

/-- The FP32 code of a value. -/
def code32 (x : Fp) : Nat := fp32Fmt.code x none

/-- 02_numeric_contract.md, example of an MXFP8 chunk: the scales give every product the factor 2^-2. -/
theorem test_mxfp8_chunk :
    code32 (chunkResult ([(0x7E, 0x78), (0x01, 0x01), (0xC4, 0x2C), (0x30, 0xB0), (0x18, 0x18)].map fun e =>
      ⟨(fmtOf 3).value e.1, (fmtOf 3).value e.2, -2⟩)) = 0x46DFFF51 := by decide

/-- The BF16 chunk where truncation bites. -/
theorem test_bf16_chunk_truncates :
    code32 (chunkResult ([(0x4980, 0x4980), (0x4380, 0x4380), (0x3A00, 0x3A80)].map fun e =>
      ⟨(fmtOf 2).value e.1, (fmtOf 2).value e.2, 0⟩)) = 0x53800000 := by decide

/-- The sum-in across two passes. -/
theorem test_sum_in_comes_first :
    let one (n : Nat) : List Term := [⟨(fmtOf 1).value n, (fmtOf 1).value 0x3F800000, 0⟩]
    code32 (columnResult ((fmtOf 1).value 0x4B800000) [one 0x3F800000, one 0x3F800000, one 0xCB800000]) = 0 ∧
      code32 (((fmtOf 1).value 0x4B800000).add32 (columnResult .zero [one 0x3F800000, one 0x3F800000, one 0xCB800000])) =
        0x40000000 := by decide

/-- 11_gradient_and_parameter_traffic.md, example of a block that goes round a ring of four. -/
def ringPart (a b : Nat) : GBlock := ⟨a :: b :: List.replicate 30 0, 0x78, false, false⟩
theorem test_ring_of_four :
    let x := (gsAdd (ringPart 0x4E20 0xFFFD) (ringPart 15000 5)).block
    let y := (gsAdd x (ringPart 1001 1)).block
    let z := (gsDeliver y (ringPart 0xFFFE 0xFFF9)).1
    (x.elems.take 2, x.exp, x.esc) = ([0x445C, 1], 0x79, true) ∧ (y.elems.take 2, y.exp, y.esc) = ([0x4650, 2], 0x79, true) ∧
      (z.elems.take 2, z.exp, z.esc) = ([0x464F, 0xFFFE], 0x79, true) := by decide

/-- R226: the CRC-64 of the digits. -/
theorem test_crc64_of_digits : crc64 0 ((List.range 9).map fun k => BitVec.ofNat 8 (0x31 + k)) = 0x6C40DF5F0B497347 := by decide

/-- R40: Philox-4×32-10 as published, its known answer for zeros. -/
theorem test_philox_of_zeros : philox 10 (0, 0) (0, 0, 0, 0) = (0x6627E8D5, 0xE169C58D, 0xBC57AC4C, 0x9B00DBD8) := by decide

/-- 15_bringup_reduced_service_errors.md, example of a log record: queue 17, E_DESC_BOUNDS, NO_REGION. -/
theorem test_log_record_of_queue_17 :
    (full.raise .descBounds 1 17 0 0x1000 2).log.map (fun r => (r.words.take 2, r.count, r.detail)) =
      [([0x00120113, 0x00000011], 1, 2)] := by decide

/-- R227: two instructions of one module that fold into one record at one time leave a free value, one alone does not. -/
theorem test_digest_of_two_is_free :
    let s := sets net [(.WN_DIG_CFG_EN, 0, 255)]
    let t (q : Nat) : Txn := ⟨q, 1, 0, 9, 64, none, false, 0, 64, some 3, leBytes 4 7⟩
    let two : State := { s with net := { s.net with txns := [(0, t 5), (1, t 11)] } }
    let alone : State := { s with net := { s.net with txns := [(0, t 5)] } }
    (two.foldDigest (.own 5 1) 3 9 false [1]).freeCtr = 1 ∧ (alone.foldDigest (.own 5 1) 3 9 false [1]).freeCtr = 0 := by decide

/-- R239, R227: the link CRC-32 and the CRC-32C of the nine digits, as both standards publish them. -/
theorem test_crc32_of_digits :
    let d := (List.range 9).map fun k => BitVec.ofNat 8 (0x31 + k)
    crc32 d = 0xCBF43926 ∧ crc32c d = 0xE3069283 := by decide
end Sys2Proof.Tests
end

/-! The numeric contract (02_numeric_contract.md): how a block stands in memory (R26, R27). The bits of the number a run
of bytes spells are the bits of its bytes; the obligation reads and writes elements through that one law. -/

namespace Sys2Proof

/-! ### Bits of a word, of its fields and of a run of bytes -/

theorem bit_eq_testBit (w i : Nat) : bit w i = w.testBit i := by
  rw [Nat.testBit_eq_decide_div_mod_eq, bit]

theorem testBit_bits (w lo n k : Nat) : (bits w lo n).testBit k = (decide (k < n) && w.testBit (lo + k)) := by
  rw [bits, Nat.testBit_mod_two_pow, Nat.testBit_div_two_pow, Nat.add_comm]

theorem bits_lt (w lo n : Nat) : bits w lo n < 2 ^ n := Nat.mod_lt _ (Nat.two_pow_pos n)

/-- Byte `j` of a run holds bits [8j + 7 : 8j] of the number the run spells (R27). -/
theorem testBit_leNat (l : List Byte) (j : Nat) : (leNat l).testBit j = (l.getD (j / 8) 0).toNat.testBit (j % 8) := by
  induction l generalizing j with
  | nil => simp [leNat]
  | cons b r ih =>
    rw [leNat, Nat.add_comm, Nat.testBit_two_pow_mul_add (i := 8) _ b.isLt]
    split
    · next hj => rw [Nat.div_eq_of_lt hj, Nat.mod_eq_of_lt hj, List.getD_cons_zero]
    · next hj =>
      have hdiv : j / 8 = (j - 8) / 8 + 1 := by omega
      have hmod : j % 8 = (j - 8) % 8 := by omega
      rw [ih, hdiv, hmod, List.getD_cons_succ]

theorem bits_leNat_byte (l : List Byte) (j : Nat) : bits (leNat l) (8 * j) 8 = (l.getD j 0).toNat := by
  refine Nat.eq_of_testBit_eq fun k => ?_
  rw [testBit_bits, testBit_leNat]
  by_cases hk : k < 8
  · have hdiv : (8 * j + k) / 8 = j := by omega
    have hmod : (8 * j + k) % 8 = k := by omega
    simp [hk, hdiv, hmod]
  · have hbig : (l.getD j 0).toNat < 2 ^ k :=
      (l.getD j 0).isLt.trans_le (Nat.pow_le_pow_right (by omega) (by omega))
    rw [Nat.testBit_lt_two_pow hbig, decide_eq_false hk, Bool.false_and]

@[simp] theorem length_leBytes (n v : Nat) : (leBytes n v).length = n := by
  induction n generalizing v with
  | zero => rfl
  | succ n ih => rw [leBytes, List.length_cons, ih]

theorem leNat_leBytes (n v : Nat) : leNat (leBytes n v) = v % 2 ^ (8 * n) := by
  induction n generalizing v with
  | zero => rw [Nat.mul_zero, Nat.pow_zero, Nat.mod_one, leBytes, leNat]
  | succ n ih =>
    rw [leBytes, leNat, ih, BitVec.toNat_ofNat, Nat.mul_succ, Nat.add_comm (8 * n), Nat.pow_add, Nat.mod_mul]

theorem testBit_leBytes {n v j : Nat} (hj : j < 8 * n) :
    ((leBytes n v).getD (j / 8) 0).toNat.testBit (j % 8) = v.testBit j := by
  rw [← testBit_leNat, leNat_leBytes, Nat.testBit_mod_two_pow, decide_eq_true hj, Bool.true_and]

end Sys2Proof

namespace Sys2Proof.Machine

theorem val_getD_map (l : List PByte) (j : Nat) : (l.map PByte.val).getD j 0 = (l.getD j ⟨0, false⟩).val :=
  List.getD_map l PByte.val (d := ⟨0, false⟩)

theorem testBit_pNat (l : List PByte) (j : Nat) :
    (pNat l).testBit j = (l.getD (j / 8) ⟨0, false⟩).val.toNat.testBit (j % 8) := by
  rw [pNat, testBit_leNat, val_getD_map]

theorem bits_pNat_byte (l : List PByte) (j : Nat) : bits (pNat l) (8 * j) 8 = (l.getD j ⟨0, false⟩).val.toNat := by
  rw [pNat, bits_leNat_byte, val_getD_map]

/-! ### The shape of a block -/

/-- Format `c` comes in blocks of 32 elements of `w` bits, `n` bytes with the scale. -/
structure BlockShape (c w n : Nat) : Prop where
  block : isBlock c = true
  bytes : unitBytes c = n
  size : n = 4 * w + 1
  width : (if c = 8 then 16 else (fmtOf c).width) = w

theorem blockShape_of_mem {c w n : Nat}
    (h : (c, w, n) ∈ [(3, 8, 33), (4, 8, 33), (5, 6, 25), (6, 6, 25), (7, 4, 17), (8, 16, 65)]) : BlockShape c w n := by
  simp only [List.mem_cons, Prod.mk.injEq, List.not_mem_nil, or_false] at h
  obtain ⟨rfl, rfl, rfl⟩ | ⟨rfl, rfl, rfl⟩ | ⟨rfl, rfl, rfl⟩ | ⟨rfl, rfl, rfl⟩ | ⟨rfl, rfl, rfl⟩ | ⟨rfl, rfl, rfl⟩ := h <;>
    exact ⟨rfl, rfl, rfl, rfl⟩

/-- The bits of the 32 elements lie in the element field of 4w bytes, before the scale. -/
theorem elemBit_lt {w i k : Nat} (hi : i < 32) (hk : k < w) : w * i + k < 8 * (4 * w) :=
  calc w * i + k < w * (i + 1) := by rw [Nat.mul_succ]; omega
    _ ≤ w * 32 := Nat.mul_le_mul_left w hi
    _ = 8 * (4 * w) := by ring

namespace BlockShape

variable {c w n : Nat} (h : BlockShape c w n)
include h

theorem elems : unitElems c = 32 := if_pos h.block

theorem blockElem_eq (v i : Nat) : blockElem c v i = bits v (w * i) w := by
  rw [blockElem, h.width]

theorem blockBytes_eq (es : List Nat) (x : Nat) :
    blockBytes c es x = leBytes (4 * w) (packElems w es) ++ [BitVec.ofNat 8 x] := by
  rw [blockBytes, h.width, h.bytes, h.size, Nat.add_sub_cancel]

/-! ### Reading a block -/

theorem blockElem_lt (v i : Nat) : blockElem c v i < 2 ^ w := by
  rw [h.blockElem_eq]
  exact bits_lt _ _ _

theorem bit_blockElem (l : List PByte) {i k : Nat} (hk : k < w) :
    bit (blockElem c (pNat l) i) k = bit (l.getD ((w * i + k) / 8) ⟨0, false⟩).val.toNat ((w * i + k) % 8) := by
  rw [bit_eq_testBit, bit_eq_testBit, h.blockElem_eq, testBit_bits, testBit_pNat, decide_eq_true hk, Bool.true_and]

theorem scale_eq (l : List PByte) :
    bits (pNat l) (8 * (unitBytes c - 1)) 8 = (l.getD (n - 1) ⟨0, false⟩).val.toNat := by
  rw [bits_pNat_byte, h.bytes]

theorem unitRaw_poison {l : List PByte} (hx : (l.getD (n - 1) ⟨0, false⟩).val.toNat = 0xFF) :
    unitRaw c l = List.replicate 32 .poison := by
  rw [unitRaw, if_pos (.inr ⟨h.block, (h.scale_eq l).trans hx⟩), h.elems]

theorem unitRaw_scaled {l : List PByte} {x : Nat} (hc : c ≠ 8) (hl : anyBad l = false)
    (hx : (l.getD (n - 1) ⟨0, false⟩).val.toNat = x) (hlt : x < 0xFF) :
    unitRaw c l = (List.range 32).map fun i => ((fmtOf c).value (blockElem c (pNat l) i)).scale ((x : Int) - 127) := by
  have hk : bits (pNat l) (8 * (unitBytes c - 1)) 8 = x := (h.scale_eq l).trans hx
  have hgood : ¬(anyBad l = true ∨ isBlock c = true ∧ x = 0xFF) := by
    rintro (hbad | ⟨-, rfl⟩)
    · simp [hl] at hbad
    · exact lt_irrefl _ hlt
  simp only [unitRaw, hk, if_neg hgood, if_neg hc, if_pos h.block]

end BlockShape

/-! ### Writing a block -/

theorem testBit_packElems {w : Nat} {es : List Nat} (hes : ∀ e ∈ es, e < 2 ^ w) (i : Nat) {k : Nat} (hk : k < w) :
    (packElems w es).testBit (w * i + k) = (es.getD i 0).testBit k := by
  induction es generalizing i with
  | nil => simp [packElems]
  | cons e r ih =>
    obtain ⟨he, hr⟩ := List.forall_mem_cons.mp hes
    rw [packElems, Nat.add_comm, Nat.testBit_two_pow_mul_add _ he]
    cases i with
    | zero => simp [hk]
    | succ i =>
      have hge : ¬ w * (i + 1) + k < w := by rw [Nat.mul_succ]; omega
      have hsub : w * (i + 1) + k - w = w * i + k := by rw [Nat.mul_succ]; omega
      rw [if_neg hge, hsub, ih hr, List.getD_cons_succ]

namespace BlockShape

variable {c w n : Nat} (h : BlockShape c w n)
include h

theorem length_blockBytes (es : List Nat) (x : Nat) : (blockBytes c es x).length = n := by
  rw [h.blockBytes_eq, h.size, List.length_append, length_leBytes, List.length_singleton]

theorem scale_blockBytes (es : List Nat) {x : Nat} (hx : x < 256) :
    ((blockBytes c es x).getD (n - 1) 0).toNat = x := by
  rw [h.blockBytes_eq, h.size, Nat.add_sub_cancel, List.getD_append_right _ _ _ _ (by simp), length_leBytes,
    Nat.sub_self, List.getD_cons_zero, BitVec.toNat_ofNat, Nat.mod_eq_of_lt hx]

theorem bit_blockBytes {es : List Nat} (x : Nat) (hes : ∀ e ∈ es, e < 2 ^ w) {i k : Nat} (hi : i < 32) (hk : k < w) :
    bit ((blockBytes c es x).getD ((w * i + k) / 8) 0).toNat ((w * i + k) % 8) = bit (es.getD i 0) k := by
  have hfield : w * i + k < 8 * (4 * w) := elemBit_lt hi hk
  have hbyte : (w * i + k) / 8 < (leBytes (4 * w) (packElems w es)).length := by
    rw [length_leBytes]
    omega
  rw [bit_eq_testBit, bit_eq_testBit, h.blockBytes_eq, List.getD_append _ _ _ _ hbyte, testBit_leBytes hfield,
    testBit_packElems hes i hk]

end BlockShape

/-- Settles O59: a block is read through the bits of the number its bytes spell (`testBit_pNat`), and written through
the bits of its packed elements (`testBit_packElems`); `BlockShape` gives the six formats one proof. -/
theorem blocksInMemory : Obligations.BlocksInMemory := by
  intro c w n hmem
  have h : BlockShape c w n := blockShape_of_mem hmem
  refine ⟨h.block, h.bytes, h.elems, fun l x _ hl hx => ⟨?elements, ?poison, ?scaled⟩,
    fun es x _ hes hx => ⟨h.length_blockBytes es x, h.scale_blockBytes es hx,
      fun i k hi hk => h.bit_blockBytes x hes hi hk⟩⟩
  case elements => exact fun i k _ hk => ⟨h.blockElem_lt _ i, h.bit_blockElem l hk⟩
  case poison => exact fun hff => h.unitRaw_poison (hx.symm.trans hff)
  case scaled =>
    intro hlt hc i hi
    rw [h.unitRaw_scaled hc hl hx.symm hlt, List.getElem?_map, List.getElem?_range hi, Option.map_some]

end Sys2Proof.Machine

/-! The capability table (R115): its registers hold one read-only field each, which may hold no value but its reset
value. The invariant then fixes what they read, and no write reaches them. -/

namespace Sys2Proof.Machine

variable {s : State} {f : F} {r : Reg} {i o b v : Nat}

/-! ### Fields that no value but the reset value may stand in, and registers no write changes -/

theorem Tbl.get_eq_default {α : Type} {d : α} {t : List (Nat × α)} {k : Nat} (h : ∀ e ∈ t, e.1 ≠ k) :
    Tbl.get d t k = d := by
  induction t with
  | nil => rfl
  | cons e t ih =>
    obtain ⟨hne, hrest⟩ := List.forall_mem_cons.mp h
    rw [Tbl.get, if_neg hne, ih hrest]

theorem State.Inv.rdi_eq_reset (hs : s.Inv) (hf : ∀ v, fieldLegal f v = false) : s.rdi f i = resetField f i := by
  refine Tbl.get_eq_default fun e he hkey => ?_
  obtain ⟨g, j, hg, -, -, hlegal⟩ := hs.entries e he
  obtain ⟨rfl, -⟩ := fkey_inj (hg.symm.trans hkey)
  rw [hf] at hlegal
  contradiction

theorem State.putField_readOnly {locked : Bool} (hf : f.info.acc = .ro) : s.putField locked f i v = s := by
  simp only [State.putField, hf]

theorem State.byHost_eq_self {k : State → State} (h : k s = s) : s.byHost k = s := by
  rw [State.byHost, h, ite_self]

/-- Below the staging aperture every register write is an access to the block at its offset (R320). -/
theorem exec_registerWrite_below_staging {wide : Bool} (ho : o < 0x1000000)
    (hv : v < if wide then 2 ^ 64 else 2 ^ 32) :
    exec (.registerWrite o wide v) s = .next (s.byHost fun s => s.writeAccess o wide v) := by
  have hstaging : ¬ 0x1000000 ≤ o := by omega
  have hmsix : ¬ 0x7FF0000 ≤ o := by omega
  have hwindow : o < 2 ^ 27 := by omega
  simp only [exec, execRegisterWrite, hstaging, hmsix, hwindow, hv, true_and, false_and, if_true, if_false]

/-! ### Which offsets a register answers (R320) -/

/-- The bytes a singly indexed register takes up, from its first place to the end of its last stride. -/
def Reg.span (r : Reg) : Nat := if r.info.s1 = 0 then r.bytes else r.info.n1 * r.info.s1

theorem Reg.hit_inside (h2 : r.info.s2 = 0) (h : r.hit o = some (i, b)) :
    r.info.base ≤ o ∧ o < r.info.base + r.span := by
  simp only [Reg.hit, h2, if_true, Option.ite_none_left_eq_some, Option.ite_none_right_eq_some, Nat.not_lt] at h
  obtain ⟨hbase, ⟨hinst, -, hbyte⟩, -⟩ := h
  refine ⟨hbase, ?_⟩
  by_cases h1 : r.info.s1 = 0
  · rw [if_pos h1] at hbyte
    rw [Reg.span, if_pos h1]
    omega
  · rw [if_neg h1, Nat.div_lt_iff_lt_mul (Nat.pos_of_ne_zero h1)] at hinst
    rw [Reg.span, if_neg h1]
    omega

theorem Reg.hit_byte (h1 : r.info.s1 = 0) (h2 : r.info.s2 = 0) (h : r.hit o = some (i, b)) :
    r.info.base + b = o := by
  simp only [Reg.hit, h1, h2, if_true, Option.ite_none_left_eq_some, Option.ite_none_right_eq_some,
    Option.some.injEq, Prod.mk.injEq, Nat.not_lt] at h
  obtain ⟨hbase, -, -, hbyte⟩ := h
  omega

theorem Reg.blockAt_of_lt (ho : o < 0x10000) : Reg.blockAt o = Reg.blockID := by
  have hbelow (base : Nat) (hbase : 0x10000 ≤ base) : ¬ o ≥ base := by omega
  simp [Reg.blockAt, hbelow]

theorem exists_hit_of_regAt (h : regAt o = some (r, i, b)) : r ∈ Reg.blockAt o ∧ r.hit o = some (i, b) := by
  obtain ⟨r', hmem, hhit⟩ := List.exists_of_findSome?_eq_some h
  obtain ⟨⟨i', b'⟩, hhit', heq⟩ := Option.map_eq_some_iff.mp hhit
  cases heq
  exact ⟨hmem, hhit'⟩

/-! ### The capability fields -/

/-- The fields of the capability registers, the first 31 of the ID_ block. -/
def capFields : List F := (Reg.blockID.take 31).flatMap Reg.fields

/-- The row of R115's table for a field: the offset of its register, the register, whether it is 64 bits wide, and its
value, which is the field's reset value. -/
def capRow (f : F) : Nat × Reg × Bool × Nat :=
  (f.info.reg.info.base, f.info.reg, f.info.reg.info.wide, f.info.reset)

/-- A read-only field that alone makes up a register, which stands once, in no domain that goes off; it may hold its
reset value only, and shows what it holds. A write of its register is one of its fields. -/
structure CapField (f : F) : Prop where
  fields : f.info.reg.fields = [f]
  count : f.info.reg.count = 1
  domain : regDomain f.info.reg 0 = none
  located : regAt f.info.reg.info.base = some (f.info.reg, 0, 0)
  below : f.info.reg.info.base < 0x1000000
  acts : accessOk f.info.reg 0 f.info.reg.info.wide = true
  stride : f.info.reg.info.s1 = 0
  lo : f.info.lo = 0
  readOnly : f.info.acc = .ro
  reset : resetField f 0 = f.info.reset
  fixed : ∀ v, fieldLegal f v = false
  shown : ∀ s : State, s.shown f 0 = s.rdi f 0
  written : ∀ (s : State) (v : Nat), s.writeReg f.info.reg 0 v = s.putFields f.info.reg.fields 0 v

theorem capField_of_mem (hf : f ∈ capFields) : CapField f := by
  fin_cases hf <;>
    exact ⟨rfl, rfl, rfl, rfl, by decide, rfl, rfl, rfl, rfl, rfl, fun _ => rfl, fun _ => rfl, fun _ _ => rfl⟩

theorem blockID_cap_or_outside : ∀ r ∈ Reg.blockID, r.info.s2 = 0 ∧
    ((∃ f ∈ capFields, f.info.reg = r) ∨ r.info.base + r.span ≤ 0x400 ∨ 0x484 ≤ r.info.base) := by
  decide

namespace CapField

theorem readReg_eq (hf : CapField f) (hs : s.Inv) : s.readReg f.info.reg 0 = f.info.reset := by
  have hpresent : ¬ (f.info.reg.count ≤ 0 ∨ (regDomain f.info.reg 0).any s.domainOff) := by
    simp [hf.count, hf.domain]
  rw [State.readReg, if_neg hpresent, hf.fields, List.map_singleton, List.sum_singleton, hf.shown, hf.lo,
    hs.rdi_eq_reset hf.fixed, hf.reset, pow_zero, mul_one]

theorem writeReg_eq (hf : CapField f) : s.writeReg f.info.reg 0 v = s := by
  rw [hf.written, hf.fields, State.putFields, List.foldl_cons, List.foldl_nil, State.putField_readOnly hf.readOnly]

theorem writeAccess_eq (hf : CapField f) : s.writeAccess f.info.reg.info.base f.info.reg.info.wide v = s := by
  simp [State.writeAccess, hf.located, hf.acts, hf.domain, hf.writeReg_eq]

theorem exec_registerWrite (hf : CapField f) (hv : v < if f.info.reg.info.wide then 2 ^ 64 else 2 ^ 32) :
    exec (.registerWrite f.info.reg.info.base f.info.reg.info.wide v) s = .next s := by
  rw [exec_registerWrite_below_staging hf.below hv, State.byHost_eq_self hf.writeAccess_eq]

end CapField

theorem exists_capField_of_regAt (hlo : 0x400 ≤ o) (hhi : o < 0x484) (h : regAt o = some (r, i, b)) :
    ∃ f ∈ capFields, f.info.reg = r ∧ r.info.base + b = o := by
  obtain ⟨hmem, hhit⟩ := exists_hit_of_regAt h
  rw [Reg.blockAt_of_lt (by omega)] at hmem
  obtain ⟨h2, ⟨f, hf, rfl⟩ | hout⟩ := blockID_cap_or_outside r hmem
  · exact ⟨f, hf, rfl, Reg.hit_byte (capField_of_mem hf).stride h2 hhit⟩
  · have := Reg.hit_inside h2 hhit
    omega

/-- Settles O6: the table is `capRow` of the capability fields, and `CapField` gives the rows one proof. -/
theorem capabilitiesAreFixed : Obligations.CapabilitiesAreFixed := by
  intro s l hs hl
  obtain rfl : l = capFields.map capRow := hl
  refine ⟨fun o r w n hrow => ?rows, fun o r i b hlo hhi hat => ?range⟩
  case rows =>
    obtain ⟨f, hf, hfrow⟩ := List.mem_map.mp hrow
    cases hfrow
    have hcap := capField_of_mem hf
    exact ⟨hcap.located, rfl, hcap.readReg_eq hs, fun v hv => hcap.exec_registerWrite hv⟩
  case range =>
    obtain ⟨f, hf, rfl, hbyte⟩ := exists_capField_of_regAt hlo hhi hat
    exact ⟨capRow f, List.mem_map_of_mem hf, rfl, hbyte⟩

end Sys2Proof.Machine

/-! Memory keeps what is written (O58): where memory lies in both interleaves (R154, R155), the protected units of a
run of places (R133, R136), and the runs of an access. Every write of clean bytes is summed up by `Wrote`: the places
and bytes it puts down, one list for a unit, a run of places and a run of addresses alike. -/

namespace Sys2Proof.Machine

/-! ### Stacks and stack-local addresses (R154, R155) -/

theorem hbmPlace_bayLocal (a : Nat) : hbmPlace 0 a = (a / 2 ^ 37, a % 2 ^ 37) := rfl

theorem hbmPlace_interleaved {mode : Nat} (hm : mode ≠ 0) (a : Nat) :
    hbmPlace mode a = (6 * (a / 4096 % 24 % 4) + a / 4096 % 24 / 4, a / 4096 / 24 * 4096 + a % 4096) := if_neg hm

theorem rotation_hbmPlace {mode : Nat} (hm : mode ≠ 0) (a : Nat) :
    rotation (hbmPlace mode a).1 = a / 4096 % 24 := by
  rw [hbmPlace_interleaved hm, rotation]
  omega

theorem hbmAddr_hbmPlace (mode a : Nat) : hbmAddr mode (hbmPlace mode a).1 (hbmPlace mode a).2 = a := by
  by_cases hm : mode = 0
  · subst hm
    rw [hbmAddr, if_pos rfl, hbmPlace_bayLocal]
    omega
  · rw [hbmAddr, if_neg hm, rotation_hbmPlace hm, hbmPlace_interleaved hm]
    omega

theorem hbmPlace_injective (mode : Nat) : Function.Injective (hbmPlace mode) := fun a b h => by
  rw [← hbmAddr_hbmPlace mode a, h, hbmAddr_hbmPlace]

theorem rotation_lt {k : Nat} (hk : k < 24) : rotation k < 24 := by
  rw [rotation]
  omega

/-- The stack of a turn in the rotation, R155's formula read backwards. -/
theorem stack_of_rotation {k : Nat} (hk : k < 24) : 6 * (rotation k % 4) + rotation k / 4 = k := by
  rw [rotation]
  omega

theorem hbmPlace_hbmAddr {k : Nat} (hk : k < 24) (x : Nat) : hbmPlace 1 (hbmAddr 1 k x) = (k, x) := by
  have hr := rotation_lt hk
  have hturn : (x / 4096 * 24 + rotation k) % 24 = rotation k := by omega
  have hround : (x / 4096 * 24 + rotation k) / 24 = x / 4096 := by omega
  have hnum : hbmAddr 1 k x / 4096 = x / 4096 * 24 + rotation k := by
    rw [hbmAddr, if_neg one_ne_zero]
    omega
  have hbyte : hbmAddr 1 k x % 4096 = x % 4096 := by
    rw [hbmAddr, if_neg one_ne_zero]
    omega
  rw [hbmPlace_interleaved one_ne_zero, hnum, hbyte, hturn, hround, stack_of_rotation hk, Nat.div_add_mod']

theorem hbmPlace_lt (mode : Nat) {a : Nat} (ha : a < 24 * 2 ^ 37) :
    (hbmPlace mode a).1 < 24 ∧ (hbmPlace mode a).2 < 2 ^ 37 := by
  by_cases hm : mode = 0
  · subst hm
    rw [hbmPlace_bayLocal]
    omega
  · rw [hbmPlace_interleaved hm]
    omega

theorem hbmAddr_lt {k x : Nat} (hk : k < 24) (hx : x < 2 ^ 37) : hbmAddr 1 k x < 24 * 2 ^ 37 := by
  have hr := rotation_lt hk
  rw [hbmAddr, if_neg one_ne_zero]
  omega

theorem stackBay_bayLocal (a b : Nat) :
    stackBay (hbmPlace 0 a).1 = b ↔ b * (768 * 2 ^ 30) ≤ a ∧ a < (b + 1) * (768 * 2 ^ 30) := by
  rw [hbmPlace_bayLocal, stackBay]
  omega

theorem stack_bayLocal (a k : Nat) :
    (hbmPlace 0 a).1 = k ↔ k * (128 * 2 ^ 30) ≤ a ∧ a < (k + 1) * (128 * 2 ^ 30) := by
  rw [hbmPlace_bayLocal]
  omega

theorem stackBay_interleaved (a : Nat) : stackBay (hbmPlace 1 a).1 = a / 4096 % 4 := by
  have hslot : a / 4096 % 24 / 4 < 6 := by omega
  rw [hbmPlace_interleaved one_ne_zero, stackBay, Nat.mul_add_div (by decide), Nat.div_eq_of_lt hslot, Nat.add_zero,
    Nat.mod_mod_of_dvd _ (by decide)]

theorem stackBay_next_granule (a : Nat) : stackBay (hbmPlace 1 (a + 4096)).1 ≠ stackBay (hbmPlace 1 a).1 := by
  rw [stackBay_interleaved, stackBay_interleaved]
  omega

theorem stack_round (a : Nat) : (hbmPlace 1 (a + 24 * 4096)).1 = (hbmPlace 1 a).1 := by
  have hround : (a + 24 * 4096) / 4096 % 24 = a / 4096 % 24 := by omega
  rw [hbmPlace_interleaved one_ne_zero, hbmPlace_interleaved one_ne_zero, hround]

/-! ### Places of a run of addresses -/

/-- Inside a granule of its space addresses and places run together. -/
theorem phys_add (s : State) {space t a j : Nat} (h : a % granSize space + j < granSize space) :
    s.phys space t (a + j) = s.phys space t a + j := by
  unfold granSize at h
  unfold State.phys
  by_cases hs : space = 0
  · simp only [hs, if_true] at h ⊢
    unfold hbmPhys
    by_cases hm : s.interleave = 0
    · simp only [hm, hbmPlace_bayLocal]
      omega
    · have hgran : (a + j) / 4096 = a / 4096 := by omega
      have hbyte : (a + j) % 4096 = a % 4096 + j := by omega
      simp only [hbmPlace_interleaved hm, hgran, hbyte]
      omega
  · rw [if_neg hs, if_neg hs, Nat.add_assoc]

theorem phys_inj (s : State) {space t a b : Nat} (ha : space = 0 → a < Config.hbmBytes)
    (hb : space = 0 → b < Config.hbmBytes) (h : s.phys space t a = s.phys space t b) : a = b := by
  unfold State.phys at h
  by_cases hs : space = 0
  · rw [if_pos hs, if_pos hs, hbmPhys, hbmPhys] at h
    obtain ⟨-, hla⟩ := hbmPlace_lt s.interleave (ha hs)
    obtain ⟨-, hlb⟩ := hbmPlace_lt s.interleave (hb hs)
    refine hbmPlace_injective s.interleave (Prod.ext ?_ ?_) <;> omega
  · rw [if_neg hs, if_neg hs] at h
    omega

/-! ### Protected units and their marks -/

theorem unitSize_unitOf (p : Nat) : unitSize (unitOf p) = unitSize p := by
  have hbytes : Config.hbmBytes = 24 * 2 ^ 37 := rfl
  have hside : isHbm (unitOf p) = isHbm p := by
    simp only [isHbm, unitOf, unitSize, hbytes, decide_eq_true_eq, decide_eq_decide]
    split <;> omega
  rw [unitSize, hside, unitSize]

@[simp] theorem unitOf_unitOf (p : Nat) : unitOf (unitOf p) = unitOf p := by
  have hpos : 0 < unitSize p := by
    unfold unitSize
    split <;> omega
  rw [unitOf, unitSize_unitOf, unitOf, Nat.mul_div_cancel _ hpos]

@[simp] theorem poisoned_unitOf (s : State) (p : Nat) : s.poisoned (unitOf p) = s.poisoned p := by
  rw [State.poisoned, unitOf_unitOf, State.poisoned]

theorem poisoned_mark (s : State) (p : Nat) (b : Bool) (k : Nat) :
    (s.mark p b).poisoned k = if unitOf k = unitOf p then b else s.poisoned k := Tbl.get_set

theorem isHbm_loft (t x : Nat) : isHbm (Config.loftBase t + x) = false := by
  have hbytes : Config.hbmBytes = 24 * 2 ^ 37 := rfl
  rw [isHbm, decide_eq_false_iff_not, Config.loftBase, hbytes]
  omega

theorem unitSize_loft (t x : Nat) : unitSize (Config.loftBase t + x) = 8 := by
  simp [unitSize, isHbm_loft]

theorem unitOf_loft (t k : Nat) {j : Nat} (hj : j < 8) :
    unitOf (Config.loftBase t + 8 * k + j) = Config.loftBase t + 8 * k := by
  rw [unitOf, Nat.add_assoc, unitSize_loft, Config.loftBase]
  omega

theorem onFailed_loft (s : State) (t x : Nat) : s.onFailed (Config.loftBase t + x) = false := by
  rw [State.onFailed, isHbm_loft, Bool.false_and]

/-! ### Bytes laid down -/

/-- The bytes `l` paired with the places `f a`, `f (a + 1)` and so on that they are for. -/
def laid (f : Nat → Nat) : Nat → List PByte → List (Nat × PByte)
  | _, [] => []
  | a, b :: l => (f a, b) :: laid f (a + 1) l

theorem laid_append (f : Nat → Nat) (a : Nat) (l r : List PByte) :
    laid f a (l ++ r) = laid f a l ++ laid f (a + l.length) r := by
  induction l generalizing a with
  | nil => rfl
  | cons b l ih =>
    rw [List.cons_append, laid, laid, ih, List.cons_append, List.length_cons, Nat.add_assoc, Nat.add_comm 1]

theorem laid_take_drop (f : Nat → Nat) (a : Nat) {k : Nat} {l : List PByte} (hk : k ≤ l.length) :
    laid f a l = laid f a (l.take k) ++ laid f (a + k) (l.drop k) := by
  conv_lhs => rw [← List.take_append_drop k l, laid_append, List.length_take, Nat.min_eq_left hk]

@[simp] theorem length_laid (f : Nat → Nat) (a : Nat) (l : List PByte) : (laid f a l).length = l.length := by
  induction l generalizing a with
  | nil => rfl
  | cons b l ih => rw [laid, List.length_cons, ih, List.length_cons]

theorem laid_congr {f g : Nat → Nat} {a b : Nat} {l : List PByte} (h : ∀ j < l.length, f (a + j) = g (b + j)) :
    laid f a l = laid g b l := by
  induction l generalizing a b with
  | nil => rfl
  | cons x l ih =>
    have hrest : laid f (a + 1) l = laid g (b + 1) l := ih fun j hj => by
      simpa only [Nat.add_assoc, Nat.add_comm 1] using h (j + 1) (Nat.succ_lt_succ hj)
    have hhead : f a = g b := h 0 (Nat.succ_pos _)
    rw [laid, laid, hrest, hhead]

theorem mem_laid {f : Nat → Nat} {a : Nat} {l : List PByte} {e : Nat × PByte} (h : e ∈ laid f a l) :
    (∃ j < l.length, e.1 = f (a + j)) ∧ e.2 ∈ l := by
  induction l generalizing a with
  | nil => cases h
  | cons b l ih =>
    obtain rfl | h := List.mem_cons.mp h
    · exact ⟨⟨0, Nat.succ_pos _, rfl⟩, List.mem_cons_self⟩
    · obtain ⟨⟨j, hj, he⟩, hmem⟩ := ih h
      exact ⟨⟨j + 1, Nat.succ_lt_succ hj, by rw [he, Nat.add_assoc, Nat.add_comm 1]⟩, List.mem_cons_of_mem b hmem⟩

theorem range_zip_map_eq_laid (p : Nat) (l : List PByte) :
    ((List.range l.length).zip l).map (fun e => (p + e.1, e.2)) = laid id p l := by
  induction l generalizing p with
  | nil => rfl
  | cons b l ih =>
    rw [laid, ← ih, List.length_cons, List.range_succ_eq_map, List.zip_cons_cons, List.zip_map_left]
    simp [Function.comp_def, Nat.add_assoc, Nat.add_comm 1]

/-- Memory with every one of a list of bytes put in its place. -/
def putBytes (m : List Host.Cell) (es : List (Nat × PByte)) : List Host.Cell :=
  es.foldl (fun m e => Tbl.set 0 m e.1 e.2.val) m

theorem get_putBytes_other {m : List Host.Cell} {es : List (Nat × PByte)} {p : Nat} (h : ∀ e ∈ es, p ≠ e.1) :
    Tbl.get 0 (putBytes m es) p = Tbl.get 0 m p := by
  induction es generalizing m with
  | nil => rfl
  | cons e es ih =>
    obtain ⟨hhead, hrest⟩ := List.forall_mem_cons.mp h
    exact (ih hrest).trans (Tbl.get_set_other hhead)

theorem get_putBytes_laid {m : List Host.Cell} {f : Nat → Nat} {a : Nat} {l : List PByte}
    (hf : ∀ i < l.length, ∀ j < l.length, f (a + i) = f (a + j) → i = j) {k : Nat} (hk : k < l.length) :
    Tbl.get 0 (putBytes m (laid f a l)) (f (a + k)) = l[k].val := by
  induction l generalizing m a k with
  | nil => cases hk
  | cons b l ih =>
    change Tbl.get 0 (putBytes (Tbl.set 0 m (f a) b.val) (laid f (a + 1) l)) (f (a + k)) = _
    cases k with
    | zero =>
      refine (get_putBytes_other fun e he heq => ?_).trans Tbl.get_set_same
      obtain ⟨⟨j, hj, hplace⟩, -⟩ := mem_laid he
      rw [hplace, Nat.add_assoc, Nat.add_comm 1] at heq
      exact absurd (hf 0 hk (j + 1) (Nat.succ_lt_succ hj) heq) (Nat.succ_ne_zero j).symm
    | succ k =>
      have hinj : ∀ i < l.length, ∀ j < l.length, f (a + 1 + i) = f (a + 1 + j) → i = j := fun i hi j hj heq => by
        rw [Nat.add_assoc, Nat.add_assoc, Nat.add_comm 1, Nat.add_comm 1] at heq
        exact Nat.succ.inj (hf (i + 1) (Nat.succ_lt_succ hi) (j + 1) (Nat.succ_lt_succ hj) heq)
      have hshift : a + (k + 1) = a + 1 + k := by omega
      rw [hshift, List.getElem_cons_succ]
      exact ih hinj (Nat.lt_of_succ_lt_succ hk)

/-- `u` is `s` after a write that put the bytes `es` in their places, moved no register, left no error waiting and
marked no unit. -/
structure Wrote (es : List (Nat × PByte)) (s u : State) : Prop where
  mem : u.mem = putBytes s.mem es
  regs : u.regs = s.regs
  flaws : u.flaws = s.flaws
  marks : ∀ p, s.poisoned p = false → u.poisoned p = false

namespace Wrote

variable {s u v : State} {es fs : List (Nat × PByte)}

theorem refl (s : State) : Wrote [] s s := ⟨rfl, rfl, rfl, fun _ => id⟩

theorem trans (h : Wrote es s u) (k : Wrote fs u v) : Wrote (es ++ fs) s v where
  mem := by rw [k.mem, h.mem, putBytes, putBytes, putBytes, List.foldl_append]
  regs := k.regs.trans h.regs
  flaws := k.flaws.trans h.flaws
  marks p hp := k.marks p (h.marks p hp)

theorem mark_clear (s : State) (p : Nat) : Wrote [] s (s.mark p false) := by
  refine ⟨rfl, rfl, rfl, fun k hk => ?_⟩
  rw [poisoned_mark, hk, ite_self]

theorem setByte (s : State) (e : Nat × PByte) : Wrote [e] s (s.setByte e.1 e.2.val) := ⟨rfl, rfl, rfl, fun _ => id⟩

theorem setBytes (s : State) (es : List (Nat × PByte)) :
    Wrote es s (es.foldl (fun s e => s.setByte e.1 e.2.val) s) := by
  induction es generalizing s with
  | nil => exact refl s
  | cons e es ih => exact (setByte s e).trans (ih _)

theorem byteAt_other (h : Wrote es s u) {p : Nat} (hp : ∀ e ∈ es, p ≠ e.1) : u.byteAt p = s.byteAt p := by
  rw [State.byteAt, h.mem, get_putBytes_other hp, State.byteAt]

theorem byteAt_laid {f : Nat → Nat} {a : Nat} {l : List PByte} (h : Wrote (laid f a l) s u)
    (hf : ∀ i < l.length, ∀ j < l.length, f (a + i) = f (a + j) → i = j) {k : Nat} (hk : k < l.length) :
    u.byteAt (f (a + k)) = l[k].val := by
  rw [State.byteAt, h.mem, get_putBytes_laid hf hk]

theorem rdi_eq (h : Wrote es s u) (f : F) (i : Nat) : u.rdi f i = s.rdi f i := by
  rw [State.rdi, h.regs, State.rdi]

theorem phys_eq (h : Wrote es s u) (space t a : Nat) : u.phys space t a = s.phys space t a := by
  rw [State.phys, State.interleave, State.rd, h.rdi_eq]
  rfl

theorem onFailed_eq (h : Wrote es s u) (p : Nat) : u.onFailed p = s.onFailed p := by
  rw [State.onFailed, h.rdi_eq, State.onFailed]

theorem vregs_eq (h : Wrote es s u) : u.vregs = s.vregs := by
  have hflag : u.flag = s.flag := funext₂ fun f i => by rw [State.flag, h.rdi_eq, State.flag]
  have hentry : u.vregAt = s.vregAt := funext fun v => by simp only [State.vregAt, hflag, h.rdi_eq]
  rw [State.vregs, hflag, hentry, State.vregs]

end Wrote

/-! ### Writes, unit by unit (R133, R136) -/

theorem rewritten_of_flawless {s : State} (hs : s.flaws = []) (p : Nat) : s.rewritten p = s := by
  rw [State.rewritten, hs]
  rfl

theorem writePhys_of_flawless {s : State} (hs : s.flaws = []) (p : Nat) (l : List PByte) :
    s.writePhys p l = s.storePhys p l := by
  rw [State.writePhys, hs]
  rfl

section Unit

variable {s : State} {g : Nat × List (Nat × PByte)}

theorem writeUnit_whole (hs : s.flaws = []) (hg : ∀ e ∈ g.2, e.2.bad = false)
    (hwhole : g.2.length = unitSize g.1) :
    s.writeUnit g = g.2.foldl (fun s e => s.setByte e.1 e.2.val) (s.mark g.1 false) := by
  have hclear : (s.mark g.1 false).poisoned g.1 = false := by rw [poisoned_mark, if_pos rfl]
  have hgood : (g.2.any fun e => e.2.bad) = false := List.any_eq_false.mpr fun e he => by simp [hg e he]
  simp [State.writeUnit, hwhole, hclear, hgood, rewritten_of_flawless (s := s.mark g.1 false) hs]

theorem writeUnit_part (hs : s.flaws = []) (hg : ∀ e ∈ g.2, e.2.bad = false)
    (hpart : g.2.length ≠ unitSize g.1) (hclear : s.poisoned g.1 = false) :
    s.writeUnit g = g.2.foldl (fun s e => s.setByte e.1 e.2.val) s := by
  have hgood : (g.2.any fun e => e.2.bad) = false := List.any_eq_false.mpr fun e he => by simp [hg e he]
  simp [State.writeUnit, hpart, hs, hclear, hgood, rewritten_of_flawless hs]

theorem writeUnit_lost (hs : s.flaws = []) (hpart : g.2.length ≠ unitSize g.1)
    (hmarked : s.poisoned g.1 = true) : s.writeUnit g = s := by
  simp [State.writeUnit, hpart, hs, hmarked]

theorem wrote_writeUnit (hs : s.flaws = []) (hg : ∀ e ∈ g.2, e.2.bad = false)
    (hclear : s.poisoned g.1 = false) : Wrote g.2 s (s.writeUnit g) := by
  by_cases hwhole : g.2.length = unitSize g.1
  · rw [writeUnit_whole hs hg hwhole]
    exact (Wrote.mark_clear s g.1).trans (Wrote.setBytes _ _)
  · rw [writeUnit_part hs hg hwhole hclear]
    exact Wrote.setBytes s _

end Unit

theorem wrote_writeUnits {s : State} {gs : List (Nat × List (Nat × PByte))} (hs : s.flaws = [])
    (hg : ∀ g ∈ gs, (∀ e ∈ g.2, e.2.bad = false) ∧ s.poisoned g.1 = false) :
    Wrote (gs.flatMap Prod.snd) s (gs.foldl State.writeUnit s) := by
  induction gs generalizing s with
  | nil => exact .refl s
  | cons g gs ih =>
    obtain ⟨⟨hgood, hclear⟩, hrest⟩ := List.forall_mem_cons.mp hg
    have hfirst := wrote_writeUnit hs hgood hclear
    exact hfirst.trans (ih (hfirst.flaws.trans hs) fun k hk => ⟨(hrest k hk).1, hfirst.marks _ (hrest k hk).2⟩)

theorem flatMap_groupUnits (es : List (Nat × PByte)) : (groupUnits es).flatMap Prod.snd = es := by
  induction es with
  | nil => rfl
  | cons e es ih =>
    rw [groupUnits]
    split
    · next u g l hes =>
      rw [hes] at ih
      split <;> simpa using ih
    · next hes =>
      rw [hes] at ih
      simpa using ih

theorem exists_place_of_mem_groupUnits {es : List (Nat × PByte)} {g : Nat × List (Nat × PByte)}
    (hg : g ∈ groupUnits es) : ∃ e ∈ g.2, unitOf e.1 = g.1 := by
  induction es generalizing g with
  | nil => cases hg
  | cons e es ih =>
    have hhead : ∀ r : List (Nat × PByte), ∃ x ∈ e :: r, unitOf x.1 = unitOf e.1 :=
      fun r => ⟨e, List.mem_cons_self, rfl⟩
    rw [groupUnits] at hg
    split at hg
    · next u r l hes =>
      split at hg
      · next hu =>
        obtain rfl | hg := List.mem_cons.mp hg
        · exact hu ▸ hhead r
        · exact ih (hes ▸ List.mem_cons_of_mem _ hg)
      · obtain rfl | hg := List.mem_cons.mp hg
        · exact hhead []
        · exact ih (hes ▸ hg)
    · obtain rfl := List.mem_singleton.mp hg
      exact hhead []

theorem groupUnits_one_unit {es : List (Nat × PByte)} {u : Nat} (hne : es ≠ []) (h : ∀ e ∈ es, unitOf e.1 = u) :
    groupUnits es = [(u, es)] := by
  induction es with
  | nil => contradiction
  | cons e es ih =>
    obtain ⟨hu, hrest⟩ := List.forall_mem_cons.mp h
    rw [groupUnits]
    cases es with
    | nil => simp [groupUnits, hu]
    | cons x es => simp [ih (List.cons_ne_nil x es) hrest, hu]

theorem storePhys_eq {s : State} {p : Nat} (hfail : s.onFailed p = false) (l : List PByte) :
    s.storePhys p l = (groupUnits (laid id p l)).foldl State.writeUnit s := by
  rw [State.storePhys, hfail, if_neg Bool.false_ne_true, range_zip_map_eq_laid]

theorem wrote_writePhys {s : State} {p : Nat} {l : List PByte} (hs : s.flaws = []) (hl : ∀ b ∈ l, b.bad = false)
    (hfail : s.onFailed p = false) (hclear : ∀ j < l.length, s.poisoned (p + j) = false) :
    Wrote (laid id p l) s (s.writePhys p l) := by
  rw [writePhys_of_flawless hs, storePhys_eq hfail]
  have hunits : ∀ g ∈ groupUnits (laid id p l), (∀ e ∈ g.2, e.2.bad = false) ∧ s.poisoned g.1 = false := by
    intro g hg
    have hlaid : ∀ e ∈ g.2, e ∈ laid id p l := fun e he => by
      rw [← flatMap_groupUnits (laid id p l)]
      exact List.mem_flatMap.mpr ⟨g, hg, he⟩
    refine ⟨fun e he => hl _ (mem_laid (hlaid e he)).2, ?_⟩
    obtain ⟨e, he, hunit⟩ := exists_place_of_mem_groupUnits hg
    obtain ⟨⟨j, hj, hplace⟩, -⟩ := mem_laid (hlaid e he)
    rw [← hunit, poisoned_unitOf, hplace]
    exact hclear j hj
  simpa only [flatMap_groupUnits] using wrote_writeUnits hs hunits

/-! ### A word of a loft (R136) -/

/-- A write that stays inside the word at `8 * k` of a loft is a write of that one unit. -/
theorem writePhys_in_word {s : State} {t k o : Nat} {l : List PByte} (hs : s.flaws = []) (hne : l ≠ [])
    (hin : o + l.length ≤ 8) :
    s.writePhys (Config.loftBase t + 8 * k + o) l =
      s.writeUnit (Config.loftBase t + 8 * k, laid id (Config.loftBase t + 8 * k + o) l) := by
  have hunit : ∀ e ∈ laid id (Config.loftBase t + 8 * k + o) l, unitOf e.1 = Config.loftBase t + 8 * k := by
    intro e he
    obtain ⟨⟨j, hj, hplace⟩, -⟩ := mem_laid he
    rw [hplace, id, Nat.add_assoc (_ + _)]
    exact unitOf_loft t k (by omega)
  have hlaid : laid id (Config.loftBase t + 8 * k + o) l ≠ [] := by
    rw [← List.length_pos_iff, length_laid]
    exact List.length_pos_iff.mpr hne
  have hfail : s.onFailed (Config.loftBase t + 8 * k + o) = false := by
    rw [Nat.add_assoc]
    exact onFailed_loft s t _
  rw [writePhys_of_flawless hs, storePhys_eq hfail, groupUnits_one_unit hlaid hunit]
  rfl

theorem wrote_writePhys_whole_word {s : State} {t k : Nat} {l : List PByte} (hs : s.flaws = [])
    (hl : ∀ b ∈ l, b.bad = false) (hlen : l.length = 8) :
    Wrote (laid id (Config.loftBase t + 8 * k) l) (s.mark (Config.loftBase t + 8 * k) false)
      (s.writePhys (Config.loftBase t + 8 * k) l) := by
  have hne : l ≠ [] := List.ne_nil_of_length_pos (by omega)
  have hword := writePhys_in_word (t := t) (k := k) (o := 0) hs hne (by omega)
  rw [Nat.add_zero] at hword
  rw [hword, writeUnit_whole hs (fun e he => hl _ (mem_laid he).2) (by rw [length_laid, hlen, unitSize_loft])]
  exact Wrote.setBytes _ _

theorem writePhys_part_of_marked_word {s : State} {t k o : Nat} {l : List PByte} (hs : s.flaws = [])
    (hmarked : s.poisoned (Config.loftBase t + 8 * k) = true) (hlen : l.length < 8) (hin : o + l.length ≤ 8) :
    s.writePhys (Config.loftBase t + 8 * k + o) l = s := by
  cases l with
  | nil =>
    rw [writePhys_of_flawless hs, Nat.add_assoc, storePhys_eq (onFailed_loft s t _)]
    rfl
  | cons b l =>
    rw [writePhys_in_word hs (List.cons_ne_nil b l) hin]
    exact writeUnit_lost hs (by rw [length_laid, unitSize_loft]; exact hlen.ne) hmarked

/-! ### Runs of addresses -/

theorem granSize_pos (space : Nat) : 0 < granSize space := by
  unfold granSize
  split <;> omega

/-- The fuel of `piecesOf` lasts to the end of the run. -/
theorem run_le_fuel (z a n : Nat) (hz : 0 < z) : n + a % z ≤ (n / z + 2) * z := by
  have hn := Nat.lt_div_mul_add (a := n) hz
  have ha := Nat.mod_lt a hz
  rw [Nat.add_mul]
  omega

/-- After a first piece up to the end of its granule the fuel that is left still lasts. -/
theorem rest_le_fuel {z fuel a n : Nat} (hz : 0 < z) (h : n = 0 ∨ n + a % z ≤ (fuel + 1) * z) :
    n - min n (z - a % z) = 0 ∨ n - min n (z - a % z) + (a + min n (z - a % z)) % z ≤ fuel * z := by
  have ha := Nat.mod_lt a hz
  obtain rfl | h := h
  · exact .inl (Nat.zero_sub _)
  obtain hlt | hle := Nat.lt_or_ge (z - a % z) n
  · right
    have hend : a + (z - a % z) = z * (a / z + 1) := by
      have := Nat.div_add_mod a z
      rw [Nat.mul_succ]
      omega
    rw [Nat.min_eq_right hlt.le, hend, Nat.mul_mod_right]
    rw [Nat.succ_mul] at h
    omega
  · exact .inl (by rw [Nat.min_eq_left hle, Nat.sub_self])

/-- A run of `n` clean addresses from `a`: none reads poisoned, none lies on a failed stack. -/
def State.CleanRun (s : State) (space t a n : Nat) : Prop :=
  ∀ k < n, s.poisoned (s.phys space t (a + k)) = false ∧ s.onFailed (s.phys space t (a + k)) = false

namespace State.CleanRun

variable {s u : State} {space t a n : Nat} {es : List (Nat × PByte)}

theorem take {k : Nat} (h : s.CleanRun space t a n) (hk : k ≤ n) : s.CleanRun space t a k :=
  fun j hj => h j (hj.trans_le hk)

theorem drop {k : Nat} (h : s.CleanRun space t a n) (hk : k ≤ n) : s.CleanRun space t (a + k) (n - k) := fun j hj => by
  rw [Nat.add_assoc]
  exact h (k + j) (by omega)

theorem of_wrote (h : s.CleanRun space t a n) (hw : Wrote es s u) : u.CleanRun space t a n := fun j hj => by
  rw [hw.phys_eq, hw.onFailed_eq]
  exact ⟨hw.marks _ (h j hj).1, (h j hj).2⟩

end State.CleanRun

/-- A clean write inside one granule puts its bytes at the places of its addresses. -/
theorem wrote_writePhys_granule {s : State} {space t a : Nat} {l : List PByte} (hs : s.flaws = [])
    (hl : ∀ b ∈ l, b.bad = false) (hne : l ≠ []) (hgran : a % granSize space + l.length ≤ granSize space)
    (hclean : s.CleanRun space t a l.length) :
    Wrote (laid (s.phys space t) a l) s (s.writePhys (s.phys space t a) l) := by
  have hplace : ∀ j < l.length, s.phys space t (a + j) = s.phys space t a + j := fun j hj => phys_add s (by omega)
  have hlaid : laid (s.phys space t) a l = laid id (s.phys space t a) l := laid_congr hplace
  rw [hlaid]
  exact wrote_writePhys hs hl (hclean 0 (List.length_pos_iff.mpr hne)).2 fun j hj => by
    rw [← hplace j hj]
    exact (hclean j hj).1

/-- The pieces of a write, put down one after the other where nothing is versioned. -/
def writePieces (s : State) (space t : Nat) (ps : List (Nat × List PByte)) : State :=
  ps.foldl (fun s p => s.writePhys (s.phys space t p.1) p.2) s

theorem writeAt_eq_writePieces {s : State} (hv : s.vregs = []) (view : View) (space t a : Nat) (l : List PByte) :
    s.writeAt view space t a l = writePieces s space t (splitBy (piecesOf space a l.length) l) := by
  rw [State.writeAt, State.writeVia, hv]
  rfl

theorem wrote_writePieces {s : State} {space t fuel a : Nat} {l : List PByte} (hs : s.flaws = [])
    (hl : ∀ b ∈ l, b.bad = false) (hfuel : l.length = 0 ∨ l.length + a % granSize space ≤ fuel * granSize space)
    (hclean : s.CleanRun space t a l.length) :
    Wrote (laid (s.phys space t) a l) s
      (writePieces s space t (splitBy (cutRun (granSize space) fuel a l.length) l)) := by
  have hz := granSize_pos space
  induction fuel generalizing s a l with
  | zero =>
    obtain rfl : l = [] := List.length_eq_zero_iff.mp (by omega)
    exact .refl s
  | succ fuel ih =>
    by_cases hne : l = []
    · subst hne
      exact .refl s
    have hlen : l.length ≠ 0 := mt List.length_eq_zero_iff.mp hne
    have hrest := rest_le_fuel hz hfuel
    rw [cutRun, if_neg hlen]
    have hmod := Nat.mod_lt a hz
    generalize hk : min l.length (granSize space - a % granSize space) = k at hrest ⊢
    have hkl : k ≤ l.length := by omega
    have htake : (l.take k).length = k := by rw [List.length_take, Nat.min_eq_left hkl]
    have hdrop : (l.drop k).length = l.length - k := List.length_drop
    have hfirst : Wrote (laid (s.phys space t) a (l.take k)) s (s.writePhys (s.phys space t a) (l.take k)) := by
      refine wrote_writePhys_granule hs (fun b hb => hl b (List.mem_of_mem_take hb)) ?_ ?_ ?_
      · exact List.ne_nil_of_length_pos (by omega)
      · omega
      · rw [htake]
        exact hclean.take hkl
    have hnext := ih (a := a + k) (l := l.drop k) (hfirst.flaws.trans hs) (fun b hb => hl b (List.mem_of_mem_drop hb))
      (by rwa [hdrop]) (by rw [hdrop]; exact (hclean.drop hkl).of_wrote hfirst)
    have hphys : (s.writePhys (s.phys space t a) (l.take k)).phys space t = s.phys space t :=
      funext fun x => hfirst.phys_eq space t x
    rw [hphys, hdrop] at hnext
    rw [laid_take_drop _ a hkl]
    exact hfirst.trans hnext

/-- A write of clean bytes to a clean run puts them at the places of its addresses, and does nothing else. -/
theorem wrote_writeAt {s : State} {space t a : Nat} {l : List PByte} (hv : s.vregs = []) (hs : s.flaws = [])
    (hl : ∀ b ∈ l, b.bad = false) (hclean : s.CleanRun space t a l.length) (view : View) :
    Wrote (laid (s.phys space t) a l) s (s.writeAt view space t a l) := by
  rw [writeAt_eq_writePieces hv]
  exact wrote_writePieces hs hl (.inr (run_le_fuel _ a _ (granSize_pos space))) hclean

/-! ### Reading a clean run -/

theorem readPhys_of_flawless {s : State} (hs : s.flaws = []) {p : Nat} (hfail : s.onFailed p = false) (n : Nat) :
    s.readPhys p n = (List.range n).map fun i => s.pbyte (p + i) := by
  simp [State.readPhys, hs, hfail]

theorem readPieces_eq {s : State} {space t fuel a n : Nat} (hs : s.flaws = [])
    (hfuel : n = 0 ∨ n + a % granSize space ≤ fuel * granSize space) (hclean : s.CleanRun space t a n) :
    (cutRun (granSize space) fuel a n).flatMap (fun p => s.readPhys (s.phys space t p.1) p.2) =
      (List.range n).map fun i => s.pbyte (s.phys space t (a + i)) := by
  have hz := granSize_pos space
  induction fuel generalizing a n with
  | zero =>
    obtain rfl : n = 0 := by omega
    rfl
  | succ fuel ih =>
    by_cases hn : n = 0
    · subst hn
      rfl
    have hrest := rest_le_fuel hz hfuel
    rw [cutRun, if_neg hn]
    have hmod := Nat.mod_lt a hz
    generalize hk : min n (granSize space - a % granSize space) = k at hrest ⊢
    have hkn : k ≤ n := by omega
    have hfirst : s.readPhys (s.phys space t a) k = (List.range k).map fun i => s.pbyte (s.phys space t (a + i)) := by
      have hfail : s.onFailed (s.phys space t a) = false := (hclean 0 (by omega)).2
      rw [readPhys_of_flawless hs hfail]
      refine List.map_congr_left fun i hi => ?_
      rw [phys_add]
      have := List.mem_range.mp hi
      omega
    have hsplit : List.range n = List.range k ++ (List.range (n - k)).map (k + ·) := by
      rw [← List.range_add, Nat.add_sub_cancel' hkn]
    rw [List.flatMap_cons, hfirst, ih hrest (hclean.drop hkn), hsplit, List.map_append, List.map_map]
    simp only [Function.comp_def, Nat.add_assoc]

theorem readPlace_nil (s : State) (view : View) (space t a : Nat) :
    s.readPlace [] view space t a = ⟨s.phys space t a, false⟩ := rfl

theorem readAt_eq {s : State} {space t a n : Nat} (hv : s.vregs = []) (hs : s.flaws = [])
    (hclean : s.CleanRun space t a n) (view : View) :
    s.readAt view space t a n = (List.range n).map fun i => s.pbyte (s.phys space t (a + i)) := by
  rw [← readPieces_eq hs (.inr (run_le_fuel _ a _ (granSize_pos space))) hclean, State.readAt, hv]
  simp [readPlace_nil, piecesOf]

/-! ### Clean bytes -/

@[simp] theorem length_clean (l : List Byte) : (clean l).length = l.length := List.length_map _

theorem bad_of_mem_clean (l : List Byte) : ∀ b ∈ clean l, b.bad = false := by
  intro b hb
  obtain ⟨x, -, rfl⟩ := List.mem_map.mp hb
  rfl

theorem val_clean (l : List Byte) {k : Nat} (hk : k < (clean l).length) : (clean l)[k].val = l.getD k 0 := by
  rw [length_clean] at hk
  simp [clean, List.getElem?_eq_getElem hk]

/-! ### What a write is read back as -/

section Write

variable {s : State} {space t a : Nat} {l : List Byte}

theorem phys_inj_run (hroom : space = 0 → a + l.length ≤ Config.hbmBytes) {i j : Nat} (hi : i < (clean l).length)
    (hj : j < (clean l).length) (h : s.phys space t (a + i) = s.phys space t (a + j)) : i = j := by
  rw [length_clean] at hi hj
  have hsame := phys_inj s (fun hz => by have := hroom hz; omega) (fun hz => by have := hroom hz; omega) h
  omega

theorem byteAt_writeAt (hv : s.vregs = []) (hs : s.flaws = []) (hroom : space = 0 → a + l.length ≤ Config.hbmBytes)
    (hclean : s.CleanRun space t a l.length) (view : View) {k : Nat} (hk : k < l.length) :
    (s.writeAt view space t a (clean l)).byteAt (s.phys space t (a + k)) = l.getD k 0 := by
  have hwrote := wrote_writeAt hv hs (bad_of_mem_clean l) (by rwa [length_clean]) view
  have hk' : k < (clean l).length := by rwa [length_clean]
  rw [hwrote.byteAt_laid (fun i hi j hj => phys_inj_run hroom hi hj) hk', val_clean]

theorem byteAt_writeAt_other (hv : s.vregs = []) (hs : s.flaws = []) (hclean : s.CleanRun space t a l.length)
    (view : View) {p : Nat} (hp : ∀ k, k < l.length → p ≠ s.phys space t (a + k)) :
    (s.writeAt view space t a (clean l)).byteAt p = s.byteAt p := by
  refine (wrote_writeAt hv hs (bad_of_mem_clean l) (by rwa [length_clean]) view).byteAt_other fun e he => ?_
  obtain ⟨⟨j, hj, hplace⟩, -⟩ := mem_laid he
  rw [hplace]
  exact hp j (by rwa [length_clean] at hj)

theorem readAt_writeAt (hv : s.vregs = []) (hs : s.flaws = []) (hroom : space = 0 → a + l.length ≤ Config.hbmBytes)
    (hclean : s.CleanRun space t a l.length) (view : View) :
    (s.writeAt view space t a (clean l)).readAt view space t a l.length = clean l := by
  have hwrote := wrote_writeAt hv hs (bad_of_mem_clean l) (by rwa [length_clean]) view
  have hclean' := hclean.of_wrote hwrote
  rw [readAt_eq (hwrote.vregs_eq.trans hv) (hwrote.flaws.trans hs) hclean']
  refine List.ext_getElem (by simp) fun k hk _ => ?_
  have hkl : k < l.length := by simpa using hk
  have hbyte : (clean l)[k]'(by rwa [length_clean]) = ⟨l.getD k 0, false⟩ := by
    simp [clean, List.getElem?_eq_getElem hkl]
  rw [List.getElem_map, List.getElem_range, State.pbyte, (hclean' k hkl).1, hwrote.phys_eq,
    byteAt_writeAt hv hs hroom hclean view hkl, hbyte]

end Write

section Word

variable {s : State} {t k : Nat} {l : List Byte}

theorem writePhys_whole_word_replaces (hs : s.flaws = []) (hl : l.length = 8) {j : Nat} (hj : j < 8) :
    (s.writePhys (Config.loftBase t + 8 * k) (clean l)).poisoned (Config.loftBase t + 8 * k + j) = false ∧
      (s.writePhys (Config.loftBase t + 8 * k) (clean l)).byteAt (Config.loftBase t + 8 * k + j) = l.getD j 0 := by
  have hwrote := wrote_writePhys_whole_word (t := t) (k := k) hs (bad_of_mem_clean l) ((length_clean l).trans hl)
  have hj' : j < (clean l).length := by rwa [length_clean, hl]
  refine ⟨hwrote.marks _ ?_, ?_⟩
  · have hunit : unitOf (Config.loftBase t + 8 * k) = Config.loftBase t + 8 * k := unitOf_loft t k (j := 0) (by omega)
    rw [poisoned_mark, unitOf_loft t k hj, hunit, if_pos rfl]
  · rw [← val_clean l hj']
    exact hwrote.byteAt_laid (fun i _ j _ h => Nat.add_left_cancel h) hj'

theorem writePhys_part_of_marked_word_loses (hs : s.flaws = [])
    (hmarked : s.poisoned (Config.loftBase t + 8 * k) = true) {o : Nat} (hl : l.length < 8)
    (hin : o + l.length ≤ 8) {j : Nat} (hj : j < 8) :
    (s.writePhys (Config.loftBase t + 8 * k + o) (clean l)).poisoned (Config.loftBase t + 8 * k + j) = true ∧
      (s.writePhys (Config.loftBase t + 8 * k + o) (clean l)).byteAt (Config.loftBase t + 8 * k + j) =
        s.byteAt (Config.loftBase t + 8 * k + j) := by
  rw [writePhys_part_of_marked_word hs hmarked (by rwa [length_clean]) (by rwa [length_clean])]
  refine ⟨?_, rfl⟩
  rw [← poisoned_unitOf, unitOf_loft t k hj, hmarked]

end Word

/-- Settles O58: the places by arithmetic on granules (`hbmAddr` is the inverse of `hbmPlace`), a word of a loft as one
unit, and a run of addresses by what `wrote_writeAt` says it puts down, at places that differ (`phys_inj`). -/
theorem memoryKeepsWrites : Obligations.MemoryKeepsWrites := by
  refine ⟨fun a ha => ?place, fun k x hk hx => ?onto, by decide, by decide, by decide, by decide, by decide,
    fun s t k p l _ _ hp hs hmarked => ?word, fun s u space t a l hv hs _ _ hroom _ hclean hu => ?run⟩
  case place =>
    obtain ⟨hstack, hlocal⟩ := hbmPlace_lt 1 ha
    exact ⟨rfl, fun b _ => stackBay_bayLocal a b, fun k _ => stack_bayLocal a k, hbmPlace_interleaved one_ne_zero a,
      hstack, hlocal, rotation_hbmPlace one_ne_zero a, stackBay_next_granule a, stack_round a, fun _ _ => rfl⟩
  case onto =>
    have hplace := hbmPlace_hbmAddr hk x
    exact ⟨hbmAddr 1 k x, hbmAddr_lt hk hx, hplace, fun b hb => hbmPlace_injective 1 (hb.trans hplace.symm)⟩
  case word =>
    subst hp
    exact ⟨fun hl j hj => writePhys_whole_word_replaces hs hl hj,
      fun o hl hin j hj => writePhys_part_of_marked_word_loses hs hmarked hl hin hj⟩
  case run =>
    subst hu
    exact ⟨fun k hk => byteAt_writeAt hv hs hroom hclean .unbound hk,
      fun p hp => byteAt_writeAt_other hv hs hclean .unbound hp, readAt_writeAt hv hs hroom hclean .unbound,
      (wrote_writeAt hv hs (bad_of_mem_clean l) (by rwa [length_clean]) .unbound).regs⟩

end Sys2Proof.Machine

/-! The whole machine: what a step does with the command at the front, and what every command keeps (O1 to O5). -/

namespace Sys2Proof.Machine

/-- The laws of the files Laws/Kept*, command by command: each keeps the invariant, the fuses and the waiting commands. -/
theorem exec_kept {z : Fixed} (c : Instr) {s : State} (h : Kept z s) : KeptNext z (exec c s) := by
  cases c with
  | nop => exact execNop_kept h
  | endStream => exact execEndStream_kept h
  | sync => exact execSync_kept h
  | notify => exact execNotify_kept h
  | loop => exact execLoop_kept h
  | br => exact execBr_kept h
  | brc => exact execBrc_kept h
  | ldc => exact execLdc_kept h
  | tlSignal => exact execTlSignal_kept h
  | tlWait => exact execTlWait_kept h
  | tlArm => exact execTlArm_kept h
  | tlRead => exact execTlRead_kept h
  | launch => exact execLaunch_kept h
  | pstepOpen => exact execPstepOpen_kept h
  | pstepConfirm => exact execPstepConfirm_kept h
  | pstepSquash => exact execPstepSquash_kept h
  | feFeed => exact execFeFeed_kept h
  | turnHoldFeed => exact execTurnHoldFeed_kept h
  | turnFreeFeed => exact execTurnFreeFeed_kept h
  | weLoad => exact execWeLoad_kept h
  | turnHoldWeight => exact execTurnHoldWeight_kept h
  | turnFreeWeight => exact execTurnFreeWeight_kept h
  | deDrain => exact execDeDrain_kept h
  | vAdd => exact execVAdd_kept h
  | vSub => exact execVSub_kept h
  | vMul => exact execVMul_kept h
  | vFma => exact execVFma_kept h
  | vMin => exact execVMin_kept h
  | vMax => exact execVMax_kept h
  | vDiv => exact execVDiv_kept h
  | vRcp => exact execVRcp_kept h
  | vSqrt => exact execVSqrt_kept h
  | vRsqrt => exact execVRsqrt_kept h
  | vExp2 => exact execVExp2_kept h
  | vLog2 => exact execVLog2_kept h
  | vTanh => exact execVTanh_kept h
  | vErf => exact execVErf_kept h
  | vAbs => exact execVAbs_kept h
  | vCvt => exact execVCvt_kept h
  | vRsum => exact execVRsum_kept h
  | vRmax => exact execVRmax_kept h
  | vRmin => exact execVRmin_kept h
  | ceCopy => exact execCeCopy_kept h
  | ceFill => exact execCeFill_kept h
  | wnGather => exact execWnGather_kept h
  | wnRscat => exact execWnRscat_kept h
  | wnHealth => exact execWnHealth_kept h
  | instructionCompletion => exact execInstructionCompletion_kept h
  | signalRelease => exact execSignalRelease_kept h
  | flushCompletion => exact execFlushCompletion_kept h
  | flushTimeout => exact execFlushTimeout_kept h
  | fetch => exact execFetch_kept h
  | swap => exact execSwap_kept h
  | partitionFault => exact execPartitionFault_kept h
  | partStall => exact execPartStall_kept h
  | thOrgCommit => exact execThOrgCommit_kept h
  | thPartClear => exact execThPartClear_kept h
  | tnDisable => exact execTnDisable_kept h
  | tnTest => exact execTnTest_kept h
  | turnerTestDone => exact execTurnerTestDone_kept h
  | enContractWrite => exact execEnContractWrite_kept h
  | queueStop => exact execQueueStop_kept h
  | queueClear => exact execQueueClear_kept h
  | queueQuiesced => exact execQueueQuiesced_kept h
  | queueDoorbell => exact execQueueDoorbell_kept h
  | groupDoorbell => exact execGroupDoorbell_kept h
  | tlAllocWrite => exact execTlAllocWrite_kept h
  | hostSignal => exact execHostSignal_kept h
  | hostArm => exact execHostArm_kept h
  | tlWdogWrite => exact execTlWdogWrite_kept h
  | waitTimeout => exact execWaitTimeout_kept h
  | regionWrite => exact execRegionWrite_kept h
  | interleaveChange => exact execInterleaveChange_kept h
  | interleaveSwitch => exact execInterleaveSwitch_kept h
  | scrubChange => exact execScrubChange_kept h
  | scrubSector => exact execScrubSector_kept h
  | rlistEntry => exact execRlistEntry_kept h
  | repairPop => exact execRepairPop_kept h
  | repairRequest => exact execRepairRequest_kept h
  | quietPoint => exact execQuietPoint_kept h
  | packTimeout => exact execPackTimeout_kept h
  | channelRetrain => exact execChannelRetrain_kept h
  | stackFail => exact execStackFail_kept h
  | stackTraining => exact execStackTraining_kept h
  | psVregWrite => exact execPsVregWrite_kept h
  | psCfgEn => exact execPsCfgEn_kept h
  | squashRestore => exact execSquashRestore_kept h
  | epochFold => exact execEpochFold_kept h
  | healthTimeout => exact execHealthTimeout_kept h
  | rankCommit => exact execRankCommit_kept h
  | collTimeout => exact execCollTimeout_kept h
  | wr => exact execWr_kept h
  | rdReq => exact execRdReq_kept h
  | rdCpl => exact execRdCpl_kept h
  | ack => exact execAck_kept h
  | tlSig => exact execTlSig_kept h
  | tlAck => exact execTlAck_kept h
  | ring => exact execRing_kept h
  | ringAck => exact execRingAck_kept h
  | health => exact execHealth_kept h
  | refuse => exact execRefuse_kept h
  | linkControl => exact execLinkControl_kept h
  | linkControlTimer => exact execLinkControlTimer_kept h
  | replayTimeout => exact execReplayTimeout_kept h
  | linkHoldExpiry => exact execLinkHoldExpiry_kept h
  | txnTimeout => exact execTxnTimeout_kept h
  | portEnable => exact execPortEnable_kept h
  | portQualify => exact execPortQualify_kept h
  | portUp => exact execPortUp_kept h
  | trainFail => exact execTrainFail_kept h
  | portDisable => exact execPortDisable_kept h
  | pluggableRemoved => exact execPluggableRemoved_kept h
  | portBudgetWrite => exact execPortBudgetWrite_kept h
  | framingWrite => exact execFramingWrite_kept h
  | portRetrain => exact execPortRetrain_kept h
  | wakeSend => exact execWakeSend_kept h
  | pwDomWrite => exact execPwDomWrite_kept h
  | domainSwitched => exact execDomainSwitched_kept h
  | enterIdle => exact execEnterIdle_kept h
  | leaveIdle => exact execLeaveIdle_kept h
  | enterDormant => exact execEnterDormant_kept h
  | wake => exact execWake_kept h
  | pwProfileWrite => exact execPwProfileWrite_kept h
  | pwCapWrite => exact execPwCapWrite_kept h
  | pwPrioWrite => exact execPwPrioWrite_kept h
  | capLoopPeriod => exact execCapLoopPeriod_kept h
  | autoPstateStep => exact execAutoPstateStep_kept h
  | pstateChange => exact execPstateChange_kept h
  | calibrationTick => exact execCalibrationTick_kept h
  | droop => exact execDroop_kept h
  | droopHoldExpiry => exact execDroopHoldExpiry_kept h
  | pwAlertAssert => exact execPwAlertAssert_kept h
  | floorHoldExpiry => exact execFloorHoldExpiry_kept h
  | floorReturnStep => exact execFloorReturnStep_kept h
  | sensorSample => exact execSensorSample_kept h
  | throttleStep => exact execThrottleStep_kept h
  | thermtrip => exact execThermtrip_kept h
  | ckIslSrcWrite => exact execCkIslSrcWrite_kept h
  | islandSwitch => exact execIslandSwitch_kept h
  | meterGo => exact execMeterGo_kept h
  | meterDone => exact execMeterDone_kept h
  | noGate => exact execNoGate_kept h
  | monitorWindow => exact execMonitorWindow_kept h
  | pllLock => exact execPllLock_kept h
  | clkTimeout => exact execClkTimeout_kept h
  | ckSnap => exact execCkSnap_kept h
  | powerOn => exact execPowerOn_kept h
  | powerLoss => exact execPowerLoss_kept h
  | perstAssert => exact execPerstAssert_kept h
  | perstRelease => exact execPerstRelease_kept h
  | hotReset => exact execHotReset_kept h
  | flr => exact execFlr_kept h
  | erResetKey => exact execErResetKey_kept h
  | bootRom => exact execBootRom_kept h
  | stagingWrite => exact execStagingWrite_kept h
  | fwGo => exact execFwGo_kept h
  | fwVerifyDone => exact execFwVerifyDone_kept h
  | fruRead => exact execFruRead_kept h
  | listDone => exact execListDone_kept h
  | bistDone => exact execBistDone_kept h
  | reduced => exact execReduced_kept h
  | bringupComplete => exact execBringupComplete_kept h
  | reqFull => exact execReqFull_kept h
  | bayFault => exact execBayFault_kept h
  | moduleFatal => exact execModuleFatal_kept h
  | mcWdog => exact execMcWdog_kept h
  | meshLinkRetrain => exact execMeshLinkRetrain_kept h
  | logPop => exact execLogPop_kept h
  | gpioWrite => exact execGpioWrite_kept h
  | attentionEdge => exact execAttentionEdge_kept h
  | memoryWindowRead => exact execMemoryWindowRead_kept h
  | memoryWindowWrite => exact execMemoryWindowWrite_kept h
  | mwinOffsetWrite => exact execMwinOffsetWrite_kept h
  | barResize => exact execBarResize_kept h
  | eventRelease => exact execEventRelease_kept h
  | evtHeadWrite => exact execEvtHeadWrite_kept h
  | evtCfgWrite => exact execEvtCfgWrite_kept h
  | getVersion => exact execGetVersion_kept h
  | harden => exact execHarden_kept h
  | retrainStack => exact execRetrainStack_kept h
  | retrainPort => exact execRetrainPort_kept h
  | calibrate => exact execCalibrate_kept h
  | raiseSvn => exact execRaiseSvn_kept h
  | revokeKey => exact execRevokeKey_kept h
  | rereadFru => exact execRereadFru_kept h
  | mailboxDone => exact execMailboxDone_kept h
  | mbxPop => exact execMbxPop_kept h
  | getState => exact execGetState_kept h
  | setProfile => exact execSetProfile_kept h
  | setCap => exact execSetCap_kept h
  | setScrub => exact execSetScrub_kept h
  | dormant => exact execDormant_kept h
  | sidebandWake => exact execSidebandWake_kept h
  | softReset => exact execSoftReset_kept h
  | gpio => exact execGpio_kept h
  | alertAck => exact execAlertAck_kept h
  | setEndpointId => exact execSetEndpointId_kept h
  | getPdr => exact execGetPdr_kept h
  | getSensorReading => exact execGetSensorReading_kept h
  | getStateSensorReadings => exact execGetStateSensorReadings_kept h
  | pollForPlatformEventMessage => exact execPollForPlatformEventMessage_kept h
  | sensorRefresh => exact execSensorRefresh_kept h
  | spdmGetVersion => exact execSpdmGetVersion_kept h
  | getCapabilities => exact execGetCapabilities_kept h
  | negotiateAlgorithms => exact execNegotiateAlgorithms_kept h
  | getDigests => exact execGetDigests_kept h
  | getCertificate => exact execGetCertificate_kept h
  | challenge => exact execChallenge_kept h
  | getMeasurements => exact execGetMeasurements_kept h
  | registerWrite => exact execRegisterWrite_kept h
  | badCrcOrGap => exact execBadCrcOrGap_kept h
  | pwAlertRelease => exact execPwAlertRelease_kept h

theorem step_keeps_inv {s t : State} (hs : s.Inv) (h : step s = .next t) : t.Inv := by
  unfold step at h
  split at h
  next =>
    rw [← Host.Outcome.next.inj h]
    exact (tick_kept (z := (s.fuses, s.pending)) ⟨hs, rfl⟩).1
  next c r _ =>
    have hr : Kept (s.fuses, r) { s with pending := r } := ⟨⟨hs.rising, hs.entries, hs.mem, hs.poison, hs.flaws⟩, rfl⟩
    exact (exec_kept c hr t h).1

/-- Settles O4: time passing keeps the invariant (`tick_kept`), and so does every command (`exec_kept`). -/
theorem stepKeepsInvariant : Obligations.StepKeepsInvariant := fun _ _ => step_keeps_inv

/-- Settles O5: a command keeps what `Kept` fixes to be what they are in the state it runs in. -/
theorem commandsKeepFusesAndQueue : Obligations.CommandsKeepFusesAndQueue := fun c s t hs h =>
  Prod.ext_iff.1 (exec_kept (z := (s.fuses, s.pending)) c ⟨hs, rfl⟩ t h).2

/-- What CMIS tells of a module with one more lane than its field counts. -/
def manyLanes : Cmis := { present := true, identityOk := true, lanes := 256, fullRate := true, halfRate := true, power := 0, passive := false }

/-- Refutes O2: a pluggable's lane count of 256 is more than a sender can form (`Instr.wf`), but the command checks the
power field alone and goes on. -/
theorem not_wellFormedCommandsGoOn : ¬ Obligations.WellFormedCommandsGoOn := by
  intro h
  have hill : (Instr.portQualify 0 manyLanes).wf = false := by decide
  have hnext : ∃ t, exec (.portQualify 0 manyLanes) State.reset = .next t := ⟨_, rfl⟩
  obtain ⟨t, ht⟩ := hnext
  have hrefused := (h _ State.reset).2 hill
  rw [ht] at hrefused
  cases hrefused

/-- Settles O1: the definition of a step, with a command at the front. -/
theorem stepRunsFrontCommand : Obligations.StepRunsFrontCommand := by
  intro s c r h
  simp only [step, h]

/-- Settles O3: every table of the state after reset is empty. -/
theorem resetMeetsInvariant : Obligations.ResetMeetsInvariant where
  rising := List.Pairwise.nil
  entries := fun _ => nofun
  mem := rfl
  poison := rfl
  flaws := rfl

end Sys2Proof.Machine

/-! What an update leaves alone, as the statements say it: `State.onlyRegs` (register fields of a list and nothing else)
and `State.Retired` (an instruction that has issued and completed at once). -/

namespace Sys2Proof.Machine

namespace State.onlyRegs

variable {s t u : State} {l m : List (F × Nat)}

theorem refl (s : State) (l : List (F × Nat)) : s.onlyRegs s l := ⟨rfl, fun _ _ _ => rfl⟩

theorem wri (h : s.onlyRegs t l) {f : F} {i : Nat} (hm : (f, i) ∈ l) (v : Nat) : s.onlyRegs (t.wri f i v) l := by
  obtain ⟨hrest, hregs⟩ := h
  refine ⟨?_, fun g k hg => ?_⟩
  · rw [hrest]
    rfl
  · rw [rdi_wri_other, hregs g k hg]
    by_contra hc
    simp only [not_or, not_not] at hc
    obtain ⟨rfl, rfl⟩ := hc
    exact hg hm

theorem wr (h : s.onlyRegs t l) {f : F} (hm : (f, 0) ∈ l) (v : Nat) : s.onlyRegs (t.wr f v) l := h.wri hm v

theorem addSat (h : s.onlyRegs t l) {f : F} {i : Nat} (hm : (f, i) ∈ l) (n : Nat) : s.onlyRegs (t.addSat f i n) l :=
  h.wri hm _

theorem addWrap (h : s.onlyRegs t l) {f : F} {i : Nat} (hm : (f, i) ∈ l) (n : Nat) : s.onlyRegs (t.addWrap f i n) l :=
  h.wri hm _

theorem ite (h : s.onlyRegs t l) {p : Prop} [Decidable p] (k : s.onlyRegs u l) : s.onlyRegs (if p then t else u) l := by
  split <;> assumption

theorem mono (h : s.onlyRegs t l) (hlm : ∀ e ∈ l, e ∈ m) : s.onlyRegs t m :=
  ⟨h.1, fun f k hk => h.2 f k fun hl => hk (hlm _ hl)⟩

theorem trans (h : s.onlyRegs t l) (k : t.onlyRegs u l) : s.onlyRegs u l := by
  obtain ⟨hrest, hregs⟩ := h
  obtain ⟨krest, kregs⟩ := k
  refine ⟨?_, fun f i hf => (kregs f i hf).trans (hregs f i hf)⟩
  rw [krest, hrest]

end State.onlyRegs

/-- A state without its registers and what its queues hold behind them. -/
def State.sansLocal (s : State) : State := { s with regs := [], queues := [] }

/-- `t` is `s` with other values only in the register fields of the list and behind the queues' registers. -/
structure State.Local (s t : State) (l : List (F × Nat)) : Prop where
  rest : t.sansLocal = s.sansLocal
  regs : ∀ f k, (f, k) ∉ l → t.rdi f k = s.rdi f k

namespace State.Local

variable {s t u : State} {l m : List (F × Nat)}

theorem refl (s : State) (l : List (F × Nat)) : s.Local s l := ⟨rfl, fun _ _ _ => rfl⟩

theorem wri (h : s.Local t l) {f : F} {i : Nat} (hm : (f, i) ∈ l) (v : Nat) : s.Local (t.wri f i v) l :=
  ⟨h.rest, fun g k hg => by
    rw [rdi_wri_other, h.regs g k hg]
    by_contra hc
    simp only [not_or, not_not] at hc
    obtain ⟨rfl, rfl⟩ := hc
    exact hg hm⟩

theorem updQueue (h : s.Local t l) (q : Nat) (g : Queue → Queue) : s.Local (t.updQueue q g) l := ⟨h.rest, h.regs⟩

theorem trans (h : s.Local t l) (k : t.Local u l) : s.Local u l :=
  ⟨k.rest.trans h.rest, fun f i hf => (k.regs f i hf).trans (h.regs f i hf)⟩

theorem mono (h : s.Local t l) (hlm : ∀ e ∈ l, e ∈ m) : s.Local t m :=
  ⟨h.rest, fun f k hk => h.regs f k fun hl => hk (hlm _ hl)⟩

theorem mem_eq (h : s.Local t l) : t.mem = s.mem := (congrArg State.mem h.rest :)
theorem byteAt_eq (h : s.Local t l) (p : Nat) : t.byteAt p = s.byteAt p := by rw [State.byteAt, h.mem_eq, State.byteAt]
theorem host_eq (h : s.Local t l) : t.host = s.host := (congrArg State.host h.rest :)

/-- The same as the statements say it. -/
theorem onlyRegs (h : s.Local t l) : s.onlyRegs { t with queues := s.queues } l :=
  ⟨(congrArg (fun x : State => { x with regs := t.regs, queues := s.queues }) h.rest :), h.regs⟩

end State.Local

namespace State.Retired

variable {s t : State} {q npc : Nat} {i : Ins} {l : List (F × Nat)}

/-- What an update of the queue that keeps the last instruction issued and those in progress does not disturb. -/
theorem updQueue (h : s.Retired t q i npc l) {g : Queue → Queue} (hlast : (g (t.queue q)).last = (t.queue q).last)
    (hwork : (g (t.queue q)).work = (t.queue q).work) : s.Retired (t.updQueue q g) q i npc l where
  pc := h.pc
  issued := h.issued
  last := by rw [queue_updQueue_same, hlast, h.last]
  work := by rw [queue_updQueue_same, hwork, h.work]
  regs := h.regs
  others := fun k hk => by rw [queue_updQueue_other _ hk, h.others k hk]
  memory := h.memory
  rest := by
    rw [h.rest]
    rfl

end State.Retired

/-- `u` is `s` with changes the head's retirement does not depend on: of queue `q`, neither its loops nor its
instructions in progress, and of the registers those of the list. -/
structure State.Poised (s u : State) (q : Nat) (l : List (F × Nat)) : Prop where
  rest : u = { s with regs := u.regs, queues := u.queues }
  others : ∀ k, k ≠ q → u.queue k = s.queue k
  loops : (u.queue q).loops = (s.queue q).loops
  work : (u.queue q).work = (s.queue q).work
  nextId : (u.queue q).nextId = (s.queue q).nextId
  regs : ∀ f k, (f, k) ∉ l → u.rdi f k = s.rdi f k

namespace State.Poised

variable {s u : State} {q : Nat} {l : List (F × Nat)}

theorem of_begun (s : State) (q : Nat) (l : List (F × Nat)) : s.Poised (s.begun q) q l :=
  ⟨rfl, fun _ => begun_other, begun_loops s q, begun_work s q, begun_nextId s q, fun _ _ _ => rfl⟩

theorem updQueue (h : s.Poised u q l) {g : Queue → Queue}
    (hg : ∀ x, (g x).loops = x.loops ∧ (g x).work = x.work ∧ (g x).nextId = x.nextId) : s.Poised (u.updQueue q g) q l where
  rest := by
    rw [h.rest]
    rfl
  others := fun k hk => (queue_updQueue_other _ hk).trans (h.others k hk)
  loops := by rw [queue_updQueue_same, (hg _).1, h.loops]
  work := by rw [queue_updQueue_same, (hg _).2.1, h.work]
  nextId := by rw [queue_updQueue_same, (hg _).2.2, h.nextId]
  regs := h.regs

theorem wri (h : s.Poised u q l) {f : F} {j : Nat} (hm : (f, j) ∈ l) (v : Nat) : s.Poised (u.wri f j v) q l where
  rest := by
    rw [h.rest]
    rfl
  others := h.others
  loops := h.loops
  work := h.work
  nextId := h.nextId
  regs := fun g k hg => by
    rw [rdi_wri_other, h.regs g k hg]
    by_contra hc
    simp only [not_or, not_not] at hc
    obtain ⟨rfl, rfl⟩ := hc
    exact hg hm

/-- The retirement of the head, where none of the registers it reads is in the list. -/
theorem retired (h : s.Poised u q l) (i : Ins) (npc : Nat)
    (hl : ∀ e ∈ [(F.PS_STAT_OPEN, 0), (.PS_EPOCH_OPEN_EPOCH, 0), (.EN_Q_ISSUED_COUNT, q), (.EN_Q_PC_PC, q)], e ∉ l) :
    s.Retired (u.retireTo q i npc) q i npc l := by
  simp only [List.mem_cons, List.not_mem_nil, or_false, forall_eq_or_imp, forall_eq] at hl
  obtain ⟨hopen, hepoch, hcount, hpc⟩ := hl
  refine Retired.of_retireTo h.rest h.others h.loops h.work h.nextId ?_ (h.regs _ _ hcount) (h.regs _ _ hpc)
    fun f k hf => h.regs f k (List.not_mem_of_not_mem_cons (List.not_mem_of_not_mem_cons hf))
  simp [State.bindEpoch, State.flag, State.rd, h.regs _ _ hopen, h.regs _ _ hepoch]

end State.Poised

end Sys2Proof.Machine

/-! The control instructions (O7 to O11). -/

namespace Sys2Proof.Machine

/-! ### NOP, SYNC, loops and branches (R96, R102, R112, R113) -/

/-- The command of a head that may issue, where its own work on the state that begins to issue makes `u`. -/
theorem next_issue {s u : State} {q op : Nat} {i : Ins} {body : Ins → State → State} (h : s.issues q op i)
    (hu : body i (s.begun q) = u) :
    (.next (issue q op s body) : Host.Outcome State Fault Refusal) = .next u := by
  rw [issue_eq h, hu]

/-- Settles O7: an instruction that completes at once retires, whatever its opcode. -/
theorem nopAndSyncMoveOn : Obligations.NopAndSyncMoveOn := by
  intro q s i
  have retires := (State.Poised.of_begun s q []).retired i (i.pc + 16) (by simp)
  refine ⟨fun h => ⟨_, next_issue h rfl, retires⟩, fun h hd => ⟨_, next_issue h (if_pos ?_), retires⟩,
    fun h hd => next_issue h (if_neg ?_)⟩ <;> simp [hd]

theorem loopNext_at_stop {l : LoopLevel} {r : List LoopLevel} (h : l.index + 1 < l.count) :
    loopNext (l :: r) l.stop = ({ l with index := l.index + 1 } :: r, l.start) := by simp [loopNext, h]

theorem loopNext_at_end {l : LoopLevel} {r : List LoopLevel} (h : l.count ≤ l.index + 1) :
    loopNext (l :: r) l.stop = loopNext r l.stop := by simp [loopNext, Nat.not_lt.2 h]

theorem loopNext_inside {l : LoopLevel} {r : List LoopLevel} {pc : Nat} (h : pc ≠ l.stop) :
    loopNext (l :: r) pc = (l :: r, pc) := by simp [loopNext, h]

/-- A body that is passed by changes the queue's buffer and fetcher and, where a BRC in it stopped the fetcher, STATE. -/
theorem State.Poised.of_passBy (s : State) (q lo npc : Nat) :
    s.Poised ((s.begun q).passBy q lo npc) q [(.EN_Q_STAT_STATE, q)] := by
  have hu (g hg) := (State.Poised.of_begun s q [(.EN_Q_STAT_STATE, q)]).updQueue (g := g) hg
  unfold State.passBy
  dsimp only
  split
  · refine State.Poised.wri (hu _ ?_) (List.mem_singleton.2 rfl) 1
    exact fun _ => ⟨rfl, rfl, rfl⟩
  · exact hu _ fun _ => ⟨rfl, rfl, rfl⟩

theorem retireTo_rdi (s : State) (q : Nat) (i : Ins) (npc : Nat) {f : F} {k : Nat} (hpc : f ≠ .EN_Q_PC_PC ∨ k ≠ q)
    (hcount : f ≠ .EN_Q_ISSUED_COUNT ∨ k ≠ q) : (s.retireTo q i npc).rdi f k = s.rdi f k :=
  (rdi_wri_other hpc).trans (rdi_wri_other hcount)

theorem branchTo_rdi (s : State) (q : Nat) (i : Ins) (a : Nat) {f : F} {k : Nat} (hpc : f ≠ .EN_Q_PC_PC ∨ k ≠ q)
    (hcount : f ≠ .EN_Q_ISSUED_COUNT ∨ k ≠ q) : (s.branchTo q i a).rdi f k = s.rdi f k :=
  (updQueue_rdi_read ..).trans (retireTo_rdi s q i a hpc hcount)

theorem State.Retired.of_branchTo {s u : State} {q : Nat} {i : Ins} {a : Nat} {l : List (F × Nat)}
    (h : s.Retired (u.retireTo q i a) q i a l) : s.Retired (u.branchTo q i a) q i a l := by
  refine h.updQueue ?_ ?_ <;> split <;> rfl

/-- Settles O8: the loop rule by its three cases; a LOOP, BR or BRC outside loops retires to where the stream goes on. -/
theorem loopsAndBranches : Obligations.LoopsAndBranches := by
  refine ⟨fun l r pc => ⟨fun h hi => by rw [h, loopNext_at_stop hi],
    fun h hi => by rw [h, loopNext_at_end hi], loopNext_inside⟩,
    fun q s i hloops => ⟨fun h h0 => ?passed, fun h h0 => ?begins, fun h => ?br, fun h => ?brc⟩⟩
  case passed =>
    have hrun : exec (.loop q) s = .next (((s.begun q).passBy q (i.pc + 16) _).retireTo q i _) :=
      next_issue h (by simp only [begun_loops, hloops, h0]; rfl)
    exact ⟨_, hrun, (State.Poised.of_passBy s q _ _).retired i _ (by simp)⟩
  case begins =>
    have hrun : exec (.loop q) s = .next (((s.begun q).retireTo q i (i.pc + 16)).updQueue q fun x =>
        { x with loops := ⟨i.pc + 16, i.pc + 16 + 16 * bits i.operand 32 13, bits i.operand 0 24, 0⟩ :: x.loops }) :=
      next_issue h (by simp [hloops, h0])
    have retires := (State.Poised.of_begun s q []).retired i (i.pc + 16) (by simp)
    exact ⟨_, hrun, retires.updQueue rfl rfl, by simp [State.retireTo, State.advance, State.countIssue, hloops, loopNext]⟩
  case br =>
    have hrun : exec (.br q) s = .next ((s.begun q).branchTo q i (branchTarget i)) :=
      next_issue h (if_neg (by simp [hloops, branchBad]))
    exact ⟨_, hrun, .of_branchTo ((State.Poised.of_begun s q []).retired i _ (by simp))⟩
  case brc =>
    have poised := ((State.Poised.of_begun s q [(.EN_Q_STAT_STATE, q.val)]).updQueue
      (g := fun x => { x with brcStop := false }) fun _ => ⟨rfl, rfl, rfl⟩).wri (List.mem_singleton.2 rfl) 1
    have hrun : exec (.brc q) s = .next ((((s.begun q).updQueue q fun x => { x with brcStop := false }).setQState q
        1).branchTo q i (if brcTaken (bits i.operand 32 3) (bits i.operand 40 24) (s.rdi .EN_Q_CR_CR q) then branchTarget i
          else i.pc + 16)) :=
      next_issue h (if_neg (by simp [hloops, branchBad]))
    refine ⟨_, hrun, .of_branchTo (poised.retired i _ (by simp)), ?_⟩
    rw [State.qState, branchTo_rdi _ _ _ _ (by simp) (by simp)]
    exact rdi_wri_same

end Sys2Proof.Machine

/-! Rules of the shared operations: the error log (R311 to R313), tallies nothing waits on (R121, R123), and the fault of an
engine whose head does not wait (R101, R114). -/

namespace Sys2Proof.Machine

/-! ### The error log -/

/-- The register fields an error event may write. -/
def logFields : List F :=
  [.ER_FATAL_DATA, .ER_LOG_STAT_CE_DROP, .ER_LOG_STAT_LOST, .ER_CLASS_CNT_COUNT, .ER_STAT_CE, .ER_STAT_POISON,
    .ER_STAT_ENGINE, .ER_STAT_PARTITION, .ER_STAT_BAY, .ER_STAT_FATAL]

/-- A state without what an error event may write beside register fields: the log, what goes out, the pending message
bits, the sideband. -/
def State.sansLog (s : State) : State :=
  { s with
    regs := [], log := [], logSeq := 0, egress := [], host := { s.host with pba := 0 }, sideband := State.reset.sideband }

/-- `t` is `s` after events went into the log and out on their paths: register fields of `fs` are written, and nothing
else. -/
structure State.Logged (s t : State) (fs : List F) : Prop where
  rest : t.sansLog = s.sansLog
  regs : ∀ f k, f ∉ fs → t.rdi f k = s.rdi f k

namespace State.Logged

variable {s t u : State} {fs : List F}

theorem refl (s : State) (fs : List F) : s.Logged s fs := ⟨rfl, fun _ _ _ => rfl⟩

theorem wri (h : s.Logged t fs) {f : F} (hf : f ∈ fs) (k v : Nat) : s.Logged (t.wri f k v) fs :=
  ⟨h.rest, fun g j hg => (rdi_wri_other (.inl fun (e : g = f) => hg (e ▸ hf))).trans (h.regs g j hg)⟩

theorem keepLog (h : s.Logged t fs) (l : List LogRec) : s.Logged (t.keepLog l) fs := ⟨h.rest, h.regs⟩

theorem setLog (h : s.Logged t fs) (l : List LogRec) : s.Logged { t with log := l } fs := ⟨h.rest, h.regs⟩

theorem setSideband (h : s.Logged t fs) (x : Sideband) : s.Logged { t with sideband := x } fs := ⟨h.rest, h.regs⟩

theorem emit (h : s.Logged t fs) (e : Egress) : s.Logged (t.emit e) fs := ⟨h.rest, h.regs⟩

theorem msix (h : s.Logged t fs) (v : Nat) : s.Logged (t.msix v) fs := by
  unfold State.msix
  split
  · exact ⟨h.rest, h.regs⟩
  · exact h.emit _

theorem ite (h : s.Logged t fs) {p : Prop} [Decidable p] (k : s.Logged u fs) : s.Logged (if p then t else u) fs := by
  split <;> assumption

theorem trans (h : s.Logged t fs) (k : t.Logged u fs) : s.Logged u fs :=
  ⟨k.rest.trans h.rest, fun f j hf => (k.regs f j hf).trans (h.regs f j hf)⟩

theorem mono (h : s.Logged t fs) {gs : List F} (hg : ∀ f ∈ fs, f ∈ gs) : s.Logged t gs :=
  ⟨h.rest, fun f k hf => h.regs f k fun hm => hf (hg f hm)⟩

theorem foldl {α : Type} {f : State → α → State} (hf : ∀ t a, s.Logged t fs → s.Logged (f t a) fs) (l : List α)
    (h : s.Logged t fs) : s.Logged (l.foldl f t) fs := by
  induction l generalizing t with
  | nil => exact h
  | cons a l ih => exact ih (hf t a h)

theorem freezeFatal (h : s.Logged t logFields) (r : LogRec) : s.Logged (t.freezeFatal r) logFields :=
  .ite (.foldl (fun _ _ h => h.wri (by decide) _ _) _ h) h

theorem logRec (h : s.Logged t logFields) (r : LogRec) : s.Logged (t.logRec r) logFields := by
  have hf := h.freezeFatal r
  unfold State.logRec
  dsimp only
  split
  · split
    · exact hf.setLog _
    · exact .ite (hf.keepLog _) (hf.wri (by decide) _ _)
  · split
    · exact hf.keepLog _
    · split
      · exact hf.keepLog _
      · exact hf.wri (by decide) _ _

theorem flagClass (h : s.Logged t logFields) (c : Nat) : s.Logged (t.flagClass c) logFields := by
  unfold State.flagClass
  split <;> exact h.wri (by decide) _ _

end State.Logged

/-- What an error event leaves: the log, its flags and counters, and what it put out. -/
theorem raise_logged (s : State) (e : E) (unit inst sub addr detail : Nat) :
    s.Logged (s.raise e unit inst sub addr detail) logFields := by
  have hlog := (State.Logged.refl s logFields).logRec (s.record e.val e.cls unit inst sub addr detail)
  have hevent : ∀ x, s.Logged x logFields → s.Logged
      (if e.cls = 0 then x else if e.cls = 5 ∧ unit ≠ 1 then (x.msix 0).emit (.aer true) else x.msix 0) logFields :=
    fun x h => .ite h (.ite ((h.msix 0).emit _) (h.msix 0))
  have hnote : ∀ x, s.Logged x logFields →
      s.Logged (((x.addSat .ER_CLASS_CNT_COUNT e.cls 1).flagClass e.cls).noteClass e.cls) logFields :=
    fun x h => ((h.wri (by decide) _ _).flagClass _).setSideband _
  exact .ite hlog (hevent _ (.ite ((hnote _ hlog).setSideband _) (hnote _ hlog)))

/-! ### Tallies nothing waits on (R121, R123) -/

theorem serve_of_no_waiters {s : State} {u : Nat} (h : s.waitersOf u = []) : s.serve u = s.setWaiters u [] := by
  rw [State.serve, h, serveList]

theorem setWaiters_nil_waitersOf {s : State} {u : Nat} (h : s.waitersOf u = []) (k : Nat) :
    (s.setWaiters u []).waitersOf k = s.waitersOf k := by
  by_cases hk : k = u
  · rw [hk, waitersOf_setWaiters_same, h]
  · simp [State.setWaiters, State.waitersOf, Tbl.get_set_other hk]

/-- The register fields that record the overflow of tally `u` (R123). -/
def ovfRegs (u : Nat) : List (F × Nat) :=
  [(.TL_OVF_BITS, u / 32), (.TL_STAT_OVF, 0), (.TL_OVF_FIRST_TALLY, 0), (.TL_OVF_FIRST_VALID, 0)]

theorem overflow_onlyRegs (s : State) (u : Nat) : s.onlyRegs (s.overflow u) (ovfRegs u) := by
  have hflags := ((State.onlyRegs.refl s (ovfRegs u)).wri (f := F.TL_OVF_BITS) (i := u / 32) (by simp [ovfRegs])
    (setBits (s.rdi .TL_OVF_BITS (u / 32)) (u % 32) 1 1)).wr (f := .TL_STAT_OVF) (by simp [ovfRegs]) 1
  have hfirst := (hflags.wr (f := .TL_OVF_FIRST_TALLY) (by simp [ovfRegs]) u).wr (f := .TL_OVF_FIRST_VALID)
    (by simp [ovfRegs]) 1
  exact .ite (.refl s _) (.ite hflags hfirst)

/-- A state without its registers and its tallies' waiters. -/
def State.sansTallies (s : State) : State := { s with regs := [], waiters := [] }

/-- `t` is `s` with the same waiters and other values only in the register fields of the list. -/
structure State.Counted (s t : State) (l : List (F × Nat)) : Prop where
  rest : t.sansTallies = s.sansTallies
  waiters : ∀ u, t.waitersOf u = s.waitersOf u
  regs : ∀ f k, (f, k) ∉ l → t.rdi f k = s.rdi f k

namespace State.Counted

variable {s t : State} {l : List (F × Nat)}

theorem of_onlyRegs (h : s.onlyRegs t l) : s.Counted t l := by
  obtain ⟨hrest, hregs⟩ := h
  refine ⟨?_, fun u => ?_, hregs⟩ <;> rw [hrest] <;> rfl

theorem refl (s : State) (l : List (F × Nat)) : s.Counted s l := .of_onlyRegs (.refl s l)

theorem setWaiters_nil (h : s.Counted t l) {u : Nat} (hu : s.waitersOf u = []) : s.Counted (t.setWaiters u []) l :=
  ⟨h.rest, fun k => (setWaiters_nil_waitersOf ((h.waiters u).trans hu) k).trans (h.waiters k), h.regs⟩

theorem queues_eq (h : s.Counted t l) : t.queues = s.queues := (congrArg State.queues h.rest :)
theorem queue_eq (h : s.Counted t l) (q : Nat) : t.queue q = s.queue q := by rw [State.queue, h.queues_eq, State.queue]
theorem mem_eq (h : s.Counted t l) : t.mem = s.mem := (congrArg State.mem h.rest :)
theorem byteAt_eq (h : s.Counted t l) (p : Nat) : t.byteAt p = s.byteAt p := by rw [State.byteAt, h.mem_eq, State.byteAt]
theorem host_eq (h : s.Counted t l) : t.host = s.host := (congrArg State.host h.rest :)

end State.Counted

theorem signal_eq {s : State} {u : Nat} (h : s.waitersOf u = []) (n : Nat) :
    s.signal u n = ((if 65535 < s.tally u + n then s.overflow u else s).setTally u (min 65535 (s.tally u + n))).setWaiters
      u [] := by
  have hcounted : s.Counted (if 65535 < s.tally u + n then s.overflow u else s) (ovfRegs u) :=
    .of_onlyRegs (.ite (overflow_onlyRegs s u) (.refl s _))
  rw [State.signal]
  exact serve_of_no_waiters ((hcounted.waiters u).trans h)

theorem arm_eq {s : State} {u : Nat} (h : s.waitersOf u = []) (n : Nat) :
    s.arm u n = (s.setTally u n).setWaiters u [] := serve_of_no_waiters h

theorem signal_counted {s : State} {u : Nat} (h : s.waitersOf u = []) (n : Nat) :
    s.Counted (s.signal u n) ((.TL_COUNT_COUNT, u) :: ovfRegs u) := by
  rw [signal_eq h]
  have hflags : s.onlyRegs (if 65535 < s.tally u + n then s.overflow u else s) ((.TL_COUNT_COUNT, u) :: ovfRegs u) :=
    .ite ((overflow_onlyRegs s u).mono fun _ => List.mem_cons_of_mem _) (.refl s _)
  exact (State.Counted.of_onlyRegs (hflags.wri List.mem_cons_self _)).setWaiters_nil h

theorem arm_counted {s : State} {u : Nat} (h : s.waitersOf u = []) (n : Nat) :
    s.Counted (s.arm u n) [(.TL_COUNT_COUNT, u)] := by
  rw [arm_eq h]
  exact (State.Counted.of_onlyRegs ((State.onlyRegs.refl s _).wri (List.mem_singleton.2 rfl) n)).setWaiters_nil h

theorem signal_tally {s : State} {u : Nat} (h : s.waitersOf u = []) (n : Nat) :
    (s.signal u n).tally u = min 65535 (s.tally u + n) := by
  rw [signal_eq h]
  refine rdi_wri_same.trans (Nat.mod_eq_of_lt ?_)
  show min 65535 _ < 65536
  omega

theorem arm_tally {s : State} {u n : Nat} (h : s.waitersOf u = []) (hn : n < 65536) : (s.arm u n).tally u = n := by
  rw [arm_eq h]
  exact rdi_wri_same.trans (Nat.mod_eq_of_lt hn)

/-! ### The fault of an engine -/

/-- The register fields a fault's records write (R126, R140, R211), beside the log's. -/
def faultFields : List F :=
  [.PS_STAT_ESCAPE, .LF_STAT_BOUNDS, .LF_BOUNDS_LAST_QUEUE, .LF_BOUNDS_LAST_REASON, .LF_BOUNDS_LAST_SIDE, .LF_BOUNDS_ADDR_LO,
    .LF_BOUNDS_CNT_COUNT, .TL_STAT_MISUSE, .TL_MISUSE_LAST_TALLY, .TL_MISUSE_LAST_QUEUE, .TL_MISUSE_LAST_REASON] ++ logFields

/-- The register fields of queue `q` itself that its fault writes (R114, R86). -/
def stopRegs (q : Nat) : List (F × Nat) :=
  [(.EN_Q_STAT_STATE, q), (.EN_Q_STAT_CODE, q), (.EN_Q_FAULT_PC_PC, q), (.TN_STAT_OWNER, q / 6)]

theorem recordFault_logged (s : State) (q : Nat) (f : EFault) : s.Logged (s.recordFault q f) faultFields := by
  have hesc : s.Logged (if f.code = .provEscape then s.wr .PS_STAT_ESCAPE 1 else s) faultFields :=
    .ite ((State.Logged.refl s _).wri (by decide) 0 1) (.refl s _)
  obtain ⟨c, info⟩ := f
  cases info with
  | plain => exact hesc
  | bounds r side a =>
    exact (((((hesc.wri (by decide) 0 1).wri (by decide) 0 q).wri (by decide) 0 r).wri (by decide) 0 side).wri
      (by decide) 0 a).wri (by decide) 0 _
  | misuse u r => exact (((hesc.wri (by decide) 0 1).wri (by decide) 0 u).wri (by decide) 0 q).wri (by decide) 0 r

/-- What a fault leaves before it stops its queue. -/
theorem recorded_logged (s : State) (q : Nat) (f : EFault) (pc : Nat) :
    s.Logged ((s.recordFault q f).raise f.code 1 q 0 pc f.detail) faultFields :=
  (recordFault_logged s q f).trans ((raise_logged ..).mono (by decide))

theorem leaveWait_of_none {s : State} {q : Nat} (h : (s.queue q).wait = none) : s.leaveWait q = s := by
  simp [State.leaveWait, h]

theorem freeTurnerOf_onlyRegs (s : State) (q : Nat) : s.onlyRegs (s.freeTurnerOf q) [(.TN_STAT_OWNER, q / 6)] :=
  .ite ((State.onlyRegs.refl s _).wri (List.mem_singleton.2 rfl) 0) (.refl s _)

/-- The queue of a fault once it has stopped: an END that has issued is gone, and so is the wait of its head. -/
def Queue.stopped (x : Queue) : Queue := { x with ending := none, wait := none, taken := false }

theorem stopQueue_of_faulted {s : State} {q : Nat} (h : s.qState q = 5) (c : E) (pc : Nat) : s.stopQueue q c pc = s :=
  if_pos h

theorem stopQueue_onlyRegs {s : State} {q : Nat} (hw : (s.queue q).wait = none) (h5 : s.qState q ≠ 5) (c : E) (pc : Nat) :
    (s.updQueue q Queue.stopped).onlyRegs (s.stopQueue q c pc) (stopRegs q) := by
  have hown := ((((State.onlyRegs.refl (s.updQueue q Queue.stopped) (stopRegs q)).wri (f := .EN_Q_STAT_STATE) (i := q)
    (by simp [stopRegs]) 5).wri (f := .EN_Q_STAT_CODE) (i := q) (by simp [stopRegs]) c.val).wri (f := .EN_Q_FAULT_PC_PC)
    (i := q) (by simp [stopRegs]) pc)
  rw [State.stopQueue, if_neg h5, leaveWait_of_none hw]
  exact hown.trans ((freeTurnerOf_onlyRegs _ q).mono (by simp [stopRegs]))

theorem stopQueue_rdi_same {s : State} {q : Nat} (hw : (s.queue q).wait = none) (h5 : s.qState q ≠ 5) (c : E) (pc : Nat) :
    (s.stopQueue q c pc).qState q = 5 ∧ (s.stopQueue q c pc).rdi .EN_Q_STAT_CODE q = c.val ∧
      (s.stopQueue q c pc).rdi .EN_Q_FAULT_PC_PC q = pc % 2 ^ 42 := by
  have hcode : c.val < 2 ^ F.EN_Q_STAT_CODE.info.width := by cases c <;> decide
  rw [State.stopQueue, if_neg h5, leaveWait_of_none hw]
  simp only [State.qState]
  rw [(freeTurnerOf_onlyRegs _ q).2 _ _ (by simp), (freeTurnerOf_onlyRegs _ q).2 _ _ (by simp),
    (freeTurnerOf_onlyRegs _ q).2 _ _ (by simp)]
  simp only [rdi_wri, State.setQState]
  simpa [F.info] using hcode

theorem giveBack_of_untaken {s : State} {q : Nat} (ht : (s.queue q).taken = false) (pc : Nat) : s.giveBack q pc = s := by
  simp [State.giveBack, ht]

/-- The fault of a queue whose head has taken no wait. -/
theorem engineFault_of_untaken {s : State} {q : Nat} (ht : (s.queue q).taken = false) (f : EFault) (pc : Nat) :
    s.engineFault q f pc = ((s.recordFault q f).raise f.code 1 q 0 pc f.detail).stopQueue q f.code pc := by
  rw [State.engineFault, giveBack_of_untaken ht]

namespace State.Logged

variable {s t : State} {fs : List F}

theorem queues_eq (h : s.Logged t fs) : t.queues = s.queues := (congrArg State.queues h.rest :)
theorem queue_eq (h : s.Logged t fs) (q : Nat) : t.queue q = s.queue q := by rw [State.queue, h.queues_eq, State.queue]
theorem mem_eq (h : s.Logged t fs) : t.mem = s.mem := (congrArg State.mem h.rest :)
theorem byteAt_eq (h : s.Logged t fs) (p : Nat) : t.byteAt p = s.byteAt p := by rw [State.byteAt, h.mem_eq, State.byteAt]

end State.Logged

/-- A state without its registers and queues, and without what an error event may write. -/
def State.sansQueues (s : State) : State := { s.sansLog with queues := [] }

/-- `t` is `s` after fault `f` of queue `q`, whose head neither waits nor has taken a wait: the records and the log, and
of the queue its own part unless it was FAULTED before (R309). -/
structure State.Faulted (s t : State) (q : Nat) (c : E) (pc : Nat) : Prop where
  rest : t.sansQueues = s.sansQueues
  others : ∀ k, k ≠ q → t.queue k = s.queue k
  queue : t.queue q = if s.qState q = 5 then s.queue q else (s.queue q).stopped
  regs : ∀ f k, f ∉ faultFields → (f, k) ∉ stopRegs q → t.rdi f k = s.rdi f k
  state : t.qState q = 5
  code : s.qState q ≠ 5 → t.rdi .EN_Q_STAT_CODE q = c.val
  addr : s.qState q ≠ 5 → t.rdi .EN_Q_FAULT_PC_PC q = pc % 2 ^ 42
  kept : s.qState q = 5 → t.rdi .EN_Q_STAT_CODE q = s.rdi .EN_Q_STAT_CODE q ∧
    t.rdi .EN_Q_FAULT_PC_PC q = s.rdi .EN_Q_FAULT_PC_PC q

theorem State.Logged.stopQueue {s t : State} {q : Nat} (h : s.Logged t faultFields) (hw : (s.queue q).wait = none) (c : E)
    (pc : Nat) : s.Faulted (t.stopQueue q c pc) q c pc := by
  have hq : t.qState q = s.qState q := h.regs _ _ (by decide)
  by_cases h5 : s.qState q = 5
  · rw [stopQueue_of_faulted (hq.trans h5)]
    exact ⟨congrArg (fun x => { x with queues := [] }) h.rest, fun k _ => h.queue_eq k, by rw [if_pos h5, h.queue_eq],
      fun f k hf _ => h.regs f k hf, hq.trans h5, absurd h5, absurd h5,
      fun _ => ⟨h.regs _ _ (by decide), h.regs _ _ (by decide)⟩⟩
  · have hw' : (t.queue q).wait = none := by rw [h.queue_eq, hw]
    have h5' : t.qState q ≠ 5 := hq ▸ h5
    obtain ⟨hstate, hcode, haddr⟩ := stopQueue_rdi_same hw' h5' c pc
    obtain ⟨hrest, hregs⟩ := stopQueue_onlyRegs hw' h5' c pc
    have hqueue : ∀ k, (t.stopQueue q c pc).queue k = (t.updQueue q Queue.stopped).queue k := fun k => by
      rw [hrest]
      rfl
    refine ⟨?_, fun k hk => ?_, ?_, fun f k hf hk => (hregs f k hk).trans (h.regs f k hf), hstate, fun _ => hcode,
      fun _ => haddr, fun hc => absurd hc h5⟩
    · rw [hrest]
      exact congrArg (fun x => { x with queues := [] }) h.rest
    · rw [hqueue, queue_updQueue_other _ hk, h.queue_eq]
    · rw [hqueue, queue_updQueue_same, h.queue_eq, if_neg h5]

theorem engineFault_faulted {s : State} {q : Nat} (hw : (s.queue q).wait = none) (ht : (s.queue q).taken = false)
    (f : EFault) (pc : Nat) : s.Faulted (s.engineFault q f pc) q f.code pc := by
  rw [engineFault_of_untaken ht]
  exact (recorded_logged s q f pc).stopQueue hw f.code pc

namespace State.Faulted

variable {s t : State} {q pc : Nat} {c : E}

theorem mem_eq (h : s.Faulted t q c pc) : t.mem = s.mem := (congrArg State.mem h.rest :)
theorem byteAt_eq (h : s.Faulted t q c pc) (p : Nat) : t.byteAt p = s.byteAt p := by
  rw [State.byteAt, h.mem_eq, State.byteAt]
theorem work_eq (h : s.Faulted t q c pc) : (t.queue q).work = (s.queue q).work := by
  rw [h.queue]
  split <;> rfl

end State.Faulted

end Sys2Proof.Machine

/-! The other control instructions and the faults of an engine (O9 to O11). -/

namespace Sys2Proof.Machine

/-! ### What the state that begins to issue reads -/

section
variable (s : State) (q : Nat)

@[simp] theorem begun_checkUses (b : Option Nat) (us : List Use) (o : Chk Unit) :
    (s.begun q).checkUses b us o = s.checkUses b us o := rfl
@[simp] theorem begun_viewOf (b : Option Nat) : (s.begun q).viewOf b = s.viewOf b := rfl
@[simp] theorem begun_bindEpoch (i : Ins) : (s.begun q).bindEpoch i = s.bindEpoch i := rfl
@[simp] theorem begun_sleeps : (s.begun q).sleeps = s.sleeps := rfl
@[simp] theorem begun_readAt (v : View) (space t a n : Nat) : (s.begun q).readAt v space t a n = s.readAt v space t a n :=
  rfl
@[simp] theorem begun_flaws : (s.begun q).flaws = s.flaws := rfl
@[simp] theorem begun_mem : (s.begun q).mem = s.mem := rfl
@[simp] theorem begun_waitersOf (u : Nat) : (s.begun q).waitersOf u = s.waitersOf u := rfl
@[simp] theorem begun_copies : ((s.begun q).queue q).copies = (s.queue q).copies := by simp [State.begun]
@[simp] theorem begun_ending : ((s.begun q).queue q).ending = (s.queue q).ending := by simp [State.begun]
@[simp] theorem begun_eventStall : (s.begun q).eventStall = s.eventStall := rfl
@[simp] theorem begun_eventReady : (s.begun q).eventReady = s.eventReady := rfl

@[simp] theorem begun_mustStall (r w : List Span) (p : Option Nat) :
    (s.begun q).mustStall q r w p = s.mustStall q r w p := by
  simp only [State.mustStall, begun_work, begun_sleeps]

@[simp] theorem begun_released (id : Nat) : (s.begun q).released q id = s.released q id := by
  simp only [State.released, begun_work]

@[simp] theorem begun_flushed (id : Nat) : (s.begun q).flushed q id = s.flushed q id := by
  simp only [State.flushed, begun_copies]

@[simp] theorem begun_fenceDone (i : Ins) : (s.begun q).fenceDone q i = s.fenceDone q i := by
  simp only [State.fenceDone, begun_released, begun_flushed, begun_nextId]

end

/-- A read depends on the registers (the interleave, versioned regions, epochs, failed stacks), on what memory holds, and
on the granules' tags. -/
theorem readAt_congr {s t : State} (hregs : t.regs = s.regs) (hmem : t.mem = s.mem) (hpoison : t.poison = s.poison)
    (hflaws : t.flaws = s.flaws) (hprov : t.prov = s.prov) (v : View) (space r a n : Nat) :
    t.readAt v space r a n = s.readAt v space r a n := by
  cases s
  cases t
  cases hregs
  cases hmem
  cases hpoison
  cases hflaws
  cases hprov
  rfl

@[simp] theorem orderPoint_readAt (s : State) (q : Nat) (v : View) (space r a n : Nat) :
    (s.orderPoint q).readAt v space r a n = s.readAt v space r a n :=
  readAt_congr (s := s) (t := s.orderPoint q) rfl rfl rfl rfl rfl ..

theorem senseAt_of_flawless {s : State} (h : s.flaws = []) (v : View) (space t a n : Nat) :
    s.senseAt v space t a n = s := by simp [State.senseAt, h]

/-! ### LDC -/

/-- Settles O9: with nothing in its way LDC writes CR and retires; VOL counts an ordering point besides (R186). -/
theorem ldcLoadsCr : Obligations.LdcLoadsCr := by
  intro q s i space t a h hflaws ha hspace ht hchecks hstall hclean
  have hend : ∀ u : State, s.Poised { u with stamp := s.stamp } q [(.EN_Q_CR_CR, q.val)] →
      s.Retired { (u.wri .EN_Q_CR_CR q (pNat (s.readAt (s.viewOf (s.bindEpoch i)) space t a 8))).retire q i with
        stamp := s.stamp } q i (i.pc + 16) [(.EN_Q_CR_CR, q.val)] ∧
      ((u.wri .EN_Q_CR_CR q (pNat (s.readAt (s.viewOf (s.bindEpoch i)) space t a 8))).retire q i).rdi .EN_Q_CR_CR q =
        pNat (s.readAt (s.viewOf (s.bindEpoch i)) space t a 8) % 2 ^ 64 := fun u hu =>
    ⟨(hu.wri (List.mem_singleton.2 rfl) _).retired i (i.pc + 16) (by simp),
      (retireTo_rdi _ _ _ _ (by simp) (by simp)).trans rdi_wri_same⟩
  have hbegun := State.Poised.of_begun s q [(F.EN_Q_CR_CR, q.val)]
  subst ha hspace ht
  have hrun : exec (.ldc q) s = .next (((if i.vol then (s.begun q).orderPoint q else s.begun q).wri .EN_Q_CR_CR q
      (pNat (s.readAt (s.viewOf (s.bindEpoch i)) (bits i.operand 42 1)
        (if bits i.operand 42 1 = 1 then qThr q else 0) (bits i.operand 0 42) 8))).retire q i) := by
    refine next_issue h ?_
    have hread : ∀ (v : View) (space t a n : Nat),
        (if i.vol then (s.begun q).orderPoint q else s.begun q).readAt v space t a n = s.readAt v space t a n :=
      fun v space t a n => by by_cases hvol : i.vol = true <;> simp [hvol]
    simp [hchecks, hstall, senseAt_of_flawless ((begun_flaws s q).trans hflaws), hread, hclean]
  refine ⟨_, hrun, hend _ ?_⟩
  split
  · exact hbegun.updQueue (g := fun x => { x with ordPoint := s.stamp + 1 }) fun _ => ⟨rfl, rfl, rfl⟩
  · exact hbegun

/-! ### Faults of an engine -/

/-- A wait that is given back where nothing waits on any tally changes the count of its tally and nothing else. -/
theorem giveBack_frame {s : State} {q pc : Nat} (hw : (s.queue q).wait = none)
    (ht : (s.queue q).taken = false ∨ s.waiters = []) :
    ((s.giveBack q pc).queue q).wait = none ∧ (s.giveBack q pc).mem = s.mem ∧
      ∀ f k, f ≠ .TL_COUNT_COUNT → (s.giveBack q pc).rdi f k = s.rdi f k := by
  rcases ht with ht | ht
  · rw [giveBack_of_untaken ht]
    exact ⟨hw, rfl, fun _ _ _ => rfl⟩
  · have huntaken : ((s.updQueue q fun x => { x with taken := false }).queue q).wait = none := by simp [hw]
    have hserve : ∀ (x : State) (u n : Nat), x.waiters = [] →
        (x.setTally u n).serve u = (x.setTally u n).setWaiters u [] := fun x u n hx =>
      serve_of_no_waiters (by rw [State.waitersOf, setTally_waiters, hx]; rfl)
    unfold State.giveBack
    dsimp only
    split
    · split
      · split
        · exact ⟨huntaken, rfl, fun _ _ _ => rfl⟩
        · rw [hserve (s.updQueue q fun x => { x with taken := false }) _ _ ht]
          exact ⟨huntaken, rfl, fun f k hf => rdi_wri_other (.inl hf)⟩
      · exact ⟨huntaken, rfl, fun _ _ _ => rfl⟩
    · exact ⟨hw, rfl, fun _ _ _ => rfl⟩

theorem head_bad {s : State} {q : Nat} {c : E} (h : s.head q = .bad c) : c = .fetchBounds ∨ c = .fetchPoison := by
  unfold State.head at h
  dsimp only at h
  split at h
  · exact .inl (Head.bad.inj h).symm
  · split at h
    · cases h
    · split at h
      · exact .inr (Head.bad.inj h).symm
      · cases h

theorem decodeFault_codes {q : Nat} {i : Ins} {c : E} (h : decodeFault q i = some c) :
    c = .opcode ∨ c = .engineClass ∨ c = .encoding := by
  unfold decodeFault at h
  split at h
  · exact .inl (Option.some.inj h).symm
  · split at h
    · exact .inr (.inl (Option.some.inj h).symm)
    · split at h
      · cases h
      · exact .inr (.inr (Option.some.inj h).symm)

/-- Settles O11: what a fault leaves is what it leaves of the state that has given the wait back (`State.Faulted`), and
checks 1 to 5 stand before the instruction's own work in `issue`. -/
theorem engineFaults : Obligations.EngineFaults := by
  refine ⟨fun s q c pc _ hw ht => ?fault, fun q s hmay hskip => ⟨fun c hc => ?bad, fun i c hi hc => ?undecoded,
    fun _ => head_bad, fun _ _ => decodeFault_codes⟩⟩
  case fault =>
    obtain ⟨hwait, hmem, hregs⟩ := giveBack_frame (pc := pc) hw ht
    have hf := (recorded_logged (s.giveBack q pc) q (.of c) pc).stopQueue hwait c pc
    have hstate : (s.giveBack q pc).qState q = s.qState q := hregs _ _ (by decide)
    refine ⟨fun h5 => ⟨hf.state, hf.code (hstate ▸ h5), hf.addr (hstate ▸ h5)⟩, fun h5 => ?_, fun p => ?_⟩
    · obtain ⟨hcode, haddr⟩ := hf.kept (hstate.trans h5)
      exact ⟨hcode.trans (hregs _ _ (by decide)), haddr.trans (hregs _ _ (by decide))⟩
    · exact (hf.byteAt_eq p).trans (by rw [State.byteAt, hmem, State.byteAt])
  case bad => exact congrArg Host.Outcome.next (by simp [issue, hmay, hc])
  case undecoded => exact congrArg Host.Outcome.next (by simp [issue, hmay, hskip, hi, hc])

end Sys2Proof.Machine

/-! NOTIFY and END (O10): host events (R325, R326) and the end of a stream (R114). -/

namespace Sys2Proof.Machine

/-! ### What an instruction that issues does to its queue and its registers -/

section
variable (s : State) (q : Nat) (i : Ins) (npc : Nat) (w : Work)

@[simp] theorem retireTo_mem : (s.retireTo q i npc).mem = s.mem := rfl
@[simp] theorem retireTo_byteAt (p : Nat) : (s.retireTo q i npc).byteAt p = s.byteAt p := rfl
@[simp] theorem retireTo_egress : (s.retireTo q i npc).egress = s.egress := rfl
@[simp] theorem retireTo_host : (s.retireTo q i npc).host = s.host := rfl
@[simp] theorem goOn_byteAt (p : Nat) : (s.goOn q i w).byteAt p = s.byteAt p := rfl
@[simp] theorem goOn_egress : (s.goOn q i w).egress = s.egress := rfl
@[simp] theorem goOn_host : (s.goOn q i w).host = s.host := rfl

theorem retireTo_pc : (s.retireTo q i npc).rdi .EN_Q_PC_PC q = (loopNext (s.queue q).loops npc).2 % 2 ^ 42 := by
  simp [State.retireTo, State.advance, State.countIssue, State.addWrap, F.info]

theorem retireTo_other {k : Nat} (hk : k ≠ q) : (s.retireTo q i npc).queue k = s.queue k := by
  simp only [State.retireTo, State.advance, State.countIssue, State.addWrap, wri_queue_read]
  rw [queue_updQueue_other _ hk, queue_updQueue_other _ hk, queue_updQueue_other _ hk, wri_queue_read]

theorem goOn_other {k : Nat} (hk : k ≠ q) : (s.goOn q i w).queue k = s.queue k := by
  simp only [State.goOn, State.advance, State.countIssue, State.addWrap, wri_queue_read]
  rw [queue_updQueue_other _ hk, queue_updQueue_other _ hk, queue_updQueue_other _ hk, wri_queue_read]

@[simp] theorem goOn_work : ((s.goOn q i w).queue q).work = (s.queue q).work ++ [w] := by
  simp [State.goOn, State.advance, State.countIssue, State.addWrap]

end

/-! ### Host events -/

@[simp] theorem msix_rdi (s : State) (v : Nat) (f : F) (k : Nat) : (s.msix v).rdi f k = s.rdi f k :=
  ((State.Logged.refl s []).msix v).regs f k (List.not_mem_nil)

theorem msix_egress (s : State) (v : Nat) :
    (s.msix v).egress = s.egress ++ if s.masked v then [] else [.msix v] := by
  unfold State.msix
  split
  · simp
  · simp [State.emit]

theorem writeEvent_logged (s : State) (e : EvtRec) : s.Logged (s.writeEvent e) [.HI_EVT_TAIL_TAIL] :=
  (((State.Logged.refl s _).emit _).wri (List.mem_singleton.2 rfl) 0 _).msix _

theorem writeEvent_tail (s : State) (e : EvtRec) :
    (s.writeEvent e).rd .HI_EVT_TAIL_TAIL = (s.rd .HI_EVT_TAIL_TAIL + 1) % 2 ^ 32 := (msix_rdi ..).trans rdi_wri_same

/-- The address and the bytes of an event record (R325). -/
def State.eventAddr (s : State) : Nat :=
  s.rd .HI_EVT_BASE_BASE + (s.rd .HI_EVT_TAIL_TAIL % 2 ^ s.rd .HI_EVT_CFG_LOG2N) * 16

def State.eventBytes (s : State) (e : EvtRec) : List Byte :=
  leBytes 4 (e.code + e.queue * 2 ^ 16 + e.kind * 2 ^ 22 +
      (s.rd .HI_EVT_TAIL_TAIL / 2 ^ s.rd .HI_EVT_CFG_LOG2N % 2) * 2 ^ 23) ++
    leBytes 4 (s.rd .HI_EVT_TAIL_TAIL) ++ leBytes 8 e.time

theorem writeEvent_egress (s : State) (e : EvtRec) : (s.writeEvent e).egress =
    s.egress ++ .write s.eventAddr (s.eventBytes e) false :: if s.masked (8 + e.queue) then [] else [.msix (8 + e.queue)] := by
  refine (msix_egress ..).trans ?_
  show (s.egress ++ [_]) ++ _ = _
  rw [List.append_assoc]
  rfl

theorem eventBytes_length (s : State) (e : EvtRec) : (s.eventBytes e).length = 16 := rfl

/-- The CODE of an event stands in its first two bytes. -/
theorem eventBytes_take (s : State) (e : EvtRec) : (s.eventBytes e).take 2 = leBytes 2 (e.code % 2 ^ 16) := by
  have hbyte : ∀ m n : Nat, m % 256 = n % 256 → BitVec.ofNat 8 m = BitVec.ofNat 8 n := fun m n h =>
    BitVec.eq_of_toNat_eq (by simpa using h)
  show [_, _] = [_, _]
  rw [hbyte _ (e.code % 2 ^ 16) (by omega), hbyte (_ / 256) (e.code % 2 ^ 16 / 256) (by omega)]

theorem postEvent_off {s : State} (h : s.flag .HI_EVT_CFG_EN 0 = false) (q code kind id : Nat) :
    s.postEvent q code kind id = (s.addSat .HI_EVT_DROP_COUNT 0 1, false) := by simp [State.postEvent, h]

theorem postEvent_ready {s : State} (h : s.flag .HI_EVT_CFG_EN 0 = true) (hr : s.eventReady = true) (q code kind id : Nat) :
    s.postEvent q code kind id = (s.writeEvent ⟨q, code, kind, s.aoCycles, id⟩, false) := by simp [State.postEvent, h, hr]

theorem postEvent_held {s : State} (h : s.flag .HI_EVT_CFG_EN 0 = true) (hr : s.eventReady = false)
    (q code kind id : Nat) : s.postEvent q code kind id =
      ({ s with host := { s.host with held := s.host.held ++ [⟨q, code, kind, s.aoCycles, id⟩] } }, true) := by
  simp [State.postEvent, h, hr]

/-- What the posting of an event leaves alone. -/
theorem postEvent_frame (s : State) (q code kind id : Nat) :
    (s.postEvent q code kind id).1.queues = s.queues ∧ (s.postEvent q code kind id).1.mem = s.mem ∧
      ∀ f k, f ∉ [F.HI_EVT_TAIL_TAIL, .HI_EVT_DROP_COUNT] → (s.postEvent q code kind id).1.rdi f k = s.rdi f k := by
  cases hen : s.flag .HI_EVT_CFG_EN 0 with
  | false =>
    rw [postEvent_off hen]
    exact ⟨rfl, rfl, fun f k hf => rdi_wri_other (.inl fun h => hf (by simp [h]))⟩
  | true =>
    cases hr : s.eventReady with
    | false =>
      rw [postEvent_held hen hr]
      exact ⟨rfl, rfl, fun _ _ _ => rfl⟩
    | true =>
      rw [postEvent_ready hen hr]
      have hl := (writeEvent_logged s ⟨q, code, kind, s.aoCycles, id⟩).mono (gs := [.HI_EVT_TAIL_TAIL, .HI_EVT_DROP_COUNT])
        (by simp)
      exact ⟨hl.queues_eq, hl.mem_eq, hl.regs⟩

/-- NOTIFY whose fence is done and which need not stall, where its event leaves at once. -/
theorem notify_retires {s u : State} {q : Fin 52} {i : Ins} (h : s.issues q 0x03 i) (hfence : s.fenceDone q i = true)
    (hstall : s.eventStall = false)
    (hp : (s.begun q).postEvent q (bits i.operand 0 16) 0 (s.queue q).nextId = (u, false)) :
    exec (.notify q) s = .next (u.retire q i) := next_issue h (by simp [hfence, hstall, hp])

/-- The same, where its event has to wait. -/
theorem notify_stays {s u : State} {q : Fin 52} {i : Ins} (h : s.issues q 0x03 i) (hfence : s.fenceDone q i = true)
    (hstall : s.eventStall = false)
    (hp : (s.begun q).postEvent q (bits i.operand 0 16) 0 (s.queue q).nextId = (u, true)) :
    exec (.notify q) s = .next (u.goOn q i (newWork (u.queue q) i .notify (u.bindEpoch i))) :=
  next_issue h (by simp [hfence, hstall, hp])

/-! ### The end of a stream -/

/-- The END that queue `q` has issued completes (R114). -/
def State.ended (s : State) (q : Nat) (w : Work) : State :=
  (((((s.actSignal q w).discard q).updQueue q fun x => { x with ending := none }).setQState q 0).wri .EN_Q_CTL_STOP q 0)

theorem settleEnd_of_drained {s : State} {q : Nat} {w : Work} (he : (s.queue q).ending = some w)
    (hd : s.drained q = true) (hf : w.hostFence = false ∨ s.flushed q w.id = true)
    (h5 : (s.actSignal q w).qState q ≠ 5) : s.settleEnd q =
      if bit w.desc 0 then ((s.ended q w).postEvent q (bits w.desc 16 16) 1 w.id).1 else s.ended q w := by
  have hflush : (true && w.hostFence && !s.flushed q w.id) = false := by rcases hf with hf | hf <;> simp [hf]
  have h5' : ¬ (((s.actSignal q w).discard q).updQueue q fun x => { x with ending := none }).qState q = 5 := h5
  rw [State.settleEnd, he]
  simp only [hd, hflush, h5', Bool.false_eq_true, if_false, if_true]
  rfl

theorem settleEnd_of_busy {s : State} {q : Nat} (hd : s.drained q = false) : s.settleEnd q = s := by
  unfold State.settleEnd
  split
  · rfl
  · simp [hd]

/-- Check 6 of R101 on a signal field, where it passes. -/
theorem allocated_of_check6 {s : State} {q : Nat} {i : Ins} (h : s.check6 q i = none) (hsig : i.sigIdx ≠ 0xFFFF) :
    s.allocated i.sigIdx = true ∧ ¬ (s.bayFaulted (tallyBay i.sigIdx) = true ∧ tallyBay i.sigIdx ≠ qBay q) := by
  have hnone : s.tallyFault q i.sigIdx = none := by
    unfold State.check6 at h
    rw [if_neg hsig] at h
    split at h
    · cases h
    · assumption
  unfold State.tallyFault at hnone
  split at hnone
  · cases hnone
  · refine ⟨?_, ‹_›⟩
    by_contra hc
    rw [if_neg hc] at hnone
    cases hnone

/-- A signal field of an instruction bound to no epoch acts (R96). -/
theorem actSignal_signals {s : State} {q : Nat} {w : Work} (hb : w.bound = none) (hsig : w.sigIdx ≠ 0xFFFF)
    (ha : s.allocated w.sigIdx = true) (hbay : ¬ (s.bayFaulted (tallyBay w.sigIdx) = true ∧ tallyBay w.sigIdx ≠ qBay q)) :
    s.actSignal q w = if w.sigCnt = 0 then s else s.signal w.sigIdx w.sigCnt := by
  simp only [State.actSignal, hsig, State.lostEpoch, hb, false_or, Bool.false_eq_true, if_false, hbay, ha, if_true]

theorem actSignal_none {s : State} {q : Nat} {w : Work} (hsig : w.sigIdx = 0xFFFF) : s.actSignal q w = s := by
  simp [State.actSignal, hsig]

/-- What a signal field that acts leaves alone, on a tally nothing waits on. -/
theorem actSignal_counted {s : State} {q : Nat} {w : Work} (hb : w.bound = none)
    (hok : w.sigIdx ≠ 0xFFFF → s.allocated w.sigIdx = true ∧
      ¬ (s.bayFaulted (tallyBay w.sigIdx) = true ∧ tallyBay w.sigIdx ≠ qBay q))
    (hw : w.sigIdx = 0xFFFF ∨ s.waitersOf w.sigIdx = []) :
    s.Counted (s.actSignal q w) ((.TL_COUNT_COUNT, w.sigIdx) :: ovfRegs w.sigIdx) := by
  by_cases hsig : w.sigIdx = 0xFFFF
  · rw [actSignal_none hsig]
    exact .refl s _
  · rw [actSignal_signals hb hsig (hok hsig).1 (hok hsig).2]
    split
    · exact .refl s _
    · exact signal_counted (hw.resolve_left hsig) _

/-- The END of queue `q` while it waits for the instructions before it. -/
def endWork (s : State) (q : Nat) (i : Ins) : Work :=
  { newWork (s.queue q) i .plain none with desc := i.operand }

/-- The END at the head of queue `q` has issued. -/
def State.endIssued (s : State) (q : Nat) (i : Ins) : State :=
  ((s.begun q).countIssue q).updQueue q fun x => { x with ending := some (endWork s q i), nextId := x.nextId + 1 }

theorem endStream_run {s : State} {q : Fin 52} {i : Ins} (h : s.issues q 0x01 i)
    (hpost : bit i.operand 0 = false ∨ s.eventStall = false) :
    exec (.endStream q) s = .next ((s.endIssued q i).settleEnd q) := by
  refine next_issue h ?_
  have hgo : (bit i.operand 0 && s.eventStall) = false := by rcases hpost with hp | hp <;> simp [hp]
  simp only [begun_eventStall, hgo, Bool.false_eq_true, if_false, newWork, begun_nextId]
  rfl

section
variable (s : State) (q : Nat) (i : Ins)

theorem endIssued_queue : (s.endIssued q i).queue q =
    { s.queue q with
      skipping := false, last := s.rdi .EN_Q_PC_PC q, ending := some (endWork s q i), nextId := (s.queue q).nextId + 1 } := by
  simp [State.endIssued, State.countIssue, State.addWrap, State.begun]

theorem endIssued_other {k : Nat} (hk : k ≠ q) : (s.endIssued q i).queue k = s.queue k := by
  simp only [State.endIssued, State.countIssue, State.addWrap]
  rw [queue_updQueue_other _ hk, queue_updQueue_other _ hk]
  exact begun_other hk

theorem endIssued_local : s.Local (s.endIssued q i) [(.EN_Q_ISSUED_COUNT, q)] :=
  .updQueue (.updQueue (.wri (.updQueue (.refl s _) q _) (List.mem_singleton.2 rfl) _) q _) q _

theorem endIssued_count : (s.endIssued q i).rdi .EN_Q_ISSUED_COUNT q = (s.rdi .EN_Q_ISSUED_COUNT q + 1) % 2 ^ 64 :=
  rdi_wri_same

theorem endIssued_drained : (s.endIssued q i).drained q = s.drained q := by
  simp only [State.drained, endIssued_queue]

theorem endIssued_flushed (id : Nat) : (s.endIssued q i).flushed q id = s.flushed q id := by
  simp only [State.flushed, endIssued_queue]

end

/-- The queue of an END that has completed. -/
def Queue.ended (x : Queue) : Queue :=
  { x with
    buf := [], next := none, loops := [], wait := none, taken := false, brcStop := false, skipping := false,
    held := false, ending := none }

section
variable (e : State) (q : Nat) (w : Work)

theorem ended_queue : (e.ended q w).queue q = ((e.actSignal q w).queue q).ended := by
  simp [State.ended, State.discard, Queue.ended]

theorem ended_other {k : Nat} (hk : k ≠ q) : (e.ended q w).queue k = (e.actSignal q w).queue k := by
  simp only [State.ended, State.discard, wri_queue_read, setQState_queue_read]
  rw [queue_updQueue_other _ hk, queue_updQueue_other _ hk]

theorem ended_local : (e.actSignal q w).Local (e.ended q w) [(.EN_Q_STAT_STATE, q), (.EN_Q_CTL_STOP, q)] :=
  .wri (.wri (.updQueue (.updQueue (.refl _ _) q _) q _) List.mem_cons_self 0)
    (List.mem_cons_of_mem _ List.mem_cons_self) 0

theorem ended_state : (e.ended q w).qState q = 0 := by
  rw [State.qState, State.ended, rdi_wri_other (by simp)]
  exact rdi_wri_same

theorem ended_tally (hb : w.bound = none) (hsig : w.sigIdx ≠ 0xFFFF) (hc : w.sigCnt ≠ 0)
    (ha : e.allocated w.sigIdx = true) (hbay : ¬ (e.bayFaulted (tallyBay w.sigIdx) = true ∧ tallyBay w.sigIdx ≠ qBay q))
    (hw : e.waitersOf w.sigIdx = []) : (e.ended q w).tally w.sigIdx = min 65535 (e.tally w.sigIdx + w.sigCnt) := by
  rw [State.tally, (ended_local e q w).regs _ _ (by simp), actSignal_signals hb hsig ha hbay, if_neg hc]
  exact signal_tally hw _

theorem ended_stop : (e.ended q w).rdi .EN_Q_CTL_STOP q = 0 := rdi_wri_same

end

/-- Settles O10: NOTIFY by what becomes of its event; END by what its completion leaves (`ended_frame`), with the event
it posts. -/
theorem notifyAndEnd : Obligations.NotifyAndEnd := by
  refine ⟨fun q s i h hfence => ⟨fun hen => ?off, fun hen hr => ?ring, fun hen hr hroom => ?held, fun hen hr hfull => ?full⟩,
    fun q s i h => ⟨fun hn hstall => ?stalls, fun hpost => ⟨fun hd hf hw => ?ends, fun hd => ?waits⟩⟩⟩
  case off =>
    have hrun := notify_retires h hfence (by simp [State.eventStall, hen]) (postEvent_off (s := s.begun q) hen ..)
    refine ⟨_, hrun, ?_, ?_⟩
    · exact ((State.Poised.of_begun s q _).wri (List.mem_singleton.2 rfl) _).retired i _ (by simp)
    · exact (retireTo_rdi _ _ _ _ (by simp) (by simp)).trans rdi_wri_same
  case ring =>
    have hrun := notify_retires h hfence (by simp [State.eventStall, hr]) (postEvent_ready (s := s.begun q) hen hr ..)
    have hl := writeEvent_logged (s.begun q) ⟨q, bits i.operand 0 16, 0, (s.begun q).aoCycles, (s.queue q).nextId⟩
    refine ⟨_, hrun, ?_, ⟨_, _, (retireTo_egress ..).trans (writeEvent_egress ..), eventBytes_length .., rfl, ?_⟩, ?_,
      fun p => ?_, fun k hk => ?_⟩
    · exact (retireTo_rdi _ _ _ _ (by simp) (by simp)).trans (writeEvent_tail ..)
    · rw [eventBytes_take, Nat.mod_eq_of_lt (bits_lt _ _ _)]
    · refine (retireTo_pc ..).trans ?_
      rw [hl.queue_eq, begun_loops]
    · exact (retireTo_byteAt ..).trans (hl.byteAt_eq p)
    · exact (retireTo_other _ _ _ _ hk).trans ((hl.queue_eq k).trans (begun_other hk))
  case held =>
    obtain ⟨u, hp, hu⟩ : ∃ u, (s.begun q).postEvent q (bits i.operand 0 16) 0 (s.queue q).nextId = (u, true) ∧
        u = { s.begun q with host := { s.host with held := s.host.held ++ [⟨q, bits i.operand 0 16, 0, s.aoCycles,
          (s.queue q).nextId⟩] } } := ⟨_, postEvent_held (s := s.begun q) hen hr .., rfl⟩
    have hqueues : u.queue = (s.begun q).queue := by rw [hu]; rfl
    refine ⟨_, newWork (u.queue q) i .notify (u.bindEpoch i), notify_stays h hfence (by simp [State.eventStall, hroom]) hp,
      by rw [goOn_host, hu], ?_, rfl, ?_, rfl, by rw [goOn_egress, hu]; rfl, fun p => by rw [goOn_byteAt, hu]; rfl,
      fun k hk => ?_⟩
    · exact (goOn_work ..).trans (by rw [hqueues, begun_work])
    · exact (congrArg (fun f => (f q.val).nextId) hqueues).trans (begun_nextId s q)
    · exact (goOn_other _ _ _ _ hk).trans ((congrFun hqueues k).trans (begun_other hk))
  case full =>
    have hstall : s.eventStall = true := by simp [State.eventStall, hen, hr, hfull]
    exact next_issue h (by simp [hfence, hstall])
  case stalls => exact next_issue h (by simp [hn, hstall])
  case ends =>
    have hok : (endWork s q i).sigIdx ≠ 0xFFFF → (s.endIssued q i).allocated i.sigIdx = true ∧
        ¬ ((s.endIssued q i).bayFaulted (tallyBay i.sigIdx) = true ∧ tallyBay i.sigIdx ≠ qBay q) := fun hsig => by
      have hreads : ∀ f k, f ≠ .EN_Q_ISSUED_COUNT → (s.endIssued q i).rdi f k = s.rdi f k := fun f k hk =>
        (endIssued_local s q i).regs f k (by simp [hk])
      simpa only [State.allocated, State.bayFaulted, State.bitOf, State.rd, hreads _ _ (by decide : F.TL_ALLOC_BITS ≠ _),
        hreads _ _ (by decide : F.ER_BAY_FAULT_BAYS ≠ _)] using allocated_of_check6 h.checked hsig
    have hstate : (s.endIssued q i).qState q = s.qState q := (endIssued_local s q i).regs _ _ (by simp)
    have hwaiters : (endWork s q i).sigIdx = 0xFFFF ∨ (s.endIssued q i).waitersOf (endWork s q i).sigIdx = [] := hw
    have hsig := actSignal_counted (q := q) (w := endWork s q i) rfl hok hwaiters
    have hregs' : ∀ f k, f ∉ [F.TL_COUNT_COUNT, .TL_OVF_BITS, .TL_STAT_OVF, .TL_OVF_FIRST_TALLY, .TL_OVF_FIRST_VALID] →
        ((s.endIssued q i).actSignal q (endWork s q i)).rdi f k = (s.endIssued q i).rdi f k := fun f k hf =>
      hsig.regs f k (by simp at hf; simp [ovfRegs, hf])
    have h5 : ((s.endIssued q i).actSignal q (endWork s q i)).qState q ≠ 5 := by
      have hmay := h.may
      intro hc
      rw [State.qState, hregs' _ _ (by decide), ← State.qState, hstate] at hc
      simp [State.mayIssue, hc] at hmay
    have hsettle := settleEnd_of_drained (by rw [endIssued_queue]) ((endIssued_drained s q i).trans hd)
      (hf.imp id fun hf => (endIssued_flushed ..).trans hf) h5
    obtain ⟨t, ht, hplain, hevent, hqueues, hmem, hregs⟩ : ∃ t, exec (.endStream q) s = .next t ∧
        (bit i.operand 0 = false → t = (s.endIssued q i).ended q (endWork s q i)) ∧
        (bit i.operand 0 = true → t = (((s.endIssued q i).ended q (endWork s q i)).postEvent q (bits i.operand 16 16) 1
          (s.queue q).nextId).1) ∧
        t.queues = ((s.endIssued q i).ended q (endWork s q i)).queues ∧
        t.mem = ((s.endIssued q i).ended q (endWork s q i)).mem ∧
        ∀ f k, f ∉ [F.HI_EVT_TAIL_TAIL, .HI_EVT_DROP_COUNT] →
          t.rdi f k = ((s.endIssued q i).ended q (endWork s q i)).rdi f k := by
      rw [endStream_run h hpost, hsettle]
      cases hn : bit i.operand 0 with
      | true => exact ⟨_, congrArg _ (if_pos hn), nofun, fun _ => rfl, postEvent_frame ..⟩
      | false =>
        have hn' : ¬ bit i.operand 0 = true := by simp [hn]
        exact ⟨_, congrArg _ (if_neg hn'), fun _ => rfl, nofun, rfl, rfl, fun _ _ _ => rfl⟩
    have hqueue : ∀ k, t.queue k = ((s.endIssued q i).ended q (endWork s q i)).queue k := fun k => by
      rw [State.queue, hqueues, State.queue]
    have hended : t.queue q = (((s.endIssued q i)).queue q).ended := by rw [hqueue, ended_queue, hsig.queue_eq]
    refine ⟨t, ht, (hregs _ _ (by decide)).trans (ended_state ..), ?_, ?_, ?_, (hregs _ _ (by decide)).trans (ended_stop ..), ?_, ?_, fun hs hc => ?_, fun hs hn => ?_, fun hn hen hr => ?_, fun p => ?_, fun k hk => ?_⟩
    · rw [hended]
      rfl
    · rw [hended]
      rfl
    · rw [hended]
      rfl
    · rw [hregs _ _ (by decide), ← endIssued_count s q i]
      exact ((ended_local ..).regs _ _ (by simp)).trans (hregs' _ _ (by decide))
    · rw [hended, endIssued_queue]
      rfl
    · rw [State.tally, hregs _ _ (by decide)]
      obtain ⟨ha, hbay⟩ := hok hs
      refine (ended_tally (s.endIssued q i) q (endWork s q i) rfl hs hc ha hbay (hw.resolve_left hs)).trans ?_
      rw [State.tally, (endIssued_local s q i).regs _ _ (by simp)]
      rfl
    · have hlocal := (endIssued_local s q i).mono (m := [(.EN_Q_STAT_STATE, q.val), (.EN_Q_ISSUED_COUNT, q.val),
        (.EN_Q_CTL_STOP, q.val)]) (by simp)
      have hend := (ended_local (s.endIssued q i) q (endWork s q i)).mono (m := [(.EN_Q_STAT_STATE, q.val),
        (.EN_Q_ISSUED_COUNT, q.val), (.EN_Q_CTL_STOP, q.val)]) (by simp)
      rw [actSignal_none hs] at hend
      rw [hplain hn]
      exact (hlocal.trans hend).onlyRegs
    · have hkeeps : ∀ f k, f ∉ [F.TL_COUNT_COUNT, .TL_OVF_BITS, .TL_STAT_OVF, .TL_OVF_FIRST_TALLY, .TL_OVF_FIRST_VALID,
          .EN_Q_STAT_STATE, .EN_Q_CTL_STOP, .EN_Q_ISSUED_COUNT] →
          ((s.endIssued q i).ended q (endWork s q i)).rdi f k = s.rdi f k := fun f k hf => by
        simp only [List.mem_cons, not_or, List.not_mem_nil, not_false_eq_true, and_true] at hf
        obtain ⟨h1, h2, h3, h4, h5, h6, h7, h8⟩ := hf
        exact ((ended_local ..).regs f k (by simp [h6, h7])).trans
          ((hregs' f k (by simp [h1, h2, h3, h4, h5])).trans ((endIssued_local s q i).regs f k (by simp [h8])))
      have hhost : ((s.endIssued q i).ended q (endWork s q i)).host = s.host := hsig.host_eq
      rw [hevent hn, postEvent_ready, writeEvent_tail, State.rd, hkeeps _ _ (by decide), State.rd]
      · rw [State.flag, hkeeps _ _ (by decide)]
        exact hen
      · rw [State.eventReady, State.ringFull, hhost]
        simp only [State.rd, hkeeps _ _ (by decide : F.HI_EVT_TAIL_TAIL ∉ _),
          hkeeps _ _ (by decide : F.HI_EVT_HEAD_HEAD ∉ _), hkeeps _ _ (by decide : F.HI_EVT_CFG_LOG2N ∉ _)]
        exact hr
    · rw [State.byteAt, hmem]
      exact hsig.byteAt_eq p
    · rw [hqueue, ended_other _ _ _ hk, hsig.queue_eq, endIssued_other _ _ _ hk]
  case waits =>
    refine ⟨_, (endStream_run h hpost).trans (congrArg _ (settleEnd_of_busy ((endIssued_drained s q i).trans hd))), ?_,
      (endIssued_local s q i).regs _ _ (by simp), ?_, (endIssued_local s q i).onlyRegs, fun k hk => endIssued_other s q i hk⟩
    · rw [endIssued_queue]
      rfl
    · rw [endIssued_queue]

end Sys2Proof.Machine

/-! Starting, stopping and fetching a queue (O12 to O14). -/

namespace Sys2Proof.Machine

/-! ### Starts (R110, R111) -/

section
variable (s : State) (q off : Nat)

theorem start_local : s.Local (s.start q off) [(.EN_Q_STAT_STATE, q), (.EN_Q_PC_PC, q), (.EN_Q_CR_CR, q)] :=
  .wri (.wri (.wri (.updQueue (.updQueue (.refl s _) q _) q _) (by simp) _) (by simp) _) (by simp) _

theorem start_queue : (s.start q off).queue q =
    { s.queue q with
      buf := [], next := some (s.rdi .EN_Q_PRG_BASE_BASE q + off), loops := [], wait := none, taken := false,
      brcStop := false, skipping := false, held := false } := by
  simp [State.start, State.discard]

theorem start_other {k : Nat} (hk : k ≠ q) : (s.start q off).queue k = s.queue k := by
  simp only [State.start, State.discard, setQState_queue_read, wri_queue_read]
  rw [queue_updQueue_other _ hk, queue_updQueue_other _ hk]

theorem start_state : (s.start q off).qState q = 1 := rdi_wri_same

theorem start_cr : (s.start q off).rdi .EN_Q_CR_CR q = 0 := by
  rw [State.start, State.setQState, rdi_wri_other (by simp)]
  exact rdi_wri_same

theorem start_pc : (s.start q off).rdi .EN_Q_PC_PC q = (s.rdi .EN_Q_PRG_BASE_BASE q + off) % 2 ^ 42 := by
  rw [State.start, State.setQState, rdi_wri_other (by simp), rdi_wri_other (by simp)]
  exact rdi_wri_same

end

theorem leaveIdle_of_awake {s : State} (h : s.flag .PW_STATE_IDLE 0 = false) : s.leaveIdle = s := by
  simp [State.leaveIdle, h]

theorem byHost_of_up {s : State} (h : s.hostUp = true) (k : State → State) : s.byHost k = k s := if_pos h

theorem queueDoorbell_run {s : State} (hup : s.hostUp = true) (hidle : s.flag .PW_STATE_IDLE 0 = false) (q : Fin 52)
    {v : Nat} (hv : v < 2 ^ 64) : exec (.queueDoorbell q v) s =
      .next (if s.writesHeld then s.holdAccess (.doorbell q v) else s.ringDoorbell q v) := by
  refine (if_pos hv).trans (congrArg Host.Outcome.next ?_)
  rw [byHost_of_up hup, leaveIdle_of_awake hidle]

theorem groupDoorbell_run {s : State} (hup : s.hostUp = true) (hidle : s.flag .PW_STATE_IDLE 0 = false)
    {v : Nat} (hv : v < 2 ^ 64) : exec (.groupDoorbell v) s =
      .next (if s.writesHeld then s.holdAccess (.group v) else s.ringGroup v) := by
  refine (if_pos hv).trans (congrArg Host.Outcome.next ?_)
  rw [byHost_of_up hup, leaveIdle_of_awake hidle]

theorem ringDoorbell_starts {s : State} {q v : Nat} (hv : v < 2 ^ 32) (h : s.canStart q v = true) :
    s.ringDoorbell q v = s.start q v := by
  have hoff : bits v 0 32 = v := by simpa [bits] using hv
  have hrest : bits v 32 32 = 0 := by
    simp only [bits]
    omega
  simp [State.ringDoorbell, State.tryStart, hoff, hrest, h]

theorem ringDoorbell_refuses {s : State} {q v : Nat} (hv : v < 2 ^ 64) (h : 2 ^ 32 ≤ v ∨ s.canStart q v = false) :
    s.ringDoorbell q v = s.wri .EN_Q_STAT_DB_REFUSED q 1 := by
  by_cases hlt : v < 2 ^ 32
  · have hoff : bits v 0 32 = v := by simpa [bits] using hlt
    simp [State.ringDoorbell, State.tryStart, hoff, h.resolve_left (Nat.not_le.2 hlt)]
  · have hrest : bits v 32 32 ≠ 0 := by
      simp only [bits]
      omega
    simp [State.ringDoorbell, State.tryStart, hrest]

/-- A fold over numbers of which one alone acts. -/
theorem foldl_range_single {α : Type} {f : α → Nat → α} {n q : Nat} (hq : q < n) (hf : ∀ a k, k ≠ q → f a k = a) (a : α) :
    (List.range n).foldl f a = f a q := by
  induction n with
  | zero => exact absurd hq (Nat.not_lt_zero q)
  | succ n ih =>
    rw [List.range_succ, List.foldl_append]
    by_cases h : q = n
    · subst h
      have hid : ∀ m ≤ q, (List.range m).foldl f a = a := fun m hm => by
        induction m with
        | zero => rfl
        | succ m ihm =>
          rw [List.range_succ, List.foldl_append, ihm (by omega)]
          exact hf a m (by omega)
      rw [hid q (le_refl q)]
      rfl
    · rw [ih (by omega)]
      exact hf _ n (Ne.symm h)

theorem ringGroup_one {s : State} {q : Nat} (hq : q < 52) (h : s.canStart q 0 = true) :
    s.ringGroup (2 ^ q) = s.start q 0 := by
  have hbit : ∀ k, bit (2 ^ q) k = decide (k = q) := fun k => by
    rw [bit_eq_testBit, Nat.testBit_two_pow]
    simp only [eq_comm]
  have hhigh : bits (2 ^ q) 52 12 = 0 := by
    simp [bits, Nat.div_eq_of_lt (Nat.pow_lt_pow_right (by decide : 1 < 2) hq)]
  rw [State.ringGroup, foldl_range_single hq fun a k hk => by simp [hbit, hk]]
  simp [hbit, hhigh, State.tryStart, h]

/-- Settles O12: what a start leaves, and for each way to ask for one when it comes to that. -/
theorem startsAndDoorbells : Obligations.StartsAndDoorbells := by
  refine ⟨fun s q off => ⟨start_state s q off, start_cr s q off, start_pc s q off, ?_, ?_, ?_,
      fun k hk => start_other s q off hk, (start_local s q off).onlyRegs⟩,
    fun s => ⟨fun hup hidle => ⟨fun hw => ⟨fun q v hv => ⟨fun hlt hs => ?_, fun hs => ?_⟩, fun q hs => ?_⟩,
      fun hw q v hv => ⟨?_, ?_⟩⟩, fun t i h => ⟨fun hs h0 h5 => ?launched, fun hs => ?refused⟩⟩⟩
  · rw [start_queue]
  · rw [start_queue]
  · rw [start_queue]
  · rw [queueDoorbell_run hup hidle q hv, hw, ← ringDoorbell_starts hlt hs]
    rfl
  · rw [queueDoorbell_run hup hidle q hv, hw]
    refine ⟨_, rfl, ?_⟩
    simp only [Bool.false_eq_true, if_false, ringDoorbell_refuses hv hs]
    exact ⟨rdi_wri_same, (State.onlyRegs.refl s _).wri (List.mem_singleton.2 rfl) 1⟩
  · rw [groupDoorbell_run hup hidle (Nat.pow_lt_pow_right (by decide) (q.isLt.trans (by decide))), hw,
      ← ringGroup_one q.isLt hs]
    rfl
  · rw [queueDoorbell_run hup hidle q hv, hw]
    rfl
  · rw [groupDoorbell_run hup hidle hv, hw]
    rfl
  case launched =>
    have hrun : exec (.launch t) s = .next
        (((s.begun (thrQ t 0)).start (thrQ t (bits i.operand 0 4)) (bits i.operand 32 32)).retire (thrQ t 0) i) :=
      next_issue h (if_pos hs)
    have hne : thrQ t (bits i.operand 0 4) ≠ thrQ t 0 := by
      simp only [thrQ]
      omega
    refine ⟨_, hrun, ?_, ?_, ?_, fun p => ?_⟩
    · exact (retireTo_rdi _ _ _ _ (.inl (by decide)) (.inl (by decide))).trans (start_state ..)
    · refine (retireTo_pc ..).trans ?_
      rw [start_other _ _ _ hne.symm, begun_loops]
    · exact (retireTo_rdi _ _ _ _ (.inr hne) (.inl (by decide))).trans (start_pc ..)
    · exact (retireTo_byteAt ..).trans ((start_local ..).byteAt_eq p)
  case refused =>
    have hs' : ¬ (s.begun (thrQ t 0)).canStart (thrQ t (bits i.operand 0 4)) (bits i.operand 32 32) = true := by
      rw [show (s.begun (thrQ t 0)).canStart = s.canStart from rfl, hs]
      decide
    exact next_issue h (if_neg hs')

/-! ### STOP, CLEAR and the way to IDLE (R114) -/

theorem discard_queue (s : State) (q : Nat) : (s.discard q).queue q =
    { s.queue q with
      buf := [], next := none, loops := [], wait := none, taken := false, brcStop := false, skipping := false,
      held := false } := by
  simp [State.discard]

theorem discard_other (s : State) {q k : Nat} (hk : k ≠ q) : (s.discard q).queue k = s.queue k := queue_updQueue_other _ hk

theorem discard_local (s : State) (q : Nat) (l : List (F × Nat)) : s.Local (s.discard q) l := .updQueue (.refl s l) q _

/-- Settles O13: each of the three is the emptied queue, or the queue as it is, with the registers named. -/
theorem stopClearQuiesce : Obligations.StopClearQuiesce := by
  refine fun s q => ⟨fun hup h1 h3 hwait => ?stop, fun hup h5 hbay hfatal => ?clear, fun hd he hstate => ?quiet⟩
  case stop =>
    have hrun : exec (.queueStop q) s = .next (((s.discard q).setQState q 4).wri .EN_Q_CTL_STOP q 1) := by
      refine congrArg Host.Outcome.next ?_
      have hstate : s.qState q = 1 ∨ s.qState q = 2 ∨ s.qState q = 3 := by omega
      rw [byHost_of_up hup, if_pos hstate, leaveWait_of_none hwait]
    refine ⟨_, hrun, ?_, ?_, ?_, ?_, ((discard_local s q _).wri List.mem_cons_self 4).wri
      (List.mem_cons_of_mem _ List.mem_cons_self) 1 |>.onlyRegs, fun k hk => discard_other s hk⟩
    · rw [State.qState, rdi_wri_other (by simp)]
      exact rdi_wri_same
    all_goals rw [wri_queue_read, setQState_queue_read, discard_queue]
  case clear =>
    have hrun : exec (.queueClear q) s = .next (((s.discard q).wri .EN_Q_STAT_CODE q 0).wri .EN_Q_CTL_CLEAR q 1) := by
      refine congrArg Host.Outcome.next ?_
      rw [byHost_of_up hup, if_pos ⟨h5, by simp [hbay], by simp [hfatal]⟩]
    refine ⟨_, hrun, ?_, ?_, ?_, ((discard_local s q _).wri List.mem_cons_self 0).wri
      (List.mem_cons_of_mem _ List.mem_cons_self) 1 |>.onlyRegs, fun k hk => discard_other s hk⟩
    · rw [rdi_wri_other (by simp)]
      exact rdi_wri_same
    · rw [wri_queue_read, wri_queue_read, discard_queue]
    · rw [State.qState, rdi_wri_other (by simp), rdi_wri_other (by simp)]
      exact h5
  case quiet =>
    have hrun : exec (.queueQuiesced q) s =
        .next (((s.setQState q 0).wri .EN_Q_CTL_STOP q 0).wri .EN_Q_CTL_CLEAR q 0) :=
      if_pos ⟨hd, by simp [he], hstate⟩
    refine ⟨_, hrun, ?_, (((State.onlyRegs.refl s _).wri List.mem_cons_self 0).wri
      (List.mem_cons_of_mem _ List.mem_cons_self) 0).wri (by simp) 0⟩
    rw [State.qState, rdi_wri_other (by simp), rdi_wri_other (by simp)]
    exact rdi_wri_same

/-! ### Fetching (R111) -/

theorem Tbl.find?_put_same {α : Type} {t : List (Nat × α)} {k : Nat} {v : α} :
    (Tbl.put t k v).find? (fun x => x.1 == k) = some (k, v) := by
  induction t with
  | nil => simp [Tbl.put]
  | cons e r ih =>
    obtain ⟨j, w⟩ := e
    simp only [Tbl.put]
    split_ifs with h1 h2
    · simp
    · simp
    · simpa [h1] using ih

theorem Tbl.find?_put_other {α : Type} {t : List (Nat × α)} {k j : Nat} {v : α} (h : j ≠ k) :
    (Tbl.put t k v).find? (fun x => x.1 == j) = t.find? fun x => x.1 == j := by
  induction t with
  | nil => simp [Tbl.put, Ne.symm h]
  | cons e r ih =>
    obtain ⟨i, w⟩ := e
    simp only [Tbl.put]
    split_ifs with h1 h2
    · subst h1
      simp [Ne.symm h]
    · simp [List.find?_cons, Ne.symm h]
    · simp only [List.find?_cons, ih]

/-- The buffer with the instructions of a fetch put into it, but for those it holds already. -/
def fillBuffer (l b : List (Nat × Slot)) : List (Nat × Slot) :=
  l.foldl (fun b e => if b.any fun y => y.1 == e.1 then b else Tbl.put b e.1 e.2) b

theorem find?_fillBuffer_other {l b : List (Nat × Slot)} {k : Nat} (h : ∀ e ∈ l, e.1 ≠ k) :
    (fillBuffer l b).find? (fun x => x.1 == k) = b.find? fun x => x.1 == k := by
  induction l generalizing b with
  | nil => rfl
  | cons e l ih =>
    refine (ih fun e he => h e (List.mem_cons_of_mem _ he)).trans ?_
    dsimp only
    split
    · rfl
    · exact Tbl.find?_put_other (h e List.mem_cons_self).symm

/-- Instructions at rising addresses that the buffer does not hold stand in it once they have been put there. -/
theorem find?_fillBuffer {l b : List (Nat × Slot)} (hl : l.Pairwise fun x y => x.1 ≠ y.1)
    (hb : ∀ e ∈ l, ∀ y ∈ b, y.1 ≠ e.1) : ∀ e ∈ l, (fillBuffer l b).find? (fun x => x.1 == e.1) = some e := by
  induction l generalizing b with
  | nil => exact fun _ he => absurd he List.not_mem_nil
  | cons e l ih =>
    obtain ⟨hne, hl⟩ := List.pairwise_cons.1 hl
    have hnew : (b.any fun y => y.1 == e.1) = false :=
      List.any_eq_false.2 fun y hy => by simpa using hb e List.mem_cons_self y hy
    have hstep : fillBuffer (e :: l) b = fillBuffer l (Tbl.put b e.1 e.2) := by
      simp only [fillBuffer, List.foldl_cons, hnew, Bool.false_eq_true, if_false]
    intro x hx
    rw [hstep]
    rcases List.mem_cons.1 hx with rfl | hx
    · rw [find?_fillBuffer_other fun y hy => (hne y hy).symm, Tbl.find?_put_same]
    · refine ih hl (fun z hz y hy => ?_) x hx
      rcases Tbl.mem_put hy with rfl | hy
      · exact hne z hz
      · exact hb z (List.mem_cons_of_mem _ hz) y hy

theorem sublist_takeFetched (limit : Nat) (l : List (Nat × Slot)) : (takeFetched limit l).Sublist l := by
  induction l with
  | nil => exact List.Sublist.refl _
  | cons e r ih =>
    obtain ⟨a, x⟩ := e
    simp only [takeFetched]
    split_ifs
    · exact List.nil_sublist _
    · exact (List.nil_sublist r).cons_cons _
    · exact ih.cons_cons _

theorem sectorSlots_length (s : State) (a : Nat) : (s.sectorSlots a).length ≤ 4 := by
  simp only [State.sectorSlots, List.length_map, List.length_range]
  omega

theorem sectorSlots_apart (s : State) (a : Nat) : (s.sectorSlots a).Pairwise fun x y => x.1 ≠ y.1 := by
  simp only [State.sectorSlots, List.pairwise_map]
  exact List.Pairwise.imp (fun h => by omega) List.pairwise_lt_range

theorem sleeps_of_awake {s : State} (h : s.awake) (x : Span) : s.sleeps x = false := by
  have hnone : s.gran.asleep.isEmpty = true := List.isEmpty_iff.2 h
  simp [State.sleeps, hnone]

/-- The state behind a fetch of the instructions `l`. -/
def State.fetched (s : State) (q : Nat) (l : List (Nat × Slot)) : State :=
  s.updQueue q fun x =>
    { x with
      buf := fillBuffer l x.buf, next := fetchNext l, brcStop := l.getLast?.any fun e => bits e.2.word 120 8 == 0x06 }

/-- Settles O14: at most four instructions stand in a sector, so the buffer takes all that are fetched. -/
theorem fetchFillsBuffer : Obligations.FetchFillsBuffer := by
  intro s q hrun hbuf hbrc hflaws hawake hlo hhi
  have hshort : (takeFetched (s.rdi .EN_Q_PRG_BASE_BASE q + s.rdi .EN_Q_PRG_SIZE_SIZE q)
      (s.sectorSlots (s.rdi .EN_Q_PC_PC q))).length ≤ Config.queueDepth :=
    (sublist_takeFetched _ _).length_le.trans ((sectorSlots_length s _).trans (by decide))
  generalize hl : takeFetched (s.rdi .EN_Q_PRG_BASE_BASE q + s.rdi .EN_Q_PRG_SIZE_SIZE q)
    (s.sectorSlots (s.rdi .EN_Q_PC_PC q)) = l at hshort
  have hexec : exec (.fetch q) s = .next ((s.fetched q l).setQState q ((s.fetched q l).runState q)) := by
    show execFetch q s = _
    have hroom : 0 < Config.queueDepth := by decide
    simp only [execFetch, hbuf, hbrc, List.any_nil, Bool.false_eq_true, if_false, sleeps_of_awake hawake, hrun, true_or,
      hlo, hhi, List.length_nil, hroom, and_self, if_true, senseAt_of_flawless hflaws, hl, Nat.sub_zero,
      List.take_of_length_le hshort]
    exact congrArg Host.Outcome.next (if_pos hrun)
  refine ⟨_, l, hexec, rfl, ?_, fun e he => ?_, ?_, fun k hk => ?_⟩
  · simp [State.fetched]
  · have happart := (sectorSlots_apart s (s.rdi .EN_Q_PC_PC q)).sublist (hl ▸ sublist_takeFetched _ _)
    simpa [State.fetched, hbuf] using find?_fillBuffer happart (by simp) e he
  · exact (State.Local.updQueue (.refl s _) q _ |>.wri (List.mem_singleton.2 rfl) _).onlyRegs
  · rw [setQState_queue_read, State.fetched, queue_updQueue_other _ hk]

end Sys2Proof.Machine

/-! The end of an instruction, and tallies (O15 to O19). -/

namespace Sys2Proof.Machine

/-! ### Completion, release and flush reads (R96, R192) -/

theorem complete_queue {s : State} {q id : Nat} {w : Work}
    (h : (s.queue q).work.find? (fun x => x.id == id) = some w) :
    (s.complete q id).queue q = { s.queue q with work := finished w (s.queue q).work } := by
  simp [State.complete, h]

theorem complete_other (s : State) {q id k : Nat} (hk : k ≠ q) : (s.complete q id).queue k = s.queue k :=
  queue_updQueue_other _ hk

theorem finished_coll {w : Work} {l : List Work} (h : ∀ x ∈ l, x.coll = none) : ∀ x ∈ finished w l, x.coll = none := by
  intro x hx
  unfold finished at hx
  split at hx
  · exact h x (List.mem_filter.1 hx).1
  · obtain ⟨y, hy, rfl⟩ := List.mem_map.1 hx
    split
    · exact h y hy
    · exact h y hy

theorem progGo_of_plain {w : Work} (h : w.coll = none ∨ w.kind ≠ .gather) (s : State) (q : Nat) : s.progGo q w = s := by
  unfold State.progGo
  split
  · rfl
  · rcases h with h | h
    · simp_all
    · exact if_neg h

theorem progAll_of_plain {s : State} {q : Nat} (h : ∀ w ∈ (s.queue q).work, w.coll = none) : s.progAll q = s := by
  unfold State.progAll
  generalize (s.queue q).work = l at h
  induction l with
  | nil => rfl
  | cons w l ih =>
    rw [List.foldl_cons, progGo_of_plain (.inl (h w List.mem_cons_self))]
    exact ih fun x hx => h x (List.mem_cons_of_mem _ hx)

theorem settleEnd_of_none {s : State} {q : Nat} (h : (s.queue q).ending = none) : s.settleEnd q = s := by
  simp [State.settleEnd, h]

theorem instructionCompletion_run {s : State} {q : Fin 52} {id : Nat} {w : Work}
    (hw : (s.queue q).work.find? (fun x => x.id == id) = some w) (hmay : s.mayComplete q w = true)
    (hvol : w.volRead = false) (hremote : (w.writes.any fun x => x.space == 2) = false)
    (hcoll : ∀ x ∈ (s.queue q).work, x.coll = none) (he : (s.queue q).ending = none) :
    exec (.instructionCompletion q id) s = .next (s.complete q id) := by
  show execInstructionCompletion q id s = _
  have hcoll' : ∀ x ∈ ((s.complete q id).queue q).work, x.coll = none := by
    rw [complete_queue hw]
    exact finished_coll hcoll
  have he' : ((s.complete q id).queue q).ending = none := by
    rw [complete_queue hw]
    exact he
  simp only [execInstructionCompletion, hw, hmay, hvol, hremote, Bool.or_self, Bool.false_eq_true, if_false, if_true]
  rw [progAll_of_plain hcoll', settleEnd_of_none he']

/-- The state from which the signal of a released instruction acts: the instruction is forgotten. -/
def State.forget (s : State) (q id : Nat) : State :=
  s.updQueue q fun x => { x with work := x.work.filter fun y => y.id != id }

theorem signalRelease_run {s : State} {q : Fin 52} {id : Nat} {w : Work}
    (hw : (s.queue q).work.find? (fun x => x.id == id) = some w) (hd : w.done = true) (hkind : w.kind ≠ .gather)
    (hr : s.released q id = true) (hf : w.hostFence = false ∨ s.flushed q id = true) :
    exec (.signalRelease q id) s = .next ((s.forget q id).actSignal q w) := by
  show execSignalRelease q id s = _
  have hflush : ¬ (w.hostFence = true ∧ ¬ s.flushed q id = true) := by rcases hf with hf | hf <;> simp [hf]
  simp only [execSignalRelease, hw, hd, hr, and_self, if_true, if_neg hflush, progGo_of_plain (.inr hkind)]
  rfl

theorem signal_of_small {s : State} {u n : Nat} (hw : s.waitersOf u = []) (hsmall : s.tally u + n ≤ 65535) :
    s.signal u n = (s.setTally u (s.tally u + n)).setWaiters u [] := by
  rw [signal_eq hw, if_neg (Nat.not_lt.2 hsmall), Nat.min_eq_right hsmall]

/-- The queue of a flush read that failed: its copy is gone, and no signal that waits for it is given (R192). -/
def Queue.flushFailed (x : Queue) (copy : Nat) : Queue :=
  { x with
    copies := x.copies.filter fun c => c.id != copy,
    work := (x.work.filter fun w => !(w.done && w.hostFence && decide (copy ≤ w.id))).map fun w =>
      if w.hostFence ∧ copy ≤ w.id then { w with sigIdx := 0xFFFF } else w }

theorem flushFail_faults {s : State} {q copy : Nat}
    (h : ((s.queue q).copies.any fun c => c.id == copy && c.flushing) = true) :
    ∃ pc, s.flushFail q copy = (s.updQueue q fun x => x.flushFailed copy).engineFault q (.of .hostfence) pc := by
  obtain ⟨c, hc⟩ := Option.isSome_iff_exists.1 ((List.find?_isSome).2 (List.any_eq_true.1 h))
  simp only [State.flushFail, hc]
  exact ⟨_, rfl⟩

/-- Settles O15: the completion and the release by the state each ends in; a flush read that fails is an engine fault. -/
theorem completionSignalAndFlush : Obligations.CompletionSignalAndFlush := by
  refine ⟨fun s q id w hw hmay hvol hremote hcoll he => ?completes, fun s q id w hw hd hkind hr hf hsig hb ha hbay hwait hsmall
    hn => ?signals, fun s q copy he => ⟨?returns, fun hcopy hwait htaken h5 => ?fails⟩⟩
  case completes =>
    refine ⟨_, instructionCompletion_run hw hmay hvol hremote ?_ he, ?_, rfl, fun k hk => complete_other s hk⟩
    · simpa using hcoll
    · rw [complete_queue hw]
  case signals =>
    have hrun := signalRelease_run hw hd hkind hr hf
    have hacts : (s.forget q id).actSignal q w = (s.forget q id).signal w.sigIdx w.sigCnt := by
      have hbay' : (s.forget q id).bayFaulted (tallyBay w.sigIdx) = false := hbay
      rw [actSignal_signals (s := s.forget q id) hb hsig.ne ha (by simp [hbay']), if_neg hn]
    rw [hacts, signal_of_small (s := s.forget q id) hwait hsmall] at hrun
    refine ⟨_, hrun, ?_, ?_, fun f k hf => ?_, fun p => rfl, fun k hk => ?_⟩
    · exact rdi_wri_same.trans (Nat.mod_eq_of_lt (Nat.lt_succ_of_le hsmall))
    · rw [setWaiters_queue_read, setTally_queue_read, State.forget, queue_updQueue_same]
    · refine rdi_wri_other (s := s.forget q id) ?_
      by_contra hc
      simp only [not_or, not_not] at hc
      exact hf (Prod.ext hc.1 hc.2)
    · rw [setWaiters_queue_read, setTally_queue_read, State.forget, queue_updQueue_other _ hk]
  case returns =>
    have hrun : exec (.flushCompletion q copy true) s = .next (s.updQueue q fun x =>
        { x with copies := x.copies.filter fun c => !(c.id == copy && c.flushing) }) :=
      congrArg Host.Outcome.next (settleEnd_of_none (by simp [he]))
    exact ⟨_, hrun, by simp, rfl, fun k hk => queue_updQueue_other s hk⟩
  case fails =>
    obtain ⟨pc, hpc⟩ := flushFail_faults hcopy
    have hfault := engineFault_faulted (s := s.updQueue q fun x => x.flushFailed copy) (q := q)
      (by simpa [Queue.flushFailed] using hwait) (by simpa [Queue.flushFailed] using htaken) (.of .hostfence) pc
    exact ⟨⟨_, congrArg Host.Outcome.next hpc, hfault.state, hfault.code h5⟩,
      ⟨_, congrArg Host.Outcome.next hpc, hfault.state, hfault.code h5⟩⟩

/-! ### Counts and waiters (R121, R123, R125) -/

/-- The first waiter of a tally is served: its count is taken, and its queue, whose wait field that was, runs on. -/
theorem serve_first {s : State} {u : Nat} {w : Waiter} (hw : s.waitersOf u = [w]) (hn : w.need ≤ s.tally u) :
    s.serve u = ((s.setTally u (s.tally u - w.need)).wake w.queue).setWaiters u [] := by
  rw [State.serve, hw, serveList, if_pos hn, serveList]

theorem serve_not_yet {s : State} {u : Nat} {w : Waiter} (hw : s.waitersOf u = [w]) (hn : s.tally u < w.need) :
    s.serve u = s.setWaiters u [w] := by
  rw [State.serve, hw, serveList, if_neg (Nat.not_le.2 hn)]

/-- A queue whose wait field was served. -/
theorem wake_field {s : State} {q : Nat} {h : HeadWait} (hw : (s.queue q).wait = some h) (ho : h.operand = false) :
    s.wake q = ((s.setQState q (s.runState q)).orderPoint q).updQueue q fun x => { x with wait := none, taken := true } := by
  have hw' : (((s.setQState q (s.runState q)).orderPoint q).queue q).wait = some h := by
    simpa [State.orderPoint, State.queue, State.updQueue] using hw
  simp only [State.wake, hw', ho, Bool.false_eq_true, if_false]

/-- Settles O16: the waiter by `serveList`'s two branches, signals and arms by their rules where nothing waits. -/
theorem signalsArmsAndWaiters : Obligations.SignalsArmsAndWaiters := by
  refine ⟨fun s u w h hw hwait ho hbrc => ⟨fun hn => ?served, fun hn => ?waits⟩, fun s u n hw hn =>
    ⟨signal_tally hw n, arm_tally hw hn, fun k hk => ?tallies, fun p => ⟨(signal_counted hw n).byteAt_eq p,
      (arm_counted hw n).byteAt_eq p⟩, fun q => ⟨(signal_counted hw n).queue_eq q, (arm_counted hw n).queue_eq q⟩,
      fun hover => ?overflows⟩⟩
  case served =>
    have hrun : (s.setTally u (s.tally u - w.need)).runState w.queue = 1 := by simp [State.runState, hbrc]
    rw [serve_first hw hn, wake_field (s := s.setTally u (s.tally u - w.need)) hwait ho, hrun]
    refine ⟨?_, waitersOf_setWaiters_same .., ?_, ?_⟩
    · show ((s.setTally u (s.tally u - w.need)).setQState w.queue 1).rdi .TL_COUNT_COUNT u = _
      rw [State.setQState, rdi_wri_other (by simp)]
      exact rdi_wri_same
    · show ((s.setTally u (s.tally u - w.need)).setQState w.queue 1).rdi .EN_Q_STAT_STATE w.queue = _
      exact rdi_wri_same
    · rw [setWaiters_queue_read, queue_updQueue_same]
  case waits =>
    rw [serve_not_yet hw hn]
    exact ⟨rfl, waitersOf_setWaiters_same .., rfl⟩
  case tallies =>
    exact ⟨(signal_counted hw n).regs _ _ (by simp [ovfRegs, hk]), (arm_counted hw n).regs _ _ (by simp [hk])⟩
  case overflows =>
    by_cases hbit : bit (s.rdi .TL_OVF_BITS (u / 32)) (u % 32) = true
    · exact .inr hbit
    · refine .inl ?_
      rw [signal_eq hw, if_pos hover, State.overflow, if_neg hbit]
      refine (rdi_wri_other (.inl (by decide))).trans ?_
      dsimp only
      split <;> simp [F.info]

/-! ### The tally instructions (R121, R122) -/

@[simp] theorem retireTo_tally (s : State) (q : Nat) (i : Ins) (npc u : Nat) :
    (s.retireTo q i npc).tally u = s.tally u := retireTo_rdi s q i npc (.inl (by decide)) (.inl (by decide))

/-- An instruction that loads CR at an ordering point. -/
theorem State.Poised.retired_loadCr {s u : State} {q : Nat} (h : s.Poised { u with stamp := s.stamp } q [(.EN_Q_CR_CR, q)])
    (v : Nat) (i : Ins) :
    s.Retired { (u.wri .EN_Q_CR_CR q v).retire q i with stamp := s.stamp } q i (i.pc + 16) [(.EN_Q_CR_CR, q)] :=
  (h.wri (List.mem_singleton.2 rfl) v).retired i (i.pc + 16) (by simp)

/-- A TL.WAIT whose wait is served goes on behind itself (R125, R184). -/
theorem wake_operand_rdi {s : State} {q : Nat} {h : HeadWait} (hw : (s.queue q).wait = some h) (ho : h.operand = true) :
    (∀ f k, (f, k) ≠ (.EN_Q_PC_PC, q) → (s.wake q).rdi f k = (s.setQState q (s.runState q)).rdi f k) ∧
      (s.wake q).rdi .EN_Q_PC_PC q = (loopNext (s.queue q).loops (s.rdi .EN_Q_PC_PC q + 16)).2 % 2 ^ 42 := by
  have hqueue : ((s.setQState q (s.runState q)).orderPoint q).queue q = { s.queue q with ordPoint := s.stamp + 1 } :=
    (queue_updQueue_same (s.setQState q (s.runState q)) q fun x => { x with ordPoint := s.stamp + 1 }).trans
      (by rw [setQState_queue_read])
  have hpc : ((s.setQState q (s.runState q)).orderPoint q).rdi .EN_Q_PC_PC q = s.rdi .EN_Q_PC_PC q :=
    rdi_wri_other (s := s) (.inl (by decide))
  simp only [State.wake, hqueue, hw, ho, if_true, updQueue_rdi_read, State.advance, hpc]
  refine ⟨fun f k hf => ?_, ?_⟩
  · rw [rdi_wri_other, updQueue_rdi_read]
    · rfl
    · by_contra hc
      simp only [not_or, not_not] at hc
      exact hf (Prod.ext hc.1 hc.2)
  · rw [rdi_wri_same]
    simp [F.info]

/-- The service of the one waiter of a tally, a TL.WAIT. -/
theorem serve_operand {s : State} {u : Nat} {w : Waiter} {h : HeadWait} (hw : s.waitersOf u = [w]) (hn : w.need ≤ s.tally u)
    (hwait : (s.queue w.queue).wait = some h) (ho : h.operand = true) :
    (s.serve u).tally u = (s.tally u - w.need) % 65536 ∧ (s.serve u).waitersOf u = [] ∧
      (s.serve u).rdi .EN_Q_PC_PC w.queue =
        (loopNext (s.queue w.queue).loops (s.rdi .EN_Q_PC_PC w.queue + 16)).2 % 2 ^ 42 := by
  obtain ⟨hregs, hpc⟩ := wake_operand_rdi (s := s.setTally u (s.tally u - w.need)) (q := w.queue)
    (by rw [setTally_queue_read, hwait]) ho
  rw [serve_first hw hn]
  refine ⟨?_, waitersOf_setWaiters_same .., ?_⟩
  · rw [setWaiters_tally_read, State.tally, hregs _ _ (by simp), State.setQState, rdi_wri_other (by simp), State.setTally,
      rdi_wri_same]
    rfl
  · rw [setWaiters_rdi_read, hpc, setTally_queue_read, State.setTally, rdi_wri_other (by simp)]

/-- The state in which a TL.WAIT of queue `q` has issued. -/
def State.waitIssued (s : State) (q : Nat) (i : Ins) : State :=
  ((s.begun q).countIssue q).updQueue q fun x =>
    { x with work := x.work ++ [newWork ((s.begun q).queue q) i .plain (s.bindEpoch i)], nextId := x.nextId + 1 }

/-- The state in which it waits for `n` of tally `u`, before the tally serves what it can. -/
def State.waitJoined (s : State) (q u n : Nat) : State :=
  ((s.updQueue q fun x => { x with wait := some ⟨u, n, 0, true⟩ }).setQState q 2).setWaiters u [⟨q, n⟩]

section
variable (s : State) (q : Nat) (i : Ins) (u n : Nat)

theorem waitJoined_queue : ((s.waitIssued q i).waitJoined q u n).queue q =
    { s.queue q with
      wait := some ⟨u, n, 0, true⟩, skipping := false, last := s.rdi .EN_Q_PC_PC q, nextId := (s.queue q).nextId + 1,
      work := (s.queue q).work ++ [newWork ((s.begun q).queue q) i .plain (s.bindEpoch i)] } := by
  simp [State.waitJoined, State.waitIssued, State.countIssue, State.addWrap, State.begun]

theorem waitJoined_rdi {f : F} {k : Nat} (hs : f ≠ .EN_Q_STAT_STATE) (hc : f ≠ .EN_Q_ISSUED_COUNT) :
    ((s.waitIssued q i).waitJoined q u n).rdi f k = s.rdi f k := by
  simp only [State.waitJoined, setWaiters_rdi_read, State.setQState]
  rw [rdi_wri_other (.inl hs), updQueue_rdi_read, State.waitIssued, updQueue_rdi_read, State.countIssue, updQueue_rdi_read,
    State.addWrap, rdi_wri_other (.inl hc)]
  rfl

theorem waitJoined_state : ((s.waitIssued q i).waitJoined q u n).qState q = 2 := by
  rw [State.waitJoined, State.qState, setWaiters_rdi_read, State.setQState, rdi_wri_same]
  rfl

theorem waitersOf_waitJoined : ((s.waitIssued q i).waitJoined q u n).waitersOf u = [⟨q, n⟩] :=
  waitersOf_setWaiters_same ..

theorem tlWait_run {s : State} {q : Fin 52} {i : Ins} {u n : Nat} (h : s.issues q 0x09 i)
    (hu : u = operandTally q i.operand) (hn : n = bits i.operand 16 16) (h0 : n ≠ 0) (hw : s.waitersOf u = []) :
    exec (.tlWait q) s = .next (((s.waitIssued q i).waitJoined q u n).serve u) := by
  subst hu hn
  refine next_issue h ?_
  rw [if_neg h0, State.beginWait]
  show State.serve (State.setWaiters _ _ (s.waitersOf (operandTally q i.operand) ++ _)) _ = _
  rw [hw, List.nil_append]
  rfl

end

/-- Settles O17: each instruction by what it makes of its tally; TL.WAIT by the service of the one waiter it becomes. -/
theorem tallyInstructions : Obligations.TallyInstructions := by
  intro q s i u n hu hn hw
  have hn16 : n < 65536 := hn ▸ bits_lt _ _ _
  have hw' : (s.begun q).waitersOf u = [] := hw
  refine ⟨fun h hfence hlocal h0 => ?signal, fun h => ?arm, fun h => ?read, fun h hfence hlocal h0 => ?signalNone,
    fun h h0 => ?waitNone, fun h h0 => ⟨fun hle hsig => ?served, fun hlt => ?joins⟩⟩
  case signal =>
    have hrun : exec (.tlSignal q) s = .next (((s.begun q).signal u n).retire q i) := by
      refine next_issue h ?_
      have hlocal' : (s.begun q).localTally q i = some u := hlocal
      simp only [begun_fenceDone, hfence, Bool.not_true, Bool.false_eq_true, if_false, hlocal', ← hn, if_neg h0]
    have hc := signal_counted hw' n
    refine ⟨_, hrun, ?_, ?_, fun k hk => ?_, hc.byteAt_eq, fun k hk => ?_⟩
    · exact (retireTo_tally ..).trans (signal_tally hw' n)
    · refine (retireTo_pc ..).trans ?_
      rw [hc.queue_eq, begun_loops]
    · exact (retireTo_tally ..).trans (hc.regs _ _ (by simp [ovfRegs, hk]))
    · exact (retireTo_other _ _ _ _ hk).trans ((hc.queue_eq k).trans (begun_other hk))
  case arm =>
    have hrun : exec (.tlArm q) s = .next (((s.begun q).arm u n).retire q i) := next_issue h (by rw [← hu, ← hn])
    have hc := arm_counted hw' n
    refine ⟨_, hrun, ?_, ?_, fun f k hf => ?_, hc.byteAt_eq, fun k hk => ?_⟩
    · exact (retireTo_tally ..).trans (arm_tally hw' hn16)
    · refine (retireTo_pc ..).trans ?_
      rw [hc.queue_eq, begun_loops]
    · have htally := ne_of_not_mem_cons hf
      have hpc := ne_of_not_mem_cons (List.not_mem_of_not_mem_cons hf)
      have hcount := ne_of_not_mem_cons (List.not_mem_of_not_mem_cons (List.not_mem_of_not_mem_cons hf))
      refine (retireTo_rdi _ _ _ _ hpc hcount).trans (hc.regs _ _ fun hm => ?_)
      obtain ⟨rfl, rfl⟩ := Prod.mk.inj (List.mem_singleton.1 hm)
      exact htally.elim (fun h => h rfl) fun h => h rfl
    · exact (retireTo_other _ _ _ _ hk).trans ((hc.queue_eq k).trans (begun_other hk))
  case read =>
    have hrun : exec (.tlRead q) s = .next ((((s.begun q).orderPoint q).wri .EN_Q_CR_CR q (s.tally u)).retire q i) :=
      next_issue h (by rw [← hu, begun_tally])
    refine ⟨_, hrun, (retireTo_rdi _ _ _ _ (by simp) (by simp)).trans rdi_wri_same, ?_⟩
    refine State.Poised.retired_loadCr (s := s) (u := (s.begun q).orderPoint q) ?_ (s.tally u) i
    exact (State.Poised.of_begun s q [(.EN_Q_CR_CR, q.val)]).updQueue
      (g := fun x => { x with ordPoint := s.stamp + 1 }) fun _ => ⟨rfl, rfl, rfl⟩
  case signalNone =>
    have hrun : exec (.tlSignal q) s = .next ((s.begun q).retire q i) := by
      refine next_issue h ?_
      have hlocal' : (s.begun q).localTally q i = some u := hlocal
      simp only [begun_fenceDone, hfence, Bool.not_true, Bool.false_eq_true, if_false, hlocal', ← hn, if_pos h0]
    exact ⟨_, hrun, (State.Poised.of_begun s q []).retired i _ (by simp)⟩
  case waitNone =>
    exact ⟨_, next_issue h (if_pos (hn ▸ h0)), (State.Poised.of_begun s q []).retired i _ (by simp)⟩
  case served =>
    have hrun := tlWait_run h hu hn h0 hw
    have htally : ((s.waitIssued q i).waitJoined q u n).tally u = s.tally u :=
      waitJoined_rdi s q i u n (by decide) (by decide)
    obtain ⟨hcount, hnone, hpc⟩ := serve_operand (waitersOf_waitJoined s q i u n) (hle.trans_eq htally.symm)
      (by rw [waitJoined_queue]) rfl
    refine ⟨_, hrun, ?_, hnone, ?_⟩
    · rw [hcount, htally]
    · rw [hpc, waitJoined_queue, waitJoined_rdi s q i u n (by decide) (by decide)]
  case joins =>
    have hrun := tlWait_run h hu hn h0 hw
    have htally : ((s.waitIssued q i).waitJoined q u n).tally u = s.tally u :=
      waitJoined_rdi s q i u n (by decide) (by decide)
    rw [serve_not_yet (w := ⟨q, n⟩) (waitersOf_waitJoined s q i u n) (htally.trans_lt hlt)] at hrun
    refine ⟨_, hrun, htally, waitersOf_setWaiters_same .., waitJoined_state s q i u n, ?_⟩
    rw [setWaiters_queue_read, waitJoined_queue]

end Sys2Proof.Machine

/-! The host's tally operations and the wait watchdog (O18, O19). -/

namespace Sys2Proof.Machine

/-! ### Allocation (R119, R126) -/

/-- `t` is `s` once the first `n` bits of TL_ALLOC[w] went from `old` to `new`. -/
structure State.Allotted (s t : State) (w old new n : Nat) : Prop where
  rest : t = { s with regs := t.regs, prov := t.prov }
  regs : ∀ f k, f ≠ .TL_COUNT_COUNT → f ≠ .TL_OVF_BITS → t.rdi f k = s.rdi f k
  tally : ∀ u, t.tally u = if u / 32 = w ∧ u % 32 < n ∧ bit old (u % 32) ≠ bit new (u % 32) then 0 else s.tally u

theorem clearTally_tally (s : State) (u k : Nat) : (s.clearTally u).tally k = if k = u then 0 else s.tally k := by
  rw [State.clearTally, State.tally, rdi_wri_other (.inl (by decide))]
  by_cases hk : k = u
  · rw [hk, if_pos rfl]
    exact rdi_wri_same
  · rw [if_neg hk]
    exact rdi_wri_other (.inr hk)

theorem clearTally_rdi (s : State) (u : Nat) {f : F} {k : Nat} (hc : f ≠ .TL_COUNT_COUNT) (ho : f ≠ .TL_OVF_BITS) :
    (s.clearTally u).rdi f k = s.rdi f k :=
  (rdi_wri_other (.inl ho)).trans (rdi_wri_other (.inl hc))

theorem allocBit_of_no_waiters {s : State} (h : s.waiters = []) (w old new i : Nat) :
    s.allocBit w old new i =
      if bit old i = bit new i then s
      else if bit old i then (s.clearTally (32 * w + i)).uncheck (32 * w + i) else s.clearTally (32 * w + i) := by
  have hnone : (((s.clearTally (32 * w + i)).uncheck (32 * w + i)).waitersOf (32 * w + i)) = [] :=
    congrArg (fun l => Tbl.get [] l (32 * w + i)) h
  simp only [State.allocBit, State.faultWaiters, hnone, List.foldl_nil]

theorem State.Allotted.succ {s t : State} {w old new i : Nat} (h : s.Allotted t w old new i) (hi : i < 32)
    (hs : s.waiters = []) : s.Allotted (t.allocBit w old new i) w old new (i + 1) := by
  have hnone : t.waiters = [] := by
    rw [h.rest]
    exact hs
  have hchanged : ∀ u : State, (∀ k, u.tally k = (t.clearTally (32 * w + i)).tally k) → bit old i ≠ bit new i →
      ∀ k, u.tally k =
        if k / 32 = w ∧ k % 32 < i + 1 ∧ bit old (k % 32) ≠ bit new (k % 32) then 0 else s.tally k := by
    intro u hu hbit k
    rw [hu, clearTally_tally, h.tally]
    by_cases hk : k = 32 * w + i
    · have hdiv : k / 32 = w := by omega
      have hmod : k % 32 = i := by omega
      rw [if_pos hk, if_pos ⟨hdiv, by omega, hmod ▸ hbit⟩]
    · have hsame : (k / 32 = w ∧ k % 32 < i + 1) ↔ (k / 32 = w ∧ k % 32 < i) := by omega
      simp only [if_neg hk, ← and_assoc, hsame]
  have hregs : ∀ f k, f ≠ .TL_COUNT_COUNT → f ≠ .TL_OVF_BITS → (t.clearTally (32 * w + i)).rdi f k = s.rdi f k :=
    fun f k hc ho => (clearTally_rdi t _ hc ho).trans (h.regs f k hc ho)
  have hrest : (t.clearTally (32 * w + i)) =
      { s with regs := (t.clearTally (32 * w + i)).regs, prov := (t.clearTally (32 * w + i)).prov } :=
    congrArg (fun x : State =>
      { x with regs := (t.clearTally (32 * w + i)).regs, prov := (t.clearTally (32 * w + i)).prov }) h.rest
  rw [allocBit_of_no_waiters hnone]
  by_cases hbit : bit old i = bit new i
  · rw [if_pos hbit]
    refine ⟨h.rest, h.regs, fun k => (h.tally k).trans (if_congr ?_ rfl rfl)⟩
    constructor
    · exact fun ⟨hdiv, hmod, hne⟩ => ⟨hdiv, by omega, hne⟩
    · refine fun ⟨hdiv, hmod, hne⟩ => ⟨hdiv, (Nat.lt_succ_iff_lt_or_eq.1 hmod).resolve_right fun he => hne ?_, hne⟩
      rw [he, hbit]
  · rw [if_neg hbit]
    split
    · refine ⟨?_, hregs, hchanged _ (fun _ => rfl) hbit⟩
      exact congrArg (fun x : State => { x with
        prov := ((t.clearTally (32 * w + i)).uncheck (32 * w + i)).prov }) hrest
    · exact ⟨hrest, hregs, hchanged _ (fun _ => rfl) hbit⟩

theorem allocBits_allotted {s : State} (hs : s.waiters = []) (w old new : Nat) {n : Nat} (hn : n ≤ 32) :
    s.Allotted ((List.range n).foldl (fun s i => s.allocBit w old new i) s) w old new n := by
  induction n with
  | zero => exact ⟨rfl, fun _ _ _ _ => rfl, fun u => by simp⟩
  | succ n ih =>
    rw [List.range_succ, List.foldl_append]
    exact (ih (by omega)).succ (by omega) hs

/-! ### Host operations (R121, R126, R191) -/

/-- What the registers of a host operation leave: its request, GO clear. -/
def hostOpRegs : List (F × Nat) := [(.TL_HOST_OP_TALLY, 0), (.TL_HOST_OP_COUNT, 0), (.TL_HOST_CTL_OP, 0)]

theorem hostOp_onlyRegs (s : State) (u n op : Nat) : s.onlyRegs (s.hostOp u n op) hostOpRegs :=
  (((State.onlyRegs.refl s _).wri (by simp [hostOpRegs]) u).wri (by simp [hostOpRegs]) n).wri (by simp [hostOpRegs]) op

theorem hostOp_rdi (s : State) (u n op : Nat) {f : F} (k : Nat) (hf : ∀ j, (f, j) ∉ hostOpRegs) :
    (s.hostOp u n op).rdi f k = s.rdi f k :=
  (hostOp_onlyRegs s u n op).2 f k (hf k)

theorem hostOp_hostMay (s : State) (u n op k : Nat) : (s.hostOp u n op).hostMay k = s.hostMay k := by
  simp [State.hostMay, State.allocated, State.bayFaulted, State.bitOf, State.rd, hostOp_rdi, hostOpRegs]

theorem hostOp_tally (s : State) (u n op k : Nat) : (s.hostOp u n op).tally k = s.tally k :=
  hostOp_rdi s u n op k (by simp [hostOpRegs])

theorem hostGo_of_clear {s : State} (h : s.flag .TL_HOST_CTL_GO 0 = false) (arm : Bool) (u n : Nat) :
    s.hostGo arm u n =
      if s.writesHeld && s.hostMay u then ((s.hostOp u n (b2n arm)).wr .TL_HOST_CTL_GO 1).holdAccess (.tallyOp arm u n)
      else (s.hostOp u n (b2n arm)).hostEffect arm u n := by
  have hgo : (s.hostOp u n (b2n arm)).flag .TL_HOST_CTL_GO 0 = false := by
    rw [State.flag, hostOp_rdi s u n _ 0 (by simp [hostOpRegs])]
    exact h
  have hheld : (s.hostOp u n (b2n arm)).writesHeld = s.writesHeld := rfl
  simp only [State.hostGo, hgo, hheld, hostOp_hostMay, Bool.false_eq_true, if_false]

theorem hostEffect_refused {s : State} {u : Nat} (h : s.hostMay u = false) (arm : Bool) (n : Nat) :
    ((s.hostOp u n (b2n arm)).hostEffect arm u n).rd .TL_HOST_CTL_REFUSED = 1 ∧
      s.onlyRegs ((s.hostOp u n (b2n arm)).hostEffect arm u n) (hostOpRegs ++ [(.TL_HOST_CTL_REFUSED, 0)]) := by
  have hno : ¬ (s.hostOp u n (b2n arm)).hostMay u = true := by simp [hostOp_hostMay, h]
  rw [State.hostEffect, if_neg hno]
  exact ⟨rdi_wri_same, ((hostOp_onlyRegs s u n _).mono fun _ h => List.mem_append_left _ h).wri (by simp) 1⟩

section
variable {s : State} (hup : s.hostUp = true) (hidle : s.flag .PW_STATE_IDLE 0 = false)
  {u : Fin 65536} {n : Nat} (hn : n < 65536)
include hup hidle hn

theorem hostSignal_run : exec (.hostSignal u n) s = .next (s.hostGo false u n) := by
  refine (if_pos hn).trans (congrArg Host.Outcome.next ?_)
  rw [byHost_of_up hup, leaveIdle_of_awake hidle]

theorem hostArm_run : exec (.hostArm u n) s = .next (s.hostGo true u n) := by
  refine (if_pos hn).trans (congrArg Host.Outcome.next ?_)
  rw [byHost_of_up hup, leaveIdle_of_awake hidle]

end

/-- Settles O18: the write of TL_ALLOC bit by bit; the host's operations by the three branches of `hostGo`. -/
theorem hostTalliesAndAllocation : Obligations.HostTalliesAndAllocation := by
  refine ⟨fun s w v hup hv hs => ?alloc, fun s u n hup hidle hn hgo =>
    ⟨fun hmay hheld => ?held, fun hmay hheld hnone => ⟨fun h0 => ?signals, ?arms⟩, fun hmay => ⟨?signalNot, ?armNot⟩⟩⟩
  case alloc =>
    have hrun : exec (.tlAllocWrite w v) s = .next ((List.range 32).foldl
        (fun t i => t.allocBit w (s.rdi .TL_ALLOC_BITS w) v i) (s.wri .TL_ALLOC_BITS w v)) :=
      (if_pos hv).trans (congrArg Host.Outcome.next (byHost_of_up hup _))
    have hallot := allocBits_allotted (s := s.wri .TL_ALLOC_BITS w v) hs w (s.rdi .TL_ALLOC_BITS w) v (le_refl 32)
    have hbits := (hallot.regs .TL_ALLOC_BITS w (by decide) (by decide)).trans (rdi_wri_same.trans (Nat.mod_eq_of_lt hv))
    have htally : ∀ k, (s.wri .TL_ALLOC_BITS w v).tally k = s.tally k := fun k => rdi_wri_other (.inl (by decide))
    refine ⟨_, hrun, hbits, fun i hi => ?_, fun i hi => ?_, fun k hk => ?_, hallot.rest⟩
    · have hdiv : (32 * w.val + i) / 32 = w := by omega
      have hmod : (32 * w.val + i) % 32 = i := by omega
      rw [State.allocated, hdiv, hmod, hbits]
    · have hdiv : (32 * w.val + i) / 32 = w := by omega
      have hmod : (32 * w.val + i) % 32 = i := by omega
      rw [hallot.tally, hdiv, hmod, htally]
      simp [hi]
    · rw [hallot.tally, htally, if_neg fun h => hk h.1]
  all_goals have hop : (s.hostOp u n 0).waitersOf u = s.waitersOf u := rfl
  case held =>
    refine ⟨_, hostSignal_run hup hidle hn, ?_⟩
    simp only [hostGo_of_clear hgo, hmay, hheld, Bool.and_self, if_true]
    refine ⟨?_, rfl, fun k => ?_⟩
    · show ((s.hostOp u n 0).wri .TL_HOST_CTL_GO 0 1).rdi .TL_HOST_CTL_GO 0 = 1
      exact rdi_wri_same
    · show ((s.hostOp u n 0).wri .TL_HOST_CTL_GO 0 1).rdi .TL_COUNT_COUNT k = _
      exact (rdi_wri_other (.inl (by decide))).trans (hostOp_tally s u n _ k)
  case signals =>
    refine ⟨_, hostSignal_run hup hidle hn, ?_⟩
    have hmay' : (s.hostOp u n (b2n false)).hostMay u = true := (hostOp_hostMay ..).trans hmay
    have hnone' : (s.hostOp u n (b2n false)).waitersOf u = [] := hnone
    rw [hostGo_of_clear hgo, hheld, State.hostEffect, hmay']
    simp only [Bool.false_and, Bool.false_eq_true, if_false, if_true, if_neg h0]
    have hc := signal_counted hnone' n
    refine ⟨?_, fun k hk => ?_, hc.byteAt_eq⟩
    · rw [signal_tally hnone' n, hostOp_tally]
    · exact (hc.regs _ _ (by simp [ovfRegs, hk])).trans (hostOp_tally s u n _ k)
  case arms =>
    refine ⟨_, hostArm_run hup hidle hn, ?_⟩
    have hmay' : (s.hostOp u n (b2n true)).hostMay u = true := (hostOp_hostMay ..).trans hmay
    have hnone' : (s.hostOp u n (b2n true)).waitersOf u = [] := hnone
    rw [hostGo_of_clear hgo, hheld, State.hostEffect, hmay']
    simp only [Bool.false_and, Bool.false_eq_true, if_false, if_true]
    have hc := arm_counted hnone' n
    refine ⟨arm_tally hnone' hn, fun k hk => ?_, hc.byteAt_eq⟩
    exact (hc.regs _ _ (by simp [hk])).trans (hostOp_tally s u n _ k)
  case signalNot =>
    refine ⟨_, hostSignal_run hup hidle hn, ?_⟩
    rw [hostGo_of_clear hgo, hmay, Bool.and_false, if_neg Bool.false_ne_true]
    exact hostEffect_refused hmay false n
  case armNot =>
    refine ⟨_, hostArm_run hup hidle hn, ?_⟩
    rw [hostGo_of_clear hgo, hmay, Bool.and_false, if_neg Bool.false_ne_true]
    exact hostEffect_refused hmay true n

/-! ### The wait watchdog (R128) -/

/-- The only waiter of a tally leaves it. -/
theorem leaveWait_of_only {s : State} {q : Nat} {h : HeadWait} (hw : (s.queue q).wait = some h)
    (hwaits : s.waitersOf h.tally = [⟨q, h.need⟩]) :
    s.leaveWait q = (((s.setWaiters h.tally []).updQueue q fun x =>
      { x with wait := none, taken := x.taken && !h.operand, work := x.work.filter fun k => k.kind != .plain || k.done })
      ).setWaiters h.tally [] := by
  simp only [State.leaveWait, hw, hwaits, List.filter_cons, bne_self_eq_false, Bool.false_eq_true, if_false, List.filter_nil]
  have hnone : (s.setWaiters h.tally []).waitersOf h.tally = [] := waitersOf_setWaiters_same ..
  exact serve_of_no_waiters hnone

theorem setWdog_of_period (s : State) (q : Nat) {p : Nat} (h1 : 1 ≤ p) (hp : p ≤ 60000000) :
    s.setWdog q (p + 2 ^ 31) = (s.wri .TL_WDOG_PERIOD q p).wri .TL_WDOG_EN q 1 := by
  have hperiod : bits (p + 2 ^ 31) 0 26 = p := by
    unfold bits
    omega
  have hen : bits (p + 2 ^ 31) 31 1 = 1 := by
    unfold bits
    omega
  rw [State.setWdog, hperiod, hen, if_pos ⟨h1, hp⟩]

/-- Settles O19: the two fields of the write; the watchdog's fault follows the only waiter's leave of its tally. -/
theorem waitWatchdog : Obligations.WaitWatchdog := by
  refine fun s q => ⟨fun p hup h1 hp hwait => ?written, fun hdue => ?early, fun h hwait hwaits hen hlasted htaken h5 => ?fires⟩
  case written =>
    have hnot : ((s.wri .TL_WDOG_PERIOD q p).wri .TL_WDOG_EN q 1).wdogDue q = false := by simp [State.wdogDue, hwait]
    have hrun : exec (.tlWdogWrite q (p + 2 ^ 31)) s = .next ((s.wri .TL_WDOG_PERIOD q p).wri .TL_WDOG_EN q 1) := by
      have hv : p + 2 ^ 31 < 2 ^ 32 := by omega
      rw [← setWdog_of_period s q h1 hp] at hnot ⊢
      generalize p + 2 ^ 31 = v at hv hnot
      refine (if_pos hv).trans (congrArg Host.Outcome.next ?_)
      rw [byHost_of_up hup]
      exact if_neg (by simp [hnot])
    refine ⟨_, hrun, ?_, rdi_wri_same, ?_⟩
    · rw [rdi_wri_other (.inl (by decide)), rdi_wri_same]
      exact Nat.mod_eq_of_lt (by simp only [F.info]; omega)
    · exact ((State.onlyRegs.refl s _).wri List.mem_cons_self p).wri (List.mem_cons_of_mem _ List.mem_cons_self) 1
  case early =>
    show execWaitTimeout q s = _
    rw [execWaitTimeout, hdue, if_neg Bool.false_ne_true]
  case fires =>
    have hdue : s.wdogDue q = true := by simp [State.wdogDue, hwait, hen, hlasted]
    have hrun : exec (.waitTimeout q) s = .next (s.fireWdog q) := if_pos hdue
    rw [State.fireWdog, leaveWait_of_only hwait hwaits] at hrun
    have htaken' : ((s.queue q).taken && !h.operand) = false := by
      rcases htaken with ho | ht
      · rw [ho, Bool.not_true, Bool.and_false]
      · rw [ht, Bool.false_and]
    have hfault := engineFault_faulted (s := (s.leaveWait q).wr .TL_STAT_WDOG_FIRED 1) (q := q.val)
      (by rw [leaveWait_of_only hwait hwaits]; simp) (by rw [leaveWait_of_only hwait hwaits]; simpa using htaken')
      (.of .waitTimeout) (s.rdi .EN_Q_PC_PC q)
    rw [leaveWait_of_only hwait hwaits] at hfault
    have hcode := hfault.code (by simpa [State.qState] using h5)
    have hwaiters := (congrArg (fun x : State => x.waitersOf h.tally) hfault.rest :)
    refine ⟨_, hrun, hfault.state, hcode, ?_, ?_, ?_⟩
    · exact (hfault.regs _ _ (by decide) (by simp [stopRegs])).trans (rdi_wri_other (.inl (by decide)))
    · refine hwaiters.trans ?_
      exact waitersOf_setWaiters_same (s.setWaiters h.tally []) h.tally []
    · exact (hfault.regs _ _ (by decide) (by simp [stopRegs])).trans rdi_wri_same

end Sys2Proof.Machine

/-! Power, P-states and the Floor state (O25, O26, O28). -/

namespace Sys2Proof.Machine

/-! ### What flags, heat and fractions leave as it is -/

theorem raiseFlag5_logged (s : State) (f : F) : s.Logged (s.raiseFlag5 f) [f] :=
  .ite (.refl s _) (((State.Logged.refl s _).wri List.mem_cons_self 0 1).msix 5)

theorem raiseFlag5_flag (s : State) {f : F} (hf : 1 % 2 ^ f.info.width = 1) : (s.raiseFlag5 f).flag f 0 = true := by
  unfold State.raiseFlag5
  split
  · assumption
  · rw [State.flag, msix_rdi, rdi_wr, if_pos ⟨rfl, rfl⟩, hf]
    rfl

theorem notePin_logged (s : State) : s.Logged s.notePin [.PW_STAT_PIN_OVERRIDDEN] :=
  .ite (raiseFlag5_logged s _) (.refl s _)

theorem noteHeat_logged (s : State) : s.Logged s.noteHeat [.PW_THR_STAT_THROTTLED, .TM_STAT_THROTTLING] := by
  have hthr : s.Logged ((List.range 8).foldl
      (fun s t => s.wri .PW_THR_STAT_THROTTLED t (b2n (decide (s.policyLimit t < s.heatLimit t)))) s)
      [.PW_THR_STAT_THROTTLED, .TM_STAT_THROTTLING] :=
    .foldl (fun _ _ h => h.wri (by decide) _ _) _ (.refl s _)
  exact .ite (hthr.trans ((raiseFlag5_logged _ _).mono (by simp))) (hthr.wri (by decide) _ _)

theorem showFracs_onlyRegs (s : State) : s.onlyRegs s.showFracs
    [(.PW_BUBBLE_FRAC_LINKS, 0), (.PW_BUBBLE_FRAC_MEMORY, 0), (.PW_BUBBLE_FRAC_COMPUTE, 0), (.PW_STAT_CAPPING, 0)] :=
  ((((State.onlyRegs.refl s _).wri (by simp) _).wri (by simp) _).wri (by simp) _).wri (by simp) _

namespace State.Logged

variable {s t : State} {fs : List F}

theorem power_eq (h : s.Logged t fs) : t.power = s.power := (congrArg State.power h.rest :)
theorem clock_eq (h : s.Logged t fs) : t.clock = s.clock := (congrArg State.clock h.rest :)
theorem modes_eq (h : s.Logged t fs) : t.modes = s.modes := (congrArg State.modes h.rest :)
theorem boot_eq (h : s.Logged t fs) : t.boot = s.boot := (congrArg State.boot h.rest :)
theorem hostUp_eq (h : s.Logged t fs) : t.hostUp = s.hostUp := (congrArg State.hostUp h.rest :)

end State.Logged

/-! ### Configuration (R263, R266) -/

theorem bits_of_lt {v n : Nat} (h : v < 2 ^ n) : bits v 0 n = v := by
  rw [bits, Nat.pow_zero, Nat.div_one, Nat.mod_eq_of_lt h]

theorem applyProfile_rd (s : State) {p : Nat} (hp : p < 3) :
    (s.applyProfile p).rd .PW_PROFILE_PROFILE = p ∧ (s.applyProfile p).rd .PW_CAP_WATTS = [2800, 2400, 1800].getD p 0 ∧
      (s.applyProfile p).rd .PW_PSTATE_CEIL = [0, 0, 2].getD p 0 := by
  have hpin := fun u : State => (notePin_logged u).regs
  interval_cases p <;> simp [State.applyProfile, State.rd, hpin] <;> decide

/-- One field written, and nothing else. -/
theorem wri_shows (s : State) {f : F} {v : Nat} (hv : v < 2 ^ f.info.width) (k : Nat) :
    (s.wri f k v).rdi f k = v ∧ s.onlyRegs (s.wri f k v) [(f, k)] :=
  ⟨rdi_wri_same.trans (Nat.mod_eq_of_lt hv), (State.onlyRegs.refl s _).wri List.mem_cons_self v⟩

theorem modes_isEmpty {s : State} (h : s.modes ≠ []) : s.modes.isEmpty = false := by
  simpa using h

/-- Settles O25: each write by the branches of its rule. -/
theorem powerConfiguration : Obligations.PowerConfiguration := by
  intro s v hup hv
  have hv32 : v < 2 ^ 32 := by omega
  have hprofile : exec (.pwProfileWrite v) s = .next (s.writeProfile v) :=
    (if_pos hv32).trans (congrArg Host.Outcome.next (byHost_of_up hup _))
  have hcap : exec (.pwCapWrite v) s = .next (s.writeCap v) :=
    (if_pos hv32).trans (congrArg Host.Outcome.next (byHost_of_up hup _))
  have hprio : exec (.pwPrioWrite v) s = .next (if isOrder (bits v 0 2) (bits v 2 2) (bits v 4 2) then
      ((s.wr .PW_PRIO_FIRST (bits v 0 2)).wr .PW_PRIO_SECOND (bits v 2 2)).wr .PW_PRIO_THIRD (bits v 4 2)
      else s.wr .PW_STAT_CFG_REFUSED 1) :=
    (if_pos hv32).trans (congrArg Host.Outcome.next (byHost_of_up hup _))
  have hrefused := wri_shows s (f := .PW_STAT_CFG_REFUSED) (v := 1) (by decide) 0
  refine ⟨fun hv3 => ?profile, fun hv3 => ?three, fun hlo hhi => ?cap, fun hout => ?capNot, fun hord => ?prio,
    fun hord => ?prioNot⟩
  case profile =>
    have hbits : bits v 0 2 = v := bits_of_lt (by omega)
    have hne : ¬ v = 3 := by omega
    simp only [State.writeProfile, hbits, if_neg hne] at hprofile
    refine ⟨fun hnone => ?_, fun hsome hfree => ?_, fun hbusy => ?_⟩
    · have hfree : s.modeBusy (.profile v) = false := by simp [State.modeBusy, hnone]
      have hempty : s.modes.isEmpty = true := by simp [hnone]
      simp only [hfree, State.orAfter, hempty, Bool.false_eq_true, if_false, if_true] at hprofile
      obtain ⟨h1, h2, h3⟩ := applyProfile_rd s hv3
      exact ⟨_, hprofile, h1, h2, h3, rfl⟩
    · simpa only [hfree, State.orAfter, modes_isEmpty hsome, Bool.false_eq_true, if_false] using hprofile
    · simp only [hbusy, if_true] at hprofile
      refine ⟨_, hprofile, rdi_wri_same, (rdi_wri_other (.inl (by decide))).trans rdi_wri_same, ?_⟩
      exact ((State.onlyRegs.refl s _).wri (by simp) 1).wri (by simp) 1
  case three =>
    have hbits : bits v 0 2 = 3 := by rw [hv3, bits_of_lt (by decide)]
    rw [State.writeProfile, if_pos hbits] at hprofile
    exact ⟨_, hprofile, hrefused⟩
  case cap =>
    have hbits : bits v 0 12 = v := bits_of_lt (by omega)
    rw [State.writeCap, hbits, if_pos ⟨hlo, hhi⟩] at hcap
    exact ⟨_, hcap, wri_shows s (by simp only [F.info]; omega) 0⟩
  case capNot =>
    have hbits : bits v 0 12 = v := bits_of_lt (by omega)
    rw [State.writeCap, hbits, if_neg (by omega)] at hcap
    exact ⟨_, hcap, hrefused⟩
  case prio =>
    rw [if_pos hord] at hprio
    have hlt : ∀ lo, bits v lo 2 < 4 := fun lo => bits_lt v lo 2
    refine ⟨_, hprio, ?_, ?_, ?_, ?_⟩
    · simp [State.rd, F.info, Nat.mod_eq_of_lt, hlt]
    · simp [State.rd, F.info, Nat.mod_eq_of_lt, hlt]
    · simp [State.rd, F.info, Nat.mod_eq_of_lt, hlt]
    · exact (((State.onlyRegs.refl s _).wri (by simp) _).wri (by simp) _).wri (by simp) _
  case prioNot =>
    rw [if_neg (by simp [hord])] at hprio
    exact ⟨_, hprio, hrefused⟩

/-! ### P-states (R259, R270, R275, R277) -/

/-- The register fields of island `i`'s switch. -/
def islandRegs (i : Nat) : List (F × Nat) :=
  [(.CK_ISL_STAT_MHZ, i), (.CK_ISL_STAT_CUR, i), (.CK_ISL_STAT_SWITCHING, i), (.CK_ISL_SWITCHES_COUNT, i),
    (.CK_ISL_CYCLES_COUNT, i)]

theorem switchTo_onlyRegs (s : State) (i c : Nat) :
    s.onlyRegs { s.switchTo i c with clock := s.clock } (islandRegs i) := by
  have hswitch := ((((State.onlyRegs.refl s (islandRegs i)).wri (f := .CK_ISL_STAT_CUR) (i := i) (by simp [islandRegs])
    c).wri (f := .CK_ISL_STAT_MHZ) (i := i) (by simp [islandRegs]) (s.srcMhz i c)).wri (f := .CK_ISL_STAT_SWITCHING)
    (i := i) (by simp [islandRegs]) 0).addSat (f := .CK_ISL_SWITCHES_COUNT) (i := i) (by simp [islandRegs]) 1
  unfold State.switchTo
  dsimp only
  split
  · exact hswitch.addWrap (f := .CK_ISL_CYCLES_COUNT) (i := i) (by simp [islandRegs]) 64
  · exact hswitch

theorem switchTo_divided (s : State) (i c : Nat) :
    (s.switchTo i c).clock.divided = s.clock.divided.filter fun x => x != i := by
  unfold State.switchTo
  dsimp only
  split <;> rfl

@[simp] theorem keepDivided_rdi (s : State) (g : Nat → Bool) (f : F) (k : Nat) : (s.keepDivided g).rdi f k = s.rdi f k := rfl

@[simp] theorem setOut_rdi (s : State) (i o m : Nat) (f : F) (k : Nat) : (s.setOut i o m).rdi f k = s.rdi f k := rfl

theorem switchTo_rdi_same (s : State) (i c : Nat) :
    (s.switchTo i c).rdi .CK_ISL_STAT_CUR i = c % 4 ∧ (s.switchTo i c).rdi .CK_ISL_STAT_MHZ i = s.srcMhz i c % 2 ^ 12 ∧
      (s.switchTo i c).rdi .CK_ISL_STAT_SWITCHING i = 0 := by
  unfold State.switchTo
  dsimp only
  split <;> simp [State.addWrap, State.addSat, rdi_wri, F.info]

/-! A thresher brought to a P-state (R259, R286). -/

/-- What a thresher's island shows of its P-state and clock. -/
def runRegs (t : Nat) : List (F × Nat) := (.PW_THR_STAT_PSTATE, t) :: islandRegs t

theorem runAt_onlyRegs (s : State) (t p : Nat) : s.onlyRegs { s.runAt t p with clock := s.clock } (runRegs t) := by
  have hswitch : ∀ o, s.onlyRegs { (s.setOut t o (pstateMhz p)).switchTo t o with clock := s.clock } (runRegs t) := by
    intro o
    obtain ⟨hrest, hregs⟩ := switchTo_onlyRegs (s.setOut t o (pstateMhz p)) t o
    exact State.onlyRegs.mono ⟨congrArg (fun x : State => { x with clock := s.clock }) hrest, hregs⟩ fun _ =>
      List.mem_cons_of_mem _
  exact (hswitch (if s.rdi .CK_ISL_STAT_CUR t = 0 then 1 else 0)).wri (f := .PW_THR_STAT_PSTATE) (i := t)
    List.mem_cons_self p

theorem runAt_divided (s : State) (t p : Nat) : (s.runAt t p).clock.divided = s.clock.divided.filter fun x => x != t :=
  switchTo_divided ..

theorem runAt_pstate (s : State) {t p : Nat} (hp : p ≤ 7) : (s.runAt t p).rdi .PW_THR_STAT_PSTATE t = p :=
  rdi_wri_same.trans (Nat.mod_eq_of_lt (Nat.lt_succ_of_le hp))

theorem pstateMhz_lt (p : Nat) : pstateMhz p < 2 ^ 12 := by
  unfold pstateMhz
  rcases Nat.lt_or_ge p 8 with hp | hp
  · interval_cases p <;> decide
  · rw [List.getD_eq_default _ _ hp]
    decide

theorem runAt_mhz (s : State) {t : Nat} (ht : t < 8) (p : Nat) : (s.runAt t p).rdi .CK_ISL_STAT_MHZ t = pstateMhz p := by
  have hout : ∀ o, o ≠ 2 → (s.setOut t o (pstateMhz p)).srcMhz t o = pstateMhz p := fun o ho => by
    simp [State.srcMhz, State.outMhz, State.setOut, ho, ht]
  have hother : (if s.rdi .CK_ISL_STAT_CUR t = 0 then 1 else 0) ≠ 2 := by split <;> decide
  refine (rdi_wri_other (.inl (by decide))).trans (((switchTo_rdi_same _ t _).2.1).trans ?_)
  rw [hout _ hother, Nat.mod_eq_of_lt (pstateMhz_lt p)]

theorem runAt_mem (s : State) (t p : Nat) : (s.runAt t p).mem = s.mem :=
  (congrArg State.mem (runAt_onlyRegs s t p).1 :)

theorem runAt_queues (s : State) (t p : Nat) : (s.runAt t p).queues = s.queues :=
  (congrArg State.queues (runAt_onlyRegs s t p).1 :)

theorem runAt_power (s : State) (t p : Nat) : (s.runAt t p).power = s.power :=
  (congrArg State.power (runAt_onlyRegs s t p).1 :)

theorem byteAt_of_mem {s t : State} (h : t.mem = s.mem) (p : Nat) : t.byteAt p = s.byteAt p := by
  rw [State.byteAt, h, State.byteAt]

theorem contains_iff {l : List Nat} {t : Nat} : l.contains t = true ↔ t ∈ l := List.contains_iff_mem

/-- Settles O26: the step of each command by its branch; a switch of the island by the rule of `runAt`. -/
theorem pstateCommands : Obligations.PstateCommands := by
  refine fun s t => ⟨fun hfree hfloor hp => ⟨fun hlt hdown => ?down, fun hup hret => ?up, fun heq => ?stays⟩,
    fun hfloor hfree hdiv => ?floor, fun hauto hpin hhalf => ?auto, fun hon hpow hcnt => ?droop, fun hdroop => ?expiry,
    fun x hx hhot hp => ⟨fun hheat => ?throttle, fun hheat => ?held⟩⟩
  all_goals have ht := t.isLt
  case down =>
    have hrun : exec (.pstateChange t) s = .next (s.runAt t (s.rdi .PW_THR_STAT_PSTATE t + 1)) := by
      have hnot : ¬ s.pstateWanted t < s.rdi .PW_THR_STAT_PSTATE t := by omega
      refine congrArg Host.Outcome.next ?_
      simp [hfloor, hfree, hnot, State.stepToward, hdown]
    exact ⟨_, hrun, runAt_pstate s (by omega), runAt_mhz s ht _, runAt_onlyRegs ..⟩
  case up =>
    have hrun : exec (.pstateChange t) s = .next (s.runAt t (s.rdi .PW_THR_STAT_PSTATE t - 1)) := by
      have hnot : ¬ s.rdi .PW_THR_STAT_PSTATE t < s.pstateWanted t := by omega
      refine congrArg Host.Outcome.next ?_
      simp [hfloor, hfree, hret, hnot, State.stepToward, hup]
    exact ⟨_, hrun, runAt_pstate s (by omega), runAt_mhz s ht _, runAt_onlyRegs ..⟩
  case stays =>
    refine congrArg Host.Outcome.next ?_
    simp [hfloor, hfree, heq, State.stepToward]
  case floor =>
    have hrun : exec (.pstateChange t) s = .next (s.runAt t 7) := by
      refine congrArg Host.Outcome.next ?_
      simp [hfloor, hfree, State.settleFloor, hdiv]
    refine ⟨_, hrun, runAt_pstate s (le_refl 7), runAt_mhz s ht 7, ?_, runAt_queues .., byteAt_of_mem (runAt_mem ..)⟩
    simp [runAt_divided]
  case auto =>
    have hrun : exec (.autoPstateStep t) s = .next (s.setAuto t (min 7 (s.rdi .PW_THR_STAT_PSTATE t + 1))) := by
      refine congrArg Host.Outcome.next ?_
      simp [hauto, hpin, hhalf]
    exact ⟨_, hrun, Tbl.get_set_same .., rfl⟩
  case droop =>
    have hrun : exec (.droop t) s = .next { s.addSat .PW_DROOP_CNT_COUNT t 1 with
        power := { s.power with droop := if s.power.droop.contains t then s.power.droop else s.power.droop ++ [t.val] } } := by
      refine congrArg Host.Outcome.next (if_neg ?_)
      simpa [hon] using hpow
    refine ⟨_, hrun, ?_, ?_, (State.onlyRegs.refl s _).addSat List.mem_cons_self 1⟩
    · dsimp only
      split <;> simp_all
    · refine (rdi_wri_same (s := s)).trans ?_
      simp only [F.info]
      omega
  case expiry =>
    have hrun : exec (.droopHoldExpiry t) s = .next { ({ s with freeCtr := s.freeCtr + 1 } : State).addWrap .PW_BUBBLE_CNT_COUNT
        t (s.rd .PW_DROOP_CFG_HOLD + (Config.freeValue s.freeCtr).toNat) with
        power := { s.power with droop := s.power.droop.filter fun x => x != t.val } } :=
      congrArg Host.Outcome.next (if_pos (by simpa using hdroop))
    refine ⟨_, hrun, by simp, ?_⟩
    exact (State.onlyRegs.refl s [(.PW_BUBBLE_CNT_COUNT, t.val)]).addWrap (f := .PW_BUBBLE_CNT_COUNT) List.mem_cons_self _
  case throttle =>
    have hrun : exec (.throttleStep t) s = .next
        (((s.setHeat t (s.rdi .PW_THR_STAT_PSTATE t + 1)).addSat .TM_THROTTLE_CNT_COUNT 0 1).noteHeat.notePin) := by
      refine congrArg Host.Outcome.next ?_
      simp [hx, hhot, hp, hheat]
    have hl := ((noteHeat_logged ((s.setHeat t (s.rdi .PW_THR_STAT_PSTATE t + 1)).addSat .TM_THROTTLE_CNT_COUNT 0 1)).mono
      (gs := [.PW_THR_STAT_THROTTLED, .TM_STAT_THROTTLING, .PW_STAT_PIN_OVERRIDDEN]) (by simp)).trans
      ((notePin_logged _).mono (by simp))
    refine ⟨_, hrun, ?_, ?_, hl.byteAt_eq, hl.queues_eq⟩
    · rw [hl.power_eq]
      simp [State.setHeat]
    · refine (hl.regs _ 0 (by decide)).trans (rdi_wri_same.trans (Nat.mod_eq_of_lt ?_))
      simp only [F.info]
      omega
  case held =>
    refine congrArg Host.Outcome.next ?_
    have hnot : ¬ Tbl.get 0 s.power.heat t ≤ s.rdi .PW_THR_STAT_PSTATE t := by omega
    simp [hx, hhot, hnot]

/-! ### The Floor state (R271, R272, R288) -/

/-- A fold over a range brings about what the step at `j` does, where the steps before keep what it needs and the steps
after keep what it made. -/
theorem foldl_range_at {α : Type} {g : α → Nat → α} {n j : Nat} {P Q : α → Prop} (hj : j < n)
    (hbefore : ∀ a i, i ≠ j → P a → P (g a i)) (hat : ∀ a, P a → Q (g a j)) (hafter : ∀ a i, i ≠ j → Q a → Q (g a i))
    {a : α} (ha : P a) : Q ((List.range n).foldl g a) := by
  have hpre : ∀ m, m ≤ j → P ((List.range m).foldl g a) := by
    intro m hm
    induction m with
    | zero => exact ha
    | succ m ih =>
      rw [List.range_succ, List.foldl_append]
      exact hbefore _ m (by omega) (ih (by omega))
  induction n with
  | zero => exact absurd hj (Nat.not_lt_zero j)
  | succ n ih =>
    rw [List.range_succ, List.foldl_append]
    rcases Nat.lt_succ_iff_lt_or_eq.1 hj with hlt | rfl
    · exact hafter _ n (by omega) (ih hlt)
    · exact hat _ (hpre j (le_refl j))

/-- A fold keeps what every step keeps. -/
theorem foldl_keeps {α β : Type} {P : α → Prop} {g : α → β → α} (hg : ∀ a b, P a → P (g a b)) (l : List β) {a : α}
    (ha : P a) : P (l.foldl g a) := by
  induction l generalizing a with
  | nil => exact ha
  | cons b l ih => exact ih (hg a b ha)

/-- What the Floor state's taking of thresher `t` leaves alone. -/
theorem floorThresher_onlyRegs (s : State) (t : Nat) :
    s.onlyRegs { s.floorThresher t with clock := s.clock } [(.PW_THR_STAT_PSTATE, t), (.CK_ISL_STAT_OWNER, t)] := by
  unfold State.floorThresher
  split
  · exact .refl s _
  · exact ((State.onlyRegs.refl s _).wri (f := .PW_THR_STAT_PSTATE) (i := t) (by simp) 7).wri (f := .CK_ISL_STAT_OWNER)
      (i := t) (by simp) 2

theorem floorThresher_rdi_other (s : State) {t k : Nat} (hk : k ≠ t) (f : F) :
    (s.floorThresher t).rdi f k = s.rdi f k :=
  (floorThresher_onlyRegs s t).2 f k (by simp [hk])

theorem floorThresher_rdi_field (s : State) (t : Nat) {f : F} {k : Nat} (hf : f ∉ [.PW_THR_STAT_PSTATE, .CK_ISL_STAT_OWNER]) :
    (s.floorThresher t).rdi f k = s.rdi f k := by
  refine (floorThresher_onlyRegs s t).2 f k fun hm => hf ?_
  simp only [List.mem_cons, Prod.mk.injEq, List.not_mem_nil, or_false] at hm ⊢
  exact hm.imp And.left And.left

theorem floorThresher_takes {s : State} {t : Nat} (hon : s.domainOff (thrDomain t) = false) :
    (s.floorThresher t).rdi .PW_THR_STAT_PSTATE t = 7 ∧ (s.floorThresher t).rdi .CK_ISL_STAT_OWNER t = 2 ∧
      (s.rdi .CK_ISL_STAT_CUR t ≠ 2 → t ∈ (s.floorThresher t).clock.divided) := by
  rw [State.floorThresher, if_neg (by simp [hon])]
  refine ⟨(rdi_wri_other (.inl (by decide))).trans rdi_wri_same, rdi_wri_same, fun hcur => ?_⟩
  dsimp only [State.wri]
  split
  · simp_all
  · simp

theorem floorThresher_divided (s : State) {t k : Nat} (h : k ∈ s.clock.divided) : k ∈ (s.floorThresher t).clock.divided := by
  unfold State.floorThresher
  split
  · exact h
  · dsimp only [State.wri]
    split
    · exact h
    · exact List.mem_append_left _ h

/-- Thresher `k` in the hold of the Floor state, which began with `s`. -/
structure State.FloorHolds (s t : State) (k : Nat) : Prop where
  pstate : t.rdi .PW_THR_STAT_PSTATE k = 7
  owner : t.rdi .CK_ISL_STAT_OWNER k = 2
  divided : s.rdi .CK_ISL_STAT_CUR k ≠ 2 → k ∈ t.clock.divided

/-- Thresher `k` before the entry that began with `s` reaches it. -/
structure State.FloorAwaits (s t : State) (k : Nat) : Prop where
  on : t.domainOff (thrDomain k) = false
  cur : t.rdi .CK_ISL_STAT_CUR k = s.rdi .CK_ISL_STAT_CUR k

theorem enterFloor_holds (s : State) {k : Nat} (hk : k < 8) (hon : s.domainOff (thrDomain k) = false) :
    s.FloorHolds s.enterFloor k := by
  refine foldl_range_at (P := fun t => s.FloorAwaits t k) (Q := fun t => s.FloorHolds t k) hk (fun t i hi h => ⟨?_, ?_⟩) (fun t h => ?_)
    (fun t i hi h => ⟨?_, ?_, fun hc => floorThresher_divided t (h.divided hc)⟩) ⟨hon, rfl⟩
  · rw [State.domainOff, State.flag, floorThresher_rdi_field t i (by decide)]
    exact h.on
  · exact (floorThresher_rdi_other t hi.symm _).trans h.cur
  · obtain ⟨hp, ho, hd⟩ := floorThresher_takes h.on
    exact ⟨hp, ho, fun hc => hd (h.cur ▸ hc)⟩
  · exact (floorThresher_rdi_other t hi.symm _).trans h.pstate
  · exact (floorThresher_rdi_other t hi.symm _).trans h.owner

/-- What a Floor entry of all threshers leaves alone. -/
structure State.FloorKeeps (s t : State) : Prop where
  mem : t.mem = s.mem
  power : t.power = s.power
  regs : ∀ f k, f ∉ [.PW_THR_STAT_PSTATE, .CK_ISL_STAT_OWNER] → t.rdi f k = s.rdi f k

theorem enterFloor_keeps (s : State) : s.FloorKeeps s.enterFloor := by
  refine foldl_keeps (P := s.FloorKeeps) (fun t i h => ?_) _ ⟨rfl, rfl, fun _ _ _ => rfl⟩
  have hrest := (floorThresher_onlyRegs t i).1
  exact ⟨(congrArg State.mem hrest :).trans h.mem, (congrArg State.power hrest :).trans h.power,
    fun f k hf => (floorThresher_rdi_field t i hf).trans (h.regs f k hf)⟩

/-- A thresher that the Floor state divided runs from an output of its own. -/
theorem settleFloor_mem (s : State) (t : Nat) : (s.settleFloor t).mem = s.mem := by
  unfold State.settleFloor
  split
  · exact runAt_mem ..
  · rfl

/-- The registers of the pin and of the bubbles' fractions follow a change of state. -/
theorem shown_logged (s : State) : s.Logged s.notePin.showFracs
    [.PW_STAT_PIN_OVERRIDDEN, .PW_BUBBLE_FRAC_LINKS, .PW_BUBBLE_FRAC_MEMORY, .PW_BUBBLE_FRAC_COMPUTE, .PW_STAT_CAPPING] :=
  (((((notePin_logged s).mono (by simp)).wri (by simp) 0 _).wri (by simp) 0 _).wri (by simp) 0 _).wri (by simp) 0 _

theorem runAt_rdi_other {s : State} {t k : Nat} (hk : k ≠ t) (p : Nat) (f : F) : (s.runAt t p).rdi f k = s.rdi f k :=
  (runAt_onlyRegs s t p).2 f k (by simp [runRegs, islandRegs, hk])

theorem runAt_pstateFree {s : State} {t k : Nat} (hk : k ≠ t) (p : Nat) : (s.runAt t p).pstateFree k = s.pstateFree k := by
  have hrest : ∀ f j, f ∉ (runRegs t).map Prod.fst → (s.runAt t p).rdi f j = s.rdi f j := fun f j hf =>
    (runAt_onlyRegs s t p).2 f j fun hm => hf (List.mem_map_of_mem hm)
  simp [State.pstateFree, State.domainOff, State.flag, runAt_rdi_other hk, hrest, runRegs,
    islandRegs]

theorem runAt_pstateWanted (s : State) (t p k : Nat) : (s.runAt t p).pstateWanted k = s.pstateWanted k := by
  have hrest : ∀ f j, f ∉ (runRegs t).map Prod.fst → (s.runAt t p).rdi f j = s.rdi f j := fun f j hf =>
    (runAt_onlyRegs s t p).2 f j fun hm => hf (List.mem_map_of_mem hm)
  simp only [State.pstateWanted, State.floorOn, State.heatLimit, State.policyLimit, State.flag, State.rd, runAt_power]
  rw [hrest .PW_PSTATE_CEIL 0 (by simp [runRegs, islandRegs]), hrest .PW_PSTATE_PIN_EN 0 (by simp [runRegs, islandRegs]),
    hrest .PW_PSTATE_PIN 0 (by simp [runRegs, islandRegs]), hrest .PW_PSTATE_AUTO 0 (by simp [runRegs, islandRegs])]
  simp only [hrest .ER_SERVICE_STATE 0 (by simp [runRegs, islandRegs])]
  congr

/-- One step of thresher `t`'s return from the Floor state (R271). -/
def State.returnStep (s : State) (t : Nat) : State :=
  if s.pstateFree t ∧ s.pstateWanted t < s.rdi .PW_THR_STAT_PSTATE t then s.stepToward t (s.pstateWanted t) else s

theorem returnStep_eq (s : State) (t : Nat) : s.returnStep t =
    if s.pstateFree t = true ∧ s.pstateWanted t < s.rdi .PW_THR_STAT_PSTATE t then s.runAt t (s.rdi .PW_THR_STAT_PSTATE t - 1)
    else s := by
  unfold State.returnStep
  split
  · next h => rw [State.stepToward, if_neg (by omega), if_pos h.2]
  · rfl

/-- Thresher `k` as `s` has it, as far as its return looks at it. -/
structure State.ReturnAwaits (s t : State) (k : Nat) : Prop where
  free : t.pstateFree k = s.pstateFree k
  wanted : t.pstateWanted k = s.pstateWanted k
  pstate : t.rdi .PW_THR_STAT_PSTATE k = s.rdi .PW_THR_STAT_PSTATE k

theorem returnSteps_pstate (s : State) {k : Nat} (hk : k < 8) :
    ((List.range 8).foldl State.returnStep s).rdi .PW_THR_STAT_PSTATE k =
      if s.pstateFree k = true ∧ s.pstateWanted k < s.rdi .PW_THR_STAT_PSTATE k then
        (s.rdi .PW_THR_STAT_PSTATE k - 1) % 8
      else s.rdi .PW_THR_STAT_PSTATE k := by
  refine foldl_range_at (P := fun t => s.ReturnAwaits t k)
    (Q := fun t : State => t.rdi .PW_THR_STAT_PSTATE k = if s.pstateFree k = true ∧ s.pstateWanted k < s.rdi .PW_THR_STAT_PSTATE k
      then (s.rdi .PW_THR_STAT_PSTATE k - 1) % 8 else s.rdi .PW_THR_STAT_PSTATE k) hk
    (fun t i hi h => ?_) (fun t h => ?_) (fun t i hi h => ?_) ⟨rfl, rfl, rfl⟩
  · rw [returnStep_eq]
    split
    · exact ⟨(runAt_pstateFree hi.symm _).trans h.free, (runAt_pstateWanted ..).trans h.wanted,
        (runAt_rdi_other hi.symm _ _).trans h.pstate⟩
    · exact h
  · rw [returnStep_eq, h.free, h.wanted, h.pstate]
    split
    · exact rdi_wri_same
    · exact h.pstate
  · rw [returnStep_eq]
    split
    · exact (runAt_rdi_other hi.symm _ _).trans h
    · exact h

theorem returnSteps_mem (s : State) : ((List.range 8).foldl State.returnStep s).mem = s.mem := by
  refine foldl_keeps (P := fun t : State => t.mem = s.mem) (fun t i h => ?_) _ rfl
  rw [returnStep_eq]
  split
  · exact (runAt_mem ..).trans h
  · exact h

/-- The return goes on while a thresher is not where its limits put it. -/
def State.returnGoesOn (s : State) : State :=
  { s with power := { s.power with
      returning := (List.range 8).any fun t => decide (s.pstateWanted t < s.rdi .PW_THR_STAT_PSTATE t) } }

@[simp] theorem returnGoesOn_rdi (s : State) (f : F) (k : Nat) : s.returnGoesOn.rdi f k = s.rdi f k := rfl
@[simp] theorem returnGoesOn_mem (s : State) : s.returnGoesOn.mem = s.mem := rfl

/-- The state in which PW_ALERT_N low is noted, before the threshers are taken. -/
def State.alertNoted (s : State) : State :=
  ((({ s with power := { s.power with alertLow := true, holding := false, returning := false } } : State).raiseFlag5
    .PW_STAT_ALERT).addSat .PW_ALERT_CNT 0 1).wr .HI_ALERT_FLOOR 1

theorem alertNoted_logged (s : State) :
    { s with power := { s.power with alertLow := true, holding := false, returning := false } }.Logged s.alertNoted
      [.PW_STAT_ALERT, .PW_ALERT_CNT, .HI_ALERT_FLOOR] :=
  (((raiseFlag5_logged _ _).mono (by simp)).wri (by simp) 0 _).wri (by simp) 0 1

/-- A thresher gives up the Floor state's hold of its island. -/
def State.freeOwner (s : State) (t : Nat) : State :=
  if s.rdi .CK_ISL_STAT_OWNER t = 2 then s.wri .CK_ISL_STAT_OWNER t 0 else s

theorem freeOwners_owner (s : State) {k : Nat} (hk : k < 8) :
    ((List.range 8).foldl State.freeOwner s).rdi .CK_ISL_STAT_OWNER k ≠ 2 := by
  refine foldl_range_at (P := fun _ => True) (Q := fun t : State => t.rdi .CK_ISL_STAT_OWNER k ≠ 2) hk (fun _ _ _ h => h)
    (fun t _ => ?_) (fun t i hi h => ?_) trivial <;> unfold State.freeOwner <;> split
  · rw [rdi_wri_same]
    decide
  · assumption
  · rwa [rdi_wri_other (.inr hi.symm)]
  · exact h

theorem freeOwners_logged (s : State) :
    s.Logged ((List.range 8).foldl State.freeOwner s) [.CK_ISL_STAT_OWNER] :=
  .foldl (fun _ _ h => .ite (h.wri (by simp) _ 0) h) _ (.refl s _)

/-- The hold is over and the return begins. -/
def State.holdOver (s : State) : State :=
  let t := s.keepDivided fun _ => false
  { t with power := { t.power with holding := false, returning := true } }

theorem settleFloors_mem (s : State) : ((List.range 8).foldl State.settleFloor s).mem = s.mem :=
  foldl_keeps (P := fun t : State => t.mem = s.mem) (fun t i h => (settleFloor_mem t i).trans h) _ rfl

/-- The end of the Floor state once no clock is divided any more. -/
def State.floorEnded (s : State) : State := (((List.range 8).foldl State.freeOwner s).wr .PW_STAT_ALERT 0).showFracs

theorem floorEnded_logged (s : State) : s.Logged s.floorEnded
    [.CK_ISL_STAT_OWNER, .PW_STAT_ALERT, .PW_BUBBLE_FRAC_LINKS, .PW_BUBBLE_FRAC_MEMORY, .PW_BUBBLE_FRAC_COMPUTE,
      .PW_STAT_CAPPING] :=
  ((((((freeOwners_logged s).mono (by simp)).wri (by simp) 0 0).wri (by simp) 0 _).wri (by simp) 0 _).wri (by simp) 0 _).wri
    (by simp) 0 _

theorem floorEnded_flag (s : State) : s.floorEnded.flag .PW_STAT_ALERT 0 = false := by
  rw [State.flag, State.floorEnded, (showFracs_onlyRegs _).2 _ _ (by simp), rdi_wr, if_pos ⟨rfl, rfl⟩]
  rfl

theorem floorEnded_owner (s : State) {k : Nat} (hk : k < 8) : s.floorEnded.rdi .CK_ISL_STAT_OWNER k ≠ 2 := by
  rw [State.floorEnded, (showFracs_onlyRegs _).2 _ _ (by simp), rdi_wr, if_neg (by simp)]
  exact freeOwners_owner _ hk

/-- Settles O28: the entry and the return by what each thresher's step makes of it. -/
theorem floorState : Obligations.FloorState := by
  refine fun s => ⟨fun halert hpow hep => ?entry, fun halert => ?release, fun hhold => ?expiry, fun hret => ?returns⟩
  case entry =>
    have hnoted := alertNoted_logged s
    obtain ⟨hmem, hpower, hregs⟩ := enterFloor_keeps s.alertNoted
    have hshown := shown_logged s.alertNoted.enterFloor
    have hep' : s.alertNoted.flag .CK_STAT_EPISODE 0 = false := by
      rw [State.flag, hnoted.regs _ _ (by decide)]
      exact hep
    have hrun : exec .pwAlertAssert s = .next s.alertNoted.enterFloor.notePin.showFracs := by
      refine congrArg Host.Outcome.next ?_
      have hnot : ¬ (s.power.alertLow || s.boot.phase == .off) = true := by simp [halert, hpow]
      rw [if_neg hnot]
      show State.showFracs (State.notePin (if s.alertNoted.flag .CK_STAT_EPISODE 0 then _ else _)) = _
      rw [hep', if_neg Bool.false_ne_true]
      rfl
    refine ⟨_, hrun, ?_, ?_, ?_, fun k hk hon => ?_, byteAt_of_mem (hshown.mem_eq.trans (hmem.trans hnoted.mem_eq))⟩
    · rw [hshown.power_eq, hpower, hnoted.power_eq]
    · exact (hshown.regs _ 0 (by decide)).trans ((hregs _ _ (by decide)).trans rdi_wri_same)
    · have hflag := raiseFlag5_flag { s with power := { s.power with alertLow := true, holding := false, returning := false } }
        (f := .PW_STAT_ALERT) (by decide)
      rw [State.flag, hshown.regs _ 0 (by decide), hregs _ _ (by decide), State.alertNoted, rdi_wr, if_neg (by simp),
        State.addSat, rdi_wri_other (.inl (by decide))]
      exact hflag
    · have hon' : s.alertNoted.domainOff (thrDomain k) = false := by
        rw [State.domainOff, State.flag, hnoted.regs _ _ (by decide)]
        exact hon
      obtain ⟨hp, ho, hd⟩ := enterFloor_holds s.alertNoted hk hon'
      refine ⟨(hshown.regs _ k (by decide)).trans hp, (hshown.regs _ k (by decide)).trans ho, fun hcur => ?_⟩
      rw [hshown.clock_eq]
      exact hd ((hnoted.regs _ _ (by decide)).trans_ne hcur)
  case release =>
    exact ⟨_, congrArg Host.Outcome.next (if_pos halert), rfl, rfl, rfl⟩
  case expiry =>
    have hrun : exec .floorHoldExpiry s = .next ((List.range 8).foldl State.settleFloor s).holdOver.floorEnded :=
      congrArg Host.Outcome.next (if_pos hhold)
    refine ⟨_, hrun, ?_⟩
    have hmem := settleFloors_mem s
    generalize (List.range 8).foldl State.settleFloor s = u at hmem
    have hended := floorEnded_logged u.holdOver
    refine ⟨?_, ?_, floorEnded_flag _, ?_, fun k hk => floorEnded_owner _ hk, byteAt_of_mem (hended.mem_eq.trans hmem)⟩
    · rw [hended.power_eq, State.holdOver]
    · rw [hended.power_eq, State.holdOver]
    · rw [hended.clock_eq]
      exact List.filter_false _
  case returns =>
    have hrun : exec .floorReturnStep s = .next ((List.range 8).foldl State.returnStep s).returnGoesOn := by
      show execFloorReturnStep s = _
      have hstep : (fun (s : State) t => if s.pstateFree t ∧ s.pstateWanted t < s.rdi .PW_THR_STAT_PSTATE t
          then s.stepToward t (s.pstateWanted t) else s) = State.returnStep := rfl
      rw [execFloorReturnStep, if_pos hret, hstep]
      generalize (List.range 8).foldl State.returnStep s = u
      rfl
    refine ⟨_, hrun, fun k hk hfree hup hp => ?_, fun k hk hle => ?_, fun p => ?_⟩
    · rw [returnGoesOn_rdi, returnSteps_pstate s hk, if_pos ⟨hfree, hup⟩, Nat.mod_eq_of_lt (by omega)]
    · rw [returnGoesOn_rdi, returnSteps_pstate s hk, if_neg fun h => absurd h.2 (Nat.not_lt.2 hle)]
    · exact byteAt_of_mem ((returnGoesOn_mem _).trans (returnSteps_mem s)) p

end Sys2Proof.Machine

/-! The error log, the pins and the turners (O36, O37). -/

namespace Sys2Proof.Machine

/-! ### Pins (R315) -/

theorem hostPin_eq (s : State) {n fn : Nat} (hfn : fn < 8) :
    s.hostPin n fn = ((s.hostFn n fn).hostOut n fn 0 (s.rdi .ER_GPIO_OWN n == 1)).showPin n (s.rdi .ER_GPIO_IN n) := by
  have hclear : bit fn 7 = false := by rw [bit_eq_testBit, Nat.testBit_lt_two_pow (by omega)]
  have hlow : bits fn 0 3 = fn := bits_of_lt (by omega)
  have hout : bits fn 5 1 = 0 := by
    unfold bits
    omega
  simp only [State.hostPin, hclear, hlow, hout, Bool.false_eq_true, if_false]

/-- Settles O36: the pin by the two branches of `hostFn`, after which its owner is known. -/
theorem logAndPins : Obligations.LogAndPins := by
  refine fun s => ⟨fun hup => ?log, fun n fn hup h1 h4 => ⟨fun hmay => ?owner, fun hmay => ?other⟩, fun n h4 => ?edge⟩
  case log => exact ⟨_, congrArg Host.Outcome.next (byHost_of_up hup _), rfl, rfl⟩
  case owner =>
    have hrun : exec (.gpioWrite n fn) s = .next (s.hostPin n fn) :=
      (if_pos (by omega)).trans (congrArg Host.Outcome.next (byHost_of_up hup _))
    have hset : s.hostFn n fn = s.setPin n 1 fn := if_pos hmay
    have hown : (s.setPin n 1 fn).rdi .ER_GPIO_OWN n = 1 := by
      rw [State.setPin, if_neg (by omega), rdi_wri_same]
      rfl
    have hout : (s.setPin n 1 fn).hostOut n fn 0 (s.rdi .ER_GPIO_OWN n == 1) = (s.setPin n 1 fn).wri .ER_GPIO_OUT n 0 :=
      if_pos (by simp [hown])
    rw [hostPin_eq s (by omega), hset, hout] at hrun
    refine ⟨_, hrun, ?_, ?_, ?_⟩
    · rw [State.showPin, rdi_wri_other (.inl (by decide)), rdi_wri_other (.inl (by decide)), State.setPin,
        rdi_wri_other (.inl (by decide)), rdi_wri_same]
      exact Nat.mod_eq_of_lt (by simp only [F.info]; omega)
    · rw [State.showPin, rdi_wri_other (.inl (by decide)), rdi_wri_other (.inl (by decide)), hown]
    · exact ((((State.onlyRegs.refl s _).wri (by simp) _).wri (by simp) _).wri (by simp) _).wri (by simp) _
  case other =>
    have hrun : exec (.gpioWrite n fn) s = .next (s.hostPin n fn) :=
      (if_pos (by omega)).trans (congrArg Host.Outcome.next (byHost_of_up hup _))
    have hbusy : s.hostFn n fn = s.wr .ER_STAT_GPIO_BUSY 1 := if_neg (by simp [hmay])
    have hown : (s.rdi .ER_GPIO_OWN n == 1) = false := by simp_all [State.pinMay]
    have hout : (s.wr .ER_STAT_GPIO_BUSY 1).hostOut n fn 0 (s.rdi .ER_GPIO_OWN n == 1) =
        (s.wr .ER_STAT_GPIO_BUSY 1).wr .ER_STAT_GPIO_BUSY 1 := by
      have hfn : ¬ fn = 0 := by omega
      simp [State.hostOut, hown, hfn]
    rw [hostPin_eq s (by omega), hbusy, hout] at hrun
    refine ⟨_, hrun, ?_, ?_⟩
    · exact (rdi_wri_other (.inl (by decide))).trans rdi_wri_same
    · exact ((((State.onlyRegs.refl s _).wri (by simp) _).wri (by simp) _).wri (by simp) _)
  case edge =>
    refine ⟨_, congrArg Host.Outcome.next (if_pos h4), (rdi_wri_other (.inl (by decide))).trans rdi_wri_same, ?_⟩
    exact ((State.onlyRegs.refl s _).wri (by simp) _).wri (by simp) _

/-! ### Turners (R86 to R88) -/

theorem byThrHost_of_on {s : State} (h : s.hostUp = true) {t : Nat} (hon : s.domainOff (thrDomain t) = false)
    (k : State → State) : s.byThrHost t k = k s := by
  rw [State.byThrHost, byHost_of_up h, hon, if_neg Bool.false_ne_true]

theorem turnerReason_of_test {s : State} {t : Nat} (h : s.flag .TN_CTL_TEST t = true) : s.turnerAvail t = false := by
  unfold State.turnerAvail State.turnerReason
  split_ifs <;> rfl

section
variable {s : State} {t : Fin 8} {q op me : Nat} {i : Ins} {c : Instr}

/-- TURN.HOLD, by the owner the turner has. -/
theorem turnHold_rules (hexec : exec c s = .next (issue q op s fun i s => s.hold t q i)) (hme : ownerCode (qClass q) = me)
    (h0 : me ≠ 0) (hlt : me < 4) (h : s.issues q op i) :
    (s.rdi .TN_STAT_OWNER t = me → ∃ u, exec c s = .next u ∧ s.Retired u q i (i.pc + 16) []) ∧
    (s.rdi .TN_STAT_OWNER t = 0 → s.turnerAvail t = true → ∃ u, exec c s = .next u ∧ u.rdi .TN_STAT_OWNER t = me ∧
      s.Retired u q i (i.pc + 16) [(.TN_STAT_OWNER, t.val)]) ∧
    (s.rdi .TN_STAT_OWNER t ≠ me → s.rdi .TN_STAT_OWNER t ≠ 0 → exec c s = .next
      (((s.begun q).addSat .TN_REFUSE_CNT_COUNT t 1).engineFault q (.of .turnerBusy) i.pc)) ∧
    (s.rdi .TN_STAT_OWNER t = 0 → s.turnerAvail t = false → exec c s = .next
      (((s.begun q).addSat .TN_REFUSE_CNT_COUNT t 1).engineFault q (.of .turnerOff) i.pc)) := by
  have howner : (s.begun q).rdi .TN_STAT_OWNER t = s.rdi .TN_STAT_OWNER t := rfl
  have havail : (s.begun q).turnerAvail t = s.turnerAvail t := rfl
  refine ⟨fun ho => ?_, fun ho ha => ?_, fun ho hb => ?_, fun ho ha => ?_⟩
  all_goals rw [hexec, issue_eq h, State.hold, hme, howner]
  · rw [if_pos ho]
    exact ⟨_, rfl, (State.Poised.of_begun s q []).retired i _ (by simp)⟩
  · have hne : ¬ s.rdi .TN_STAT_OWNER t = me := fun he => h0 (he.symm.trans ho)
    rw [if_neg hne, if_neg (not_not.2 ho), havail, if_pos ha]
    refine ⟨_, rfl, (retireTo_rdi _ _ _ _ (by simp) (by simp)).trans ?_,
      ((State.Poised.of_begun s q [(.TN_STAT_OWNER, t.val)]).wri List.mem_cons_self me).retired i _ (by simp)⟩
    exact rdi_wri_same.trans (Nat.mod_eq_of_lt hlt)
  · rw [if_neg ho, if_pos hb]
    rfl
  · have hne : ¬ s.rdi .TN_STAT_OWNER t = me := fun he => h0 (he.symm.trans ho)
    rw [if_neg hne, if_neg (not_not.2 ho), havail, if_neg (by simp [ha])]
    rfl

/-- TURN.FREE, by whether the engine owns the turner and has used it. -/
theorem turnFree_rules (hexec : exec c s = .next (issue q op s fun i s => s.free t q i)) (hme : ownerCode (qClass q) = me)
    (h : s.issues q op i) :
    (s.rdi .TN_STAT_OWNER t = me → s.turnedAll q = true → ∃ u, exec c s = .next u ∧ u.rdi .TN_STAT_OWNER t = 0 ∧
      s.Retired u q i (i.pc + 16) [(.TN_STAT_OWNER, t.val)]) ∧
    (s.rdi .TN_STAT_OWNER t = me → s.turnedAll q = false → exec c s = .next (s.begun q)) ∧
    (s.rdi .TN_STAT_OWNER t ≠ me → ∃ u, exec c s = .next u ∧ u.rdi .TN_STAT_STRAY_FREE t = 1 ∧
      s.Retired u q i (i.pc + 16) [(.TN_STAT_STRAY_FREE, t.val)]) := by
  have howner : (s.begun q).rdi .TN_STAT_OWNER t = s.rdi .TN_STAT_OWNER t := rfl
  have hturned : (s.begun q).turnedAll q = s.turnedAll q := by rw [State.turnedAll, begun_work, State.turnedAll]
  refine ⟨fun ho ha => ?_, fun ho ha => ?_, fun ho => ?_⟩
  all_goals rw [hexec, issue_eq h, State.free, hme, howner]
  · rw [if_pos ho, hturned, if_pos ha]
    exact ⟨_, rfl, (retireTo_rdi _ _ _ _ (by simp) (by simp)).trans rdi_wri_same,
      ((State.Poised.of_begun s q [(.TN_STAT_OWNER, t.val)]).wri List.mem_cons_self 0).retired i _ (by simp)⟩
  · rw [if_pos ho, hturned, if_neg (by simp [ha])]
  · rw [if_neg ho]
    exact ⟨_, rfl, (retireTo_rdi _ _ _ _ (by simp) (by simp)).trans rdi_wri_same,
      ((State.Poised.of_begun s q [(.TN_STAT_STRAY_FREE, t.val)]).wri List.mem_cons_self 1).retired i _ (by simp)⟩

end

theorem ownerCode_thrQ (t : Nat) (ht : t < 8) : ownerCode (qClass (thrQ t 1)) = 2 ∧ ownerCode (qClass (thrQ t 2)) = 1 := by
  interval_cases t <;> decide

/-- Settles O37: the host's writes by whether the turner has an owner; HOLD and FREE by the two rules above. -/
theorem turnerCommands : Obligations.TurnerCommands := by
  refine ⟨fun t s => ⟨fun hup hon => ⟨fun b hb => ?disable, fun ho => ?test, fun ho c hc => ?refused⟩, fun b htest => ?done⟩,
    fun t s i hold free opH opF c me hmem => ?engines⟩
  case disable =>
    have hmay : (b && s.flag .TN_STAT_OWNER t) = false := by
      rcases hb with ho | hb
      · simp [State.flag, ho]
      · simp [hb]
    have hrun : exec (.tnDisable t b) s = .next (s.wri .TN_CTL_DISABLE t (b2n b)) := by
      refine congrArg Host.Outcome.next ((byThrHost_of_on hup hon _).trans ?_)
      rw [hmay, if_neg Bool.false_ne_true]
    exact ⟨_, hrun, wri_shows s (by cases b <;> decide) _⟩
  case test =>
    have hfree : s.flag .TN_STAT_OWNER t = false := by simp [State.flag, ho]
    have hrun : exec (.tnTest t) s = .next (s.wri .TN_CTL_TEST t 1) := by
      refine congrArg Host.Outcome.next ((byThrHost_of_on hup hon _).trans ?_)
      rw [hfree, if_neg Bool.false_ne_true]
    obtain ⟨htest, hframe⟩ := wri_shows s (f := .TN_CTL_TEST) (v := 1) (by decide) t
    exact ⟨_, hrun, htest, turnerReason_of_test (by simp [State.flag, htest]), hframe⟩
  case refused =>
    have hheld : s.flag .TN_STAT_OWNER t = true := by simpa [State.flag] using ho
    have hrun : exec c s = .next (s.wri .TN_STAT_CTL_REFUSED t 1) := by
      rcases List.mem_pair.1 hc with rfl | rfl
      · exact congrArg Host.Outcome.next ((byThrHost_of_on hup hon _).trans (if_pos (by simp [hheld])))
      · exact congrArg Host.Outcome.next ((byThrHost_of_on hup hon _).trans (if_pos hheld))
    exact ⟨_, hrun, wri_shows s (by decide) _⟩
  case done =>
    have hframe := ((State.onlyRegs.refl s [(.TN_CTL_TEST, t.val), (.TN_STAT_TEST_PASS, t.val)]).wri (f := .TN_CTL_TEST)
      (i := t) (by simp) 0).wri (f := .TN_STAT_TEST_PASS) (i := t) (by simp) (b2n b)
    have hctl : ((s.wri .TN_CTL_TEST t 0).wri .TN_STAT_TEST_PASS t (b2n b)).rdi .TN_CTL_TEST t = 0 :=
      (rdi_wri_other (.inl (by decide))).trans rdi_wri_same
    have hpass : ((s.wri .TN_CTL_TEST t 0).wri .TN_STAT_TEST_PASS t (b2n b)).rdi .TN_STAT_TEST_PASS t = b2n b :=
      rdi_wri_same.trans (by cases b <;> rfl)
    have hrun : exec (.turnerTestDone t b) s = .next (if b then (s.wri .TN_CTL_TEST t 0).wri .TN_STAT_TEST_PASS t (b2n b)
        else ((s.wri .TN_CTL_TEST t 0).wri .TN_STAT_TEST_PASS t (b2n b)).updTurner t fun x => { x with failed := true }) :=
      congrArg Host.Outcome.next (if_pos htest)
    cases b with
    | true => exact ⟨_, hrun, hctl, hpass, nofun, hframe⟩
    | false => exact ⟨_, hrun, hctl, hpass, fun _ => by simp [State.turnerReason], hframe⟩
  case engines =>
    obtain ⟨hfeed, hweight⟩ := ownerCode_thrQ t t.isLt
    simp only [List.mem_cons, Prod.mk.injEq, List.not_mem_nil, or_false] at hmem
    rcases hmem with ⟨rfl, rfl, rfl, rfl, rfl, rfl⟩ | ⟨rfl, rfl, rfl, rfl, rfl, rfl⟩
    · exact ⟨turnHold_rules rfl hfeed (by decide) (by decide), turnFree_rules rfl hfeed⟩
    · exact ⟨turnHold_rules rfl hweight (by decide) (by decide), turnFree_rules rfl hweight⟩

end Sys2Proof.Machine

/-! Clocks (O23, O24), and what happens where nothing waits to reach memory. -/

namespace Sys2Proof.Machine

/-! ### Nothing waits (R17, R205, R292) -/

theorem workAt_mem {s : State} {q id : Nat} {w : Work} (h : s.workAt q id = some w) : w ∈ (s.queue q).work :=
  List.mem_of_find?_eq_some h

/-- Nothing of this instruction waits to be written. -/
def Work.settled (w : Work) : Prop := w.ready = true ∨ w.kind = .pass ∨ w.kind = .plain

theorem resumeWork_of_landed {s : State} {q : Nat} (h : ∀ w ∈ (s.queue q).work, w.settled) (id : Nat) :
    s.resumeWork q id = s := by
  unfold State.resumeWork
  split
  · rfl
  · next w hw =>
    rcases h w (workAt_mem hw) with hready | hpass | hplain
    · rw [hready, Bool.true_or, if_pos rfl]
    · rw [hpass]
      split <;> rfl
    · rw [hplain]
      split <;> rfl

theorem resume_of_landed {s : State} (h : ∀ q, q < 52 → ∀ w ∈ (s.queue q).work, w.settled) :
    s.resume = s := by
  have hqueue : ∀ q, q < 52 → ∀ l : List Nat, l.foldl (fun s id => s.resumeWork q id) s = s := by
    intro q hq l
    induction l with
    | nil => rfl
    | cons id l ih => rw [List.foldl_cons, resumeWork_of_landed (h q hq), ih]
  have hall : ∀ l : List Nat, (∀ q ∈ l, q < 52) →
      l.foldl (fun s q => ((s.queue q).work.map Work.id).foldl (fun s id => s.resumeWork q id) s) s = s := by
    intro l hl
    induction l with
    | nil => rfl
    | cons q l ih =>
      rw [List.foldl_cons, hqueue q (hl q List.mem_cons_self), ih fun k hk => hl k (List.mem_cons_of_mem _ hk)]
  exact hall _ fun q hq => List.mem_range.1 hq

theorem serveAccesses_of_none {s : State} (h : s.host.accesses = []) : s.serveAccesses = s := by
  rw [State.serveAccesses, h, List.foldl_nil, ← h]

theorem releaseWrites_of_none {s : State} (h : s.net.heldWr = []) : s.releaseWrites = s := by
  rw [State.releaseWrites, h, releaseHeld, ← h]

theorem State.Calm.settled {s : State} (h : s.Calm) {q : Nat} (hq : q < 52) {w : Work} (hw : w ∈ (s.queue q).work) :
    w.settled := (h.landed q hq w hw).imp_right .inl

theorem State.Calm.serveWaiting {s : State} (h : s.Calm) : s.serveWaiting = s := by
  rw [State.serveWaiting, serveAccesses_of_none h.accesses, resume_of_landed fun _ hq _ => h.settled hq]

theorem State.Calm.congr {s t : State} (h : s.Calm) (hhost : t.host.accesses = s.host.accesses)
    (hnet : t.net.heldWr = s.net.heldWr) (hqueues : t.queues = s.queues) : t.Calm := by
  refine ⟨hhost.trans h.accesses, hnet.trans h.writes, fun q hq w hw => h.landed q hq w ?_⟩
  rwa [State.queue, hqueues] at hw

/-! ### Islands and meters (R283 to R289, R295) -/

/-- The island that host software may command, or not. -/
theorem ckIslSrcWrite_run {s : State} (hup : s.hostUp = true) (i : Fin 43) (src : Fin 4) {r : F}
    (hr : r = match src.val with | 0 => .CK_ISL_STAT_READY0 | 1 => .CK_ISL_STAT_READY1 | _ => .CK_ISL_STAT_READYS) :
    exec (.ckIslSrcWrite i src) s = .next (
      if src.val = 3 ∨ 40 ≤ i.val ∨ s.islandOwner i ≠ 0 ∨ s.flag .CK_ISL_STAT_SWITCHING i then s.wr .CK_STAT_BUSY 1
      else if s.rdi r i = 0 then (s.wr .CK_STAT_REFUSED 1).wr .CK_STAT_REFUSED_ISL i
      else if (s.wri .CK_ISL_CTL_SRC i src).rdi .CK_ISL_STAT_CUR i = src then s.wri .CK_ISL_CTL_SRC i src
      else (s.wri .CK_ISL_CTL_SRC i src).wri .CK_ISL_STAT_SWITCHING i 1) := by
  subst hr
  exact congrArg Host.Outcome.next (byHost_of_up hup _)

/-! The switch of an island below the SerDes groups: its registers, and the stack behind it. -/

/-- What the units of a thresher, bay-core or HBM island do when it runs from source `c`. -/
def State.stackFollows (s : State) (i c : Nat) : State :=
  if 12 ≤ i then (if c = 2 then s.sleepStack (i - 12) else s.wakeStack (i - 12)) else s

theorem moveIsland_of_low {s : State} {i c : Nat} (hi : i < 36) (hcur : s.rdi .CK_ISL_STAT_CUR i ≠ c) :
    s.moveIsland i c = (s.switchTo i c).stackFollows i c := by
  have h36 : ¬ 36 ≤ i := by omega
  have h40 : ¬ i = 40 := by omega
  by_cases h12 : 12 ≤ i
  · simp [State.moveIsland, if_neg hcur, State.unitsSafe, State.unitsNormal, State.stackFollows, hi, h12]
  · simp [State.moveIsland, if_neg hcur, State.unitsSafe, State.unitsNormal, State.stackFollows, h12, h36, h40]

theorem stackFollows_eq (s : State) (i c : Nat) : s.stackFollows i c = { s with gran := (s.stackFollows i c).gran } := by
  unfold State.stackFollows State.sleepStack
  split_ifs <;> rfl

theorem stackFollows_asleep (s : State) (k c : Nat) (hon : s.online k = true) :
    (s.stackFollows (12 + k) c).gran.asleep.contains k = decide (c = 2) := by
  rw [State.stackFollows, if_pos (Nat.le_add_right 12 k), Nat.add_sub_cancel_left]
  by_cases hc : c = 2
  · rw [if_pos hc, decide_eq_true hc, State.sleepStack]
    by_cases hin : s.gran.asleep.contains k = true
    · rw [hin, Bool.not_true, Bool.and_false, if_neg Bool.false_ne_true, hin]
    · rw [if_pos (by rw [hon, eq_false_of_ne_true hin]; rfl)]
      simp
  · rw [if_neg hc, decide_eq_false hc, State.wakeStack]
    simp

theorem switchTo_gran (s : State) (i c : Nat) : (s.switchTo i c).gran = s.gran :=
  (congrArg State.gran (switchTo_onlyRegs s i c).1 :)

theorem switchTo_online (s : State) (i c k : Nat) : (s.switchTo i c).online k = s.online k := by
  have hother : ∀ f j, f ∉ (islandRegs i).map Prod.fst → (s.switchTo i c).rdi f j = s.rdi f j := fun f j hf =>
    (switchTo_onlyRegs s i c).2 f j fun hm => hf (List.mem_map_of_mem hm)
  simp [State.online, State.bayFaulted, State.bitOf, State.rd, State.domainOff, State.flag, hother, islandRegs]

theorem stackFollows_frame (s : State) (i c : Nat) :
    s.onlyRegs { (s.switchTo i c).stackFollows i c with clock := s.clock, gran := s.gran } (islandRegs i) := by
  obtain ⟨hrest, hregs⟩ := switchTo_onlyRegs s i c
  have hgran := switchTo_gran s i c
  have hrdi : ((s.switchTo i c).stackFollows i c).regs = (s.switchTo i c).regs :=
    (congrArg State.regs (stackFollows_eq (s.switchTo i c) i c) :)
  refine ⟨?_, fun f k hf => ?_⟩
  · rw [stackFollows_eq]
    exact congrArg (fun x : State => { x with gran := s.gran }) hrest
  · refine Eq.trans ?_ (hregs f k hf)
    simp only [State.rdi, hrdi]

theorem edges_lt {s : State} {n : Nat} (hn : n < 2 ^ 64) (m : Nat) : s.edges m n < 2 ^ 64 := by
  unfold State.edges
  dsimp only
  split
  · decide
  · exact hn

/-- Every cycle counter latched. -/
theorem snapCounters_rdi (s : State) :
    (∀ i, i < 43 → ((List.range 43).foldl (fun s i => s.wri .CK_ISL_SNAP_COUNT i (s.rdi .CK_ISL_CYCLES_COUNT i)) s).rdi
      .CK_ISL_SNAP_COUNT i = s.rdi .CK_ISL_CYCLES_COUNT i % 2 ^ 64) ∧
    s.Logged ((List.range 43).foldl (fun s i => s.wri .CK_ISL_SNAP_COUNT i (s.rdi .CK_ISL_CYCLES_COUNT i)) s)
      [.CK_ISL_SNAP_COUNT] := by
  refine ⟨fun i hi => ?_, .foldl (fun _ _ h => h.wri (by simp) _ _) _ (.refl s _)⟩
  refine foldl_range_at (P := fun t : State => t.rdi .CK_ISL_CYCLES_COUNT i = s.rdi .CK_ISL_CYCLES_COUNT i)
    (Q := fun t : State => t.rdi .CK_ISL_SNAP_COUNT i = s.rdi .CK_ISL_CYCLES_COUNT i % 2 ^ 64) hi
    (fun t j _ h => ?_) (fun t h => ?_) (fun t j hj h => ?_) rfl
  · exact (rdi_wri_other (.inl (by decide))).trans h
  · rw [rdi_wri_same, h]
    rfl
  · exact (rdi_wri_other (.inr hj.symm)).trans h

theorem snapCounters_regs (s : State) :
    (List.range 43).foldl (fun s i => s.wri .CK_ISL_SNAP_COUNT i (s.rdi .CK_ISL_CYCLES_COUNT i)) s = { s with
      regs := ((List.range 43).foldl (fun s i => s.wri .CK_ISL_SNAP_COUNT i (s.rdi .CK_ISL_CYCLES_COUNT i)) s).regs } :=
  foldl_keeps (P := fun t => t = { s with regs := t.regs })
    (fun t i h => congrArg (fun x : State => x.wri .CK_ISL_SNAP_COUNT i (t.rdi .CK_ISL_CYCLES_COUNT i)) h) _ rfl

/-- Settles O23: each command by the branches of its rule, the switch by what the island's stack does besides. -/
theorem clockCommands : Obligations.ClockCommands := by
  refine fun s => ⟨fun i src r hup hr => ⟨fun h3 h40 hown hsw => ⟨fun hready => ?accepted, fun hready => ?notReady⟩,
    fun hbusy => ?busy⟩, fun i hsw => ?idle, fun i hsw h36 h3 hcur hcalm => ?switched,
    fun m a b hup => ⟨fun h0 hgo ha hb => ?meter, fun hbusy => ?meterBusy⟩, fun m n hgo hn => ⟨?done, ?noGate⟩,
    fun hup => ?snap⟩
  case accepted =>
    have hrun := ckIslSrcWrite_run hup i src hr
    have hcur : (s.wri .CK_ISL_CTL_SRC i src).rdi .CK_ISL_STAT_CUR i = s.rdi .CK_ISL_STAT_CUR i :=
      rdi_wri_other (.inl (by decide))
    have hmay : ¬ (src.val = 3 ∨ 40 ≤ i.val ∨ s.islandOwner i ≠ 0 ∨ s.flag .CK_ISL_STAT_SWITCHING i = true) := by
      simp only [hown, hsw, Bool.false_eq_true, ne_eq, not_true_eq_false, or_false]
      omega
    have hsrc : (s.wri .CK_ISL_CTL_SRC i src).rdi .CK_ISL_CTL_SRC i = src :=
      rdi_wri_same.trans (Nat.mod_eq_of_lt src.isLt)
    have hframe := (State.onlyRegs.refl s [(.CK_ISL_CTL_SRC, i.val), (.CK_ISL_STAT_SWITCHING, i.val)]).wri
      (f := .CK_ISL_CTL_SRC) (i := i) (by simp) src
    rw [if_neg hmay, if_neg hready, hcur] at hrun
    by_cases hsame : s.rdi .CK_ISL_STAT_CUR i = src
    · rw [if_pos hsame] at hrun
      refine ⟨_, hrun, hsrc, ?_, hframe⟩
      rw [State.flag, rdi_wri_other (.inl (by decide)), decide_eq_false (not_not.2 hsame)]
      exact hsw
    · rw [if_neg hsame] at hrun
      refine ⟨_, hrun, (rdi_wri_other (.inl (by decide))).trans hsrc, ?_, hframe.wri (by simp) 1⟩
      rw [State.flag, rdi_wri_same, decide_eq_true hsame]
      rfl
  case notReady =>
    have hrun := ckIslSrcWrite_run hup i src hr
    have hmay : ¬ (src.val = 3 ∨ 40 ≤ i.val ∨ s.islandOwner i ≠ 0 ∨ s.flag .CK_ISL_STAT_SWITCHING i = true) := by
      simp only [hown, hsw, Bool.false_eq_true, ne_eq, not_true_eq_false, or_false]
      omega
    rw [if_neg hmay, if_pos hready] at hrun
    refine ⟨_, hrun, (rdi_wri_other (.inl (by decide))).trans rdi_wri_same, ?_⟩
    exact ((State.onlyRegs.refl s _).wri (by simp) 1).wri (by simp) _
  case busy =>
    have hrun := ckIslSrcWrite_run hup i src hr
    rw [if_pos hbusy] at hrun
    exact ⟨_, hrun, wri_shows s (by decide) 0⟩
  case idle => exact congrArg Host.Outcome.next (if_neg (by simp [hsw]))
  case switched =>
    have hcalm' : (s.moveIsland i (s.rdi .CK_ISL_CTL_SRC i)).Calm := by
      rw [moveIsland_of_low h36 hcur]
      obtain ⟨hrest, _⟩ := stackFollows_frame s i (s.rdi .CK_ISL_CTL_SRC i)
      exact hcalm.congr (congrArg (fun x : State => x.host.accesses) hrest :) (congrArg (fun x : State => x.net.heldWr) hrest :)
        (congrArg State.queues hrest :)
    have hrun : exec (.islandSwitch i) s = .next (s.moveIsland i (s.rdi .CK_ISL_CTL_SRC i)) :=
      congrArg Host.Outcome.next ((if_pos hsw).trans hcalm'.serveWaiting)
    rw [moveIsland_of_low h36 hcur] at hrun
    have hregs : ∀ f, ((s.switchTo i (s.rdi .CK_ISL_CTL_SRC i)).stackFollows i (s.rdi .CK_ISL_CTL_SRC i)).rdi f i =
        (s.switchTo i (s.rdi .CK_ISL_CTL_SRC i)).rdi f i := fun f => by
      rw [stackFollows_eq]
      rfl
    obtain ⟨hsrc, hmhz, hdone⟩ := switchTo_rdi_same s i (s.rdi .CK_ISL_CTL_SRC i)
    refine ⟨_, hrun, ?_, ?_, ?_, fun k hk hon => ?_, ?_⟩
    · rw [hregs, hsrc, Nat.mod_eq_of_lt (by omega)]
    · rw [hregs, hmhz]
      rfl
    · rw [State.flag, hregs, hdone]
      rfl
    · have hon' : (s.switchTo i (s.rdi .CK_ISL_CTL_SRC i)).online k = true := by
        rw [← hon]
        exact switchTo_online ..
      rw [hk] at hon' ⊢
      exact stackFollows_asleep _ k _ hon'
    · exact (stackFollows_frame s i _).mono (by simp [islandRegs])
  case meter =>
    have hrun : exec (.meterGo m a b) s = .next ((((s.wri .CK_METER_CTL_MEAS m a).wri .CK_METER_CTL_GATE m b).wri
        .CK_METER_CTL_GO m 1).wri .CK_METER_CTL_STATUS m 1) := by
      refine congrArg Host.Outcome.next ((byHost_of_up hup _).trans ?_)
      simp [h0, hgo, ha, hb]
    refine ⟨_, hrun, ?_, ?_, ?_, rdi_wri_same, ?_⟩
    · simp [rdi_wri, F.info, Nat.mod_eq_of_lt]
    · simp [rdi_wri, F.info, Nat.mod_eq_of_lt]
    · simp [rdi_wri, F.info]
    · exact ((((State.onlyRegs.refl s _).wri (by simp) _).wri (by simp) _).wri (by simp) _).wri (by simp) _
  case meterBusy =>
    have hrun : exec (.meterGo m a b) s = .next (s.wr .CK_STAT_BUSY 1) :=
      congrArg Host.Outcome.next ((byHost_of_up hup _).trans (if_pos hbusy))
    exact ⟨_, hrun, wri_shows s (by decide) 0⟩
  case done =>
    have hrun : exec (.meterDone m n) s = .next (((s.wri .CK_METER_CNT_COUNT m (s.edges m n)).wri .CK_METER_CTL_STATUS m
        0).wri .CK_METER_CTL_GO m 0) :=
      (if_pos hn).trans (congrArg Host.Outcome.next (if_pos hgo))
    refine ⟨_, hrun, ?_, ?_, rdi_wri_same, ?_⟩
    · rw [rdi_wri_other (.inl (by decide)), rdi_wri_other (.inl (by decide)), rdi_wri_same]
      exact (Nat.mod_eq_of_lt (edges_lt hn m)).trans (by simp [State.edges])
    · exact (rdi_wri_other (.inl (by decide))).trans rdi_wri_same
    · exact (((State.onlyRegs.refl s _).wri (by simp) _).wri (by simp) _).wri (by simp) _
  case noGate =>
    have hrun : exec (.noGate m) s = .next (((({ s with freeCtr := s.freeCtr + 1 } : State).wri .CK_METER_CNT_COUNT m
        (Config.freeValue s.freeCtr).toNat).wri .CK_METER_CTL_STATUS m 2).wri .CK_METER_CTL_GO m 0) :=
      congrArg Host.Outcome.next (if_pos hgo)
    refine ⟨_, hrun, (rdi_wri_other (.inl (by decide))).trans rdi_wri_same, rdi_wri_same, ?_⟩
    exact (((State.onlyRegs.refl s _).wri (f := .CK_METER_CNT_COUNT) (i := m) (by simp) _).wri (f := .CK_METER_CTL_STATUS)
      (i := m) (by simp) 2).wri (f := .CK_METER_CTL_GO) (i := m) (by simp) 0
  case snap =>
    have hrun : exec .ckSnap s = .next (((List.range 43).foldl
        (fun s i => s.wri .CK_ISL_SNAP_COUNT i (s.rdi .CK_ISL_CYCLES_COUNT i)) s).wr .CK_SNAP_VALID 1) :=
      congrArg Host.Outcome.next (byHost_of_up hup _)
    obtain ⟨hsnap, hlogged⟩ := snapCounters_rdi s
    have hregs := snapCounters_regs s
    refine ⟨_, hrun, ?_⟩
    generalize (List.range 43).foldl (fun s i => s.wri .CK_ISL_SNAP_COUNT i (s.rdi .CK_ISL_CYCLES_COUNT i)) s = u at *
    refine ⟨rdi_wri_same, fun i hi => (rdi_wri_other (.inl (by decide))).trans (hsnap i hi),
      congrArg (fun x : State => x.wr .CK_SNAP_VALID 1) hregs, fun f k hc hv => ?_⟩
    exact (rdi_wri_other (.inl hv)).trans (hlogged.regs f k (by simpa using hc))

end Sys2Proof.Machine

/-! The REFCLK monitor: episodes and the restore (O24). -/

namespace Sys2Proof.Machine

/-- A fold brings about what its step at a member `j` does, where every step keeps what that step needs and the others
keep what it made. -/
theorem foldl_mem_at {α : Type} {g : α → Nat → α} {j : Nat} {P Q : α → Prop} {l : List Nat} (hj : j ∈ l)
    (hkeep : ∀ a i, P a → P (g a i)) (hat : ∀ a, P a → Q (g a j)) (hother : ∀ a i, i ≠ j → Q a → Q (g a i)) {a : α}
    (ha : P a) : Q (l.foldl g a) := by
  have hdone : ∀ (l : List Nat) (a : α), P a → Q a → Q (l.foldl g a) := by
    intro l
    induction l with
    | nil => exact fun _ _ h => h
    | cons i l ih =>
      intro a ha hq
      refine ih _ (hkeep a i ha) ?_
      by_cases hi : i = j
      · exact hi ▸ hat a ha
      · exact hother a i hi hq
  induction l generalizing a with
  | nil => exact absurd hj List.not_mem_nil
  | cons i l ih =>
    by_cases hi : i = j
    · exact hdone l _ (hkeep a i ha) (hi ▸ hat a ha)
    · exact ih ((List.mem_cons.1 hj).resolve_left (Ne.symm hi)) (hkeep a i ha)

/-! ### What the move of an island leaves alone -/

/-- A state without what the moves of islands may change beside registers: clocks, self-refresh, the host's link. -/
def State.sansUnits (s : State) : State :=
  { s with
    gran := { s.gran with asleep := [] }, clock := { s.clock with settings := [], divided := [] },
    host := { s.host with linkUp := false } }

/-- A state without what they and error events may change. -/
def State.sansClocks (s : State) : State := s.sansLog.sansUnits

/-- The register fields that a port's loss writes. -/
def portFields : List F := [.WN_PORT_STAT_STATE, .WN_PORT_STAT_REASON]

theorem setPort_logged (s : State) (p st reason : Nat) : s.Logged (s.setPort p st reason) portFields := by
  have hset := ((State.Logged.refl s portFields).wri (f := .WN_PORT_STAT_STATE) (by decide) p st).wri
    (f := .WN_PORT_STAT_REASON) (by decide) p reason
  exact .ite hset (hset.msix 4)

theorem portOuts_logged (s : State) (l : List Nat) : s.Logged (l.foldl State.portOut s) portFields :=
  .foldl (fun _ _ h => .ite (h.trans (setPort_logged ..)) h) l (.refl s _)

/-- `t` is `s` after units of islands moved: register fields of ports, self-refresh and the link may differ. -/
structure State.UnitsMoved (s t : State) : Prop where
  rest : t.sansClocks = s.sansClocks
  regs : ∀ f k, f ∉ portFields → t.rdi f k = s.rdi f k

theorem State.Logged.unitsMoved {s t : State} (h : s.Logged t portFields) : s.UnitsMoved t := by
  exact ⟨congrArg State.sansUnits h.rest, h.regs⟩

theorem unitsSafe_moved (s : State) (i : Nat) : s.UnitsMoved (s.unitsSafe i) := by
  unfold State.unitsSafe State.sleepStack
  split_ifs
  · exact ⟨rfl, fun _ _ _ => rfl⟩
  · exact ⟨rfl, fun _ _ _ => rfl⟩
  · exact (portOuts_logged ..).unitsMoved
  · exact ⟨rfl, fun _ _ _ => rfl⟩
  · exact ⟨rfl, fun _ _ _ => rfl⟩

theorem unitsNormal_moved (s : State) (i : Nat) : s.UnitsMoved (s.unitsNormal i) := by
  unfold State.unitsNormal
  split_ifs <;> exact ⟨rfl, fun _ _ _ => rfl⟩

/-- The register fields of islands and of the ports behind them. -/
def clockFields : List F :=
  portFields ++ [.CK_ISL_STAT_MHZ, .CK_ISL_STAT_CUR, .CK_ISL_STAT_SWITCHING, .CK_ISL_SWITCHES_COUNT, .CK_ISL_CYCLES_COUNT,
    .CK_ISL_STAT_OWNER, .CK_ISL_STAT_READY0, .CK_ISL_STAT_READY1]

/-- `t` is `s` after moves of islands. -/
structure State.Clocked (s t : State) : Prop where
  rest : t.sansClocks = s.sansClocks
  regs : ∀ f k, f ∉ clockFields → t.rdi f k = s.rdi f k

namespace State.Clocked

variable {s t u : State}

theorem refl (s : State) : s.Clocked s := ⟨rfl, fun _ _ _ => rfl⟩
theorem trans (h : s.Clocked t) (k : t.Clocked u) : s.Clocked u :=
  ⟨k.rest.trans h.rest, fun f j hf => (k.regs f j hf).trans (h.regs f j hf)⟩
theorem wri (h : s.Clocked t) {f : F} (hf : f ∈ clockFields) (k v : Nat) : s.Clocked (t.wri f k v) :=
  ⟨h.rest, fun g j hg => (rdi_wri_other (.inl fun (e : g = f) => hg (e ▸ hf))).trans (h.regs g j hg)⟩
theorem addSat (h : s.Clocked t) {f : F} (hf : f ∈ clockFields) (k n : Nat) : s.Clocked (t.addSat f k n) := h.wri hf k _
theorem addWrap (h : s.Clocked t) {f : F} (hf : f ∈ clockFields) (k n : Nat) : s.Clocked (t.addWrap f k n) := h.wri hf k _
theorem keepDivided (h : s.Clocked t) (g : Nat → Bool) : s.Clocked (t.keepDivided g) := ⟨h.rest, h.regs⟩
theorem foldl {g : State → Nat → State} (hg : ∀ (t : State) i, t.Clocked (g t i)) (l : List Nat) (s : State) :
    s.Clocked (l.foldl g s) :=
  foldl_keeps (P := s.Clocked) (fun t i h => h.trans (hg t i)) l (.refl s)

theorem mem_eq (h : s.Clocked t) : t.mem = s.mem := (congrArg State.mem h.rest :)
theorem queues_eq (h : s.Clocked t) : t.queues = s.queues := (congrArg State.queues h.rest :)
theorem power_eq (h : s.Clocked t) : t.power = s.power := (congrArg State.power h.rest :)
theorem boot_eq (h : s.Clocked t) : t.boot = s.boot := (congrArg State.boot h.rest :)
theorem heldWr_eq (h : s.Clocked t) : t.net.heldWr = s.net.heldWr := (congrArg (fun x : State => x.net.heldWr) h.rest :)
theorem accesses_eq (h : s.Clocked t) : t.host.accesses = s.host.accesses :=
  (congrArg (fun x : State => x.host.accesses) h.rest :)
theorem before_eq (h : s.Clocked t) : t.clock.before = s.clock.before :=
  (congrArg (fun x : State => x.clock.before) h.rest :)
theorem passes_eq (h : s.Clocked t) : t.clock.passes = s.clock.passes :=
  (congrArg (fun x : State => x.clock.passes) h.rest :)

end State.Clocked

/-- Whether a stack is online hangs on three register fields. -/
theorem online_congr {s t : State} (h : ∀ f k, f ∈ [F.GN_STACK_STAT_STATE, .ER_BAY_FAULT_BAYS, .PW_DOM_IS_OFF] →
    t.rdi f k = s.rdi f k) (k : Nat) : t.online k = s.online k := by
  simp [State.online, State.bayFaulted, State.bitOf, State.rd, State.domainOff, State.flag, h]

theorem State.Clocked.online_eq {s t : State} (h : s.Clocked t) (k : Nat) : t.online k = s.online k :=
  online_congr (fun f k hf => h.regs f k (by revert hf; revert f; simp [clockFields, portFields])) k

theorem State.UnitsMoved.clocked {s t : State} (h : s.UnitsMoved t) : s.Clocked t :=
  ⟨h.rest, fun f k hf => h.regs f k fun hm => hf (List.mem_append_left _ hm)⟩

theorem switchTo_clocked (s : State) (i c : Nat) : s.Clocked (s.switchTo i c) := by
  have hmoved := (((State.Clocked.refl s).wri (f := .CK_ISL_STAT_CUR) (by decide) i c).wri (f := .CK_ISL_STAT_MHZ)
    (by decide) i (s.srcMhz i c)).wri (f := .CK_ISL_STAT_SWITCHING) (by decide) i 0
  have hcounted := (hmoved.addSat (f := .CK_ISL_SWITCHES_COUNT) (by decide) i 1).keepDivided fun x => x != i
  unfold State.switchTo
  dsimp only
  split
  · exact hcounted.addWrap (by decide) i 64
  · exact hcounted

/-- The island on its source, before its units follow. -/
def State.sourced (s : State) (i c : Nat) : State :=
  if s.rdi .CK_ISL_STAT_CUR i = c then s.wri .CK_ISL_STAT_SWITCHING i 0 else s.switchTo i c

theorem moveIsland_eq (s : State) (i c : Nat) :
    s.moveIsland i c = if c = 2 then (s.sourced i c).unitsSafe i else (s.sourced i c).unitsNormal i := rfl

theorem sourced_clocked (s : State) (i c : Nat) : s.Clocked (s.sourced i c) := by
  unfold State.sourced
  split
  · exact (State.Clocked.refl s).wri (by decide) i 0
  · exact switchTo_clocked ..

theorem moveIsland_clocked (s : State) (i c : Nat) : s.Clocked (s.moveIsland i c) := by
  rw [moveIsland_eq]
  split
  · exact (sourced_clocked s i c).trans (unitsSafe_moved _ i).clocked
  · exact (sourced_clocked s i c).trans (unitsNormal_moved _ i).clocked

/-- Only island `i`'s own registers, beside those of ports, follow its move. -/
theorem moveIsland_rdi_other {s : State} {i k : Nat} (hk : k ≠ i) (c : Nat) {f : F} (hf : f ∉ portFields) :
    (s.moveIsland i c).rdi f k = s.rdi f k := by
  have hsourced : (s.sourced i c).rdi f k = s.rdi f k := by
    unfold State.sourced
    split
    · exact rdi_wri_other (.inr hk)
    · exact (switchTo_onlyRegs s i c).2 f k (by simp [islandRegs, hk])
  rw [moveIsland_eq]
  split
  · exact ((unitsSafe_moved _ i).regs f k hf).trans hsourced
  · exact ((unitsNormal_moved _ i).regs f k hf).trans hsourced

theorem moveIsland_cur (s : State) (i : Nat) {c : Nat} (hc : c < 4) : (s.moveIsland i c).rdi .CK_ISL_STAT_CUR i = c := by
  have hsourced : (s.sourced i c).rdi .CK_ISL_STAT_CUR i = c := by
    unfold State.sourced
    split
    · next h => rwa [rdi_wri_other (.inl (by decide))]
    · rw [(switchTo_rdi_same s i c).1, Nat.mod_eq_of_lt hc]
  rw [moveIsland_eq]
  split
  · exact ((unitsSafe_moved _ i).regs _ i (by decide)).trans hsourced
  · exact ((unitsNormal_moved _ i).regs _ i (by decide)).trans hsourced

/-! ### The fall-back to the safe clocks (R291, R292) -/

/-- Island `i` falls back. -/
def State.fallIsland (s : State) (i : Nat) : State :=
  (((s.moveIsland i 2).wri .CK_ISL_STAT_OWNER i 3).wri .CK_ISL_STAT_READY0 i 0).wri .CK_ISL_STAT_READY1 i 0

theorem fallIsland_clocked (s : State) (i : Nat) : s.Clocked (s.fallIsland i) :=
  (((moveIsland_clocked s i 2).wri (by decide) i 3).wri (by decide) i 0).wri (by decide) i 0

theorem fallIsland_rdi_other (s : State) {i k : Nat} (hk : k ≠ i) {f : F} (hf : f ∉ portFields) :
    (s.fallIsland i).rdi f k = s.rdi f k :=
  (rdi_wri_other (.inr hk)).trans ((rdi_wri_other (.inr hk)).trans ((rdi_wri_other (.inr hk)).trans
    (moveIsland_rdi_other hk 2 hf)))

theorem portOuts_gran (s : State) (l : List Nat) : (l.foldl State.portOut s).gran = s.gran :=
  (congrArg State.gran (portOuts_logged s l).rest :)

theorem portOuts_hostUp (s : State) (l : List Nat) : (l.foldl State.portOut s).hostUp = s.hostUp :=
  (congrArg State.hostUp (portOuts_logged s l).rest :)

theorem sleepStack_asleep {s : State} {k j : Nat} (h : k ∈ s.gran.asleep ∨ j = k ∧ s.online k = true) :
    k ∈ (s.sleepStack j).gran.asleep := by
  rcases h with hin | ⟨rfl, hon⟩
  · unfold State.sleepStack
    split
    · exact List.mem_append_left _ hin
    · exact hin
  · rw [State.sleepStack, hon, Bool.true_and]
    split
    · exact List.mem_append_right _ List.mem_cons_self
    · next hin => simpa using hin

/-- The stack of a falling island is in self-refresh, and those that are stay so. -/
theorem unitsSafe_asleep {s : State} {i k : Nat} (h : k ∈ s.gran.asleep ∨ i = 12 + k ∧ k < 24 ∧ s.online k = true) :
    k ∈ (s.unitsSafe i).gran.asleep := by
  by_cases hstack : 12 ≤ i ∧ i < 36
  · rw [State.unitsSafe, if_pos hstack]
    exact sleepStack_asleep (h.imp id fun ⟨hi, _, hon⟩ => ⟨by omega, hon⟩)
  · have hin : k ∈ s.gran.asleep := h.resolve_right fun ⟨hi, hk, _⟩ => hstack (by omega)
    rw [State.unitsSafe, if_neg hstack]
    split
    · rwa [portOuts_gran]
    · split <;> exact hin

theorem unitsSafe_hostUp (s : State) (i : Nat) : (s.unitsSafe i).hostUp = (s.hostUp && i != 40) := by
  by_cases h40 : i = 40
  · subst h40
    rw [bne_self_eq_false, Bool.and_false]
    rfl
  · rw [bne_iff_ne.2 h40, Bool.and_true]
    unfold State.unitsSafe State.sleepStack
    split
    · split <;> rfl
    · split
      · exact portOuts_hostUp ..
      · rfl

theorem sourced_host (s : State) (i c : Nat) : (s.sourced i c).host = s.host := by
  unfold State.sourced
  split
  · rfl
  · exact (congrArg State.host (switchTo_onlyRegs s i c).1 :)

theorem sourced_gran (s : State) (i c : Nat) : (s.sourced i c).gran = s.gran := by
  unfold State.sourced
  split
  · rfl
  · exact switchTo_gran s i c

theorem fallIsland_hostUp (s : State) (i : Nat) : (s.fallIsland i).hostUp = (s.hostUp && i != 40) := by
  refine (unitsSafe_hostUp (s.sourced i 2) i).trans ?_
  rw [State.hostUp, sourced_host, State.hostUp]

theorem fallIsland_asleep {s : State} {i k : Nat} (h : k ∈ s.gran.asleep ∨ i = 12 + k ∧ k < 24 ∧ s.online k = true) :
    k ∈ (s.fallIsland i).gran.asleep := by
  refine unitsSafe_asleep (s := s.sourced i 2) ?_
  rwa [sourced_gran, (sourced_clocked s i 2).online_eq]

theorem fallBack_eq (s : State) : s.fallBack = (List.range 43).foldl State.fallIsland s := rfl

theorem fallBack_clocked (s : State) : s.Clocked s.fallBack := State.Clocked.foldl fallIsland_clocked _ s

theorem fallBack_islands (s : State) {i : Nat} (hi : i < 43) :
    s.fallBack.rdi .CK_ISL_STAT_CUR i = 2 ∧ s.fallBack.rdi .CK_ISL_STAT_OWNER i = 3 := by
  rw [fallBack_eq]
  refine foldl_mem_at (P := fun _ => True)
    (Q := fun t : State => t.rdi .CK_ISL_STAT_CUR i = 2 ∧ t.rdi .CK_ISL_STAT_OWNER i = 3) (List.mem_range.2 hi)
    (fun _ _ h => h) (fun t _ => ⟨?_, ?_⟩) (fun t j hj h => ⟨?_, ?_⟩) trivial
  · show (t.fallIsland i).rdi _ i = _
    rw [State.fallIsland, rdi_wri_other (.inl (by decide)), rdi_wri_other (.inl (by decide)),
      rdi_wri_other (.inl (by decide)), moveIsland_cur t i (by decide)]
  · show (t.fallIsland i).rdi _ i = _
    rw [State.fallIsland, rdi_wri_other (.inl (by decide)), rdi_wri_other (.inl (by decide)), rdi_wri_same]
    rfl
  · exact (fallIsland_rdi_other t hj.symm (by decide)).trans h.1
  · exact (fallIsland_rdi_other t hj.symm (by decide)).trans h.2

theorem fallBack_asleep (s : State) {k : Nat} (hk : k < 24) (hon : s.online k = true) : k ∈ s.fallBack.gran.asleep := by
  rw [fallBack_eq]
  refine foldl_mem_at (j := 12 + k) (P := s.Clocked) (Q := fun t : State => k ∈ t.gran.asleep)
    (List.mem_range.2 (by omega)) (fun t i h => h.trans (fallIsland_clocked t i)) (fun t h => ?_) (fun t i _ h => fallIsland_asleep (.inl h))
    (.refl s)
  exact fallIsland_asleep (.inr ⟨rfl, hk, (h.online_eq k).trans hon⟩)

theorem fallBack_hostUp (s : State) : s.fallBack.hostUp = false := by
  rw [fallBack_eq]
  refine foldl_mem_at (j := 40) (P := fun _ => True) (Q := fun t : State => t.hostUp = false)
    (List.mem_range.2 (by decide)) (fun _ _ h => h) (fun t _ => ?_) (fun t i _ h => ?_) trivial
  · rw [fallIsland_hostUp, bne_self_eq_false, Bool.and_false]
  · rw [fallIsland_hostUp, h, Bool.false_and]

/-! ### The restore (R293) -/

theorem restoreIsland_clocked (s : State) (i : Nat) : s.Clocked (s.restoreIsland i) :=
  (((moveIsland_clocked s i _).wri (by decide) i 0).wri (by decide) i 1).wri (by decide) i _

theorem restoreIsland_rdi_other (s : State) {i k : Nat} (hk : k ≠ i) {f : F} (hf : f ∉ portFields) :
    (s.restoreIsland i).rdi f k = s.rdi f k :=
  (rdi_wri_other (.inr hk)).trans ((rdi_wri_other (.inr hk)).trans ((rdi_wri_other (.inr hk)).trans
    (moveIsland_rdi_other hk _ hf)))

theorem restoreIsland_owner (s : State) (i : Nat) :
    (s.restoreIsland i).rdi .CK_ISL_STAT_OWNER i = 0 ∧ (s.restoreIsland i).rdi .CK_ISL_STAT_READY0 i = 1 := by
  constructor
  · rw [State.restoreIsland, rdi_wri_other (.inl (by decide)), rdi_wri_other (.inl (by decide)), rdi_wri_same]
    rfl
  · rw [State.restoreIsland, rdi_wri_other (.inl (by decide)), rdi_wri_same]
    rfl

theorem homeSource_congr {s t : State} (h : s.Clocked t) (i : Nat) : t.homeSource i = s.homeSource i := by
  rw [State.homeSource, h.before_eq, h.regs _ _ (by decide), State.homeSource]

theorem unitsNormal_hostUp (s : State) (i : Nat) :
    (s.unitsNormal i).hostUp = (s.hostUp || i == 40 && s.boot.phase == .up) := by
  by_cases h40 : i = 40
  · subst h40
    rfl
  · rw [beq_false_of_ne h40, Bool.false_and, Bool.or_false]
    unfold State.unitsNormal
    split <;> rfl

theorem restoreIsland_hostUp_other (s : State) {i : Nat} (hi : i ≠ 40) : (s.restoreIsland i).hostUp = s.hostUp := by
  have hmove : (s.moveIsland i (s.homeSource i)).hostUp = s.hostUp := by
    rw [moveIsland_eq]
    split
    · rw [unitsSafe_hostUp, bne_iff_ne.2 hi, Bool.and_true, State.hostUp, sourced_host, State.hostUp]
    · rw [unitsNormal_hostUp, beq_false_of_ne hi, Bool.false_and, Bool.or_false, State.hostUp, sourced_host, State.hostUp]
  exact hmove

theorem restoreIsland_hostUp_pcie {s : State} (hsrc : s.homeSource 40 ≠ 2) :
    (s.restoreIsland 40).hostUp = (s.hostUp || s.boot.phase == .up) := by
  have hmove : (s.moveIsland 40 (s.homeSource 40)).hostUp = (s.hostUp || s.boot.phase == .up) := by
    rw [moveIsland_eq, if_neg hsrc, unitsNormal_hostUp, State.hostUp, sourced_host, (sourced_clocked s 40 _).boot_eq]
    rfl
  exact hmove

theorem mem_restoreOrder {i : Nat} (hi : i < 43) : i ∈ restoreOrder := by
  interval_cases i <;> decide

/-- The islands restored in the order of R293. -/
def State.restored (s : State) : State := restoreOrder.foldl State.restoreIsland s

theorem restored_clocked (s : State) : s.Clocked s.restored := State.Clocked.foldl restoreIsland_clocked _ s

theorem restored_islands (s : State) {i : Nat} (hi : i < 43) :
    s.restored.rdi .CK_ISL_STAT_OWNER i = 0 ∧ s.restored.rdi .CK_ISL_STAT_READY0 i = 1 := by
  rw [State.restored]
  refine foldl_mem_at (P := fun _ => True)
    (Q := fun t : State => t.rdi .CK_ISL_STAT_OWNER i = 0 ∧ t.rdi .CK_ISL_STAT_READY0 i = 1) (mem_restoreOrder hi)
    (fun _ _ h => h) (fun t _ => restoreIsland_owner t i) (fun t j hj h => ⟨?_, ?_⟩) trivial
  · exact (restoreIsland_rdi_other t hj.symm (by decide)).trans h.1
  · exact (restoreIsland_rdi_other t hj.symm (by decide)).trans h.2

/-- The host's link while the islands return: as it was, or as the return of the PCIe island leaves it. -/
structure State.LinkReturns (s t : State) : Prop where
  clocked : s.Clocked t
  link : t.hostUp = s.hostUp ∨ t.hostUp = (s.hostUp || s.boot.phase == .up)

theorem State.LinkReturns.restoreIsland {s t : State} (h : s.LinkReturns t) (hsrc : s.homeSource 40 ≠ 2) (i : Nat) :
    s.LinkReturns (t.restoreIsland i) := by
  refine ⟨h.clocked.trans (restoreIsland_clocked t i), ?_⟩
  by_cases hi : i = 40
  · subst hi
    rw [restoreIsland_hostUp_pcie (by rwa [homeSource_congr h.clocked]), h.clocked.boot_eq]
    refine .inr ?_
    rcases h.link with hl | hl <;> rw [hl]
    rw [Bool.or_assoc, Bool.or_self]
  · rw [restoreIsland_hostUp_other t hi]
    exact h.link

theorem State.LinkReturns.pcie {s t : State} (h : s.LinkReturns t) (hsrc : s.homeSource 40 ≠ 2) :
    (t.restoreIsland 40).hostUp = (s.hostUp || s.boot.phase == .up) := by
  rw [restoreIsland_hostUp_pcie (by rwa [homeSource_congr h.clocked]), h.clocked.boot_eq]
  rcases h.link with hl | hl <;> rw [hl]
  rw [Bool.or_assoc, Bool.or_self]

theorem restored_hostUp {s : State} (hsrc : s.homeSource 40 ≠ 2) :
    s.restored.hostUp = (s.hostUp || s.boot.phase == .up) := by
  have h40 : 40 ∈ restoreOrder := mem_restoreOrder (by decide)
  exact foldl_mem_at (P := s.LinkReturns) (Q := fun t : State => t.hostUp = (s.hostUp || s.boot.phase == .up)) h40
    (fun t i h => h.restoreIsland hsrc i) (fun t h => h.pcie hsrc)
    (fun t i hi h => (restoreIsland_hostUp_other t hi).trans h) ⟨.refl s, .inl rfl⟩

/-- An episode, if there is one, ends. -/
def State.episodeOver (s : State) : State :=
  let t := if s.flag .CK_STAT_EPISODE 0 then (s.wr .CK_STAT_EPISODE 0).wr .CK_FAIL_STAT_LAST_MS (s.clock.elapsed / 1000) else s
  { t with clock := { t.clock with before := [] } }

theorem restoreClocks_eq (s : State) : s.restoreClocks = s.restored.episodeOver := by
  unfold State.restoreClocks State.restored
  generalize restoreOrder.foldl State.restoreIsland s = u
  rfl

theorem episodeOver_eq (s : State) : s.episodeOver =
    { s with
      regs := (if s.flag .CK_STAT_EPISODE 0 then (s.wr .CK_STAT_EPISODE 0).wr .CK_FAIL_STAT_LAST_MS (s.clock.elapsed / 1000)
        else s).regs, clock := { s.clock with before := [] } } := by
  unfold State.episodeOver
  dsimp only
  split <;> rfl

theorem episodeOver_hostUp (s : State) : s.episodeOver.hostUp = s.hostUp := by rw [episodeOver_eq]; rfl
theorem episodeOver_mem (s : State) : s.episodeOver.mem = s.mem := by rw [episodeOver_eq]
theorem episodeOver_before (s : State) : s.episodeOver.clock.before = [] := by rw [episodeOver_eq]
theorem episodeOver_floorOn (s : State) : s.episodeOver.floorOn = s.floorOn := by rw [episodeOver_eq]; rfl
theorem episodeOver_calm {s t : State} (h : s.Calm) (ht : s.Clocked t) : t.episodeOver.Calm := by
  rw [episodeOver_eq]
  exact h.congr ht.accesses_eq ht.heldWr_eq ht.queues_eq

theorem episodeOver_rdi (s : State) {f : F} (k : Nat) (h1 : f ≠ .CK_STAT_EPISODE) (h2 : f ≠ .CK_FAIL_STAT_LAST_MS) :
    s.episodeOver.rdi f k = s.rdi f k := by
  have hwrites : ((s.wr .CK_STAT_EPISODE 0).wr .CK_FAIL_STAT_LAST_MS (s.clock.elapsed / 1000)).rdi f k = s.rdi f k :=
    (rdi_wri_other (.inl h2)).trans (rdi_wri_other (.inl h1))
  unfold State.episodeOver
  dsimp only
  split
  · exact hwrites
  · rfl

theorem episodeOver_flag (s : State) : s.episodeOver.flag .CK_STAT_EPISODE 0 = false := by
  have hwrites : ((s.wr .CK_STAT_EPISODE 0).wr .CK_FAIL_STAT_LAST_MS (s.clock.elapsed / 1000)).flag .CK_STAT_EPISODE 0 =
      false := by
    rw [State.flag, rdi_wr, if_neg (by decide), rdi_wr, if_pos ⟨rfl, rfl⟩]
    rfl
  unfold State.episodeOver
  dsimp only
  split
  · exact hwrites
  · next h => exact eq_false_of_ne_true h

/-! ### The monitor's windows (R282, R290) -/

theorem onlyRegs_trans_clock {s t u : State} {l m : List (F × Nat)} (h : s.onlyRegs { t with clock := s.clock } l)
    (k : t.onlyRegs { u with clock := t.clock } m) : s.onlyRegs { u with clock := s.clock } (l ++ m) := by
  obtain ⟨hrest, hregs⟩ := h
  obtain ⟨krest, kregs⟩ := k
  refine ⟨?_, fun f j hf => ?_⟩
  · have hclock := congrArg (fun x : State => { x with clock := s.clock }) krest
    exact hclock.trans (congrArg (fun x : State => { x with regs := u.regs }) hrest)
  · rw [List.mem_append, not_or] at hf
    exact (kregs f j hf.2).trans (hregs f j hf.1)

/-- What every window shows: the count, and whether it passed. -/
def State.windowShown (s : State) (count : Nat) (ok : Bool) : State :=
  ((({ s with clock := { s.clock with passes := if ok then min 100 (s.clock.passes + 1) else 0 } } : State).wr .CK_MON_LAST
    (min 255 count)).wri .CK_METER_CNT_COUNT 0 count).wr .CK_STAT_REFCLK_OK (b2n ok)

/-- The register fields a window writes. -/
def windowRegs : List (F × Nat) := [(.CK_MON_LAST, 0), (.CK_METER_CNT_COUNT, 0), (.CK_STAT_REFCLK_OK, 0)]

theorem windowShown_onlyRegs (s : State) (count : Nat) (ok : Bool) :
    s.onlyRegs { s.windowShown count ok with clock := s.clock } windowRegs :=
  (((State.onlyRegs.refl s windowRegs).wri (f := .CK_MON_LAST) (i := 0) (by simp [windowRegs]) _).wri
    (f := .CK_METER_CNT_COUNT) (i := 0) (by simp [windowRegs]) _).wri (f := .CK_STAT_REFCLK_OK) (i := 0)
    (by simp [windowRegs]) _

theorem windowShown_rdi (s : State) (count : Nat) (ok : Bool) {f : F} {k : Nat} (hf : (f, k) ∉ windowRegs) :
    (s.windowShown count ok).rdi f k = s.rdi f k := (windowShown_onlyRegs s count ok).2 f k hf

theorem monitorWindow_passes {s : State} (hpow : s.boot.phase ≠ .off) {n : Nat} (h1 : 88 ≤ n) (h2 : n ≤ 112) :
    exec (.monitorWindow n) s = .next (
      if min 100 (s.clock.passes + 1) = 100 ∧ s.clock.passes ≠ 100 then
        ((s.windowShown n true).wr .CK_STAT_ARMED 1).restoreIsland 42
      else s.windowShown n true) := by
  have hok : (decide (88 ≤ n) && decide (n ≤ 112)) = true := by simp [h1, h2]
  show execMonitorWindow n s = _
  simp only [execMonitorWindow, if_neg hpow, hok, if_true]
  rfl

theorem monitorWindow_fails {s : State} (hpow : s.boot.phase ≠ .off) {n : Nat} (h : n < 88 ∨ 112 < n) :
    exec (.monitorWindow n) s = .next (
      if s.flag .CK_STAT_EPISODE 0 then (s.windowShown n false).fallBack
      else if s.flag .CK_STAT_ARMED 0 then (s.windowShown n false).beginEpisode
      else s.windowShown n false) := by
  have hok : (decide (88 ≤ n) && decide (n ≤ 112)) = false := by
    simp only [Bool.and_eq_false_iff, decide_eq_false_iff_not]
    omega
  have hflag : ∀ f, (f, 0) ∉ windowRegs → s.flag f 0 = (s.windowShown n false).flag f 0 := fun f hf => by
    rw [State.flag, State.flag, windowShown_rdi s n false hf]
  show execMonitorWindow n s = _
  rw [hflag .CK_STAT_EPISODE (by decide), hflag .CK_STAT_ARMED (by decide)]
  simp only [execMonitorWindow, if_neg hpow, hok, Bool.false_eq_true, if_false]
  rfl

/-- AO's island has no stack, port or link behind it. -/
theorem moveIsland_ao (s : State) (c : Nat) : s.moveIsland 42 c = s.sourced 42 c := by
  rw [moveIsland_eq]
  split <;> rfl

/-- The register fields of the return of AO's island. -/
def aoRegs : List (F × Nat) :=
  islandRegs 42 ++ [(.CK_ISL_STAT_OWNER, 42), (.CK_ISL_STAT_READY0, 42), (.CK_ISL_STAT_READY1, 42)]

theorem restoreIsland_ao_onlyRegs (s : State) : s.onlyRegs { s.restoreIsland 42 with clock := s.clock } aoRegs := by
  have hsourced : ∀ c, s.onlyRegs { s.sourced 42 c with clock := s.clock } aoRegs := by
    intro c
    unfold State.sourced
    split
    · exact (State.onlyRegs.refl s aoRegs).wri (f := .CK_ISL_STAT_SWITCHING) (i := 42) (by decide) 0
    · exact (switchTo_onlyRegs s 42 c).mono fun _ h => List.mem_append_left _ h
  rw [State.restoreIsland, moveIsland_ao]
  exact (((hsourced (s.homeSource 42)).wri (f := .CK_ISL_STAT_OWNER) (i := 42) (by decide) 0).wri (f := .CK_ISL_STAT_READY0)
    (i := 42) (by decide) 1).wri (f := .CK_ISL_STAT_READY1) (i := 42) (by decide) (b2n (decide (42 ≠ 42)))

/-- The state in which an episode is noted, before the islands fall back. -/
def State.episodeNoted (s : State) : State :=
  ((({ s with clock := { s.clock with before := (List.range 43).map fun i => (i, s.ownSource i), elapsed := 0 } } : State).wr
    .CK_STAT_EPISODE 1).addSat .CK_FAIL_STAT_EPISODES 0 1).wr .HI_ALERT_CLKFAIL 1 |>.raise .refclkFail 9 0 0 0 0

theorem beginEpisode_eq (s : State) : s.beginEpisode = s.episodeNoted.fallBack := by
  unfold State.beginEpisode State.episodeNoted
  rfl

theorem episodeNoted_logged (s : State) :
    { s with clock := { s.clock with before := (List.range 43).map fun i => (i, s.ownSource i), elapsed := 0 } }.Logged
      s.episodeNoted ([F.CK_STAT_EPISODE, .CK_FAIL_STAT_EPISODES, .HI_ALERT_CLKFAIL] ++ logFields) :=
  ((((State.Logged.refl _ _).wri (f := .CK_STAT_EPISODE) (by decide) 0 1).wri (f := .CK_FAIL_STAT_EPISODES) (by decide) 0
    _).wri (f := .HI_ALERT_CLKFAIL) (by decide) 0 1).trans ((raise_logged ..).mono fun _ h => List.mem_append_right _ h)

theorem episodeNoted_flags (s : State) :
    s.episodeNoted.flag .CK_STAT_EPISODE 0 = true ∧ s.episodeNoted.rd .HI_ALERT_CLKFAIL = 1 := by
  constructor
  · rw [State.flag, State.episodeNoted, (raise_logged ..).regs _ 0 (by decide), rdi_wr, if_neg (by decide), State.addSat,
      rdi_wri_other (.inl (by decide)), rdi_wr, if_pos ⟨rfl, rfl⟩]
    rfl
  · rw [State.rd, State.episodeNoted, (raise_logged ..).regs _ 0 (by decide), rdi_wr, if_pos ⟨rfl, rfl⟩]
    rfl

/-- What the fall-back of a window leaves, as the statement asks for it. -/
theorem fallBack_shows (s : State) :
    s.fallBack.clock.passes = s.clock.passes ∧ s.fallBack.rd .CK_STAT_REFCLK_OK = s.rd .CK_STAT_REFCLK_OK ∧
      s.fallBack.flag .CK_STAT_EPISODE 0 = s.flag .CK_STAT_EPISODE 0 ∧
      s.fallBack.rd .HI_ALERT_CLKFAIL = s.rd .HI_ALERT_CLKFAIL ∧ ∀ p, s.fallBack.byteAt p = s.byteAt p := by
  have h := fallBack_clocked s
  refine ⟨h.passes_eq, h.regs _ 0 (by decide), ?_, h.regs _ 0 (by decide), byteAt_of_mem h.mem_eq⟩
  rw [State.flag, h.regs _ 0 (by decide), State.flag]

/-- Settles O24: a window by its three outcomes; the lock by the restore of every island. -/
theorem clockFailureAndRestore : Obligations.ClockFailureAndRestore := by
  refine fun s hpow => ⟨fun n h1 h2 => ?passes, fun n hn => ⟨fun hany => ?fails, fun ha he => ?ignored⟩, fun hdue => ?early,
    fun hdue hfloor hsrc hports hcalm => ?lock⟩
  case passes =>
    have hrun := monitorWindow_passes hpow h1 h2
    have hshown := windowShown_onlyRegs s n true
    have hok : (s.windowShown n true).rd .CK_STAT_REFCLK_OK = 1 := rdi_wri_same
    have hlast : (s.windowShown n true).rd .CK_MON_LAST = n := by
      rw [State.windowShown, State.rd, rdi_wr, if_neg (by decide), rdi_wri_other (.inl (by decide)), rdi_wr, if_pos ⟨rfl, rfl⟩]
      simp only [F.info]
      omega
    by_cases harms : s.clock.passes = 99 ∨ 100 < s.clock.passes
    · rw [if_pos (by omega)] at hrun
      have hao := restoreIsland_ao_onlyRegs ((s.windowShown n true).wr .CK_STAT_ARMED 1)
      have hclocked := restoreIsland_clocked ((s.windowShown n true).wr .CK_STAT_ARMED 1) 42
      refine ⟨_, hrun, ?_, ?_, ?_, fun _ => ⟨?_, (restoreIsland_owner _ 42).1⟩, ?_⟩
      · rw [hclocked.passes_eq]
        rfl
      · exact (hclocked.regs _ 0 (by decide)).trans ((rdi_wri_other (.inl (by decide))).trans hok)
      · exact (hclocked.regs _ 0 (by decide)).trans ((rdi_wri_other (.inl (by decide))).trans hlast)
      · exact (hclocked.regs _ 0 (by decide)).trans rdi_wri_same
      · rw [if_pos (harms.imp Eq.symm id)]
        have harmed : s.onlyRegs { (s.windowShown n true).wr .CK_STAT_ARMED 1 with clock := s.clock }
            (windowRegs ++ [(.CK_STAT_ARMED, 0)]) :=
          (hshown.mono fun _ h => List.mem_append_left _ h).wri (f := .CK_STAT_ARMED) (i := 0) (by simp) 1
        exact (onlyRegs_trans_clock harmed hao).mono (by simp [windowRegs, aoRegs, islandRegs])
    · rw [if_neg (by omega)] at hrun
      rw [if_neg fun h => harms (h.imp Eq.symm id), List.append_nil]
      exact ⟨_, hrun, rfl, hok, hlast, fun h => absurd (.inl h) harms, hshown⟩
  case fails =>
    have hrun := monitorWindow_fails hpow hn
    have hok : (s.windowShown n false).rd .CK_STAT_REFCLK_OK = 0 := rdi_wri_same
    have honline : ∀ k, (s.windowShown n false).online k = s.online k :=
      online_congr fun f k hf => windowShown_rdi s n false (by revert hf; revert f; simp [windowRegs])
    by_cases hep : s.flag .CK_STAT_EPISODE 0 = true
    · rw [if_pos hep] at hrun
      obtain ⟨hpasses, hrefclk, hflag, _, hbytes⟩ := fallBack_shows (s.windowShown n false)
      refine ⟨_, hrun, hpasses, hrefclk.trans hok, hflag.trans ?_, fallBack_hostUp _, fun h => absurd hep (by simp [h]),
        fun i hi => fallBack_islands _ hi, fun k hk hon => ?_, hbytes⟩
      · rw [State.flag, windowShown_rdi s n false (by decide)]
        exact hep
      · exact List.contains_iff_mem.2 (fallBack_asleep _ hk ((honline k).trans hon))
    · rw [if_neg hep, if_pos (hany.resolve_right hep)] at hrun
      rw [beginEpisode_eq] at hrun
      have hnoted := episodeNoted_logged (s.windowShown n false)
      obtain ⟨hset, halert⟩ := episodeNoted_flags (s.windowShown n false)
      obtain ⟨hpasses, hrefclk, hflag, hclkfail, hbytes⟩ := fallBack_shows (s.windowShown n false).episodeNoted
      refine ⟨_, hrun, ?_, ?_, hflag.trans hset, fallBack_hostUp _, fun _ => hclkfail.trans halert,
        fun i hi => fallBack_islands _ hi, fun k hk hon => ?_, fun p => (hbytes p).trans ?_⟩
      · rw [hpasses, hnoted.clock_eq]
        rfl
      · exact hrefclk.trans ((hnoted.regs _ 0 (by decide)).trans hok)
      · refine List.contains_iff_mem.2 (fallBack_asleep _ hk ?_)
        rw [← hon, ← honline k]
        exact online_congr (fun f k hf => hnoted.regs f k (by revert hf; revert f; decide)) k
      · exact hnoted.byteAt_eq p
  case ignored =>
    have hrun := monitorWindow_fails hpow hn
    rw [if_neg (by simp [he]), if_neg (by simp [ha])] at hrun
    exact ⟨_, hrun, rfl, windowShown_onlyRegs ..⟩
  case early => exact congrArg Host.Outcome.next (if_neg (by simp [hdue]))
  case lock =>
    have hclocked := restored_clocked s
    have hcalm' := episodeOver_calm hcalm hclocked
    have hfloor' : s.restored.episodeOver.floorOn = false := by
      rw [episodeOver_floorOn, ← hfloor, State.floorOn, hclocked.power_eq, State.floorOn]
    have hrun : exec .pllLock s = .next s.restored.episodeOver := by
      refine congrArg Host.Outcome.next ((if_pos hdue).trans ?_)
      show State.serveWaiting (if s.restoreClocks.floorOn then _ else s.restoreClocks) = _
      rw [restoreClocks_eq, hfloor', if_neg Bool.false_ne_true, hcalm'.serveWaiting]
    refine ⟨_, hrun, episodeOver_flag _, fun i hi => ?_, ?_, ?_, fun p => ?_⟩
    · obtain ⟨howner, hready⟩ := restored_islands s hi
      rw [episodeOver_rdi _ i (by decide) (by decide), episodeOver_rdi _ i (by decide) (by decide)]
      exact ⟨howner, hready⟩
    · rw [episodeOver_hostUp, restored_hostUp hsrc]
    · exact episodeOver_before _
    · exact byteAt_of_mem ((episodeOver_mem _).trans hclocked.mem_eq) p

end Sys2Proof.Machine

/-! Measurements, calibration, domains and Idle (O27, O29). -/

namespace Sys2Proof.Machine

/-! ### Sensors (R274) -/

/-- The register fields that follow heat. -/
def heatFields : List F := [.PW_THR_STAT_THROTTLED, .TM_STAT_THROTTLING]

theorem sensorFields_apart (i : Sensor) : (sensorFields i).1 ≠ (sensorFields i).2.1 ∧
    (sensorFields i).1 ∉ .PW_STAT_PIN_OVERRIDDEN :: heatFields ∧
    (sensorFields i).2.1 ∉ .TM_STAT_SENSOR_FAIL :: .PW_STAT_PIN_OVERRIDDEN :: heatFields ∧
    (sensorFields i).1.info.width = 12 ∧ (sensorFields i).2.1.info.width = 1 := by
  cases i <;> simp [sensorFields, heatFields, F.info]

/-- A sensor's reading shown as valid. -/
def State.sensed (s : State) (i : Sensor) (temp : Nat) : State :=
  let t := (s.wri (sensorFields i).1 (sensorFields i).2.2 temp).wri (sensorFields i).2.1 (sensorFields i).2.2 1
  { t with power := { t.power with badSensors := t.power.badSensors.filter fun x => x != i } }

/-- A stack's throttle follows its reading. -/
def State.heated (s : State) (i : Sensor) (temp : Nat) : State :=
  match i with
  | .thresher _ _ => s
  | .stack k => s.stackHeat k (signed 12 temp)

theorem heated_frame (s : State) (i : Sensor) (n : Nat) :
    (s.heated i n).regs = s.regs ∧ (s.heated i n).mem = s.mem ∧ (s.heated i n).queues = s.queues := by
  cases i <;> exact ⟨rfl, rfl, rfl⟩

theorem sensorSample_run {s : State} {i : Sensor} {n : Nat} (hn : n < 4096) (hpow : s.boot.phase ≠ .off)
    (hon : s.domainOff (sensorDomain i) = false) (ok : Bool) :
    exec (.sensorSample i n ok) s = .next (
      if ok then ((s.sensed i n).heated i n).noteHeat
      else ((s.wri (sensorFields i).2.1 (sensorFields i).2.2 0).failSensor i).noteHeat.notePin) := by
  show execSensorSample i n ok s = _
  rw [execSensorSample, if_pos hn, if_neg hpow]
  refine congrArg Host.Outcome.next ?_
  cases ok <;> cases i <;> simp only [hon, Bool.false_eq_true, if_false, if_true] <;> rfl

theorem sensed_fields (s : State) (i : Sensor) {n : Nat} (hn : n < 4096) :
    (s.sensed i n).rdi (sensorFields i).1 (sensorFields i).2.2 = n ∧
      (s.sensed i n).flag (sensorFields i).2.1 (sensorFields i).2.2 = true := by
  obtain ⟨hne, _, _, htemp, hvalid⟩ := sensorFields_apart i
  constructor
  · refine (rdi_wri_other (.inl hne)).trans (rdi_wri_same.trans ?_)
    rw [htemp]
    exact Nat.mod_eq_of_lt hn
  · have hset : (s.sensed i n).rdi (sensorFields i).2.1 (sensorFields i).2.2 = 1 :=
      rdi_wri_same.trans (by rw [hvalid]; rfl)
    rw [State.flag, hset]
    rfl

/-- The good reading, whatever the sensor measures. -/
theorem sensorSample_good (s : State) (i : Sensor) {n : Nat} (hn : n < 4096) {t : State}
    (ht : t.regs = (s.sensed i n).regs ∧ t.mem = s.mem ∧ t.queues = s.queues) :
    t.noteHeat.rdi (sensorFields i).1 (sensorFields i).2.2 = n ∧
      t.noteHeat.flag (sensorFields i).2.1 (sensorFields i).2.2 = true ∧ (∀ p, t.noteHeat.byteAt p = s.byteAt p) ∧
      t.noteHeat.queues = s.queues := by
  obtain ⟨_, htemp, hvalid, _, _⟩ := sensorFields_apart i
  obtain ⟨hshown, hflag⟩ := sensed_fields s i hn
  obtain ⟨hregs, hmem, hqueues⟩ := ht
  have hheat := noteHeat_logged t
  have hrdi : ∀ f k, t.rdi f k = (s.sensed i n).rdi f k := fun f k => by rw [State.rdi, hregs, State.rdi]
  refine ⟨?_, ?_, byteAt_of_mem (hheat.mem_eq.trans hmem), hheat.queues_eq.trans hqueues⟩
  · rw [hheat.regs _ _ fun h => htemp (List.mem_cons_of_mem _ h), hrdi, hshown]
  · rw [State.flag, hheat.regs _ _ fun h => hvalid (List.mem_cons_of_mem _ (List.mem_cons_of_mem _ h)), hrdi]
    exact hflag

theorem sensorSample_bad (s : State) (i : Sensor) {t : State}
    (ht : t = (s.wri (sensorFields i).2.1 (sensorFields i).2.2 0).failSensor i) :
    t.noteHeat.notePin.flag (sensorFields i).2.1 (sensorFields i).2.2 = false ∧ t.noteHeat.notePin.rd .TM_STAT_SENSOR_FAIL = 1 ∧
      (∀ p, t.noteHeat.notePin.byteAt p = s.byteAt p) ∧ t.noteHeat.notePin.queues = s.queues := by
  obtain ⟨_, _, hvalid, _, _⟩ := sensorFields_apart i
  have hheat := ((noteHeat_logged t).mono (gs := .PW_STAT_PIN_OVERRIDDEN :: heatFields) fun _ h => List.mem_cons_of_mem _ h).trans
    ((notePin_logged _).mono (by simp))
  have hfailed : t.rdi (sensorFields i).2.1 (sensorFields i).2.2 = 0 := by
    have hne : (sensorFields i).2.1 ≠ .TM_STAT_SENSOR_FAIL := fun h => hvalid (h ▸ List.mem_cons_self)
    subst ht
    refine (rdi_wri_other (f := .TM_STAT_SENSOR_FAIL) (i := 0) (v := 1) (.inl hne)).trans ?_
    rw [rdi_wri_same, Nat.zero_mod]
  refine ⟨?_, ?_, fun p => (hheat.byteAt_eq p).trans ?_, hheat.queues_eq.trans ?_⟩
  · rw [State.flag, hheat.regs _ _ fun h => hvalid (List.mem_cons_of_mem _ h), hfailed]
    rfl
  · rw [State.rd, hheat.regs _ _ (by simp [heatFields]), ht]
    exact rdi_wri_same (s := s.wri (sensorFields i).2.1 (sensorFields i).2.2 0) (f := .TM_STAT_SENSOR_FAIL) (i := 0) (v := 1)
  · rw [ht]
    rfl
  · rw [ht]
    rfl

/-! ### The cap loop (R263, R264) -/

theorem Frac.of_one (n : Nat) : Frac.of n 1 = ⟨n, 1⟩ := by simp [Frac.of]

theorem Frac.add_whole (a b : Nat) : Frac.add ⟨a, 1⟩ ⟨b, 1⟩ = ⟨a + b, 1⟩ := by
  simp [Frac.add, Frac.of]

theorem foldl_add_whole (l : List Nat) (a : Nat) :
    (l.map fun n => (⟨n, 1⟩ : Frac)).foldl Frac.add ⟨a, 1⟩ = ⟨a + l.sum, 1⟩ := by
  induction l generalizing a with
  | nil => rfl
  | cons n l ih => rw [List.map_cons, List.foldl_cons, Frac.add_whole, ih, List.sum_cons, Nat.add_assoc]

theorem measured_of_unit_gains {s : State} {m : List Nat} (hm : m.length = 21)
    (hg : s.power.gains = List.replicate 21 ⟨1, 1⟩) (hsum : m.sum ≤ 4095) : s.measured m = m.sum := by
  have hzip : ((s.power.gains.zip m).map fun e => Frac.of (e.1.num * e.2) e.1.den) = m.map fun n => (⟨n, 1⟩ : Frac) := by
    rw [hg, ← hm]
    generalize m = l
    induction l with
    | nil => rfl
    | cons n l ih =>
      rw [List.length_cons, List.replicate_succ, List.zip_cons_cons, List.map_cons, List.map_cons, ih, Nat.one_mul,
        Frac.of_one]
  have hfold := foldl_add_whole m 0
  rw [State.measured, hzip]
  show min 4095 ((List.foldl Frac.add ⟨0, 1⟩ (m.map fun n => (⟨n, 1⟩ : Frac))).num /
    (List.foldl Frac.add ⟨0, 1⟩ (m.map fun n => (⟨n, 1⟩ : Frac))).den) = _
  rw [hfold, Nat.zero_add, Nat.div_one, Nat.min_eq_right hsum]

/-- A state without its registers and what stands behind the power policy. -/
def State.sansPower (s : State) : State := { s with regs := [], power := State.reset.power }

/-- The register fields in which a period of the cap loop counts and shows bubbles. -/
def bubbleFields : List F :=
  [.PW_POLICY_HELD_COUNT, .PW_BUBBLE_CNT_COUNT, .PW_BUBBLE_FRAC_LINKS, .PW_BUBBLE_FRAC_MEMORY, .PW_BUBBLE_FRAC_COMPUTE,
    .PW_STAT_CAPPING]

/-- `t` is `s` with other bubbles. -/
structure State.Bubbled (s t : State) : Prop where
  rest : t.sansPower = s.sansPower
  regs : ∀ f k, f ∉ bubbleFields → t.rdi f k = s.rdi f k

namespace State.Bubbled

variable {s t u : State}

theorem refl (s : State) : s.Bubbled s := ⟨rfl, fun _ _ _ => rfl⟩
theorem trans (h : s.Bubbled t) (k : t.Bubbled u) : s.Bubbled u :=
  ⟨k.rest.trans h.rest, fun f j hf => (k.regs f j hf).trans (h.regs f j hf)⟩
theorem wri (h : s.Bubbled t) {f : F} (hf : f ∈ bubbleFields) (k v : Nat) : s.Bubbled (t.wri f k v) :=
  ⟨h.rest, fun g j hg => (rdi_wri_other (.inl fun (e : g = f) => hg (e ▸ hf))).trans (h.regs g j hg)⟩
theorem setPower (h : s.Bubbled t) (x : PowerSt) : s.Bubbled { t with power := x } := ⟨h.rest, h.regs⟩
theorem setFrac (h : s.Bubbled t) (g : Nat) (x : Frac) : s.Bubbled (t.setFrac g x) := by
  unfold State.setFrac
  split <;> exact h.setPower _

theorem giveFrac (l : List Nat) (d : Frac) (h : s.Bubbled t) : s.Bubbled (giveFrac l d t) := by
  induction l generalizing d t with
  | nil => exact h
  | cons g l ih => exact ih _ (h.setFrac g _)

theorem takeFrac (l : List Nat) (d : Frac) (h : s.Bubbled t) : s.Bubbled (takeFrac l d t) := by
  induction l generalizing d t with
  | nil => exact h
  | cons g l ih => exact ih _ (h.setFrac g _)

theorem showFracs (h : s.Bubbled t) : s.Bubbled t.showFracs :=
  (((h.wri (by decide) 0 _).wri (by decide) 0 _).wri (by decide) 0 _).wri (by decide) 0 _

theorem countBubbles (h : s.Bubbled t) (k : Nat) : s.Bubbled (t.countBubbles k) :=
  (h.wri (f := .PW_BUBBLE_CNT_COUNT) (by decide) k (t.rdi .PW_BUBBLE_CNT_COUNT k + (t.bubbleSum k).num / (t.bubbleSum k).den
    )).setPower { t.power with
      rest := Tbl.set .zero t.power.rest k (.of ((t.bubbleSum k).num % (t.bubbleSum k).den) (t.bubbleSum k).den) }

theorem mem_eq (h : s.Bubbled t) : t.mem = s.mem := (congrArg State.mem h.rest :)
theorem queues_eq (h : s.Bubbled t) : t.queues = s.queues := (congrArg State.queues h.rest :)
theorem modes_eq (h : s.Bubbled t) : t.modes = s.modes := (congrArg State.modes h.rest :)

end State.Bubbled

/-- What a period of the cap loop measures, shown. -/
def State.capShown (s : State) (meas : List Nat) : State :=
  ((s.wr .PW_MEAS_WATTS (s.measured meas)).wr .PW_CAP_EFFECTIVE s.capNow).addWrap .PW_ENERGY_UJ 0 (10 * s.measured meas)

theorem capPeriod_bubbled (s : State) (meas : List Nat) : (s.capShown meas).Bubbled (s.capPeriod meas) := by
  have hheld : (s.capShown meas).Bubbled (if (s.capShown meas).flag .PW_PSTATE_PIN_EN 0 ∧ (s.capShown meas).power.compute.num ≠ 0
      then (s.capShown meas).addSat .PW_POLICY_HELD_COUNT 0 1 else s.capShown meas) := by
    split
    · exact (State.Bubbled.refl _).wri (by decide) 0 _
    · exact .refl _
  have hcounted := foldl_keeps (P := (s.capShown meas).Bubbled)
    (g := fun s t => if s.islandRuns t then s.countBubbles t else s) (fun t k h => by
      split
      · exact h.countBubbles k
      · exact h) (List.range 8) hheld
  unfold State.capPeriod
  dsimp only
  refine State.Bubbled.showFracs ?_
  split
  · exact .giveFrac _ _ hcounted
  · exact .takeFrac _ _ hcounted

theorem capPeriod_shows {s : State} {m : List Nat} (hw : s.measured m = m.sum) (hsum : m.sum ≤ 4095) :
    (s.capPeriod m).rd .PW_MEAS_WATTS = m.sum ∧ (s.capPeriod m).rd .PW_CAP_EFFECTIVE = s.capNow % 4096 ∧
      (s.capPeriod m).rd .PW_ENERGY_UJ = (s.rd .PW_ENERGY_UJ + 10 * m.sum) % 2 ^ 64 := by
  have h := capPeriod_bubbled s m
  refine ⟨?_, ?_, ?_⟩
  · refine (h.regs _ 0 (by decide)).trans ?_
    rw [State.capShown, State.addWrap, rdi_wri_other (.inl (by decide)), rdi_wr, if_neg (by decide), rdi_wr, if_pos ⟨rfl, rfl⟩, hw]
    exact Nat.mod_eq_of_lt (Nat.lt_succ_of_le hsum)
  · refine (h.regs _ 0 (by decide)).trans ?_
    rw [State.capShown, State.addWrap, rdi_wri_other (.inl (by decide)), rdi_wr, if_pos ⟨rfl, rfl⟩]
    rfl
  · refine (h.regs _ 0 (by decide)).trans ?_
    rw [State.capShown, State.addWrap, rdi_wri_same, hw, rdi_wr, if_neg (by decide), rdi_wr, if_neg (by decide)]
    rfl

/-- A period ends a profile that was taking effect, alone. -/
theorem capLoopPeriod_run {s : State} {m : List Nat} (hm : m.length = 21) (hpow : s.boot.phase ≠ .off)
    (hmodes : s.modes = [] ∨ ∃ p, s.modes = [.profile p]) :
    exec (.capLoopPeriod m) s = .next { s.capPeriod m with modes := [] } := by
  have hkept := (capPeriod_bubbled s m).modes_eq
  show execCapLoopPeriod m s = _
  rw [execCapLoopPeriod, if_pos hm, if_neg hpow]
  refine congrArg Host.Outcome.next ?_
  dsimp only
  generalize s.capPeriod m = u at hkept
  have hu : u.modes = s.modes := hkept
  rcases hmodes with hnone | ⟨p, hprofile⟩
  · rw [hnone] at hu
    rw [hu]
    exact congrArg (fun l => { u with modes := l }) hu
  · rw [hprofile] at hu
    rw [hu]
    show startModes (u.modes.drop 1) u = _
    rw [hu]
    rfl

/-- Settles O27: the sensors by their two readings, the cap loop by what its period leaves alone. -/
theorem measurementsAndCalibration : Obligations.MeasurementsAndCalibration := by
  refine ⟨fun s i n hn hpow hon => ⟨?good, ?bad⟩, fun s => ⟨fun m hm hpow hgains hsum hmodes => ?period,
    fun g hg hs hfw => ?calibrated⟩⟩
  case good =>
    obtain ⟨hregs, hmem, hqueues⟩ := heated_frame (s.sensed i n) i n
    exact ⟨_, sensorSample_run hn hpow hon true, sensorSample_good s i hn ⟨hregs, hmem, hqueues⟩⟩
  case bad => exact ⟨_, sensorSample_run hn hpow hon false, sensorSample_bad s i rfl⟩
  case period =>
    have hkept := capPeriod_bubbled s m
    obtain ⟨hwatts, hcap, henergy⟩ := capPeriod_shows (measured_of_unit_gains hm hgains hsum) hsum
    have hmem : (s.capPeriod m).mem = s.mem := hkept.mem_eq
    have hqueues : (s.capPeriod m).queues = s.queues := hkept.queues_eq
    refine ⟨_, capLoopPeriod_run hm hpow hmodes, ?_⟩
    generalize s.capPeriod m = u at hwatts hcap henergy hmem hqueues
    exact ⟨hwatts, hcap, henergy, rfl, byteAt_of_mem hmem, hqueues⟩
  case calibrated =>
    have hrun : exec (.calibrationTick g) s = .next { s.wr .PW_STAT_CALIBRATED 1 with
        power := { s.power with gains := (s.power.gains.zip g).map fun e => correctGain e.1 e.2 } } :=
      (if_pos hg).trans (congrArg Host.Outcome.next (if_pos hfw))
    obtain ⟨hshown, hframe⟩ := wri_shows s (f := .PW_STAT_CALIBRATED) (v := 1) (by decide) 0
    refine ⟨_, hrun, hshown, fun k x y hx hy => ?_, hframe⟩
    have hzip : (s.power.gains.zip g)[k]? = some (x, y) := List.getElem?_zip_eq_some.2 ⟨hx, hy⟩
    simp [hzip, correctGain]

/-! ### Domains (R256, R257) -/

/-- A table without the entries whose numbers fail a test. -/
theorem Tbl.get_filter {α : Type} (d : α) (p : Nat → Bool) (l : List (Nat × α)) (k : Nat) :
    Tbl.get d (l.filter fun e => p e.1) k = if p k then Tbl.get d l k else d := by
  induction l with
  | nil => simp [Tbl.get]
  | cons e l ih =>
    obtain ⟨j, v⟩ := e
    by_cases hj : j = k
    · subst hj
      by_cases hp : p j = true
      · simp [hp, Tbl.get]
      · simp [hp, ih]
    · by_cases hp : p j = true
      · simp [hp, Tbl.get, hj, ih]
      · simp [hp, Tbl.get, hj, ih]

theorem Tbl.get_dropRange {α : Type} (d : α) (lo hi k : Nat) (l : List (Nat × α)) :
    Tbl.get d (dropRange lo hi l) k = if lo ≤ k ∧ k < hi then d else Tbl.get d l k := by
  rw [dropRange, Tbl.get_filter d (fun j => decide (j < lo) || decide (hi ≤ j))]
  by_cases hin : lo ≤ k ∧ k < hi
  · rw [if_pos hin, if_neg (by simp only [Bool.or_eq_true, decide_eq_true_eq]; omega)]
  · rw [if_neg hin, if_pos (by simp only [Bool.or_eq_true, decide_eq_true_eq]; omega)]

theorem thrDomain_div (k : Fin 8) : thrDomain k / 5 = k.val / 2 ∧ thrDomain k % 5 = k.val % 2 ∧ thrDomain k < 20 := by
  unfold thrDomain
  omega

/-- What thresher `k` holds beside its registers, gone (R257). -/
def State.thrGone (s : State) (k : Nat) : State :=
  let t := ((List.range 4).foldl (fun s i => s.wri .TM_TEMP_VALID (4 * k + i) 0) (s.dropMem (Config.loftBase k)
    Config.loftBytes)).keepDivided fun i => i != k
  { t with
    org := dropRange (partKey k 0) (partKey k 576) t.org, parts := dropRange (partKey k 0) (partKey k 576) t.parts,
    queues := dropRange (6 * k) (6 * k + 6) t.queues,
    power := { t.power with
      droop := t.power.droop.filter fun x => x != k, heat := Tbl.del t.power.heat k, auto := Tbl.del t.power.auto k,
      rest := Tbl.del t.power.rest k } }

theorem dropUnits_thr (s : State) (k : Fin 8) : s.dropUnits (thrDomain k) = s.thrGone k := by
  obtain ⟨hdiv, hmod, _⟩ := thrDomain_div k
  have hk : 2 * (k.val / 2) + k.val % 2 = k.val := by omega
  have h2 : k.val % 2 < 2 := Nat.mod_lt _ (by decide)
  rw [State.dropUnits, hdiv, hmod]
  rcases Nat.mod_two_eq_zero_or_one k.val with h | h
  · rw [h] at hk ⊢
    exact congrArg (State.thrGone s) hk
  · rw [h] at hk ⊢
    exact congrArg (State.thrGone s) hk

theorem thrGone_temps (s : State) (k : Nat) : s.Logged ((List.range 4).foldl
    (fun s i => s.wri .TM_TEMP_VALID (4 * k + i) 0) s) [.TM_TEMP_VALID] :=
  .foldl (fun _ _ h => h.wri (by simp) _ 0) _ (.refl s _)

/-- What the loss of a thresher's domain leaves of memory, of its queues and of what waits. -/
structure State.LoftGone (s t : State) (k : Nat) : Prop where
  mem : t.mem = dropRange (Config.loftBase k) (Config.loftBase k + Config.loftBytes) s.mem
  queues : t.queues = dropRange (6 * k) (6 * k + 6) s.queues
  accesses : t.host.accesses = s.host.accesses
  heldWr : t.net.heldWr = s.net.heldWr

theorem thrGone_loft (s : State) (k : Nat) : s.LoftGone (s.thrGone k) k := by
  have htemps := thrGone_temps (s.dropMem (Config.loftBase k) Config.loftBytes) k
  have hmem := htemps.mem_eq
  have hqueues := htemps.queues_eq
  have haccesses := (congrArg (fun x : State => x.host.accesses) htemps.rest :)
  have hheld := (congrArg (fun x : State => x.net.heldWr) htemps.rest :)
  unfold State.thrGone
  generalize (List.range 4).foldl (fun s i => s.wri .TM_TEMP_VALID (4 * k + i) 0)
    (s.dropMem (Config.loftBase k) Config.loftBytes) = u at *
  exact ⟨hmem, congrArg (dropRange (6 * k) (6 * k + 6)) hqueues, haccesses, hheld⟩

theorem State.LoftGone.calm {s t : State} {k : Nat} (h : s.LoftGone t k) (hcalm : s.Calm) : t.Calm := by
  refine ⟨h.accesses.trans hcalm.accesses, h.heldWr.trans hcalm.writes, fun q hq w hw => ?_⟩
  rw [State.queue, h.queues, Tbl.get_dropRange] at hw
  split at hw
  · exact absurd hw List.not_mem_nil
  · exact hcalm.landed q hq w hw

/-- A thresher's domain off. -/
def State.thrOff (s : State) (k : Nat) : State :=
  ({ s.thrGone k with regs := dropRegs (thrDomain k) (s.thrGone k).regs } : State).wri .PW_DOM_IS_OFF (thrDomain k) 1

theorem switchOff_thr (s : State) (k : Fin 8) : s.switchOff (thrDomain k) = (s.thrOff k).noteHeat := by
  rw [State.switchOff, State.dropDomain, dropUnits_thr, State.thrOff]

theorem thrOff_loft (s : State) (k : Nat) : s.LoftGone (s.thrOff k).noteHeat k := by
  obtain ⟨hmem, hqueues, haccesses, hheld⟩ := thrGone_loft s k
  have hheat := noteHeat_logged (s.thrOff k)
  have hhost := (congrArg (fun x : State => x.host.accesses) hheat.rest :)
  have hnet := (congrArg (fun x : State => x.net.heldWr) hheat.rest :)
  exact ⟨hheat.mem_eq.trans hmem, hheat.queues_eq.trans hqueues, hhost.trans haccesses, hnet.trans hheld⟩

theorem thrOff_isOff (s : State) (k : Nat) : (s.thrOff k).noteHeat.domainOff (thrDomain k) = true := by
  rw [State.domainOff, State.flag, (noteHeat_logged _).regs _ _ (by decide), State.thrOff, rdi_wri_same]
  rfl

/-- Settles O29: the loss of a loft by what it leaves of memory; Idle by its two branches. -/
theorem domainsAndIdle : Obligations.DomainsAndIdle := by
  refine fun s => ⟨fun d off hup hoff => ⟨fun hmay => ?accepted, fun hmay => ?refused⟩, fun hshut d => ?shut,
    fun hdorm htrip => ⟨fun k hoff hon hcalm => ?off, fun d hoff hon hfloor => ?on⟩, fun hup hquiet => ?idle,
    fun hup hquiet => ?busy, fun a hup hidle => ?leaves⟩
  case accepted =>
    have hne : ¬ s.flag .PW_DOM_OFF d = off := by rw [hoff]; cases off <;> decide
    have hrun : exec (.pwDomWrite d off) s = .next (s.wri .PW_DOM_OFF d (b2n off)) :=
      congrArg Host.Outcome.next ((byHost_of_up hup _).trans ((if_neg hne).trans (if_pos hmay)))
    exact ⟨_, hrun, wri_shows s (by cases off <;> decide) _⟩
  case refused =>
    have hne : ¬ s.flag .PW_DOM_OFF d = off := by rw [hoff]; cases off <;> decide
    have hrun : exec (.pwDomWrite d off) s = .next (s.wri .PW_DOM_REFUSED d 1) :=
      congrArg Host.Outcome.next ((byHost_of_up hup _).trans ((if_neg hne).trans (if_neg (by rw [hmay]; decide))))
    exact ⟨_, hrun, wri_shows s (by decide) _⟩
  case shut =>
    refine congrArg Host.Outcome.next (if_pos ?_)
    rcases hshut with h | h
    · exact .inl h
    · exact .inr (.inl h)
  case off =>
    have hval : (Fin.ofNat 20 (thrDomain k)).val = thrDomain k := Nat.mod_eq_of_lt (thrDomain_div k).2.2
    have hloft := thrOff_loft s k
    have hrun : exec (.domainSwitched (Fin.ofNat 20 (thrDomain k))) s = .next (s.thrOff k).noteHeat := by
      refine congrArg Host.Outcome.next ?_
      have hmoves : ¬ (s.power.dormant = true ∨ s.power.tripOff = true ∨ s.flag .PW_DOM_OFF (thrDomain k) =
          s.domainOff (thrDomain k)) := by simp [hdorm, htrip, hoff, hon]
      rw [hval, if_neg hmoves, if_pos hoff, switchOff_thr, (hloft.calm hcalm).serveWaiting]
    refine ⟨_, hrun, thrOff_isOff s k, fun p => ?_⟩
    rw [State.byteAt, hloft.mem, Tbl.get_dropRange, State.byteAt]
  case on =>
    have hrun : exec (.domainSwitched d) s = .next (s.wri .PW_DOM_IS_OFF d 0) := by
      refine congrArg Host.Outcome.next ?_
      have hfloor' : (s.wri .PW_DOM_IS_OFF d 0).floorOn = false := hfloor
      simp [hdorm, htrip, hoff, hon, State.switchOn, hfloor']
    obtain ⟨hshown, hframe⟩ := wri_shows s (f := .PW_DOM_IS_OFF) (v := 0) (by decide) d
    refine ⟨_, hrun, ?_, hframe⟩
    rw [State.domainOff, State.flag, hshown]
    rfl
  case idle =>
    exact ⟨_, congrArg Host.Outcome.next ((byHost_of_up hup _).trans (if_pos hquiet)), wri_shows s (by decide) 0⟩
  case busy =>
    exact ⟨_, congrArg Host.Outcome.next ((byHost_of_up hup _).trans (if_neg (by simp [hquiet]))), wri_shows s (by decide) 0⟩
  case leaves =>
    have hleave : s.leaveIdle = s.wr .PW_STATE_IDLE 0 := if_pos hidle
    have hrun : exec (.leaveIdle a) s = .next (s.wr .PW_STATE_IDLE 0) := by
      refine congrArg Host.Outcome.next ?_
      cases a with
      | true => exact hleave
      | false => exact (byHost_of_up (hup.resolve_right Bool.false_ne_true) _).trans hleave
    exact ⟨_, hrun, wri_shows s (by decide) 0⟩

end Sys2Proof.Machine

/-! Resets, the boot ROM, Dormant and the thermal trip (O30 to O32). -/

namespace Sys2Proof.Machine

/-! ### What a reset keeps (R24) -/

theorem keepRegs_rdi {s t : State} {keep : List F} (h : t.regs = keepRegs keep s.regs) (f : F) (k : Nat) :
    t.rdi f k = if f ∈ keep then s.rdi f k else resetField f k := by
  have hkey : (keep.any fun g => g.ctorIdx == fkey f k % 512) = decide (f ∈ keep) := by
    rw [fkey_mod]
    refine Bool.eq_iff_iff.2 ?_
    simp only [List.any_eq_true, beq_iff_eq, decide_eq_true_eq]
    exact ⟨fun ⟨g, hg, he⟩ => F.ctorIdx_inj he ▸ hg, fun hf => ⟨f, hf, rfl⟩⟩
  rw [State.rdi, h, keepRegs, Tbl.get_filter _ (fun j => keep.any fun g => g.ctorIdx == j % 512), hkey]
  simp only [decide_eq_true_eq]
  rfl

/-- What a state in reset keeps of `s`. -/
theorem holdFor_resetFrom (s : State) {keep : List F} (cs : List Nat) (hkeep : F.TM_STAT_TRIPPED ∉ keep) :
    s.ResetFrom (s.holdFor keep cs) keep cs where
  phase := rfl
  causes := rfl
  kept f k hf := by
    have hne : f ≠ .TM_STAT_TRIPPED := fun he => hkeep (he ▸ hf)
    refine (rdi_wri_other (.inl hne)).trans ?_
    exact (keepRegs_rdi (s := s) (keep := keep) rfl f k).trans (if_pos hf)
  cleared f k hf hne := by
    refine (rdi_wri_other (.inl hne)).trans ?_
    exact (keepRegs_rdi (s := s) (keep := keep) rfl f k).trans (if_neg hf)
  memory _ := rfl
  queues _ := rfl
  log := rfl
  fuses := rfl
  pending := rfl

theorem resetTo_resetFrom (s : State) {c : Nat} {cs : List Nat}
    (hcs : cs = if s.boot.phase = .held then s.boot.causes ++ [c] else [c]) :
    s.ResetFrom (s.resetTo c) (fuseFields ++ recordFields) cs := by
  subst hcs
  exact holdFor_resetFrom s _ (by decide)

/-- Settles O30: every reset is a `holdFor`. -/
theorem resetsAndPower : Obligations.ResetsAndPower := by
  refine ⟨fun s => ⟨fun hoff => ?on, fun hpow => ?loss⟩, fun s cs hcs => ⟨fun hhigh hpow => ?perst,
    fun hup => ⟨fun c => ?hot, ?flr, ?soft, fun k hk hne => ?otherKey⟩, fun hep hpass => ?clock⟩⟩
  case on => exact ⟨_, congrArg Host.Outcome.next (if_pos hoff), holdFor_resetFrom s _ (by decide), rfl⟩
  case loss =>
    have hreset := holdFor_resetFrom s (keep := fuseFields) [] (by decide)
    refine ⟨_, congrArg Host.Outcome.next (if_neg hpow), rfl, rfl, rfl, fun _ => rfl, rfl, fun f k hf => ?_⟩
    have hne : f ≠ .TM_STAT_TRIPPED := fun he => absurd (he ▸ hf) (by decide)
    show ((s.holdFor fuseFields []).wri .TM_STAT_TRIPPED 0 0).rdi f k = _
    exact (rdi_wri_other (.inl hne)).trans (hreset.kept f k hf)
  case perst =>
    have hhigh' : ¬ s.boot.perstLow = true := by simp [hhigh]
    have hrun : exec .perstAssert s = .next (State.resetTo { s with
        boot := { s.boot with perstLow := true }, power := { s.power with tripPin := false } } 1) :=
      congrArg Host.Outcome.next ((if_neg hhigh').trans (if_neg hpow))
    obtain ⟨h1, h2, h3, h4, h5, h6, h7, h8, h9⟩ := resetTo_resetFrom { s with
      boot := { s.boot with perstLow := true }, power := { s.power with tripPin := false } } (hcs 1)
    exact ⟨_, hrun, ⟨h1, h2, h3, h4, h5, h6, h7, h8, h9⟩, rfl, rfl⟩
  case hot =>
    have hrun : exec (.hotReset c) s = .next (s.resetTo 2) := by
      cases c <;> exact congrArg Host.Outcome.next (if_pos hup)
    exact ⟨_, hrun, resetTo_resetFrom s (hcs 2), rfl⟩
  case flr =>
    have hrun : exec .flr s = .next { s.resetTo 3 with host := { (s.resetTo 3).host with linkUp := true } } :=
      congrArg Host.Outcome.next (byHost_of_up hup _)
    obtain ⟨h1, h2, h3, h4, h5, h6, h7, h8, h9⟩ := resetTo_resetFrom s (hcs 3)
    exact ⟨_, hrun, ⟨h1, h2, h3, h4, h5, h6, h7, h8, h9⟩, rfl⟩
  case soft =>
    have hrun : exec (.erResetKey 0xD1E5) s = .next (s.resetTo 4) := by
      show execErResetKey 0xD1E5 s = _
      rw [execErResetKey, if_pos (by decide), byHost_of_up hup, if_pos rfl]
    exact ⟨_, hrun, resetTo_resetFrom s (hcs 4), rfl⟩
  case otherKey =>
    exact (if_pos hk).trans (congrArg Host.Outcome.next ((byHost_of_up hup _).trans (if_neg hne)))
  case clock =>
    exact ⟨_, congrArg Host.Outcome.next (if_pos ⟨hep, hpass⟩), resetTo_resetFrom s (hcs 5), rfl⟩

/-- What the boot ROM leaves in ER_RESET_CAUSE. -/
def State.causeNoted (s : State) : State :=
  (s.wr .ER_RESET_CAUSE_CAUSE ((causeOrder.find? s.resetCauses.contains).getD 0)).wr .ER_RESET_CAUSE_ALSO
    ((List.range 8).foldl (fun n k => if s.resetCauses.contains k ∧ k ≠ (causeOrder.find? s.resetCauses.contains).getD 0
      then n + 2 ^ k else n) 0)

/-- Settles O31: the boot ROM's own fields are its two records. -/
theorem bootRecordsCause : Obligations.BootRecordsCause := by
  refine fun s => ⟨⟨_, rfl, rfl⟩, fun hmay => ?_⟩
  have hrun : exec .bootRom s = .next { s.causeNoted with
      boot := { s.boot with phase := .up, causes := [] }, power := { s.power with tripRecord := false },
      host := { s.host with linkUp := s.host.linkUp || s.causeNoted.rdi .CK_ISL_STAT_CUR 40 != 2 } } :=
    congrArg Host.Outcome.next (if_pos hmay)
  have hother : ∀ f k, f ≠ .ER_RESET_CAUSE_CAUSE → f ≠ .ER_RESET_CAUSE_ALSO → s.causeNoted.rdi f k = s.rdi f k :=
    fun f k h1 h2 => (rdi_wri_other (.inl h2)).trans (rdi_wri_other (.inl h1))
  have hcause : s.causeNoted.rd .ER_RESET_CAUSE_CAUSE = ((causeOrder.find? s.resetCauses.contains).getD 0) % 8 :=
    (rdi_wri_other (.inl (by decide))).trans rdi_wri_same
  refine ⟨_, hrun, rfl, rfl, rfl, hcause, ?_, fun p => rfl, hother⟩
  show (s.host.linkUp || s.causeNoted.rdi .CK_ISL_STAT_CUR 40 != 2) = _
  rw [hother _ _ (by decide) (by decide), State.hostUp]

/-! ### Dormant (R261, R262, R280) -/

/-- A field written alike in every register of a range. -/
theorem foldl_wri_rdi (s : State) (f : F) (v n : Nat) (g : F) (k : Nat) :
    ((List.range n).foldl (fun s i => s.wri f i v) s).rdi g k =
      if g = f ∧ k < n then v % 2 ^ f.info.width else s.rdi g k := by
  induction n with
  | zero => simp
  | succ n ih =>
    rw [List.range_succ, List.foldl_append, List.foldl_cons, List.foldl_nil, rdi_wri, ih]
    by_cases hg : g = f
    · subst hg
      by_cases hk : k = n
      · simp [hk]
      · have hlt : k < n + 1 ↔ k < n := by omega
        simp [hk, hlt]
    · simp [hg]

/-- Every domain off, no sensor valid. -/
def State.darkened (s : State) : State :=
  (List.range 24).foldl (fun s k => s.wri .TM_STACK_TEMP_VALID k 0)
    ((List.range 32).foldl (fun s i => s.wri .TM_TEMP_VALID i 0) ((List.range 20).foldl (fun s d => s.wri .PW_DOM_IS_OFF d 1) s))

theorem allOff_eq (s : State) (keep : List F) : s.allOff keep = (s.cleared keep).darkened := rfl

theorem darkened_rdi (s : State) (f : F) (k : Nat) :
    s.darkened.rdi f k =
      if f = .TM_STACK_TEMP_VALID ∧ k < 24 then 0 else if f = .TM_TEMP_VALID ∧ k < 32 then 0
      else if f = .PW_DOM_IS_OFF ∧ k < 20 then 1 else s.rdi f k := by
  rw [State.darkened, foldl_wri_rdi, foldl_wri_rdi, foldl_wri_rdi]
  rfl

theorem darkened_logged (s : State) : s.Logged s.darkened [.PW_DOM_IS_OFF, .TM_TEMP_VALID, .TM_STACK_TEMP_VALID] :=
  .foldl (fun _ _ h => h.wri (by simp) _ 0) _ (.foldl (fun _ _ h => h.wri (by simp) _ 0) _
    (.foldl (fun _ _ h => h.wri (by simp) _ 1) _ (.refl s _)))

/-- What everything off leaves of `s`: the fields that stay, no memory, no link. -/
structure State.Darkened (s t : State) (keep : List F) : Prop where
  kept : ∀ f k, f ∈ keep → f ∉ [.PW_DOM_IS_OFF, .TM_TEMP_VALID, .TM_STACK_TEMP_VALID] → t.rdi f k = s.rdi f k
  off : ∀ d, d < 20 → t.domainOff d = true
  blind : ∀ j : Sensor, t.flag (sensorFields j).2.1 (sensorFields j).2.2 = false
  mem : t.mem = []
  link : t.hostUp = false
  power : t.power = (s.cleared keep).power
  boot : t.boot = (s.cleared keep).boot

theorem allOff_darkened (s : State) (keep : List F) : s.Darkened (s.allOff keep) keep := by
  have hdark := darkened_logged (s.cleared keep)
  have hrdi := darkened_rdi (s.cleared keep)
  have hkept := keepRegs_rdi (s := s) (t := s.cleared keep) (keep := keep) rfl
  rw [allOff_eq]
  refine ⟨fun f k hf hn => ?_, fun d hd => ?_, fun j => ?_, ?_, ?_, hdark.power_eq, ?_⟩
  · rw [hdark.regs f k hn, hkept, if_pos hf]
  · rw [State.domainOff, State.flag, hrdi]
    simp [hd]
  · rw [State.flag, hrdi]
    cases j with
    | thresher t i =>
      have hlt : 4 * t.val + i.val < 32 := by omega
      simp [sensorFields, hlt]
    | stack k => simp [sensorFields]
  · rw [hdark.mem_eq]
    rfl
  · rw [hdark.hostUp_eq]
    rfl
  · exact hdark.boot_eq

theorem byteAt_of_empty {s : State} (h : s.mem = []) (p : Nat) : s.byteAt p = 0 := by
  rw [State.byteAt, h, Tbl.get]

/-- What the registers show of a trip. -/
def State.tripShown (s : State) : State :=
  let t := (s.wr .TM_STAT_TRIPPED 1).wr .HI_ALERT_TRIP 1
  if t.flag .PW_PSTATE_PIN_EN 0 then t.wr .PW_STAT_PIN_OVERRIDDEN 1 else t

/-- The module after the trip: what its sensor's comparator leaves beside what is dark already. -/
def State.tripped (s : State) : State :=
  { s.tripShown with
    boot := { s.tripShown.boot with phase := .up, mcDead := true },
    power := { s.tripShown.power with tripPin := true, tripRecord := true, tripOff := true } }

theorem tripShown_rdi (s : State) (f : F) (k : Nat) (h1 : f ≠ .TM_STAT_TRIPPED) (h2 : f ≠ .HI_ALERT_TRIP)
    (h3 : f ≠ .PW_STAT_PIN_OVERRIDDEN) : s.tripShown.rdi f k = s.rdi f k := by
  have hshown : ((s.wr .TM_STAT_TRIPPED 1).wr .HI_ALERT_TRIP 1).rdi f k = s.rdi f k :=
    (rdi_wri_other (.inl h2)).trans (rdi_wri_other (.inl h1))
  unfold State.tripShown
  dsimp only
  split
  · exact (rdi_wri_other (.inl h3)).trans hshown
  · exact hshown

theorem tripShown_shows (s : State) :
    s.tripShown.rd .TM_STAT_TRIPPED = 1 ∧ s.tripShown.rd .HI_ALERT_TRIP = 1 ∧
      (s.flag .PW_PSTATE_PIN_EN 0 = true → s.tripShown.rd .PW_STAT_PIN_OVERRIDDEN = 1) := by
  have htrip : ((s.wr .TM_STAT_TRIPPED 1).wr .HI_ALERT_TRIP 1).rdi .TM_STAT_TRIPPED 0 = 1 :=
    (rdi_wri_other (.inl (by decide))).trans rdi_wri_same
  have halert : ((s.wr .TM_STAT_TRIPPED 1).wr .HI_ALERT_TRIP 1).rdi .HI_ALERT_TRIP 0 = 1 := rdi_wri_same
  have hpin : ((s.wr .TM_STAT_TRIPPED 1).wr .HI_ALERT_TRIP 1).flag .PW_PSTATE_PIN_EN 0 = s.flag .PW_PSTATE_PIN_EN 0 := by
    rw [State.flag, rdi_wr, if_neg (by decide), rdi_wr, if_neg (by decide), State.flag]
  unfold State.tripShown
  dsimp only
  rw [hpin]
  split
  · exact ⟨(rdi_wri_other (.inl (by decide))).trans htrip, (rdi_wri_other (.inl (by decide))).trans halert,
      fun _ => rdi_wri_same⟩
  · next h => exact ⟨htrip, halert, fun hen => absurd hen h⟩

theorem tripShown_mem (s : State) : s.tripShown.mem = s.mem := by
  unfold State.tripShown
  dsimp only
  split <;> rfl

theorem tripped_hostUp (s : State) : s.tripped.hostUp = s.hostUp := by
  show s.tripShown.hostUp = s.hostUp
  unfold State.tripShown
  dsimp only
  split <;> rfl

theorem thermtrip_run {s : State} {i : Sensor} (hvalid : s.flag (sensorFields i).2.1 (sensorFields i).2.2 = true)
    (hpow : s.boot.phase ≠ .off) :
    exec (.thermtrip i) s = .next (s.allOff (fuseFields ++ recordFields ++ aoFields)).tripped := by
  show execThermtrip i s = _
  rw [execThermtrip]
  generalize fuseFields ++ recordFields ++ aoFields = keep
  refine congrArg Host.Outcome.next ((if_pos ⟨hvalid, hpow⟩).trans ?_)
  generalize s.allOff keep = u
  rfl

/-- What a wake's source can be. -/
theorem wakeSource_lt {s : State} {w : WakeSeen} {k p : Nat} (h : s.wakeSource w = some (k, p)) : k < 4 ∧ p < 16 := by
  unfold State.wakeSource at h
  split at h
  · obtain ⟨rfl, rfl⟩ := Prod.mk.inj (Option.some.inj h)
    decide
  · split at h
    · obtain ⟨rfl, rfl⟩ := Prod.mk.inj (Option.some.inj h)
      decide
    · obtain ⟨j, hj, he⟩ := Option.map_eq_some_iff.1 h
      obtain ⟨rfl, rfl⟩ := Prod.mk.inj he
      exact ⟨by decide, List.mem_range.1 (List.mem_of_find?_eq_some hj)⟩

/-- A wake records its source and ends in reset. -/
theorem wakeBy_records (s : State) {k p : Nat} (hk : k < 4) (hp : p < 16) :
    (s.wakeBy k p).boot.phase = .held ∧ 7 ∈ (s.wakeBy k p).boot.causes ∧ (s.wakeBy k p).power.dormant = false ∧
      (s.wakeBy k p).rd .PW_WAKE_LAST_SOURCE = k ∧ (s.wakeBy k p).rd .PW_WAKE_LAST_PORT = p := by
  have hreset := resetTo_resetFrom ((s.wr .PW_WAKE_LAST_SOURCE k).wr .PW_WAKE_LAST_PORT p) (c := 7) rfl
  refine ⟨hreset.phase, ?_, rfl, ?_, ?_⟩
  · show 7 ∈ (State.resetTo _ 7).boot.causes
    rw [hreset.causes]
    split <;> simp
  · refine (hreset.kept _ 0 (by decide)).trans ((rdi_wri_other (.inl (by decide))).trans ?_)
    exact rdi_wri_same.trans (Nat.mod_eq_of_lt hk)
  · refine (hreset.kept _ 0 (by decide)).trans ?_
    exact rdi_wri_same.trans (Nat.mod_eq_of_lt hp)

/-- Settles O32: Dormant and the trip darken the module alike; the wake is a reset from the source found first. -/
theorem dormantWakeAndTrip : Obligations.DormantWakeAndTrip := by
  refine fun s => ⟨fun hup hidle => ?dormant, fun hup hidle => ?busy, fun w hw hdorm => ⟨fun k p hsrc => ?wakes,
    fun hsrc => ?sleeps, fun hsb => ?sideband, fun hsb hpcie => ?pcie, fun hsb hpcie p hp hwake hlow => ?port,
    fun p hp => rfl⟩, fun i hvalid hpow => ?trip⟩
  case dormant =>
    have hdark := allOff_darkened s (fuseFields ++ recordFields ++ wakeFields)
    have hrun : exec .enterDormant s = .next s.goDormant :=
      congrArg Host.Outcome.next ((byHost_of_up hup _).trans (if_pos hidle))
    refine ⟨_, hrun, ?_⟩
    unfold State.goDormant
    generalize s.allOff (fuseFields ++ recordFields ++ wakeFields) = u at hdark
    refine ⟨rfl, hdark.link, hdark.off, byteAt_of_empty hdark.mem, fun f k hf => hdark.kept f k hf ?_⟩
    revert hf
    revert f
    decide
  case busy =>
    exact ⟨_, congrArg Host.Outcome.next ((byHost_of_up hup _).trans (if_neg (by simp [hidle]))), wri_shows s (by decide) 0⟩
  case wakes =>
    obtain ⟨hk, hp⟩ := wakeSource_lt hsrc
    have hrun : exec (.wake w) s = .next (s.wakeBy k p) := by
      refine (if_pos hw).trans (congrArg Host.Outcome.next ((if_pos hdorm).trans ?_))
      rw [hsrc]
    exact ⟨_, hrun, wakeBy_records s hk hp⟩
  case sleeps =>
    refine (if_pos hw).trans (congrArg Host.Outcome.next ((if_pos hdorm).trans ?_))
    rw [hsrc]
  case sideband => rw [State.wakeSource, if_pos hsb]
  case pcie => rw [State.wakeSource, if_neg (by simp [hsb]), if_pos hpcie]
  case port =>
    have hfirst : (List.range 16).find? (s.portWakes w) = some p :=
      List.find?_range_eq_some.2 ⟨hwake, List.mem_range.2 hp, fun k hk => by simp [hlow k hk]⟩
    rw [State.wakeSource, if_neg (by simp [hsb]), if_neg (by simp [hpcie]), hfirst]
    rfl
  case trip =>
    have hdark := allOff_darkened s (fuseFields ++ recordFields ++ aoFields)
    refine ⟨_, thermtrip_run hvalid hpow, ?_⟩
    have hpin : (s.allOff (fuseFields ++ recordFields ++ aoFields)).flag .PW_PSTATE_PIN_EN 0 =
        s.flag .PW_PSTATE_PIN_EN 0 := by
      rw [State.flag, State.flag, hdark.kept _ 0 (by decide) (by decide)]
    generalize s.allOff (fuseFields ++ recordFields ++ aoFields) = u at hdark hpin
    obtain ⟨htrip, halert, hover⟩ := tripShown_shows u
    refine ⟨htrip, halert, rfl, rfl, rfl, (tripped_hostUp u).trans hdark.link, ?_, fun d hd => ?_, fun j => ?_, ?_,
      byteAt_of_empty ((tripShown_mem u).trans hdark.mem)⟩
    · simp [State.fwUp, State.tripped]
    · rw [← hdark.off d hd]
      show (u.tripShown.rdi _ _ != 0) = _
      rw [tripShown_rdi u _ _ (by decide) (by decide) (by decide)]
      rfl
    · rw [← hdark.blind j]
      show (u.tripShown.rdi _ _ != 0) = _
      rw [State.flag, tripShown_rdi u]
      all_goals cases j <;> exact F.noConfusion
    · rw [← hpin]
      exact hover

end Sys2Proof.Machine

/-! Loading firmware, the carrier record and the climb to service (O33, O34). -/

namespace Sys2Proof.Machine

/-! ### The carrier record (R341, R342) -/

/-- A port's budget loaded. -/
def State.loadBudget (s : State) (e : Nat × Nat) : State :=
  if s.portOn e.1 then
    let s := s.wri .WN_PORT_BUDGET_BUDGET e.1 e.2
    if s.portState e.1 = 3 ∧ e.2 < s.rdi .WN_PORT_BUDGET_MODULE_PWR e.1 then s.wri .WN_PORT_STAT_OVER_BUDGET e.1 1 else s
  else s

def budgetFields : List F := [F.WN_PORT_BUDGET_BUDGET, .WN_PORT_STAT_OVER_BUDGET]

theorem loadBudget_logged {s t : State} (h : s.Logged t budgetFields) (e : Nat × Nat) :
    s.Logged (t.loadBudget e) budgetFields := by
  unfold State.loadBudget
  dsimp only
  split
  · have hput := h.wri (f := .WN_PORT_BUDGET_BUDGET) (by decide) e.1 e.2
    split
    · exact hput.wri (f := .WN_PORT_STAT_OVER_BUDGET) (by decide) e.1 1
    · exact hput
  · exact h

theorem loadBudgets_logged (s : State) (l : List Nat) :
    ({ s with boot := { s.boot with budgets := (List.range 16).zip l } } : State).Logged (s.loadBudgets l)
      budgetFields := by
  have hstep : (fun (s : State) (e : Nat × Nat) =>
      if s.portOn e.1 then
        let s := s.wri .WN_PORT_BUDGET_BUDGET e.1 e.2
        if s.portState e.1 = 3 ∧ e.2 < s.rdi .WN_PORT_BUDGET_MODULE_PWR e.1 then s.wri .WN_PORT_STAT_OVER_BUDGET e.1 1 else s
      else s) = State.loadBudget := rfl
  unfold State.loadBudgets
  rw [hstep]
  exact .foldl (fun _ e h => loadBudget_logged h e) _ (.refl _ _)

/-- The four fields of ID_BOARD and the budgets of the ports. -/
def State.fruLoaded (s : State) (st cls slot budget : Nat) (l : List Nat) : State :=
  ((((s.wr .ID_BOARD_FRU_STATUS st).wr .ID_BOARD_CLASS cls).wr .ID_BOARD_SLOT slot).wr .ID_BOARD_BUDGET_W budget).loadBudgets l

theorem fruLoaded_shows (s : State) {st cls slot budget : Nat} (l : List Nat) (hst : st < 4) (hcls : cls < 16)
    (hslot : slot < 256) (hbudget : budget < 4096) :
    (s.fruLoaded st cls slot budget l).rd .ID_BOARD_FRU_STATUS = st ∧
      (s.fruLoaded st cls slot budget l).rd .ID_BOARD_CLASS = cls ∧
      (s.fruLoaded st cls slot budget l).rd .ID_BOARD_SLOT = slot ∧
      (s.fruLoaded st cls slot budget l).rd .ID_BOARD_BUDGET_W = budget ∧
      ∀ p, (s.fruLoaded st cls slot budget l).byteAt p = s.byteAt p := by
  have hshown : ∀ u : State, u = (((s.wr .ID_BOARD_FRU_STATUS st).wr .ID_BOARD_CLASS cls).wr .ID_BOARD_SLOT slot).wr
      .ID_BOARD_BUDGET_W budget → u.rd .ID_BOARD_FRU_STATUS = st ∧ u.rd .ID_BOARD_CLASS = cls ∧
        u.rd .ID_BOARD_SLOT = slot ∧ u.rd .ID_BOARD_BUDGET_W = budget ∧ u.mem = s.mem := by
    rintro _ rfl
    refine ⟨?_, ?_, ?_, ?_, rfl⟩
    · exact (rdi_wri_other (.inl (by decide))).trans ((rdi_wri_other (.inl (by decide))).trans
        ((rdi_wri_other (.inl (by decide))).trans (rdi_wri_same.trans (Nat.mod_eq_of_lt hst))))
    · exact (rdi_wri_other (.inl (by decide))).trans ((rdi_wri_other (.inl (by decide))).trans
        (rdi_wri_same.trans (Nat.mod_eq_of_lt hcls)))
    · exact (rdi_wri_other (.inl (by decide))).trans (rdi_wri_same.trans (Nat.mod_eq_of_lt hslot))
    · exact rdi_wri_same.trans (Nat.mod_eq_of_lt hbudget)
  obtain ⟨hstat, hclass, hplace, hwatts, hmem⟩ := hshown _ rfl
  have hload := fun u => loadBudgets_logged u l
  unfold State.fruLoaded
  generalize (((s.wr .ID_BOARD_FRU_STATUS st).wr .ID_BOARD_CLASS cls).wr .ID_BOARD_SLOT slot).wr
    .ID_BOARD_BUDGET_W budget = u at hstat hclass hplace hwatts hmem
  refine ⟨?_, ?_, ?_, ?_, byteAt_of_mem ((hload u).mem_eq.trans hmem)⟩
  · exact ((hload u).regs _ 0 (by decide)).trans hstat
  · exact ((hload u).regs _ 0 (by decide)).trans hclass
  · exact ((hload u).regs _ 0 (by decide)).trans hplace
  · exact ((hload u).regs _ 0 (by decide)).trans hwatts

theorem fruRead_run {s : State} (hfw : s.fwUp = true) (hnew : s.rd .ID_BOARD_FRU_STATUS = 0) {r : Fru} (hr : r.wf = true) :
    exec (.fruRead r) s = .next (s.loadFru r) :=
  (if_pos hr).trans (congrArg Host.Outcome.next ((if_pos hfw).trans (if_pos (.inl hnew))))

theorem loadFru_absent (s : State) : s.loadFru .absent = s.fruLoaded 2 0 0 1200 (List.replicate 16 1) := rfl

theorem loadFru_invalid (s : State) : s.loadFru .invalid = s.fruLoaded 3 0 0 1200 (List.replicate 16 1) := rfl

theorem loadFru_record (s : State) {cls slot budget : Nat} {ports : List Nat}
    (h : fruOk (.record cls slot budget ports) = true) :
    s.loadFru (.record cls slot budget ports) = s.fruLoaded 1 cls slot budget ports := if_pos h

theorem fru_in_range {cls slot budget : Nat} {ports : List Nat} (hwf : (Fru.record cls slot budget ports).wf = true)
    (hok : fruOk (.record cls slot budget ports) = true) : cls < 16 ∧ slot < 256 ∧ budget < 4096 := by
  simp only [Fru.wf, Bool.and_eq_true, decide_eq_true_eq] at hwf
  simp only [fruOk, Bool.and_eq_true, decide_eq_true_eq] at hok
  omega

/-! ### The staging aperture (R331) -/

theorem get_foldl_set (o : Nat) (d : List Byte) (t : List (Nat × Byte)) (a : Nat) :
    Tbl.get 0 (((List.range d.length).zip d).foldl (fun t e => Tbl.set 0 t (o + e.1) e.2) t) a =
      if o ≤ a ∧ a < o + d.length then d.getD (a - o) 0 else Tbl.get 0 t a := by
  induction d generalizing o t with
  | nil => simp
  | cons b d ih =>
    rw [List.length_cons, List.range_succ_eq_map, List.zip_cons_cons, List.foldl_cons, List.zip_map_left,
      List.foldl_map]
    have hshift : (fun (t : List (Nat × Byte)) (e : Nat × Byte) =>
        Tbl.set 0 t (o + (Prod.map Nat.succ id e).1) (Prod.map Nat.succ id e).2) =
        fun t e => Tbl.set 0 t (o + 1 + e.1) e.2 := by
      funext t e
      simp only [Prod.map_fst, Prod.map_snd, id, Nat.succ_eq_add_one]
      rw [Nat.add_right_comm, Nat.add_assoc]
    rw [hshift, ih]
    by_cases ha : a = o
    · subst ha
      simp
    · have hput : Tbl.get 0 (Tbl.set 0 t (o + (0, b).1) (0, b).2) a = Tbl.get 0 t a := Tbl.get_set_other ha
      rw [hput]
      by_cases hin : o + 1 ≤ a ∧ a < o + 1 + d.length
      · have hsub : a - o = (a - (o + 1)) + 1 := by omega
        rw [if_pos hin, if_pos (by omega), hsub, List.getD_cons_succ]
      · rw [if_neg hin, if_neg (by omega)]

/-! ### Verification (R330, R331) -/

/-- The checks of R330 read neither GO nor anything it can change. -/
theorem imageReason_go (s : State) (v : Nat) : (s.wr .HI_FW_CTL_GO v).imageReason = s.imageReason := by
  have hrd : ∀ f, f ≠ .HI_FW_CTL_GO → (s.wr .HI_FW_CTL_GO v).rd f = s.rd f := fun f hf => rdi_wri_other (.inl hf)
  have hlen : (s.wr .HI_FW_CTL_GO v).lengthOk = s.lengthOk := by
    unfold State.lengthOk
    rw [hrd .HI_FW_CTL_LEN (by decide)]
    rfl
  have hslot : (s.wr .HI_FW_CTL_GO v).keySlot = s.keySlot := by
    unfold State.keySlot State.bitOf
    rw [hrd .ID_FUSE_CFG_REVOKED (by decide)]
    rfl
  unfold State.imageReason
  rw [hlen, hslot, hrd .ID_REV_BOOTROM (by decide), hrd .ID_SVN_SVN (by decide)]
  rfl

theorem imageReason_lt (s : State) : s.imageReason < 8 := by
  unfold State.imageReason
  split_ifs <;> decide

/-- ER_SERVICE.STATE written: it shows the state, and only it changes. -/
theorem setService_logged (s : State) (v : Nat) : s.Logged (s.setService v) [.ER_SERVICE_STATE] :=
  .ite (.refl s _) (((State.Logged.refl s _).wri (by simp) 0 v).msix 1)

theorem setService_state (s : State) {v : Nat} (hv : v < 8) : (s.setService v).rd .ER_SERVICE_STATE = v := by
  unfold State.setService
  split
  · assumption
  · exact (msix_rdi _ 1 _ 0).trans (rdi_wri_same.trans (Nat.mod_eq_of_lt hv))

/-- The digest of the image that runs, in its registers. -/
def State.digestShown (s : State) (d : List Byte) : State :=
  (List.range 16).foldl (fun s w => s.wri .ID_FW_DIGEST_DATA w (leNat ((d.drop (4 * w)).take 4))) s

theorem digestShown_logged (s : State) (d : List Byte) : s.Logged (s.digestShown d) [.ID_FW_DIGEST_DATA] :=
  .foldl (fun _ _ h => h.wri (by simp) _ _) _ (.refl s _)

/-- The image's state and version shown. -/
def State.imageShown (s : State) : State :=
  (s.wr .HI_FW_STAT_STATE 3).wr .MC_FW_VER_VERSION ((s.wr .HI_FW_STAT_STATE 3).imgNat 8 4)

/-- The image's key slot and security version noted. -/
def State.imageNoted (s : State) : State :=
  { s with boot := { s.boot with keySlot := s.keySlot.getD 0, imageSvn := s.imgNat 0x18 1 } }

theorem imageNoted_rdi (s : State) (f : F) (k : Nat) : s.imageNoted.rdi f k = s.rdi f k := rfl

theorem imageNoted_mem (s : State) : s.imageNoted.mem = s.mem := rfl

theorem runImage_eq (s : State) :
    s.runImage = (s.digestShown s.imageDigest).imageShown.imageNoted.setService 1 := by
  have hfold : (List.range 16).foldl (fun s' w => s'.wri .ID_FW_DIGEST_DATA w
      (leNat ((s.imageDigest.drop (4 * w)).take 4))) s = s.digestShown s.imageDigest := rfl
  unfold State.runImage
  dsimp only
  rw [hfold]
  generalize s.digestShown s.imageDigest = u
  rfl

theorem runImage_shows (s : State) :
    s.runImage.rd .HI_FW_STAT_STATE = 3 ∧ s.runImage.rd .ER_SERVICE_STATE = 1 ∧
      s.runImage.rd .MC_FW_VER_VERSION = s.imgNat 8 4 % 2 ^ 32 ∧ s.runImage.mem = s.mem := by
  have hdigest := digestShown_logged s s.imageDigest
  have himg : (s.digestShown s.imageDigest).imgNat 8 4 = s.imgNat 8 4 := by
    have hstaging : (s.digestShown s.imageDigest).staging = s.staging := (congrArg State.staging hdigest.rest :)
    rw [State.imgNat, State.staged, hstaging]
    rfl
  have hmem := hdigest.mem_eq
  rw [runImage_eq]
  generalize s.digestShown s.imageDigest = u at himg hmem
  have hservice := setService_logged u.imageShown.imageNoted 1
  have hrd : ∀ f, f ∉ [F.ER_SERVICE_STATE] → (u.imageShown.imageNoted.setService 1).rd f = u.imageShown.rd f :=
    fun f hf => (hservice.regs f 0 hf).trans (imageNoted_rdi _ f 0)
  refine ⟨(hrd _ (by decide)).trans ((rdi_wri_other (.inl (by decide))).trans rdi_wri_same),
    setService_state _ (by decide), (hrd _ (by decide)).trans (rdi_wri_same.trans ?_),
    hservice.mem_eq.trans ((imageNoted_mem _).trans hmem)⟩
  rw [← himg]
  rfl

/-- Settles O33: the record's fields, the staged bytes and the image's own fields, each by what it shows. -/
theorem firmwareAndCarrierRecord : Obligations.FirmwareAndCarrierRecord := by
  refine ⟨fun s hfw hnew => ⟨fun cls slot budget ports hwf hok => ?record, ?absent, ?invalid⟩, fun s =>
    ⟨fun o d hup hd => ⟨fun hst => ?staged, fun hst => ?dropped⟩, fun n hup hn => ⟨fun hst => ?go, fun hst => ?goBusy⟩,
      fun hst => ⟨fun hreason => ?verified, fun hreason => ?refused⟩⟩⟩
  case record =>
    obtain ⟨hcls, hslot, hbudget⟩ := fru_in_range hwf hok
    refine ⟨_, (fruRead_run hfw hnew hwf).trans (congrArg Host.Outcome.next (loadFru_record s hok)), ?_⟩
    exact fruLoaded_shows s ports (by decide) hcls hslot hbudget
  case absent =>
    obtain ⟨hstat, -, -, hbudget, hmem⟩ := fruLoaded_shows s (st := 2) (cls := 0) (slot := 0) (budget := 1200)
      (List.replicate 16 1) (by decide) (by decide) (by decide) (by decide)
    exact ⟨_, (fruRead_run hfw hnew rfl).trans (congrArg Host.Outcome.next (loadFru_absent s)), hstat, hbudget, hmem⟩
  case invalid =>
    obtain ⟨hstat, -, -, hbudget, hmem⟩ := fruLoaded_shows s (st := 3) (cls := 0) (slot := 0) (budget := 1200)
      (List.replicate 16 1) (by decide) (by decide) (by decide) (by decide)
    exact ⟨_, (fruRead_run hfw hnew rfl).trans (congrArg Host.Outcome.next (loadFru_invalid s)), hstat, hbudget, hmem⟩
  case staged =>
    have hfree : ¬ (s.rd .HI_FW_STAT_STATE = 1 ∨ s.rd .HI_FW_STAT_STATE = 3) := by omega
    have hrun : exec (.stagingWrite o d) s = .next { s with
        staging := ((List.range d.length).zip d).foldl (fun t e => Tbl.set 0 t (o + e.1) e.2) s.staging } := by
      show execStagingWrite o d s = _
      rw [execStagingWrite, if_pos hd, byHost_of_up hup, if_neg hfree]
    refine ⟨_, hrun, fun i hi => ?_, fun a ha => ?_, rfl⟩
    · refine (get_foldl_set o d s.staging (o + i)).trans ((if_pos (by omega)).trans ?_)
      rw [Nat.add_sub_cancel_left]
    · exact (get_foldl_set o d s.staging a).trans (if_neg (by omega))
  case dropped =>
    have hrun : exec (.stagingWrite o d) s = .next (s.wr .HI_FW_STAT_STAGE_DROP 1) := by
      show execStagingWrite o d s = _
      rw [execStagingWrite, if_pos hd, byHost_of_up hup, if_pos hst]
    exact ⟨_, hrun, wri_shows s (by decide) 0⟩
  case go =>
    have hfree : ¬ ((s.wr .HI_FW_CTL_LEN n).rd .HI_FW_STAT_STATE = 1 ∨
        (s.wr .HI_FW_CTL_LEN n).rd .HI_FW_STAT_STATE = 3) := by
      rw [rd_wr_other (by decide)]
      omega
    have hrun : exec (.fwGo n) s = .next ((((s.wr .HI_FW_CTL_LEN n).wr .HI_FW_CTL_GO 1).wr .HI_FW_STAT_STATE 1).wr
        .HI_FW_STAT_REASON 0) := by
      show execFwGo n s = _
      rw [execFwGo, if_pos hn, byHost_of_up hup, if_neg hfree]
    refine ⟨_, hrun, ?_, ?_, ?_, ?_⟩
    · exact (rdi_wri_other (.inl (by decide))).trans rdi_wri_same
    · exact (rdi_wri_other (.inl (by decide))).trans ((rdi_wri_other (.inl (by decide))).trans
        ((rdi_wri_other (.inl (by decide))).trans (rdi_wri_same.trans (Nat.mod_eq_of_lt hn))))
    · exact rdi_wri_same
    · exact ((((State.onlyRegs.refl s _).wr (by simp) n).wr (by simp) 1).wr (by simp) 1).wr (by simp) 0
  case goBusy =>
    have htaken : (s.wr .HI_FW_CTL_LEN n).rd .HI_FW_STAT_STATE = 1 ∨
        (s.wr .HI_FW_CTL_LEN n).rd .HI_FW_STAT_STATE = 3 := by
      rw [rd_wr_other (by decide)]
      exact hst
    have hrun : exec (.fwGo n) s = .next ((s.wr .HI_FW_CTL_LEN n).wr .HI_FW_STAT_BUSY 1) := by
      show execFwGo n s = _
      rw [execFwGo, if_pos hn, byHost_of_up hup, if_pos htaken]
    exact ⟨_, hrun, rdi_wri_same, ((State.onlyRegs.refl s _).wr (by simp) n).wr (by simp) 1⟩
  case verified =>
    have hrun : exec .fwVerifyDone s = .next (s.wr .HI_FW_CTL_GO 0).runImage :=
      congrArg Host.Outcome.next ((if_pos hst).trans (if_pos ((imageReason_go s 0).trans hreason)))
    obtain ⟨hstate, hservice, hversion, hmem⟩ := runImage_shows (s.wr .HI_FW_CTL_GO 0)
    exact ⟨_, hrun, hstate, hservice, hversion, byteAt_of_mem hmem⟩
  case refused =>
    have hrun : exec .fwVerifyDone s = .next { ((s.wr .HI_FW_CTL_GO 0).wr .HI_FW_STAT_STATE 2).wr .HI_FW_STAT_REASON
        s.imageReason with staging := [] } := by
      have hgo : ¬ (s.wr .HI_FW_CTL_GO 0).imageReason = 0 := by rwa [imageReason_go]
      rw [← imageReason_go s 0]
      exact congrArg Host.Outcome.next ((if_pos hst).trans (if_neg hgo))
    refine ⟨_, hrun, ?_, ?_, rfl, ?_⟩
    · exact (rdi_wri_other (.inl (by decide))).trans rdi_wri_same
    · exact rdi_wri_same.trans (Nat.mod_eq_of_lt (imageReason_lt s))
    · exact (((State.onlyRegs.refl s _).wr (by simp) 0).wr (by simp) 2).wr (by simp) _


/-! ### The outcome of a bay's BIST (R303) -/

theorem bit_setBits (w i j : Nat) (b : Bool) : bit (setBits w i 1 (b2n b)) j = if j = i then b else bit w j := by
  have hlow : w % 2 ^ i < 2 ^ i := Nat.mod_lt _ (Nat.two_pow_pos i)
  have hpow : 2 ^ (i + 1) = 2 ^ i * 2 := Nat.pow_succ 2 i
  have hsplit : w = 2 ^ i * (2 * (w / 2 ^ (i + 1)) + bits w i 1) + w % 2 ^ i := by
    have hbits : 2 * (w / 2 ^ (i + 1)) + bits w i 1 = w / 2 ^ i := by
      rw [hpow, ← Nat.div_div_eq_div_mul, bits]
      exact Nat.div_add_mod _ 2
    rw [hbits, Nat.div_add_mod]
  have hb : b2n b % 2 ^ 1 = b2n b := by cases b <;> rfl
  have hset : setBits w i 1 (b2n b) = 2 ^ i * (2 * (w / 2 ^ (i + 1)) + b2n b) + w % 2 ^ i := by
    rw [setBits, hb]
    have hw := hsplit
    generalize w / 2 ^ (i + 1) = h at *
    generalize bits w i 1 = c at *
    generalize w % 2 ^ i = r at *
    rw [Nat.mul_add] at hw ⊢
    rw [Nat.mul_comm c, Nat.mul_comm (b2n b)]
    omega
  have htop : ∀ c n, c < 2 → n ≠ 0 → (2 * (w / 2 ^ (i + 1)) + c).testBit n = (w / 2 ^ (i + 1)).testBit (n - 1) := by
    intro c n hc hn
    obtain ⟨m, rfl⟩ := Nat.exists_eq_succ_of_ne_zero hn
    rw [Nat.testBit_succ]
    congr 1
    omega
  rw [bit_eq_testBit, bit_eq_testBit, hset]
  conv_rhs => rw [hsplit]
  rw [Nat.testBit_two_pow_mul_add _ hlow, Nat.testBit_two_pow_mul_add _ hlow]
  by_cases hji : j < i
  · rw [if_pos hji, if_pos hji, if_neg (by omega)]
  · rw [if_neg hji, if_neg hji]
    by_cases heq : j = i
    · rw [if_pos heq, heq, Nat.sub_self, Nat.testBit_zero]
      cases b <;> simp [b2n]
    · rw [if_neg heq, htop _ _ (by cases b <;> decide) (by omega), htop _ _ (bits_lt w i 1) (by omega)]

theorem bitOf_wrBit (s : State) {f : F} {j : Nat} (hj : j < f.info.width) (i : Nat) (b : Bool) :
    (s.wrBit f i b).bitOf f j = if j = i then b else s.bitOf f j := by
  rw [State.bitOf, State.wrBit, rd_wr_same, bit_eq_testBit, Nat.testBit_mod_two_pow, decide_eq_true hj, Bool.true_and,
    ← bit_eq_testBit, bit_setBits]
  rfl

/-- The fields of ER_BRINGUP that hold the outcomes. -/
def bistFields : List F := [.ER_BRINGUP_BIST_PASS, .ER_BRINGUP_BIST_FAIL]

/-- Does domain `d`, gone off, leave entry `j` of the register table? -/
def staysOn (d j : Nat) : Bool :=
  match keyField j with
  | none => true
  | some f => f == .GN_ID_DATA || regDomain f.info.reg (j / 512) != some d

theorem staysOn_bist (d : Nat) {f : F} (hf : f ∈ bistFields) : staysOn d (fkey f 0) = true := by
  have hkey : ∀ f ∈ bistFields, keyField (fkey f 0) = some f ∧ regDomain f.info.reg (fkey f 0 / 512) = none := by decide
  obtain ⟨hfield, hdom⟩ := hkey f hf
  rw [staysOn, hfield]
  dsimp only
  rw [hdom]
  simp

/-- A domain that goes off keeps the outcomes. -/
theorem dropRegs_bist (s : State) (d : Nat) {f : F} (hf : f ∈ bistFields) :
    ({ s with regs := dropRegs d s.regs } : State).rd f = s.rd f :=
  (Tbl.get_filter _ (staysOn d) s.regs (fkey f 0)).trans (if_pos (staysOn_bist d hf))

theorem thrGone_bist (s : State) (k : Nat) {f : F} (hf : f ∈ bistFields) : (s.thrGone k).rd f = s.rd f := by
  have htemps := (thrGone_temps (s.dropMem (Config.loftBase k) Config.loftBytes) k).regs f 0
    (by revert hf; revert f; decide)
  unfold State.thrGone
  generalize (List.range 4).foldl (fun s i => s.wri .TM_TEMP_VALID (4 * k + i) 0)
    (s.dropMem (Config.loftBase k) Config.loftBytes) = u at htemps
  exact htemps

theorem thrOff_bist (s : State) (k : Nat) {f : F} (hf : f ∈ bistFields) : (s.thrOff k).noteHeat.rd f = s.rd f := by
  have hheat := (noteHeat_logged (s.thrOff k)).regs f 0 (by revert hf; revert f; decide)
  have hoff : (s.thrOff k).rd f = ({ s.thrGone k with regs := dropRegs (thrDomain k) (s.thrGone k).regs } : State).rd f :=
    rdi_wri_other (.inl (by rintro rfl; revert hf; decide))
  exact hheat.trans (hoff.trans ((dropRegs_bist _ _ hf).trans (thrGone_bist s k hf)))

theorem bistTurner_bist (s : State) (k : Nat) (pass : Bool) {f : F} (hf : f ∈ bistFields) :
    (s.bistTurner k pass).rd f = s.rd f := by
  unfold State.bistTurner
  split
  · rfl
  · exact (raise_logged _ _ _ _ _ _ _).regs f 0 (by revert hf; revert f; decide)

/-- The outcome of thresher `k` sets its bit of one field and leaves the other. -/
theorem bistArray_bits (s : State) (k : Fin 8) (pass : Bool) {j : Nat} (hj : j < 8) :
    (s.bistArray k pass).bitOf .ER_BRINGUP_BIST_PASS j = (s.bitOf .ER_BRINGUP_BIST_PASS j || (decide (j = k) && pass)) ∧
      (s.bistArray k pass).bitOf .ER_BRINGUP_BIST_FAIL j =
        (s.bitOf .ER_BRINGUP_BIST_FAIL j || (decide (j = k) && !pass)) := by
  cases pass with
  | true =>
    have hother : (s.wrBit .ER_BRINGUP_BIST_PASS k true).rd .ER_BRINGUP_BIST_FAIL = s.rd .ER_BRINGUP_BIST_FAIL :=
      rdi_wri_other (.inl (by decide))
    refine ⟨?_, ?_⟩
    · refine (bitOf_wrBit s hj k true).trans ?_
      by_cases hjk : j = k.val <;> simp [hjk]
    · refine (congrArg (fun w => bit w j) hother).trans ?_
      simp [State.bitOf]
  | false =>
    have hraise := raise_logged (s.wrBit .ER_BRINGUP_BIST_FAIL k true) .bistFail 0 k 0 0 0
    have hrd : ∀ f ∈ bistFields, (s.bistArray k false).rd f = (s.wrBit .ER_BRINGUP_BIST_FAIL k true).rd f := by
      intro f hf
      have hne : f ≠ .PW_DOM_OFF ∧ f ∉ logFields := by revert hf; revert f; decide
      rw [State.bistArray, if_neg (by decide), switchOff_thr, thrOff_bist _ _ hf]
      exact (rdi_wri_other (.inl hne.1)).trans (hraise.regs f 0 hne.2)
    have hother : (s.wrBit .ER_BRINGUP_BIST_FAIL k true).rd .ER_BRINGUP_BIST_PASS = s.rd .ER_BRINGUP_BIST_PASS :=
      rdi_wri_other (.inl (by decide))
    refine ⟨?_, ?_⟩
    · refine (congrArg (fun w => bit w j) ((hrd _ (by decide)).trans hother)).trans ?_
      simp [State.bitOf]
    · refine (congrArg (fun w => bit w j) (hrd _ (by decide))).trans ((bitOf_wrBit s hj k true).trans ?_)
      by_cases hjk : j = k.val <;> simp [hjk]

/-! ### The climb -/

theorem msix_shows (s : State) (v : Nat) : (s.msix v).regs = s.regs ∧ (s.msix v).mem = s.mem := by
  unfold State.msix
  split <;> exact ⟨rfl, rfl⟩

/-- A service state entered: it shows, and nothing else of the registers or of memory. -/
theorem setService_enters (s : State) {v : Nat} (hv : v < 8) (h : s.rd .ER_SERVICE_STATE ≠ v) :
    (s.setService v).rd .ER_SERVICE_STATE = v ∧ (s.setService v).regs = (s.wr .ER_SERVICE_STATE v).regs ∧
      ∀ p, (s.setService v).byteAt p = s.byteAt p := by
  have hset : s.setService v = (s.wr .ER_SERVICE_STATE v).msix 1 := if_neg h
  obtain ⟨hregs, hmem⟩ := msix_shows (s.wr .ER_SERVICE_STATE v) 1
  refine ⟨setService_state s hv, ?_, byteAt_of_mem ?_⟩
  · rw [hset, hregs]
  · rw [hset, hmem]
    rfl

/-- Settles O34: each rung sets its own field; the BIST results by `bistArray_bits`. -/
theorem climbToService : Obligations.ClimbToService := by
  refine fun s => ⟨fun hup => ?listDone, fun b a u hfw hfatal hlow hhigh => ?bist, fun hfw hst htrained h0 h1 => ?reduced,
    fun hfw hfatal hopen htrained hbist hports => ?complete, fun hup => ⟨fun hcomplete hidle hst => ⟨fun hmodes => ?full,
      fun hmodes hfree => ?behind⟩, fun hno => ?busy⟩⟩
  case listDone => exact ⟨_, congrArg Host.Outcome.next (byHost_of_up hup _), wri_shows s (by decide) 0⟩
  case bist =>
    have hb := b.isLt
    let k0 : Fin 8 := ⟨2 * b, by omega⟩
    let k1 : Fin 8 := ⟨2 * b + 1, by omega⟩
    have hmay : ¬ (s.fatal || s.bistKnown (2 * b) || s.bistKnown (2 * b + 1)) = true := by simp [hfatal, hlow, hhigh]
    have hrun : exec (.bistDone b a u) s = .next ((((s.bistTurner (2 * b) (bit u 0)).bistTurner (2 * b + 1) (bit u 1)).bistArray
        k0 (bit a 0)).bistArray k1 (bit a 1)) :=
      congrArg Host.Outcome.next ((if_pos hfw).trans (if_neg hmay))
    have hknown : ∀ f ∈ bistFields, ((s.bistTurner (2 * b) (bit u 0)).bistTurner (2 * b + 1) (bit u 1)).rd f = s.rd f :=
      fun f hf => (bistTurner_bist _ _ _ hf).trans (bistTurner_bist s _ _ hf)
    obtain ⟨hpass0, hfail0⟩ := (Bool.or_eq_false_iff.1 hlow :)
    obtain ⟨hpass1, hfail1⟩ := (Bool.or_eq_false_iff.1 hhigh :)
    refine ⟨_, hrun, ?_⟩
    generalize (s.bistTurner (2 * b) (bit u 0)).bistTurner (2 * b + 1) (bit u 1) = v at hknown
    have hpass : ∀ j, v.bitOf .ER_BRINGUP_BIST_PASS j = s.bitOf .ER_BRINGUP_BIST_PASS j :=
      fun j => congrArg (fun w => bit w j) (hknown _ (by decide))
    have hfail : ∀ j, v.bitOf .ER_BRINGUP_BIST_FAIL j = s.bitOf .ER_BRINGUP_BIST_FAIL j :=
      fun j => congrArg (fun w => bit w j) (hknown _ (by decide))
    have hbits := fun (j : Nat) (hj : j < 8) => And.intro (bistArray_bits v k0 (bit a 0) hj)
      (bistArray_bits (v.bistArray k0 (bit a 0)) k1 (bit a 1) hj)
    obtain ⟨⟨hp0, hf0⟩, hp0', hf0'⟩ := hbits (2 * b) (by omega)
    obtain ⟨⟨hp1, hf1⟩, hp1', hf1'⟩ := hbits (2 * b + 1) (by omega)
    rw [hp0', hf0', hp1', hf1', hp0, hf0, hp1, hf1]
    simp only [hpass, hfail, hpass0, hpass1, hfail0, hfail1, k0, k1]
    simp
  case reduced =>
    have hrun : exec .reduced s = .next (s.setService 2) :=
      congrArg Host.Outcome.next ((if_pos hfw).trans (if_pos ⟨hst, htrained, h0, h1⟩))
    exact ⟨_, hrun, setService_enters s (by decide) (by omega)⟩
  case complete =>
    have hsettled : ((List.range 16).all fun p => !s.flag .WN_PORT_CTL_EN p || (s.portState p != 1 && s.portState p != 2)) =
        true := by
      refine List.all_eq_true.2 fun p hp => ?_
      rw [List.all_eq_true.1 hports p hp, Bool.true_or]
    have hrun : exec .bringupComplete s = .next ((s.wr .ER_BRINGUP_COMPLETE 1).msix 1) := by
      refine congrArg Host.Outcome.next ((if_pos hfw).trans (if_pos ?_))
      simp only [hopen, hfatal, htrained, hbist, hsettled]
      rfl
    obtain ⟨hregs, hmem⟩ := msix_shows (s.wr .ER_BRINGUP_COMPLETE 1) 1
    exact ⟨_, hrun, (msix_rdi _ 1 _ 0).trans rdi_wri_same, hregs, byteAt_of_mem hmem⟩
  case full =>
    have hrun : exec .reqFull s = .next (s.setService 3) := by
      have hfree : ¬ s.modeBusy .service = true := by simp [State.modeBusy, hmodes]
      have hempty : s.modes.isEmpty = true := by rw [hmodes]; rfl
      exact congrArg Host.Outcome.next ((byHost_of_up hup _).trans ((if_pos ⟨hcomplete, hidle, hst, hfree⟩).trans
        (if_pos hempty)))
    exact ⟨_, hrun, setService_enters s (by decide) (by omega)⟩
  case behind =>
    have hne : ¬ s.modes.isEmpty = true := by simp [modes_isEmpty hmodes]
    have hfree' : ¬ s.modeBusy .service = true := by simp [hfree]
    exact congrArg Host.Outcome.next ((byHost_of_up hup _).trans ((if_pos ⟨hcomplete, hidle, hst, hfree'⟩).trans
      (if_neg hne)))
  case busy =>
    have hrefused : ¬ (s.flag .ER_BRINGUP_COMPLETE 0 = true ∧ s.allIdle = true ∧ s.rd .ER_SERVICE_STATE = 2 ∧
        ¬ s.modeBusy .service = true) := by
      rintro ⟨h1, h2, h3, h4⟩
      simp [h1, h2, h3, h4] at hno
    exact ⟨_, congrArg Host.Outcome.next ((byHost_of_up hup _).trans (if_neg hrefused)), wri_shows s (by decide) 0⟩

end Sys2Proof.Machine

/-! What reads and writes of memory leave alone: their registers are those of array errors and of the log. -/

namespace Sys2Proof.Machine

/-- The register fields that the check of a read or a write may count in (R134, R137, R162 to R165), beside the log's. -/
def storeFields : List F :=
  [.GN_ECC_ODC_COUNT, .GN_ECC_CE_COUNT, .GN_ECC_UE_COUNT, .LF_ECC_CE, .LF_ECC_UE, .LF_FABRIC_RESEND, .LF_FABRIC_FAIL] ++
    logFields

/-- A state without what reads and writes of memory may change: bytes, marks, errors, rows' counts, granules, the log. -/
def State.sansStore (s : State) : State :=
  { s.sansLog with
    mem := [], poison := [], flaws := [], gran := { s.gran with rowErr := [], rowUe := [] },
    prov := { s.prov with granules := [] } }

/-- `t` is `s` after reads and writes of memory. -/
structure State.Stored (s t : State) : Prop where
  rest : t.sansStore = s.sansStore
  regs : ∀ f k, f ∉ storeFields → t.rdi f k = s.rdi f k

theorem State.Logged.stored {s t : State} (h : s.Logged t storeFields) : s.Stored t :=
  ⟨congrArg (fun x : State => { x with
    mem := [], poison := [], flaws := [], gran := { x.gran with rowErr := [], rowUe := [] },
    prov := { x.prov with granules := [] } }) h.rest, h.regs⟩

namespace State.Stored

variable {s t u : State}

theorem refl (s : State) : s.Stored s := ⟨rfl, fun _ _ _ => rfl⟩

theorem trans (h : s.Stored t) (k : t.Stored u) : s.Stored u :=
  ⟨k.rest.trans h.rest, fun f j hf => (k.regs f j hf).trans (h.regs f j hf)⟩

theorem ite (h : s.Stored t) {p : Prop} [Decidable p] (k : s.Stored u) : s.Stored (if p then t else u) := by
  split <;> assumption

theorem foldl {α : Type} {f : State → α → State} (hf : ∀ t a, s.Stored t → s.Stored (f t a)) (l : List α)
    (h : s.Stored t) : s.Stored (l.foldl f t) := by
  induction l generalizing t with
  | nil => exact h
  | cons a l ih => exact ih (hf t a h)

theorem count (h : s.Stored t) {f : F} (hf : f ∈ storeFields) (k n : Nat) : s.Stored (t.addSat f k n) :=
  ⟨h.rest, fun g j hg => (rdi_wri_other (.inl fun (e : g = f) => hg (e ▸ hf))).trans (h.regs g j hg)⟩

theorem raise (h : s.Stored t) (e : E) (unit inst sub addr detail : Nat) :
    s.Stored (t.raise e unit inst sub addr detail) :=
  h.trans ((raise_logged t e unit inst sub addr detail).mono (by decide)).stored

theorem setFlaw (h : s.Stored t) (p : Nat) (x : Flaw) : s.Stored (t.setFlaw p x) := ⟨h.rest, h.regs⟩

theorem mark (h : s.Stored t) (p : Nat) (b : Bool) : s.Stored (t.mark p b) := ⟨h.rest, h.regs⟩

theorem setByte (h : s.Stored t) (p : Nat) (b : Byte) : s.Stored (t.setByte p b) := ⟨h.rest, h.regs⟩

theorem setGranule (h : s.Stored t) (v g : Nat) (x : Granule) : s.Stored (t.setGranule v g x) := ⟨h.rest, h.regs⟩

theorem rewritten (h : s.Stored t) (p : Nat) : s.Stored (t.rewritten p) :=
  h.ite (foldl (fun _ _ h => h.setFlaw _ _) _ h)

theorem countRow (h : s.Stored t) (p : Nat) (ue : Bool) : s.Stored (t.countRow p ue) := by
  unfold State.countRow
  dsimp only
  split
  · exact h
  · split
    · exact ⟨h.rest, h.regs⟩
    · exact ⟨h.rest, h.regs⟩

theorem senseDie (h : s.Stored t) (c : Nat) : s.Stored (t.senseDie c) := (h.count (by decide) _ _).ite h

theorem correctHalf (h : s.Stored t) (c : Nat) : s.Stored (t.correctHalf c) :=
  ((h.count (by decide) _ _).countRow _ _).raise _ _ _ _ _ _

theorem senseHbm (h : s.Stored t) (p : Nat) (cs : List Nat) : s.Stored (t.senseHbm p cs) := by
  have hdies := foldl (fun _ c h => h.senseDie c) cs h
  unfold State.senseHbm
  dsimp only
  split
  · exact hdies
  · split
    · exact ((((hdies.rewritten _).mark _ _).count (by decide) _ _).countRow _ _).raise _ _ _ _ _ _
    · exact foldl (fun _ c h => h.correctHalf c) _ hdies

theorem senseLoft (h : s.Stored t) (p : Nat) : s.Stored (t.senseLoft p) := by
  unfold State.senseLoft
  split
  · exact h
  · split
    · exact h
    · exact ((h.rewritten _).count (by decide) _ _).raise _ _ _ _ _ _
    · exact (((h.rewritten _).mark _ _).count (by decide) _ _).raise _ _ _ _ _ _

theorem sense (h : s.Stored t) (p : Nat) : s.Stored (t.sense p) := (h.senseHbm p _).ite (h.senseLoft p)

theorem leaveLine (h : s.Stored t) (p : Nat) : s.Stored (t.leaveLine p) := by
  unfold State.leaveLine
  dsimp only
  split
  · exact h
  · split
    · exact (h.setFlaw _ _).raise _ _ _ _ _ _
    · exact h.raise _ _ _ _ _ _

theorem senseRun (h : s.Stored t) (p n : Nat) : s.Stored (t.senseRun p n) := by
  have hunits := foldl (fun _ p h => h.sense p) (unitsOf p n) h
  unfold State.senseRun
  dsimp only
  split
  · exact h
  · exact (foldl (fun _ p h => h.leaveLine p) _ hunits).ite hunits

theorem writeUnit (h : s.Stored t) (g : Nat × List (Nat × PByte)) : s.Stored (t.writeUnit g) := by
  have hread : s.Stored (if g.2.length = unitSize g.1 then t.mark g.1 false
      else if t.flaws.isEmpty then t else t.sense g.1) := (h.mark _ _).ite (h.ite (h.sense _))
  have hbytes := foldl (fun _ (e : Nat × PByte) h => h.setByte e.1 e.2.val) g.2 (hread.rewritten g.1)
  exact hread.ite ((hbytes.mark _ _).ite hbytes)

theorem storePhys (h : s.Stored t) (p : Nat) (l : List PByte) : s.Stored (t.storePhys p l) :=
  h.ite (foldl (fun _ g h => h.writeUnit g) _ h)

theorem arriveLine (p : Nat) {x : State × List PByte} (h : s.Stored x.1) (z : Nat) :
    s.Stored (Machine.arriveLine p x z).1 := by
  obtain ⟨t, l⟩ := x
  unfold Machine.arriveLine
  dsimp only
  split
  · exact h
  · have hcount := fun (f : F) (hf : f ∈ storeFields) (v : State) (hv : s.Stored v) =>
      State.Stored.ite (p := isHbm z = true) hv (hv.count hf (placeUnit z).2 1)
    have harrived := hcount .LF_FABRIC_RESEND (by decide) _ (h.setFlaw z { t.flawAt z with arrives := 0 })
    split
    · dsimp only
      exact harrived.raise _ _ _ _ _ _
    · dsimp only
      exact (hcount .LF_FABRIC_FAIL (by decide) _ harrived).raise _ _ _ _ _ _

theorem foldl_lines {p : Nat} {x : State × List PByte} (h : s.Stored x.1) (zs : List Nat) :
    s.Stored (zs.foldl (Machine.arriveLine p) x).1 := by
  induction zs generalizing x with
  | nil => exact h
  | cons z zs ih => exact ih (arriveLine p h z)

theorem writePhys (h : s.Stored t) (p : Nat) (l : List PByte) : s.Stored (t.writePhys p l) :=
  (h.storePhys p l).ite ((foldl_lines (p := p) (x := (t, l)) h _).storePhys p _)

theorem resultWord (p : Nat) {x : State × List PByte} (h : s.Stored x.1) (z : Nat) :
    s.Stored (Machine.resultWord p x z).1 := by
  obtain ⟨t, l⟩ := x
  unfold Machine.resultWord
  dsimp only
  split
  · dsimp only
    exact ((h.setFlaw _ _).count (f := .LF_ECC_UE) (by decide) _ _).raise _ _ _ _ _ _
  · exact h

theorem foldl_words {p : Nat} {x : State × List PByte} (h : s.Stored x.1) (zs : List Nat) :
    s.Stored (zs.foldl (Machine.resultWord p) x).1 := by
  induction zs generalizing x with
  | nil => exact h
  | cons z zs ih => exact ih (resultWord p h z)

theorem resultPhys (h : s.Stored t) (p : Nat) (l : List PByte) : s.Stored (t.resultPhys p l) :=
  (h.writePhys p l).ite ((h.storePhys p l).ite ((foldl_words (p := p) (x := (t, l)) h _).storePhys p _))

theorem poisonRun (h : s.Stored t) (p n : Nat) : s.Stored (t.poisonRun p n) := foldl (fun _ u h => h.mark u true) _ h

theorem copyGranule (h : s.Stored t) (r : Vreg) (b : Bool) (a : Nat) : s.Stored (t.copyGranule r b a) :=
  (h.senseRun _ _).storePhys _ _

theorem writePlace (h : s.Stored t) (rs : List Vreg) (view : View) (space z a n : Nat) :
    s.Stored (t.writePlace rs view space z a n).2 := by
  unfold State.writePlace
  dsimp only
  split
  · exact h
  · split
    · exact ((h.poisonRun _ _).ite h).setGranule _ _ _
    · split
      · exact h.ite (h.setGranule _ _ _)
      · exact (h.ite (h.copyGranule _ _ _)).setGranule _ _ _
      · exact h

theorem senseAt (h : s.Stored t) (view : View) (space z a n : Nat) : s.Stored (t.senseAt view space z a n) :=
  h.ite (foldl (fun _ _ h => h.senseRun _ _) _ h)

theorem leaveAt (h : s.Stored t) (view : View) (space z a n : Nat) : s.Stored (t.leaveAt view space z a n) :=
  h.ite (foldl (fun _ _ h => foldl (fun _ p h => h.leaveLine p) _ h) _ h)

theorem writeVia {put : State → Nat → List PByte → State} (hput : ∀ t p l, s.Stored t → s.Stored (put t p l))
    (h : s.Stored t) (view : View) (space z a : Nat) (l : List PByte) : s.Stored (t.writeVia put view space z a l) := by
  refine foldl (fun u e hu => ?_) _ h
  have hplace := hu.writePlace t.vregs view space z e.1 e.2.length
  generalize u.writePlace t.vregs view space z e.1 e.2.length = x at hplace
  obtain ⟨_ | p, v⟩ := x
  · exact hplace
  · exact hput v p e.2 hplace

theorem writeAt (h : s.Stored t) (view : View) (space z a : Nat) (l : List PByte) :
    s.Stored (t.writeAt view space z a l) := writeVia (fun _ p l h => h.writePhys p l) h view space z a l

theorem writeResult (h : s.Stored t) (view : View) (space z a : Nat) (l : List PByte) :
    s.Stored (t.writeResult view space z a l) := writeVia (fun _ p l h => h.resultPhys p l) h view space z a l

theorem collWrite (h : s.Stored t) (w : Work) (word off : Nat) (l : List Byte) : s.Stored (t.collWrite w word off l) :=
  h.writeAt _ _ _ _ _

theorem writeStatus (h : s.Stored t) (w : Work) (code : Nat) : s.Stored (t.writeStatus w code) := h.collWrite _ _ _ _

theorem queues_eq (h : s.Stored t) : t.queues = s.queues := (congrArg State.queues h.rest :)
theorem queue_eq (h : s.Stored t) (q : Nat) : t.queue q = s.queue q := by rw [State.queue, h.queues_eq, State.queue]
theorem waiters_eq (h : s.Stored t) : t.waiters = s.waiters := (congrArg State.waiters h.rest :)

end State.Stored

end Sys2Proof.Machine

/-! The fault of an engine whatever waits, and the rank list and the time limits of collectives (O45). -/

namespace Sys2Proof.Machine

/-! ### The service of waiters (R125) -/

/-- The register fields that the service of waiters writes. -/
def serveFields : List F := [.TL_COUNT_COUNT, .EN_Q_STAT_STATE, .EN_Q_PC_PC]

/-- A state without what the service of waiters may change. -/
def State.sansServe (s : State) : State := { s with regs := [], queues := [], waiters := [], stamp := 0 }

/-- `t` is `s` after waiters were served: a queue that was woken runs. -/
structure State.Served (s t : State) : Prop where
  rest : t.sansServe = s.sansServe
  regs : ∀ f k, f ∉ serveFields → t.rdi f k = s.rdi f k
  state : ∀ q, t.qState q = s.qState q ∨ t.qState q = 1 ∨ t.qState q = 3

namespace State.Served

variable {s t u : State}

theorem refl (s : State) : s.Served s := ⟨rfl, fun _ _ _ => rfl, fun _ => .inl rfl⟩

theorem trans (h : s.Served t) (k : t.Served u) : s.Served u :=
  ⟨k.rest.trans h.rest, fun f j hf => (k.regs f j hf).trans (h.regs f j hf), fun q => by
    rcases k.state q with hq | hq
    · rw [hq]
      exact h.state q
    · exact .inr hq⟩

theorem setTally (h : s.Served t) (u n : Nat) : s.Served (t.setTally u n) :=
  ⟨h.rest, fun f k hf => (rdi_wri_other (.inl fun (e : f = .TL_COUNT_COUNT) => hf (e ▸ by decide))).trans (h.regs f k hf),
    fun q => by
      have hq : (t.setTally u n).qState q = t.qState q := rdi_wri_other (.inl (by decide))
      rw [hq]
      exact h.state q⟩

theorem setWaiters (h : s.Served t) (u : Nat) (l : List Waiter) : s.Served (t.setWaiters u l) := ⟨h.rest, h.regs, h.state⟩

theorem updQueue (h : s.Served t) (q : Nat) (g : Queue → Queue) : s.Served (t.updQueue q g) := ⟨h.rest, h.regs, h.state⟩

theorem advance (h : s.Served t) (q npc : Nat) : s.Served (t.advance q npc) := by
  unfold State.advance
  dsimp only
  refine ⟨h.rest, fun f k hf => ?_, fun j => ?_⟩
  · exact (rdi_wri_other (.inl fun (e : f = .EN_Q_PC_PC) => hf (e ▸ by decide))).trans (h.regs f k hf)
  · have hj : ∀ g v, ((t.updQueue q g).wri .EN_Q_PC_PC q v).qState j = t.qState j :=
      fun g v => rdi_wri_other (.inl (by decide))
    rw [hj]
    exact h.state j

theorem runs (h : s.Served t) (q : Nat) : s.Served (t.setQState q (t.runState q)) := by
  have hrun : t.runState q = 1 ∨ t.runState q = 3 := by
    unfold State.runState
    split
    · exact .inr rfl
    · exact .inl rfl
  refine ⟨h.rest, fun f k hf => ?_, fun j => ?_⟩
  · exact (rdi_wri_other (.inl fun (e : f = .EN_Q_STAT_STATE) => hf (e ▸ by decide))).trans (h.regs f k hf)
  · by_cases hj : j = q
    · subst hj
      have hset : (t.setQState j (t.runState j)).qState j = t.runState j % 8 := rdi_wri_same
      rw [hset]
      omega
    · have hset : (t.setQState q (t.runState q)).qState j = t.qState j := rdi_wri_other (.inr hj)
      rw [hset]
      exact h.state j

theorem wake (h : s.Served t) (q : Nat) : s.Served (t.wake q) := by
  have hrun : s.Served ((t.setQState q (t.runState q)).orderPoint q) := ⟨(h.runs q).rest, (h.runs q).regs, (h.runs q).state⟩
  unfold State.wake
  dsimp only
  split
  · exact hrun
  · split
    · exact (hrun.advance _ _).updQueue _ _
    · exact hrun.updQueue _ _

theorem serveList (u : Nat) (l : List Waiter) (h : s.Served t) : s.Served (Machine.serveList u l t) := by
  induction l generalizing t with
  | nil => exact h.setWaiters u []
  | cons w r ih =>
    rw [Machine.serveList]
    split
    · exact ih ((h.setTally _ _).wake _)
    · exact h.setWaiters u _

theorem serve (h : s.Served t) (u : Nat) : s.Served (t.serve u) := serveList u _ h

theorem leaveWait (h : s.Served t) (q : Nat) : s.Served (t.leaveWait q) := by
  unfold State.leaveWait
  split
  · exact h
  · exact ((h.setWaiters _ _).updQueue _ _).serve _

theorem giveBack (h : s.Served t) (q pc : Nat) : s.Served (t.giveBack q pc) := by
  unfold State.giveBack
  split
  · dsimp only
    split
    · split
      · exact h.updQueue _ _
      · exact ((h.updQueue _ _).setTally _ _).serve _
    · exact h.updQueue _ _
  · exact h

end State.Served

/-! ### The fault of an engine, whatever waits (R101, R114) -/

/-- The register fields an engine fault may write. -/
def haltFields : List F := faultFields ++ serveFields ++ [.EN_Q_STAT_CODE, .EN_Q_FAULT_PC_PC, .TN_STAT_OWNER]

/-- A state without what an engine fault may change. -/
def State.sansFault (s : State) : State := { s.sansLog with queues := [], waiters := [], stamp := 0 }

/-- `t` is `s` after faults of engines. -/
structure State.Halted (s t : State) : Prop where
  rest : t.sansFault = s.sansFault
  regs : ∀ f k, f ∉ haltFields → t.rdi f k = s.rdi f k

theorem State.Served.halted {s t : State} (h : s.Served t) : s.Halted t :=
  ⟨congrArg (fun x : State => x.sansLog) h.rest, fun f k hf => h.regs f k fun hm => hf (by simp [haltFields, hm])⟩

theorem State.Logged.halted {s t : State} (h : s.Logged t faultFields) : s.Halted t :=
  ⟨congrArg (fun x : State => { x with queues := [], waiters := [], stamp := 0 }) h.rest,
    fun f k hf => h.regs f k fun hm => hf (by simp [haltFields, hm])⟩

namespace State.Halted

variable {s t u : State}

theorem refl (s : State) : s.Halted s := ⟨rfl, fun _ _ _ => rfl⟩

theorem trans (h : s.Halted t) (k : t.Halted u) : s.Halted u :=
  ⟨k.rest.trans h.rest, fun f j hf => (k.regs f j hf).trans (h.regs f j hf)⟩

theorem wri (h : s.Halted t) {f : F} (hf : f ∈ haltFields) (k v : Nat) : s.Halted (t.wri f k v) :=
  ⟨h.rest, fun g j hg => (rdi_wri_other (.inl fun (e : g = f) => hg (e ▸ hf))).trans (h.regs g j hg)⟩

theorem updQueue (h : s.Halted t) (q : Nat) (g : Queue → Queue) : s.Halted (t.updQueue q g) := ⟨h.rest, h.regs⟩

theorem freeTurnerOf (h : s.Halted t) (q : Nat) : s.Halted (t.freeTurnerOf q) := by
  unfold State.freeTurnerOf
  split
  · exact h.wri (by decide) _ 0
  · exact h

theorem mem_eq (h : s.Halted t) : t.mem = s.mem := (congrArg State.mem h.rest :)

end State.Halted

theorem stopQueue_halted (s : State) (q : Nat) (c : E) (pc : Nat) : s.Halted (s.stopQueue q c pc) := by
  unfold State.stopQueue
  split
  · exact .refl s
  · have hleft := ((State.Served.refl s).leaveWait q).halted
    exact ((((hleft.updQueue _ _).wri (by decide) _ 5).wri (by decide) _ _).wri (by decide) _ _).freeTurnerOf q

theorem engineFault_halted (s : State) (q : Nat) (f : EFault) (pc : Nat) : s.Halted (s.engineFault q f pc) :=
  ((((State.Served.refl s).giveBack q pc).halted.trans (recorded_logged _ q f pc).halted)).trans (stopQueue_halted _ q f.code pc)

/-- The queue of a fault stands FAULTED with its code, unless it was FAULTED before. -/
theorem stopQueue_stops (s : State) (q : Nat) (c : E) (pc : Nat) :
    (s.stopQueue q c pc).qState q = 5 ∧ (s.qState q ≠ 5 → (s.stopQueue q c pc).rdi .EN_Q_STAT_CODE q = c.val) := by
  have hcode : c.val < 2 ^ F.EN_Q_STAT_CODE.info.width := by cases c <;> decide
  by_cases h5 : s.qState q = 5
  · rw [stopQueue_of_faulted h5]
    exact ⟨h5, absurd h5⟩
  · rw [State.stopQueue, if_neg h5]
    dsimp only
    generalize (s.leaveWait q).updQueue q _ = t
    have hown := fun f (hf : (f, q) ∉ [(F.TN_STAT_OWNER, q / 6)]) => (freeTurnerOf_onlyRegs
      (((t.setQState q 5).wri .EN_Q_STAT_CODE q c.val).wri .EN_Q_FAULT_PC_PC q pc) q).2 f q hf
    refine ⟨?_, fun _ => ?_⟩
    · refine (hown _ (by simp)).trans ((rdi_wri_other (.inl (by decide))).trans ((rdi_wri_other (.inl (by decide))).trans ?_))
      exact rdi_wri_same
    · refine (hown _ (by simp)).trans ((rdi_wri_other (.inl (by decide))).trans (rdi_wri_same.trans ?_))
      exact Nat.mod_eq_of_lt hcode

theorem engineFault_stops (s : State) (q : Nat) (f : EFault) (pc : Nat) :
    (s.engineFault q f pc).qState q = 5 ∧
      (s.qState q ≠ 5 → (s.engineFault q f pc).rdi .EN_Q_STAT_CODE q = f.code.val) := by
  have hback := ((State.Served.refl s).giveBack q pc).state q
  have hlog := (recorded_logged (s.giveBack q pc) q f pc).regs .EN_Q_STAT_STATE q (by decide)
  obtain ⟨hstate, hcode⟩ := stopQueue_stops (((s.giveBack q pc).recordFault q f).raise f.code 1 q 0 pc f.detail) q f.code pc
  refine ⟨hstate, fun h5 => hcode fun h => ?_⟩
  have hwas : (s.giveBack q pc).qState q = 5 := hlog.symm.trans h
  omega

/-! ### Digests (R225 to R227) -/

/-- A state without what the digests of collectives may change. -/
def State.sansDigest (s : State) : State :=
  { s.sansStore with freeCtr := 0, net := { s.net with folders := [], digs := [] } }

/-- `t` is `s` after writes of memory and folds into digests. -/
structure State.Digested (s t : State) : Prop where
  rest : t.sansDigest = s.sansDigest
  regs : ∀ f k, f ∉ storeFields → t.rdi f k = s.rdi f k

namespace State.Digested

variable {s t u : State}

theorem trans (h : s.Digested t) (k : t.Digested u) : s.Digested u :=
  ⟨k.rest.trans h.rest, fun f j hf => (k.regs f j hf).trans (h.regs f j hf)⟩

theorem of_stored (h : s.Stored t) : s.Digested t :=
  ⟨congrArg (fun x : State => { x with freeCtr := 0, net := { x.net with folders := [], digs := [] } }) h.rest, h.regs⟩

theorem refl (s : State) : s.Digested s := of_stored (.refl s)

theorem foldl {α : Type} {f : State → α → State} (hf : ∀ t a, s.Digested t → s.Digested (f t a)) (l : List α)
    (h : s.Digested t) : s.Digested (l.foldl f t) := by
  induction l generalizing t with
  | nil => exact h
  | cons a l ih => exact ih (hf t a h)

theorem setDigs (h : s.Digested t) (l : List DigPart) : s.Digested { t with net := { t.net with digs := l } } :=
  ⟨h.rest, h.regs⟩

theorem setFolders (h : s.Digested t) (l : List (Nat × List Nat)) :
    s.Digested { t with net := { t.net with folders := l } } := ⟨h.rest, h.regs⟩

theorem foldDigest (h : s.Digested t) (who : Folder) (set peer : Nat) (recv : Bool) (l : List Byte) :
    s.Digested (t.foldDigest who set peer recv l) := by
  have hsense := h.trans (of_stored ((State.Stored.refl t).senseAt .unbound 0 0 (t.digestAt set peer) 32))
  have hcrc : ∀ (c : Prop) [Decidable c] (v : State) (n : Nat), s.Digested v →
      s.Digested (if c then v.takeFree else (n, v)).2 := by
    intro c _ v n hv
    split
    · exact ⟨hv.rest, hv.regs⟩
    · exact hv
  unfold State.foldDigest
  dsimp only
  split
  · exact h
  · refine setFolders ?_ _
    have hr := fun c (_ : Decidable c) n => hcrc c _ n hsense
    exact (hr _ _ _).trans (of_stored (((State.Stored.refl _).writeAt _ _ _ _ _).writeAt _ _ _ _ _))

theorem settleDigs (h : s.Digested t) (n : Nat) : s.Digested (t.settleDigs n) := by
  unfold State.settleDigs
  split
  · exact h
  · exact foldl (fun _ _ h => (h.foldDigest _ _ _ _ _).foldDigest _ _ _ _ _) _ (h.setDigs _)

theorem leaveDigest (h : s.Digested t) (q : Nat) (w : Work) : s.Digested (t.leaveDigest q w) := by
  unfold State.leaveDigest
  split
  · exact h
  · split
    · exact (h.setDigs _).settleDigs _
    · exact h

end State.Digested

/-! ### The end of an instruction in a fault (R245, R247) -/

/-- What is left of instruction `id` of a list, once it has failed: its other transactions. -/
def deadWork (id : Nat) (l : List Work) : List Work :=
  l.filterMap fun w =>
    if w.id = id then
      if w.tags.isEmpty then none
      else some { w with kind := .dead, sigIdx := 0xFFFF, ready := true, packs := [], pieces := [], reads := [],
                         writes := [], coll := none }
    else some w

/-- The state in which instruction `x` of queue `q` has been taken out of its queue. -/
def State.failing (s : State) (q id : Nat) (x : Work) (f : EFault) : State :=
  let s := if x.kind = .rscat then s.writeStatus x f.code.val else s
  let s := { s with net := { s.net with tagWait := s.net.tagWait.filter fun x => !(x.queue == q && x.id == id) } }
  s.updQueue q fun x => { x with work := deadWork id x.work }

theorem failWork_of_work {s : State} {q id : Nat} {x : Work} (h : s.workAt q id = some x) (f : EFault) :
    s.failWork q id f = ((s.failing q id x f).leaveDigest q x).engineFault q f x.pc := by
  unfold State.workAt at h
  rw [State.failWork, h]
  rfl

theorem failing_regs (s : State) (q id : Nat) (x : Work) (f : EFault) {g : F} {k : Nat} (hg : g ∉ storeFields) :
    ((s.failing q id x f).leaveDigest q x).rdi g k = s.rdi g k := by
  refine ((State.Digested.refl _).leaveDigest q x).regs g k hg |>.trans ?_
  have hstatus : s.Stored (if x.kind = .rscat then s.writeStatus x f.code.val else s) :=
    ((State.Stored.refl s).writeStatus _ _).ite (.refl s)
  exact hstatus.regs g k hg

theorem leaveDigest_of_other {w : Work} (h : w.kind ≠ .rscat) (s : State) (q : Nat) : s.leaveDigest q w = s := by
  unfold State.leaveDigest
  split
  · rfl
  · exact if_neg h

theorem failing_mem {x : Work} (h : x.kind ≠ .rscat) (s : State) (q id : Nat) (f : EFault) :
    (s.failing q id x f).mem = s.mem := by
  unfold State.failing
  rw [if_neg h]
  rfl

/-- An instruction that ends in a fault leaves its queue FAULTED; only a reduce-scatter writes memory. -/
structure State.Ended (s t : State) (q : Nat) (f : EFault) (x : Work) : Prop where
  regs : ∀ g k, g ∉ haltFields ++ storeFields → t.rdi g k = s.rdi g k
  state : t.qState q = 5
  code : s.qState q ≠ 5 → t.rdi .EN_Q_STAT_CODE q = f.code.val
  mem : x.kind ≠ .rscat → t.mem = s.mem

theorem failWork_ended {s : State} {q id : Nat} {x : Work} (h : s.workAt q id = some x) (f : EFault) :
    s.Ended (s.failWork q id f) q f x := by
  rw [failWork_of_work h]
  have hregs := fun g k (hg : g ∉ storeFields) => failing_regs s q id x f (g := g) (k := k) hg
  have hmem : x.kind ≠ .rscat → ((s.failing q id x f).leaveDigest q x).mem = s.mem := fun hk => by
    rw [leaveDigest_of_other hk, failing_mem hk]
  generalize (s.failing q id x f).leaveDigest q x = v at hregs hmem
  have hhalt := engineFault_halted v q f x.pc
  obtain ⟨hstate, hcode⟩ := engineFault_stops v q f x.pc
  have hq : v.qState q = s.qState q := hregs _ _ (by decide)
  refine ⟨fun g k hg => ?_, hstate, fun h5 => hcode (hq ▸ h5), fun hk => hhalt.mem_eq.trans (hmem hk)⟩
  obtain ⟨hg1, hg2⟩ := not_or.1 (fun hm => hg (List.mem_append.2 hm))
  exact (hhalt.regs g k hg1).trans (hregs g k hg2)

/-! ### The time limits (R224) and the rank list (R212) -/

theorem collFlag_timeout (s : State) : s.collFlag .collTimeout = s.wr .WN_COLL_STAT_TIMEOUT 1 := rfl

/-- An instruction that ends at its time limit. -/
theorem timeout_ends {s : State} {q id : Nat} {w : Work} (h : s.workAt q id = some w) (h5 : s.qState q ≠ 5) :
    ((s.collFlag .collTimeout).failWork q id (.of .collTimeout)).qState q = 5 ∧
      ((s.collFlag .collTimeout).failWork q id (.of .collTimeout)).rdi .EN_Q_STAT_CODE q = E.collTimeout.val ∧
      ((s.collFlag .collTimeout).failWork q id (.of .collTimeout)).rd .WN_COLL_STAT_TIMEOUT = 1 ∧
      (w.kind ≠ .rscat → ∀ p, ((s.collFlag .collTimeout).failWork q id (.of .collTimeout)).byteAt p = s.byteAt p) := by
  have hwork : (s.collFlag .collTimeout).workAt q id = some w := h
  have hend := failWork_ended hwork (.of .collTimeout)
  rw [collFlag_timeout] at hend ⊢
  have hq : (s.wr .WN_COLL_STAT_TIMEOUT 1).qState q = s.qState q := rdi_wri_other (.inl (by decide))
  refine ⟨hend.state, hend.code (hq ▸ h5), ?_, fun hk => byteAt_of_mem (hend.mem hk)⟩
  exact (hend.regs _ 0 (by decide)).trans rdi_wri_same

theorem workAt_id {s : State} {q id : Nat} {w : Work} (h : s.workAt q id = some w) : w.id = id := by
  simpa using List.find?_some h

/-- The commit of a rank list once it has been read. -/
theorem commitRanks_run {s : State} (hflaws : s.flaws = []) (hidle : s.wainIdle = true) :
    s.commitRanks =
      if s.badList s.readRanks (halves (s.rd .WN_RANK_COUNT_COUNT) (s.readRanks.map PByte.val)) then
        s.wr .WN_RANK_CTL_STATUS 2
      else if s.rd .WN_RANK_COUNT_COUNT ≤ s.rd .WN_RANK_SELF_RANK ∨
          (halves (s.rd .WN_RANK_COUNT_COUNT) (s.readRanks.map PByte.val)).getD (s.rd .WN_RANK_SELF_RANK) 0 ≠
            s.rd .WN_ID_MODULE then s.wr .WN_RANK_CTL_STATUS 3
      else s.setRanks (halves (s.rd .WN_RANK_COUNT_COUNT) (s.readRanks.map PByte.val)) (s.rd .WN_RANK_SELF_RANK) := by
  unfold State.commitRanks
  rw [if_neg (by simp [hidle])]
  dsimp only
  rw [senseAt_of_flawless hflaws]
  split
  · next hbad =>
    have hbad' : s.badList s.readRanks (halves (s.rd .WN_RANK_COUNT_COUNT) (s.readRanks.map PByte.val)) = true := by
      unfold State.badList
      rcases hbad with h | h | h <;> simp [h]
    rw [if_pos hbad']
  · rfl

theorem length_halves (n : Nat) (l : List Byte) : (halves n l).length = n := by
  induction n generalizing l with
  | zero => rfl
  | succ n ih => rw [halves, List.length_cons, ih]

theorem log2Up_lt {p : Nat} (h : p ≤ 65536) : log2Up p < 32 := by
  unfold log2Up
  split
  · decide
  · have hlog := (Nat.log2_lt (n := p - 1) (k := 16) (by omega)).2 (by omega)
    omega

theorem setRanks_shows (s : State) (ids : List Nat) (self : Nat) (h : ids.length ≤ 65536) :
    (s.setRanks ids self).rd .WN_RANK_CTL_STATUS = 0 ∧ (s.setRanks ids self).rd .WN_RANK_CTL_VALID = 1 ∧
      (s.setRanks ids self).rd .WN_RANK_CTL_LOG2P = log2Up ids.length ∧
      s.onlyRegs { s.setRanks ids self with net := s.net }
        [(.WN_RANK_CTL_STATUS, 0), (.WN_RANK_CTL_VALID, 0), (.WN_RANK_CTL_LOG2P, 0)] := by
  refine ⟨?_, ?_, ?_, ?_⟩
  · exact (rdi_wri_other (.inl (by decide))).trans ((rdi_wri_other (.inl (by decide))).trans rdi_wri_same)
  · exact (rdi_wri_other (.inl (by decide))).trans rdi_wri_same
  · exact rdi_wri_same.trans (Nat.mod_eq_of_lt (log2Up_lt h))
  · exact (((State.onlyRegs.refl s _).wr (by simp) 0).wr (by simp) 1).wr (by simp) _

/-- Settles O45: the commit in the order of its checks; a time limit ends its instruction (`timeout_ends`). -/
theorem ranksAndTimeLimits : Obligations.RanksAndTimeLimits := by
  refine ⟨fun s ids hup hflaws hids => ⟨fun hidle => ?busy, fun hidle hbad => ?bad, fun hidle hgood hwrong => ?wrong,
    fun hidle hgood hself hid => ?good⟩, fun s b id w hw hready hwait h5 => ⟨fun hk => ?rscat, fun hk => ?gather⟩,
    fun s b id w l q hw hk hready hlead => ?health⟩
  case busy =>
    have hrun : exec .rankCommit s = .next (s.wr .WN_RANK_CTL_STATUS 1) := by
      refine congrArg Host.Outcome.next ((byHost_of_up hup _).trans (if_pos ?_))
      simp [hidle]
    exact ⟨_, hrun, wri_shows s (by decide) 0⟩
  case bad =>
    have hrun : exec .rankCommit s = .next (s.wr .WN_RANK_CTL_STATUS 2) := by
      subst hids
      exact congrArg Host.Outcome.next ((byHost_of_up hup _).trans ((commitRanks_run hflaws hidle).trans (if_pos hbad)))
    exact ⟨_, hrun, wri_shows s (by decide) 0⟩
  case wrong =>
    have hrun : exec .rankCommit s = .next (s.wr .WN_RANK_CTL_STATUS 3) := by
      subst hids
      exact congrArg Host.Outcome.next ((byHost_of_up hup _).trans ((commitRanks_run hflaws hidle).trans
        ((if_neg (by simp [hgood])).trans (if_pos hwrong))))
    exact ⟨_, hrun, wri_shows s (by decide) 0⟩
  case good =>
    have hright : ¬ (s.rd .WN_RANK_COUNT_COUNT ≤ s.rd .WN_RANK_SELF_RANK ∨ ids.getD (s.rd .WN_RANK_SELF_RANK) 0 ≠
        s.rd .WN_ID_MODULE) := by
      rintro (h | h)
      · omega
      · exact h hid
    have hrun : exec .rankCommit s = .next (s.setRanks ids (s.rd .WN_RANK_SELF_RANK)) := by
      subst hids
      exact congrArg Host.Outcome.next ((byHost_of_up hup _).trans ((commitRanks_run hflaws hidle).trans
        ((if_neg (by simp [hgood])).trans (if_neg hright))))
    have hlen : ids.length = s.rd .WN_RANK_COUNT_COUNT := by rw [hids, length_halves]
    have hcount : s.rd .WN_RANK_COUNT_COUNT ≤ 65536 := by
      simp only [State.badList, Bool.or_eq_false_iff, decide_eq_false_iff_not] at hgood
      omega
    obtain ⟨hstat, hvalid, hlog, hframe⟩ := setRanks_shows s ids (s.rd .WN_RANK_SELF_RANK) (hlen ▸ hcount)
    exact ⟨_, hrun, hstat, hvalid, hlen ▸ hlog, rfl, rfl, hframe⟩
  case rscat =>
    have hid := workAt_id hw
    subst hid
    have hrun : exec (.collTimeout b w.id) s = .next (s.endRscat (48 + b) w .collTimeout) := by
      show execCollTimeout b w.id s = _
      rw [execCollTimeout, hw]
      exact congrArg Host.Outcome.next ((if_neg (by simp [hready])).trans (if_pos hk))
    obtain ⟨hstate, hcode, htime, -⟩ := timeout_ends hw h5
    exact ⟨_, hrun, rfl, hstate, hcode, htime⟩
  case gather =>
    have hrun : exec (.collTimeout b id) s = .next ((s.collFlag .collTimeout).failWork (48 + b) id (.of .collTimeout)) := by
      show execCollTimeout b id s = _
      rw [execCollTimeout, hw]
      exact congrArg Host.Outcome.next ((if_neg (by simp [hready])).trans ((if_neg (by rw [hk]; decide)).trans (if_pos hk)))
    obtain ⟨hstate, hcode, htime, hmem⟩ := timeout_ends hw h5
    exact ⟨_, hrun, hstate, hcode, htime, hmem (by rw [hk]; decide)⟩
  case health =>
    show execHealthTimeout b id s = _
    rw [execHealthTimeout, hw]
    dsimp only
    rw [if_pos ⟨hk, by simp [hready]⟩, hlead]

end Sys2Proof.Machine

/-! Module fatal and the loss of a stack can write memory where the statements say they do not (O35, O49): a transaction
whose table entry names a queue beyond the 52 ends in a fault with its frame, and a reduce-scatter standing under that
number writes its status record. No hypothesis of the two statements speaks of such queues. -/

namespace Sys2Proof.Machine

/-- A reduce-scatter with its status record at address 0 of HBM. -/
def strayRscat : Work :=
  { id := 0, pc := 0, kind := .rscat, sigIdx := 0xFFFF, sigCnt := 0, hostFence := false, hop := false, vol := false,
    bound := none, reads := [], writes := [], ready := false, done := false, tags := [], packs := [], pieces := [],
    desc := 0, part := 0, coll := none }

/-- Its transaction, held by queue 60. -/
def strayTxn : Txn :=
  { queue := 60, id := 0, op := opWr, dst := 0, addr := 0, bound := none, vol := false, stamp := 0, size := 0, digest := none,
    data := [] }

/-- The transaction's frame, which port 0 has not seen acknowledged. -/
def strayFrame : Frame :=
  { lh := .bare 0, vc := 0, eclass := 0, hops := 0, sq := 0, prov := false, vol := false, digest := false, dset := 0,
    src := 0, dst := 0, job := 0, tag := 0, epoch := 0, addr := 0, arg := 0, payload := [], flags := [], rsv := false,
    intact := true, fec := 0 }

/-- A module that is up, with the frame, the transaction and the reduce-scatter, and nothing else. -/
def strayState : State :=
  let z := State.reset
  { z with
    boot := { z.boot with phase := .up }
    queues := [(60, { z.queue 60 with work := [strayRscat] })]
    net := { z.net with links := [(0, { Link.fresh with unacked := [⟨0, ⟨opWr, strayFrame⟩, 0⟩] })], txns := [(0, strayTxn)] } }

/-- The 52 queues of that module hold no reduce-scatter. -/
theorem strayState_calm : ∀ q, q < 52 → ∀ w ∈ (strayState.queue q).work, w.kind ≠ .rscat := by
  intro q hq w hw
  have hne : ¬ 60 = q := by omega
  have hempty : (strayState.queue q).work = [] := by
    show Queue.work (Tbl.get _ [(60, _)] q) = []
    rw [Tbl.get, if_neg hne]
    rfl
  rw [hempty] at hw
  exact absurd hw List.not_mem_nil

/-- Byte `p` of memory after a command; 0 where it answers no next state. -/
def byteAfter (o : Host.Outcome State Fault Refusal) (p : Nat) : Byte :=
  match o with
  | .next t => t.byteAt p
  | _ => 0

theorem byteAfter_next (t : State) (p : Nat) : byteAfter (.next t) p = t.byteAt p := rfl

theorem strayState_byte : strayState.byteAt 2 = 0 := rfl

/-- Module fatal discards the frame, and the reduce-scatter's status record carries E_LINK_DOWN. -/
theorem strayState_moduleFatal : byteAfter (exec (.moduleFatal .ao) strayState) 2 = 69 := by decide +kernel

theorem strayState_stackFail : byteAfter (exec (.stackFail 23 .lane 0) strayState) 2 = 69 := by decide +kernel

/-- Refutes O35: module fatal kills port 0, whose unacknowledged frame ends the transaction of queue 60; its
reduce-scatter writes byte 2 of its status record, while the 52 queues are calm. -/
theorem not_faultedBayAndModule : ¬ Obligations.FaultedBayAndModule := by
  intro h
  obtain ⟨-, hfatal, -⟩ := h strayState _ _ Iff.rfl Iff.rfl rfl (by decide +kernel)
  obtain ⟨t, ht, -, -, -, -, hmem⟩ := hfatal rfl .ao
  have hbyte := strayState_moduleFatal
  rw [ht, byteAfter_next, hmem strayState_calm 2, strayState_byte] at hbyte
  exact absurd hbyte (by decide)

/-- Refutes O49: the failure of stack 23 is fatal to the module, and port 0 goes down with the same frame. -/
theorem not_stacksTrainAndFail : ¬ Obligations.StacksTrainAndFail := by
  intro h
  obtain ⟨-, hfail, -, -⟩ := h strayState 23 _ Iff.rfl
  obtain ⟨t, ht, -, -, -, -, hmem⟩ := hfail .lane 0 rfl (by decide +kernel) (by decide +kernel)
  have hbyte := strayState_stackFail
  rw [ht, byteAfter_next, hmem strayState_calm 2, strayState_byte] at hbyte
  exact absurd hbyte (by decide)

end Sys2Proof.Machine

/-! A scrubbed sector can end with a write of memory (O47): behind the accepted scrub change that takes effect at its end,
an accepted framing change follows at once (R18), and the links it gives up (R240) end what they carried. -/

namespace Sys2Proof.Machine

/-- Stack 23 is trained and scrubbed; a scrub change and a framing change of port 0 have been accepted; port 0 holds an
unacknowledged frame of the reduce-scatter in progress on queue 48. -/
def scrubState : State :=
  let z := (State.reset.wri .GN_STACK_STAT_STATE 23 2).wr .GN_CFG_SCRUB 1
  { z with
    queues := [(48, { z.queue 48 with work := [strayRscat] })]
    net := { z.net with
      links := [(0, { Link.fresh with unacked := [⟨0, ⟨opWr, strayFrame⟩, 0⟩] })], txns := [(0, { strayTxn with queue := 48 })] }
    modes := [.scrub 0, .framing 0 1] }

theorem scrubState_byte : scrubState.byteAt 2 = 0 := rfl

theorem scrubState_sector :
    byteAfter (exec (.scrubSector 23 ⟨⟨false, .clean⟩, ⟨false, .clean⟩⟩) scrubState) 2 = 69 := by decide +kernel

/-- Refutes O47: at the end of a sector without an error the scrub change takes effect, the framing change behind it gives
up the links of port 0, and the reduce-scatter whose frame is lost writes its status record. -/
theorem not_granaryModes : ¬ Obligations.GranaryModes := by
  intro h
  obtain ⟨-, -, -, -, hscrub⟩ := h scrubState
  obtain ⟨hclean, -⟩ := hscrub 23 0 ⟨⟨false, .clean⟩, ⟨false, .clean⟩⟩ (by decide +kernel) rfl rfl (by decide +kernel)
    (by decide)
  obtain ⟨t, ht, hmem, -⟩ := hclean rfl
  have hbyte := scrubState_sector
  rw [ht, byteAfter_next, hmem 2, scrubState_byte] at hbyte
  exact absurd hbyte (by decide)

end Sys2Proof.Machine

/-! A register table that holds more than a field's width, which the statement on configuration writes (O50) does not
exclude: a write that keeps GRANULES cuts it to its width. -/

namespace Sys2Proof.Machine

/-- The host link is up, and GRANULES of entry 0 stands at 2^23 + 5, one bit wider than its field. -/
def wideGranules : State :=
  let z := State.reset
  { z with regs := [(fkey .PS_VREG_CFG_GRANULES 0, 2 ^ 23 + 5)], host := { z.host with linkUp := true } }

theorem wideGranules_rdi : wideGranules.rdi .PS_VREG_CFG_GRANULES 0 = 2 ^ 23 + 5 := by decide +kernel

/-- A register field after a command; 0 where it answers no next state. -/
def fieldAfter (o : Host.Outcome State Fault Refusal) (f : F) (k : Nat) : Nat :=
  match o with
  | .next t => t.rdi f k
  | _ => 0

theorem fieldAfter_next (t : State) (f : F) (k : Nat) : fieldAfter (.next t) f k = t.rdi f k := rfl

/-- A write of 0 leaves the low 23 bits of what stood there. -/
theorem wideGranules_cut : fieldAfter (exec (.psVregWrite 0 .cfg 0) wideGranules) .PS_VREG_CFG_GRANULES 0 = 5 := by
  decide +kernel

/-- Refutes O50: a write of PS_VREG_CFG with GRANULES 0 is to leave the field as it was. -/
theorem not_configurationWrites : ¬ Obligations.ConfigurationWrites := by
  intro h
  obtain ⟨-, hvreg, -⟩ := h wideGranules rfl
  obtain ⟨hput, -⟩ := hvreg 0 .cfg 0 (by decide)
  obtain ⟨-, hzero⟩ := hput (by decide +kernel) (by decide +kernel) (.inl (by decide +kernel))
  obtain ⟨u, hu, -, -, hkept⟩ := hzero rfl
  have hcut := wideGranules_cut
  rw [hu, fieldAfter_next] at hcut
  exact absurd (hcut.symm.trans (hkept.trans wideGranules_rdi)) (by decide)

end Sys2Proof.Machine

/-! What sending on links leaves alone, and the commands on a port (O53). -/

namespace Sys2Proof.Machine

/-! ### Sending (R240, R244 to R246) -/

/-- A state without its registers, its links, and what an error event may write. -/
def State.sansLinks (s : State) : State := { s.sansLog with net := State.reset.net }

/-- `t` is `s` after frames were put on links: of the registers only fields of `fs` are written. -/
structure State.Linked (s t : State) (fs : List F) : Prop where
  rest : t.sansLinks = s.sansLinks
  regs : ∀ f k, f ∉ fs → t.rdi f k = s.rdi f k

theorem State.Logged.linked {s t : State} {fs : List F} (h : s.Logged t fs) : s.Linked t fs :=
  ⟨congrArg (fun x : State => { x with net := State.reset.net }) h.rest, h.regs⟩

namespace State.Linked

variable {s t u : State} {fs : List F}

theorem refl (s : State) (fs : List F) : s.Linked s fs := ⟨rfl, fun _ _ _ => rfl⟩

theorem trans (h : s.Linked t fs) (k : t.Linked u fs) : s.Linked u fs :=
  ⟨k.rest.trans h.rest, fun f j hf => (k.regs f j hf).trans (h.regs f j hf)⟩

theorem mono (h : s.Linked t fs) {gs : List F} (hg : ∀ f ∈ fs, f ∈ gs) : s.Linked t gs :=
  ⟨h.rest, fun f k hf => h.regs f k fun hm => hf (hg f hm)⟩

theorem ite (h : s.Linked t fs) {p : Prop} [Decidable p] (k : s.Linked u fs) : s.Linked (if p then t else u) fs := by
  split <;> assumption

theorem foldl {α : Type} {f : State → α → State} (hf : ∀ t a, s.Linked t fs → s.Linked (f t a) fs) (l : List α)
    (h : s.Linked t fs) : s.Linked (l.foldl f t) fs := by
  induction l generalizing t with
  | nil => exact h
  | cons a l ih => exact ih (hf t a h)

theorem setNet (h : s.Linked t fs) (n : Net) : s.Linked { t with net := n } fs := ⟨h.rest, h.regs⟩

theorem wri (h : s.Linked t fs) {f : F} (hf : f ∈ fs) (k v : Nat) : s.Linked (t.wri f k v) fs :=
  ⟨h.rest, fun g j hg => (rdi_wri_other (.inl fun (e : g = f) => hg (e ▸ hf))).trans (h.regs g j hg)⟩

theorem updLink (h : s.Linked t fs) (k : Nat) (g : Link → Link) : s.Linked (t.updLink k g) fs := h.setNet _

theorem putOut (h : s.Linked t fs) (p : Nat) (x : PortOut) : s.Linked (t.putOut p x) fs := h.setNet _

theorem transmit (h : s.Linked t fs) (p k : Nat) (o : OutFrame) : s.Linked (t.transmit p k o) fs :=
  (h.updLink _ _).putOut _ _

theorem makeRoom (h : s.Linked t fs) {p k : Nat} (hroom : t.makeRoom p k = some u) : s.Linked u fs := by
  unfold State.makeRoom at hroom
  split at hroom
  · dsimp only at hroom
    split at hroom
    · exact Option.some.inj hroom ▸ h.setNet _
    · split at hroom
      · exact absurd hroom (by simp)
      · exact Option.some.inj hroom ▸ h.setNet _
  · exact Option.some.inj hroom ▸ h

theorem putOnLink (h : s.Linked t fs) (p k : Nat) (o : OutFrame) : s.Linked (t.putOnLink p k o) fs := by
  unfold State.putOnLink
  split
  · exact h.setNet _
  · next u hroom =>
    dsimp only
    split
    · exact (h.makeRoom hroom).transmit _ _ _
    · exact (h.makeRoom hroom).updLink _ _

theorem drainLink (p k : Nat) (l : List OutFrame) (h : s.Linked t fs) : s.Linked (Machine.drainLink p k l t) fs := by
  induction l generalizing t with
  | nil => exact h
  | cons o r ih => exact ih (h.putOnLink p k o)

theorem retryPeers (h : s.Linked t fs) (p : Nat) : s.Linked (t.retryPeers p) fs :=
  h.ite (foldl (fun _ x h => h.putOnLink p _ x.2) _ (h.setNet _))

theorem kick (h : s.Linked t fs) (p k : Nat) : s.Linked (t.kick p k) fs :=
  (drainLink p k _ (h.updLink _ _)).retryPeers p

theorem resend (h : s.Linked t fs) (hf : F.WN_PORT_ERR_REPLAY ∈ fs) (p k : Nat) : s.Linked (t.resend p k) fs :=
  foldl (fun _ _ h => h.putOut _ _) _ ((h.wri hf p _).updLink _ _)

theorem mem_eq (h : s.Linked t fs) : t.mem = s.mem := (congrArg State.mem h.rest :)

end State.Linked

/-! ### Commands on a port (R234 to R238) -/

/-- A port's STATE and REASON written. -/
theorem setPort_regs (s : State) (p st reason : Nat) :
    (s.setPort p st reason).regs = ((s.wri .WN_PORT_STAT_STATE p st).wri .WN_PORT_STAT_REASON p reason).regs ∧
      (s.setPort p st reason).mem = s.mem := by
  unfold State.setPort
  dsimp only
  split
  · exact ⟨rfl, rfl⟩
  · exact msix_shows _ 4

theorem setPort_shows (s : State) (p : Nat) {st reason : Nat} (hst : st < 8) (hreason : reason < 8) :
    (s.setPort p st reason).portState p = st ∧ (s.setPort p st reason).rdi .WN_PORT_STAT_REASON p = reason := by
  have hrdi : ∀ f k, (s.setPort p st reason).rdi f k =
      ((s.wri .WN_PORT_STAT_STATE p st).wri .WN_PORT_STAT_REASON p reason).rdi f k := fun f k => by
    rw [State.rdi, (setPort_regs s p st reason).1]
    rfl
  rw [State.portState, hrdi, hrdi]
  exact ⟨(rdi_wri_other (.inl (by decide))).trans (rdi_wri_same.trans (Nat.mod_eq_of_lt hst)),
    rdi_wri_same.trans (Nat.mod_eq_of_lt hreason)⟩

theorem setPort_other (s : State) (p st reason : Nat) {f : F} (hf : f ∉ portFields) (k : Nat) :
    (s.setPort p st reason).rdi f k = s.rdi f k := (setPort_logged s p st reason).regs f k hf

/-- The first check of R237 that fails, for a module that is there and identified. -/
theorem cmisReason_of_identified {s : State} {p : Nat} {c : Cmis} (hthere : c.present = true) (hid : c.identityOk = true) :
    s.cmisReason p c = if ¬ (c.lanes = 4 ∧ (if s.fullService then c.fullRate else c.halfRate) = true) then 3
      else if (if c.passive then 1 else c.power) ≤ s.rdi .WN_PORT_BUDGET_BUDGET p then 0 else 4 := by
  unfold State.cmisReason
  rw [if_neg (by simp [hthere]), if_neg (by simp [hid])]
  have hrate : (c.lanes ≠ 4 ∨ ¬ (if s.fullService then c.fullRate else c.halfRate) = true) ↔
      ¬ (c.lanes = 4 ∧ (if s.fullService then c.fullRate else c.halfRate) = true) := by tauto
  have hneed : (if c.passive then decide (1 ≤ s.rdi .WN_PORT_BUDGET_BUDGET p)
      else decide (c.power ≤ s.rdi .WN_PORT_BUDGET_BUDGET p)) =
        decide ((if c.passive then 1 else c.power) ≤ s.rdi .WN_PORT_BUDGET_BUDGET p) := by
    cases c.passive <;> rfl
  rw [hneed, if_congr hrate rfl rfl]
  simp only [decide_eq_true_eq]

/-- The advertised power of a module that is there and identified, noted. -/
def State.powerNoted (s : State) (p : Nat) (c : Cmis) : State :=
  if c.present && c.identityOk then s.wri .WN_PORT_BUDGET_MODULE_PWR p c.power else s

theorem powerNoted_of_identified {c : Cmis} (hthere : c.present = true) (hid : c.identityOk = true) (s : State) (p : Nat) :
    s.powerNoted p c = s.wri .WN_PORT_BUDGET_MODULE_PWR p c.power := by
  rw [State.powerNoted, if_pos (by rw [hthere, hid]; rfl)]

theorem powerNoted_reason {c : Cmis} (hthere : c.present = true) (hid : c.identityOk = true) (s : State) (p : Nat) :
    (s.powerNoted p c).cmisReason p c = s.cmisReason p c := by
  have hbudget : (s.wri .WN_PORT_BUDGET_MODULE_PWR p c.power).rdi .WN_PORT_BUDGET_BUDGET p =
      s.rdi .WN_PORT_BUDGET_BUDGET p := rdi_wri_other (.inl (by decide))
  have hfull : (s.wri .WN_PORT_BUDGET_MODULE_PWR p c.power).fullService = s.fullService :=
    congrArg (· == 3) (rdi_wri_other (.inl (by decide)))
  rw [powerNoted_of_identified hthere hid, cmisReason_of_identified hthere hid, cmisReason_of_identified hthere hid, hbudget,
    hfull]

theorem portQualify_run {s : State} {p : Fin 16} {c : Cmis} (hpower : c.power < 4096) (hfw : s.fwUp = true)
    (hst : s.portState p = 1) : exec (.portQualify p c) s = .next (if (s.powerNoted p c).cmisReason p c = 0 then
        (s.powerNoted p c).setPort p 2 0 else (s.powerNoted p c).setPort p 5 ((s.powerNoted p c).cmisReason p c)) :=
  (if_pos hpower).trans (congrArg Host.Outcome.next ((if_pos hfw).trans (if_pos hst)))

/-- A port refused with a reason. -/
theorem portQualify_refuses {s : State} {p : Fin 16} {c : Cmis} {r : Nat} (hpower : c.power < 4096) (hfw : s.fwUp = true)
    (hst : s.portState p = 1) (hr : (s.powerNoted p c).cmisReason p c = r) (h0 : r ≠ 0) (h8 : r < 8) :
    ∃ u, exec (.portQualify p c) s = .next u ∧ u.portState p = 5 ∧ u.rdi .WN_PORT_STAT_REASON p = r ∧
      u.rdi .WN_PORT_BUDGET_MODULE_PWR p = (s.powerNoted p c).rdi .WN_PORT_BUDGET_MODULE_PWR p := by
  obtain ⟨hstate, hreason⟩ := setPort_shows (s.powerNoted p c) p (st := 5) (by decide) h8
  refine ⟨_, (portQualify_run hpower hfw hst).trans (congrArg Host.Outcome.next (if_neg (hr ▸ h0))), ?_⟩
  rw [hr]
  exact ⟨hstate, hreason, setPort_other _ _ _ _ (by decide) _⟩

/-- What the links of port `p` hold, sent once the port is UP. -/
def State.sendHeld (s : State) (p : Nat) : State :=
  (s.linksOf p).foldl (fun s k => (if (s.link k).unacked.isEmpty then s else s.resend p k).kick p k) s

theorem sendHeld_linked (s : State) (p : Nat) : s.Linked (s.sendHeld p) [.WN_PORT_ERR_REPLAY] :=
  .foldl (fun _ k h => (State.Linked.ite h (h.resend (by decide) p k)).kick p k) _ (.refl s _)

theorem comeUp_eq (s : State) (p : Nat) :
    s.comeUp p = ((s.setPort p 3 0).wri .WN_PORT_STAT_RATE p (b2n s.fullService)).sendHeld p := rfl

/-- A port that comes UP, at the rate of the service. -/
theorem comeUp_shows (s : State) (p : Nat) :
    (s.comeUp p).portState p = 3 ∧ (s.comeUp p).rdi .WN_PORT_STAT_REASON p = 0 ∧
      (s.comeUp p).rdi .WN_PORT_STAT_RATE p = b2n s.fullService ∧ (s.comeUp p).mem = s.mem := by
  obtain ⟨hstate, hreason⟩ := setPort_shows s p (st := 3) (reason := 0) (by decide) (by decide)
  have hmem := (setPort_regs s p 3 0).2
  have hsent := sendHeld_linked ((s.setPort p 3 0).wri .WN_PORT_STAT_RATE p (b2n s.fullService)) p
  have hrate : b2n s.fullService < 2 ^ F.WN_PORT_STAT_RATE.info.width := by cases s.fullService <;> decide
  rw [comeUp_eq]
  refine ⟨?_, ?_, ?_, hsent.mem_eq.trans hmem⟩
  · exact (hsent.regs _ p (by decide)).trans ((rdi_wri_other (.inl (by decide))).trans hstate)
  · exact (hsent.regs _ p (by decide)).trans ((rdi_wri_other (.inl (by decide))).trans hreason)
  · exact (hsent.regs _ p (by decide)).trans (rdi_wri_same.trans (Nat.mod_eq_of_lt hrate))

/-- A command of the host on a port whose domain is off, or without a link, does nothing. -/
theorem byHost_of_portOff {s : State} {p : Nat} (h : s.portOn p = false ∨ s.hostUp = false) (k : State → State) :
    s.byHost (fun s => if s.portOn p then k s else s) = s := by
  unfold State.byHost
  split
  · next hup => exact if_neg (by rcases h with h | h <;> simp_all)
  · rfl

theorem byHost_of_portOn {s : State} {p : Nat} (hup : s.hostUp = true) (hon : s.portOn p = true) (k : State → State) :
    s.byHost (fun s => if s.portOn p then k s else s) = k s := (byHost_of_up hup _).trans (if_pos hon)

/-- A framing taken on. -/
theorem setFraming_shows (s : State) (p : Nat) {m : Nat} (hm : m < 2) :
    (s.setFraming p m).rdi .WN_PORT_CTL_FRAMING p = m ∧
      (s.linksOf p = [] → s.onlyRegs { s.setFraming p m with net := s.net } [(.WN_PORT_CTL_FRAMING, p)]) := by
  unfold State.setFraming
  split
  · next h => exact ⟨h, fun _ => .refl s _⟩
  · refine ⟨rdi_wri_same.trans (Nat.mod_eq_of_lt hm), fun hlinks => ?_⟩
    rw [hlinks]
    exact (State.onlyRegs.refl s _).wri (by simp) m

/-- EN of a port says nothing of whether the port is dead. -/
theorem portDead_en (s : State) (p v : Nat) : (s.wri .WN_PORT_CTL_EN p v).portDead p = s.portDead p := by
  have hbay : (s.wri .WN_PORT_CTL_EN p v).bayFaulted (portBay p) = s.bayFaulted (portBay p) :=
    congrArg (fun w => bit w (portBay p)) (rdi_wri_other (.inl (by decide)))
  have hfatal : (s.wri .WN_PORT_CTL_EN p v).fatal = s.fatal :=
    congrArg (fun w => decide (4 ≤ w)) (rdi_wri_other (.inl (by decide)))
  rw [State.portDead, hbay, hfatal, State.portDead]

/-- Settles O53: each command through `setPort` and its equation. -/
theorem portCommands : Obligations.PortCommands := by
  refine ⟨fun p s => ⟨fun hup hon => ⟨fun hlive hst => ?enable, fun hst => ?enableOnly, fun hlive => ?disable,
    fun hdead => ?disableOnly⟩, fun c hpower hfw hst suits hsuits => ⟨fun hgone => ?absent, fun hthere hid => ?unknown,
      fun hthere hid hno => ?unsuited, fun hthere hid hyes need hneed => ⟨fun habove => ?above, fun hin => ?trains⟩⟩,
    fun c hpower hst => ?idle, fun hfw => ⟨fun htrains hclock => ?up, fun hno => ?notUp, fun htrains => ?fails,
      fun hno => ?noFail, fun hfull hst hrate hnone => ?retrains, fun hno => ?noRetrain⟩, fun hst => ?removed,
    fun hst => ?removedDown, fun hoff => ⟨?offEnable, ?offDisable, fun v hv => ?offBudget, fun m => ?offFraming, ?offWake⟩⟩,
    fun p s hup hon => ⟨fun v n hv hn => ⟨fun hle => ?budget, fun hlt => ?budgetHigh⟩, fun m => ⟨fun hen hmodes => ?framing,
      fun hen hmodes hfree => ?framingLater, fun hbusy => ?framingBusy⟩, fun hst => ?wake, fun h0 h4 => ?noWake⟩⟩
  case enable =>
    have hrun : exec (.portEnable p) s = .next ((s.wri .WN_PORT_CTL_EN p 1).setPort p 1 0) := by
      have hmay : (s.portState p = 0 ∨ s.portState p = 4 ∨ s.portState p = 5) ∧
          ¬ (s.wri .WN_PORT_CTL_EN p 1).portDead p = true := ⟨hst, by simp [portDead_en, hlive]⟩
      exact congrArg Host.Outcome.next ((byHost_of_portOn hup hon _).trans (if_pos hmay))
    obtain ⟨hstate, hreason⟩ := setPort_shows (s.wri .WN_PORT_CTL_EN p 1) p (st := 1) (reason := 0) (by decide) (by decide)
    obtain ⟨hregs, hmem⟩ := setPort_regs (s.wri .WN_PORT_CTL_EN p 1) p 1 0
    exact ⟨_, hrun, hstate, hreason, (setPort_other _ _ _ _ (by decide) _).trans rdi_wri_same, hregs, hmem⟩
  case enableOnly =>
    have hrun : exec (.portEnable p) s = .next (s.wri .WN_PORT_CTL_EN p 1) := by
      refine congrArg Host.Outcome.next ((byHost_of_portOn hup hon _).trans (if_neg ?_))
      rintro ⟨h, hdead⟩
      rcases hst with hd | hst
      · exact hdead ((portDead_en s p 1).trans hd)
      · omega
    exact ⟨_, hrun, wri_shows s (by decide) p⟩
  case disable =>
    have hrun : exec (.portDisable p) s = .next ((s.wri .WN_PORT_CTL_EN p 0).setPort p 0 0) :=
      congrArg Host.Outcome.next ((byHost_of_portOn hup hon _).trans (if_neg (by simp [portDead_en, hlive])))
    obtain ⟨hstate, hreason⟩ := setPort_shows (s.wri .WN_PORT_CTL_EN p 0) p (st := 0) (reason := 0) (by decide) (by decide)
    exact ⟨_, hrun, hstate, (setPort_other _ _ _ _ (by decide) _).trans rdi_wri_same, hreason, (setPort_regs _ _ _ _).2⟩
  case disableOnly =>
    have hrun : exec (.portDisable p) s = .next (s.wri .WN_PORT_CTL_EN p 0) :=
      congrArg Host.Outcome.next ((byHost_of_portOn hup hon _).trans (if_pos ((portDead_en s p 0).trans hdead)))
    exact ⟨_, hrun, wri_shows s (by decide) p⟩
  case absent =>
    obtain ⟨u, hu, hstate, hreason, -⟩ := portQualify_refuses hpower hfw hst (r := 1) (by simp [State.cmisReason, hgone])
      (by decide) (by decide)
    exact ⟨u, hu, hstate, hreason⟩
  case unknown =>
    obtain ⟨u, hu, hstate, hreason, -⟩ := portQualify_refuses hpower hfw hst (r := 2)
      (by simp [State.cmisReason, hthere, hid]) (by decide) (by decide)
    exact ⟨u, hu, hstate, hreason⟩
  case unsuited =>
    have hr : (s.powerNoted p c).cmisReason p c = 3 := by
      rw [powerNoted_reason hthere hid, cmisReason_of_identified hthere hid, if_pos (hsuits ▸ hno)]
    obtain ⟨u, hu, hstate, hreason, hnoted⟩ := portQualify_refuses hpower hfw hst hr (by decide) (by decide)
    rw [powerNoted_of_identified hthere hid] at hnoted
    exact ⟨u, hu, hstate, hreason, hnoted.trans (rdi_wri_same.trans (Nat.mod_eq_of_lt hpower))⟩
  case above =>
    have hr : (s.powerNoted p c).cmisReason p c = 4 := by
      rw [powerNoted_reason hthere hid, cmisReason_of_identified hthere hid, if_neg (not_not.2 (hsuits ▸ hyes)), ← hneed,
        if_neg (by omega)]
    obtain ⟨u, hu, hstate, hreason, hnoted⟩ := portQualify_refuses hpower hfw hst hr (by decide) (by decide)
    rw [powerNoted_of_identified hthere hid] at hnoted
    exact ⟨u, hu, hstate, hreason, hnoted.trans (rdi_wri_same.trans (Nat.mod_eq_of_lt hpower))⟩
  case trains =>
    have hr : (s.powerNoted p c).cmisReason p c = 0 := by
      rw [powerNoted_reason hthere hid, cmisReason_of_identified hthere hid, if_neg (not_not.2 (hsuits ▸ hyes)), ← hneed,
        if_pos hin]
    obtain ⟨hstate, hreason⟩ := setPort_shows (s.powerNoted p c) p (st := 2) (reason := 0) (by decide) (by decide)
    have hmem := (setPort_regs (s.powerNoted p c) p 2 0).2
    have hnoted := setPort_other (s.powerNoted p c) p 2 0 (f := .WN_PORT_BUDGET_MODULE_PWR) (by decide) p
    refine ⟨_, (portQualify_run hpower hfw hst).trans (congrArg Host.Outcome.next (if_pos hr)), hstate, hreason, ?_, ?_⟩
    · rw [hnoted, powerNoted_of_identified hthere hid]
      exact rdi_wri_same.trans (Nat.mod_eq_of_lt hpower)
    · rw [hmem, powerNoted_of_identified hthere hid]
      rfl
  case idle =>
    refine (if_pos hpower).trans (congrArg Host.Outcome.next ?_)
    unfold State.byFw
    split
    · exact if_neg hst
    · rfl
  case up =>
    have hrun : exec (.portUp p) s = .next (s.comeUp p) :=
      congrArg Host.Outcome.next ((if_pos hfw).trans (if_pos (by rw [htrains, hclock]; rfl)))
    exact ⟨_, hrun, comeUp_shows s p⟩
  case notUp =>
    refine congrArg Host.Outcome.next ((if_pos hfw).trans (if_neg ?_))
    rcases hno with h | h <;> simp [h]
  case fails =>
    have hrun : exec (.trainFail p) s = .next (s.setPort p 4 5) :=
      congrArg Host.Outcome.next ((if_pos hfw).trans (if_pos htrains))
    obtain ⟨hstate, hreason⟩ := setPort_shows s p (st := 4) (reason := 5) (by decide) (by decide)
    exact ⟨_, hrun, hstate, hreason, (setPort_regs s p 4 5).2⟩
  case noFail => exact congrArg Host.Outcome.next ((if_pos hfw).trans (if_neg (by simp [hno])))
  case retrains =>
    have hnone' : ((List.range 16).any s.retraining) = false :=
      List.any_eq_false.2 fun j hj => by simp [hnone j (List.mem_range.1 hj)]
    have hrun : exec (.portRetrain p) s = .next (s.setPort p 4 0) := by
      refine congrArg Host.Outcome.next ((if_pos hfw).trans (if_pos ?_))
      rw [hfull, hst, hrate, hnone']
      rfl
    obtain ⟨hstate, hreason⟩ := setPort_shows s p (st := 4) (reason := 0) (by decide) (by decide)
    exact ⟨_, hrun, hstate, hreason, (setPort_regs s p 4 0).2⟩
  case noRetrain =>
    refine congrArg Host.Outcome.next ((if_pos hfw).trans (if_neg ?_))
    rcases hno with h | h | h | ⟨j, hj, h⟩
    · simp [h]
    · simp [h]
    · simp [h]
    · have hany : ((List.range 16).any s.retraining) = true := List.any_eq_true.2 ⟨j, List.mem_range.2 hj, h⟩
      simp [hany]
  case removed =>
    have hrun : exec (.pluggableRemoved p) s = .next ((s.wri .WN_PORT_BUDGET_MODULE_PWR p 0).setPort p 4 1) :=
      congrArg Host.Outcome.next (if_pos ((rdi_wri_other (.inl (by decide))).trans hst))
    obtain ⟨hstate, hreason⟩ := setPort_shows (s.wri .WN_PORT_BUDGET_MODULE_PWR p 0) p (st := 4) (reason := 1) (by decide)
      (by decide)
    exact ⟨_, hrun, hstate, hreason, (setPort_other _ _ _ _ (by decide) _).trans rdi_wri_same, (setPort_regs _ _ _ _).2⟩
  case removedDown =>
    have hst' : ¬ (s.wri .WN_PORT_BUDGET_MODULE_PWR p 0).portState p = 3 := fun h =>
      hst ((rdi_wri_other (.inl (by decide))).symm.trans h)
    exact ⟨_, congrArg Host.Outcome.next (if_neg hst'), wri_shows s (by decide) p⟩
  case offEnable => exact congrArg Host.Outcome.next (byHost_of_portOff hoff _)
  case offDisable => exact congrArg Host.Outcome.next (byHost_of_portOff hoff _)
  case offBudget => exact (if_pos hv).trans (congrArg Host.Outcome.next (byHost_of_portOff hoff _))
  case offFraming => exact congrArg Host.Outcome.next (byHost_of_portOff hoff _)
  case offWake =>
    refine congrArg Host.Outcome.next ?_
    unfold State.byHost
    split
    · next hup =>
      refine if_neg ?_
      rcases hoff with h | h <;> simp_all
    · rfl
  case budget =>
    subst hn
    have hle' : ¬ s.loadedBudget p < bits v 0 12 := by simpa [bits] using hle
    have hn : bits v 0 12 = v % 4096 := by simp [bits]
    have hpower : (s.wri .WN_PORT_BUDGET_BUDGET p (bits v 0 12)).rdi .WN_PORT_BUDGET_MODULE_PWR p =
        s.rdi .WN_PORT_BUDGET_MODULE_PWR p := rdi_wri_other (.inl (by decide))
    have hbudget : (s.wri .WN_PORT_BUDGET_BUDGET p (bits v 0 12)).rdi .WN_PORT_BUDGET_BUDGET p = v % 4096 := by
      refine rdi_wri_same.trans ?_
      rw [hn]
      exact Nat.mod_eq_of_lt (Nat.mod_lt _ (by decide))
    have hframe := (State.onlyRegs.refl s [(F.WN_PORT_BUDGET_BUDGET, p.val), (.WN_PORT_STAT_OVER_BUDGET, p.val)]).wri
      (f := .WN_PORT_BUDGET_BUDGET) (i := p.val) (by simp) (bits v 0 12)
    have hrun : exec (.portBudgetWrite p v) s = .next
        (if bits v 0 12 < (s.wri .WN_PORT_BUDGET_BUDGET p (bits v 0 12)).rdi .WN_PORT_BUDGET_MODULE_PWR p then
          (s.wri .WN_PORT_BUDGET_BUDGET p (bits v 0 12)).wri .WN_PORT_STAT_OVER_BUDGET p 1
        else s.wri .WN_PORT_BUDGET_BUDGET p (bits v 0 12)) :=
      (if_pos hv).trans (congrArg Host.Outcome.next ((byHost_of_portOn hup hon _).trans (if_neg hle')))
    refine ⟨_, hrun, ?_⟩
    rw [hpower, hn]
    rw [hn] at hbudget hframe
    split
    · exact ⟨(rdi_wri_other (.inl (by decide))).trans hbudget, rdi_wri_same, hframe.wri (by simp) 1⟩
    · exact ⟨hbudget, rdi_wri_other (.inl (by decide)), hframe⟩
  case budgetHigh =>
    have hlt' : s.loadedBudget p < bits v 0 12 := by simpa [bits, ← hn] using hlt
    have hrun : exec (.portBudgetWrite p v) s = .next (s.wr .WN_STAT_CFG_REFUSED 1) :=
      (if_pos hv).trans (congrArg Host.Outcome.next ((byHost_of_portOn hup hon _).trans (if_pos hlt')))
    exact ⟨_, hrun, wri_shows s (by decide) 0⟩
  case framing =>
    have hfree : ¬ (s.flag .WN_PORT_CTL_EN p = true ∨ s.modeBusy (.framing p 0) = true) := by
      simp [hen, State.modeBusy, hmodes]
    have hempty : s.modes.isEmpty = true := by rw [hmodes]; rfl
    have hrun : exec (.framingWrite p m) s = .next (s.setFraming p m) :=
      congrArg Host.Outcome.next ((byHost_of_portOn hup hon _).trans ((if_neg hfree).trans (if_pos hempty)))
    exact ⟨_, hrun, setFraming_shows s p m.isLt⟩
  case framingLater =>
    have hfree' : ¬ (s.flag .WN_PORT_CTL_EN p = true ∨ s.modeBusy (.framing p 0) = true) := by simp [hen, hfree]
    exact congrArg Host.Outcome.next ((byHost_of_portOn hup hon _).trans ((if_neg hfree').trans
      (if_neg (by simp [modes_isEmpty hmodes]))))
  case framingBusy =>
    have hrun : exec (.framingWrite p m) s = .next (s.wri .WN_PORT_STAT_BUSY p 1) :=
      congrArg Host.Outcome.next ((byHost_of_portOn hup hon _).trans (if_pos hbusy))
    exact ⟨_, hrun, wri_shows s (by decide) p⟩
  case wake =>
    have hrun : exec (.wakeSend p) s = .next (s.putOut p .wake) := by
      refine congrArg Host.Outcome.next ((byHost_of_up hup _).trans (if_pos ?_))
      rcases hst with h | h <;> simp [hon, h]
    exact ⟨_, hrun, rfl, rfl⟩
  case noWake =>
    refine congrArg Host.Outcome.next ((byHost_of_up hup _).trans (if_neg ?_))
    simp [h0, h4]

end Sys2Proof.Machine

/-! The mailbox (O55). -/

namespace Sys2Proof.Machine

/-- The register fields an answer of the mailbox writes. -/
def mbxFields : List F := [.MC_MBX_STAT_STATUS, .MC_MBX_STAT_TAG, .MC_MBX_CTL_GO]

/-- A command that no longer waits. -/
def State.mbxTaken (s : State) : State := s.updMbx fun m => { m with waiting := none }

theorem answerMbx_logged (s : State) (tag status : Nat) : s.mbxTaken.Logged (s.answerMbx tag status) mbxFields :=
  ((((State.Logged.refl s.mbxTaken mbxFields).wri (f := .MC_MBX_STAT_STATUS) (by decide) 0 status).wri
    (f := .MC_MBX_STAT_TAG) (by decide) 0 tag).wri (f := .MC_MBX_CTL_GO) (by decide) 0 0).msix 2

theorem answerMbx_shows (s : State) {tag status : Nat} (ht : tag < 256) (hs : status < 8) :
    (s.answerMbx tag status).rd .MC_MBX_STAT_STATUS = status ∧ (s.answerMbx tag status).rd .MC_MBX_STAT_TAG = tag ∧
      (s.answerMbx tag status).rd .MC_MBX_CTL_GO = 0 ∧
      (s.answerMbx tag status).mailbox = { s.mailbox with waiting := none } ∧ (s.answerMbx tag status).mem = s.mem := by
  have hlog := answerMbx_logged s tag status
  refine ⟨?_, ?_, ?_, (congrArg State.mailbox hlog.rest :), hlog.mem_eq⟩
  · refine (msix_rdi _ 2 _ 0).trans ((rdi_wri_other (.inl (by decide))).trans ((rdi_wri_other (.inl (by decide))).trans ?_))
    exact rdi_wri_same.trans (Nat.mod_eq_of_lt hs)
  · refine (msix_rdi _ 2 _ 0).trans ((rdi_wri_other (.inl (by decide))).trans ?_)
    exact rdi_wri_same.trans (Nat.mod_eq_of_lt ht)
  · exact (msix_rdi _ 2 _ 0).trans rdi_wri_same

/-- A message, but for what goes out and what waits to. -/
theorem msix_sans (s : State) (v : Nat) (x : HostIf) (e : List Egress) :
    { s.msix v with host := x, egress := e } = { s with host := x, egress := e } := by
  unfold State.msix
  split <;> rfl

/-- An answer, but for the mailbox and what goes out. -/
theorem answerMbx_frame (s : State) (tag status : Nat) :
    s.onlyRegs { s.answerMbx tag status with mailbox := s.mailbox, host := s.host, egress := s.egress }
      [(.MC_MBX_STAT_STATUS, 0), (.MC_MBX_STAT_TAG, 0), (.MC_MBX_CTL_GO, 0)] := by
  have hset := (((State.onlyRegs.refl s [(F.MC_MBX_STAT_STATUS, 0), (.MC_MBX_STAT_TAG, 0), (.MC_MBX_CTL_GO, 0)]).wr
    (f := .MC_MBX_STAT_STATUS) (by simp) status).wr (f := .MC_MBX_STAT_TAG) (by simp) tag).wr (f := .MC_MBX_CTL_GO)
    (by simp) 0
  have hout := congrArg (fun x : State => { x with mailbox := s.mailbox }) (msix_sans
    (((s.mbxTaken.wr .MC_MBX_STAT_STATUS status).wr .MC_MBX_STAT_TAG tag).wr .MC_MBX_CTL_GO 0) 2 s.host s.egress)
  exact Eq.mpr (congrArg (s.onlyRegs · _) hout) hset

/-- The seven long commands are one answer by firmware. -/
theorem longAnswer_run {s : State} {k : Instr} {op : Nat} (hop : (k, op) ∈ [(Instr.harden, 2),
    (.retrainStack, 3), (.retrainPort, 4), (.calibrate, 5), (.raiseSvn, 6), (.revokeKey, 7), (.rereadFru, 8)]) :
    exec k s = .next (s.mbxLong op) := by
  simp only [List.mem_cons, Prod.mk.injEq, List.not_mem_nil, or_false] at hop
  rcases hop with ⟨rfl, rfl⟩ | ⟨rfl, rfl⟩ | ⟨rfl, rfl⟩ | ⟨rfl, rfl⟩ | ⟨rfl, rfl⟩ | ⟨rfl, rfl⟩ | ⟨rfl, rfl⟩ <;> rfl

/-- Firmware takes the waiting command only under its own opcode. -/
theorem mbxAnswer_of_op {s : State} {c : MbxCmd} {op : Nat} (hfw : s.fwUp = true) (hw : s.mailbox.waiting = some c)
    (hop : c.op = op) (k : MbxCmd → State → State) : s.mbxAnswer op k = k c s := by
  refine (if_pos hfw).trans ?_
  rw [hw]
  exact if_pos hop

theorem mbxAnswer_of_other {s : State} {c : MbxCmd} {op : Nat} (hw : s.mailbox.waiting = some c) (hop : c.op ≠ op)
    (k : MbxCmd → State → State) : s.mbxAnswer op k = s := by
  unfold State.mbxAnswer State.byFw
  split
  · dsimp only
    rw [hw]
    exact if_neg hop
  · rfl

theorem mbxAnswer_of_none {s : State} {op : Nat} (h : s.fwUp = false ∨ s.mailbox.waiting = none)
    (k : MbxCmd → State → State) : s.mbxAnswer op k = s := by
  unfold State.mbxAnswer State.byFw
  split
  · next hfw =>
    rcases h with h | h
    · simp [h] at hfw
    · dsimp only
      rw [h]
  · rfl

/-- The start of a long command writes neither memory nor the mailbox. -/
theorem mbxStart_keeps (s : State) (c : MbxCmd) : (s.mbxStart c).mem = s.mem ∧ (s.mbxStart c).mailbox = s.mailbox := by
  unfold State.mbxStart
  split
  · exact ⟨rfl, rfl⟩
  · exact ⟨rfl, rfl⟩
  · split
    · exact ⟨rfl, rfl⟩
    · have hport := setPort_logged s c.arg 4 0
      exact ⟨hport.mem_eq, (congrArg State.mailbox hport.rest :)⟩
  · exact ⟨rfl, rfl⟩

/-- What the end of a calibration, a revocation or a reread writes. -/
def State.mbxEffect (s : State) (c : MbxCmd) (ok : Bool) : State :=
  if ok ∧ c.op = 5 then s.wr .PW_STAT_CALIBRATED 1
  else if ok ∧ c.op = 7 then s.wrBit .ID_FUSE_CFG_REVOKED c.arg true else s

theorem mbxEnd_of_plain {c : MbxCmd} (hop : c.op ∈ [5, 7, 8]) (s : State) (ok : Bool) :
    s.mbxEnd c ok = (s.mbxEffect c ok, 0) := by
  obtain ⟨op, tag, arg⟩ := c
  simp only [List.mem_cons, List.not_mem_nil, or_false] at hop
  rcases hop with rfl | rfl | rfl <;> cases ok <;> rfl

theorem mbxEffect_onlyRegs (s : State) (c : MbxCmd) (ok : Bool) :
    s.onlyRegs (s.mbxEffect c ok) [(.PW_STAT_CALIBRATED, 0), (.ID_FUSE_CFG_REVOKED, 0)] :=
  .ite ((State.onlyRegs.refl s _).wr (by simp) 1) (.ite ((State.onlyRegs.refl s _).wr (by simp) _) (.refl s _))

/-- A completion record queued, or lost where 64 wait. -/
def State.mbxPosted (s : State) (c : MbxCmd) (ok : Bool) : State :=
  if s.mailbox.records.length < 64 then
    s.updMbx fun m => { m with records := m.records ++ [c.op + c.tag * 2 ^ 8 + (if ok then 0 else 6) * 2 ^ 16] }
  else s.wr .MC_MBX_POP_LOST 1

theorem mbxRecord_eq (s : State) (c : MbxCmd) (ok : Bool) : s.mbxRecord c ok 0 = (s.mbxPosted c ok).msix 2 := by
  unfold State.mbxRecord State.mbxPosted
  rw [Nat.zero_mul, Nat.add_zero]

/-- The command of a TAG no longer in progress. -/
def State.mbxLeft (s : State) (tag : Nat) : State :=
  s.updMbx fun m => { m with active := m.active.eraseP fun x => x.tag == tag }

theorem mailboxDone_run {s : State} {tag : Nat} {c : MbxCmd} (htag : tag < 256) (hfw : s.fwUp = true) (hop : c.op ∈ [5, 7, 8])
    (hfind : s.mailbox.active.find? (fun c => c.tag == tag) = some c) (ok : Bool) :
    exec (.mailboxDone tag ok) s = .next (((s.mbxLeft tag).mbxEffect c ok).mbxPosted c ok |>.msix 2) := by
  show execMailboxDone tag ok s = _
  rw [execMailboxDone, if_pos htag, State.byFw, if_pos hfw, hfind]
  dsimp only
  rw [mbxEnd_of_plain hop, ← mbxRecord_eq]
  rfl

theorem mbxPosted_keeps (s : State) (c : MbxCmd) (ok : Bool) :
    (s.mbxPosted c ok).mailbox.active = s.mailbox.active ∧
      s.onlyRegs { s.mbxPosted c ok with mailbox := s.mailbox } [(.MC_MBX_POP_LOST, 0)] := by
  unfold State.mbxPosted
  split
  · exact ⟨rfl, .refl s _⟩
  · exact ⟨rfl, (State.onlyRegs.refl s _).wr (f := .MC_MBX_POP_LOST) (by simp) 1⟩

theorem mbxEffect_mailbox (s : State) (c : MbxCmd) (ok : Bool) : (s.mbxEffect c ok).mailbox = s.mailbox := by
  rw [(mbxEffect_onlyRegs s c ok).1]

theorem mbxEffect_shows (s : State) (c : MbxCmd) {ok : Bool} (hok : ok = true) :
    (c.op = 5 → (s.mbxEffect c ok).rd .PW_STAT_CALIBRATED = 1) ∧
      (c.op = 7 → c.arg ≤ 3 → (s.mbxEffect c ok).bitOf .ID_FUSE_CFG_REVOKED c.arg = true) := by
  unfold State.mbxEffect
  refine ⟨fun hop => ?_, fun hop harg => ?_⟩
  · rw [if_pos ⟨hok, hop⟩]
    exact rdi_wri_same
  · rw [if_neg (by omega), if_pos ⟨hok, hop⟩, bitOf_wrBit s (by simp [F.info]; omega), if_pos rfl]

/-- The record of a completion, or the loss of it. -/
theorem mbxPosted_records (s : State) (c : MbxCmd) (ok : Bool) :
    (s.mailbox.records.length < 64 → (s.mbxPosted c ok).mailbox.records = s.mailbox.records ++
        [c.op + c.tag * 2 ^ 8 + (if ok then 0 else 6) * 2 ^ 16] ∧
      (s.mbxPosted c ok).rd .MC_MBX_POP_LOST = s.rd .MC_MBX_POP_LOST) ∧
    (64 ≤ s.mailbox.records.length → (s.mbxPosted c ok).mailbox.records = s.mailbox.records ∧
      (s.mbxPosted c ok).rd .MC_MBX_POP_LOST = 1) := by
  unfold State.mbxPosted
  refine ⟨fun h => ?_, fun h => ?_⟩
  · rw [if_pos h]
    exact ⟨rfl, rfl⟩
  · rw [if_neg (by omega)]
    exact ⟨rfl, rdi_wri_same⟩

theorem msix_mailbox (s : State) (v : Nat) : (s.msix v).mailbox = s.mailbox := by
  unfold State.msix
  split <;> rfl

/-- The frame of a completion: what it writes and what its record does. -/
theorem done_frame (s : State) (tag : Nat) (c : MbxCmd) (ok : Bool) :
    s.onlyRegs { (((s.mbxLeft tag).mbxEffect c ok).mbxPosted c ok).msix 2 with
      mailbox := s.mailbox, host := s.host, egress := s.egress }
      [(.MC_MBX_POP_LOST, 0), (.PW_STAT_CALIBRATED, 0), (.ID_FUSE_CFG_REVOKED, 0)] := by
  obtain ⟨hrest, hregs⟩ := mbxEffect_onlyRegs (s.mbxLeft tag) c ok
  generalize (s.mbxLeft tag).mbxEffect c ok = t at hrest hregs
  obtain ⟨hrest', hregs'⟩ := (mbxPosted_keeps t c ok).2
  generalize t.mbxPosted c ok = v at hrest' hregs'
  have hv : ({ v with mailbox := s.mailbox, host := s.host, egress := s.egress } : State) = { s with regs := v.regs } := by
    have h := congrArg (fun x : State => { x with mailbox := s.mailbox, host := s.host, egress := s.egress }) hrest'
    refine h.trans ?_
    rw [hrest]
    rfl
  have hout := congrArg (fun x : State => { x with mailbox := s.mailbox }) (msix_sans v 2 s.host s.egress)
  refine Eq.mpr (congrArg (s.onlyRegs · _) (hout.trans hv)) ⟨rfl, fun f k hf => ?_⟩
  have hother := hregs f k (fun hm => hf (List.mem_cons_of_mem _ hm))
  exact (hregs' f k (fun hm => hf (by rw [List.mem_singleton.1 hm]; exact List.mem_cons_self))).trans hother

/-- Settles O55: the answers through `answerMbx`, the completions through `mbxEffect` and `mbxPosted`. -/
theorem mailboxCommands : Obligations.MailboxCommands := by
  refine fun s => ⟨fun c hfw hw htag => ⟨fun hop => ?version, fun k op hk => ⟨fun hop => ?otherOp, fun hop =>
    ⟨fun harg hfree hmay => ?accepted, fun st hst hno => ?refused⟩⟩⟩, fun tag ok c htag hfw hop hfind => ?done,
    fun tag ok htag hfw hfind => ?unknown, fun hup => ?pop, fun hup => ?popDown, fun hno k hk => ?silent⟩
  case version =>
    have hrun : exec .getVersion s = .next (((s.wri .MC_MBX_RES_RESULT 0 (s.rd .MC_FW_VER_VERSION)).wri .MC_MBX_RES_RESULT 1
        s.boot.imageSvn).answerMbx c.tag 0) := congrArg Host.Outcome.next (mbxAnswer_of_op hfw hw hop _)
    obtain ⟨hstat, ht, -, hbox, hmem⟩ := answerMbx_shows ((s.wri .MC_MBX_RES_RESULT 0 (s.rd .MC_FW_VER_VERSION)).wri
      .MC_MBX_RES_RESULT 1 s.boot.imageSvn) htag (status := 0) (by decide)
    have hlog := answerMbx_logged ((s.wri .MC_MBX_RES_RESULT 0 (s.rd .MC_FW_VER_VERSION)).wri .MC_MBX_RES_RESULT 1
      s.boot.imageSvn) c.tag 0
    refine ⟨_, hrun, ?_, ?_, hstat, ht, congrArg Mailbox.waiting hbox, hmem⟩
    · exact (hlog.regs _ 0 (by decide)).trans ((rdi_wri_other (.inr (by decide))).trans rdi_wri_same)
    · exact (hlog.regs _ 1 (by decide)).trans rdi_wri_same
  case otherOp => exact (longAnswer_run hk).trans (congrArg Host.Outcome.next (mbxAnswer_of_other hw hop _))
  case accepted =>
    have hrun : exec k s = .next (((s.mbxStart c).updMbx fun m => { m with active := m.active ++ [c] }).answerMbx c.tag 1) := by
      refine (longAnswer_run hk).trans (congrArg Host.Outcome.next ((mbxAnswer_of_op hfw hw hop _).trans ?_))
      rw [if_neg (by simp [harg]), if_neg (by simp [hfree]), if_neg (by simp [hmay])]
    obtain ⟨hmem0, hbox0⟩ := mbxStart_keeps s c
    obtain ⟨hstat, ht, hgo, hbox, hmem⟩ := answerMbx_shows ((s.mbxStart c).updMbx fun m => { m with active := m.active ++ [c] })
      htag (status := 1) (by decide)
    refine ⟨_, hrun, hstat, ht, hgo, congrArg Mailbox.waiting hbox, ?_, hmem.trans hmem0⟩
    rw [hbox]
    exact congrArg (fun m : Mailbox => m.active ++ [c]) hbox0
  case refused =>
    have hst8 : st < 8 := by
      rw [hst]
      split_ifs <;> decide
    have hrun : exec k s = .next (s.answerMbx c.tag st) := by
      refine (longAnswer_run hk).trans (congrArg Host.Outcome.next ((mbxAnswer_of_op hfw hw hop _).trans ?_))
      rw [hst]
      rcases Bool.eq_false_or_eq_true c.argOk with ha | ha
      · rcases Bool.eq_false_or_eq_true (s.mailbox.active.any fun x => x.resource == c.resource) with hb | hb
        · simp [ha, hb]
        · have hmay : s.mbxMay c = false := by simpa [ha, hb] using hno
          simp [ha, hb, hmay]
      · simp [ha]
    obtain ⟨hstat, ht, -, hbox, -⟩ := answerMbx_shows s htag hst8
    exact ⟨_, hrun, hstat, ht, by rw [hbox], by rw [hbox], answerMbx_frame s _ _⟩
  case done =>
    have heffect := mbxEffect_onlyRegs (s.mbxLeft tag) c ok
    have hbox := mbxEffect_mailbox (s.mbxLeft tag) c ok
    have hshows := mbxEffect_shows (s.mbxLeft tag) c (ok := ok)
    have hlost : ((s.mbxLeft tag).mbxEffect c ok).rd .MC_MBX_POP_LOST = s.rd .MC_MBX_POP_LOST := heffect.2 _ 0 (by simp)
    refine ⟨_, mailboxDone_run htag hfw hop hfind ok, ?_⟩
    have hframe := done_frame s tag c ok
    generalize (s.mbxLeft tag).mbxEffect c ok = t at hbox hshows hlost hframe
    obtain ⟨hactive, -, hregs⟩ := mbxPosted_keeps t c ok
    have hrecords := mbxPosted_records t c ok
    have hread : ∀ f, f ≠ .MC_MBX_POP_LOST → ((t.mbxPosted c ok).msix 2).rd f = t.rd f := fun f hf =>
      (msix_rdi _ 2 f 0).trans (hregs f 0 (by simp [hf]))
    rw [hbox, hlost] at hrecords
    refine ⟨?_, fun h => ?_, fun h => ?_, fun h5 hok => ?_, fun h7 hok harg => ?_, hframe⟩
    · rw [msix_mailbox, hactive, hbox]
      rfl
    · rw [msix_mailbox, State.rd, msix_rdi]
      exact hrecords.1 h
    · rw [msix_mailbox, State.rd, msix_rdi]
      exact hrecords.2 h
    · exact (hread _ (by decide)).trans ((hshows hok).1 h5)
    · exact (congrArg (fun w => bit w c.arg) (hread _ (by decide))).trans ((hshows hok).2 h7 harg)
  case unknown =>
    show execMailboxDone tag ok s = _
    rw [execMailboxDone, if_pos htag, State.byFw, if_pos hfw, hfind]
  case pop => exact ⟨_, congrArg Host.Outcome.next (byHost_of_up hup _), rfl, rfl⟩
  case popDown => exact congrArg Host.Outcome.next (if_neg (by simp [hup]))
  case silent =>
    simp only [List.mem_cons, List.not_mem_nil, or_false] at hk
    rcases hk with rfl | rfl | rfl | rfl | rfl | rfl | rfl | rfl <;>
      exact congrArg Host.Outcome.next (mbxAnswer_of_none hno _)

end Sys2Proof.Machine

/-! PLDM and SPDM requests (O57) and the vendor commands of the sideband (O56). -/

namespace Sys2Proof.Machine

/-! ### Requests of a module with power (R335) -/

/-- A command whose operands are well formed goes on. -/
theorem guarded_next {c : Prop} [Decidable c] (hc : c) {a b : State} (h : a = b) :
    (if c then Host.Outcome.next a else .refused .illFormed) = (.next b : Host.Outcome State Fault Refusal) := (if_pos hc).trans (congrArg _ h)

section Requests

variable {s : State} (hpow : s.boot.phase ≠ .off)

include hpow

theorem bySide_of_on (k : State → State) : s.bySide k = k s := if_neg hpow

theorem pldm_of_fw (hfw : s.fwUp = true) (k : State → State) : s.pldm k = k s := (if_neg hpow).trans (if_pos hfw)

theorem pldm_not_ready (hfw : s.fwUp = false) (k : State → State) : s.pldm k = s.answer .pldm 4 [] :=
  (if_neg hpow).trans (if_neg (by simp [hfw]))

theorem spdm_of_fw (hfw : s.fwUp = true) (k : State → State) : s.spdm k = k s := (if_neg hpow).trans (if_pos hfw)

theorem spdm_not_ready (hfw : s.fwUp = false) (k : State → State) : s.spdm k = s.answer .spdm 3 [] :=
  (if_neg hpow).trans (if_neg (by simp [hfw]))

theorem spdmAgreed_of_agreed (hfw : s.fwUp = true) (h : s.sideband.negotiated = true) (k : State → State) :
    s.spdmAgreed k = k s := (spdm_of_fw hpow hfw _).trans (if_pos h)

theorem spdmAgreed_of_not (hfw : s.fwUp = true) (h : s.sideband.negotiated = false) (k : State → State) :
    s.spdmAgreed k = s.answer .spdm 4 [] := (spdm_of_fw hpow hfw _).trans (if_neg (by simp [h]))

theorem vendor_of_fw (hfw : s.fwUp = true) (k : State → State) : s.vendor k = k s := (if_neg hpow).trans (if_pos hfw)

theorem vendor_not_ready (hfw : s.fwUp = false) (k : State → State) : s.vendor k = s.answer .vendor 3 [] :=
  (if_neg hpow).trans (if_neg (by simp [hfw]))

end Requests

/-- Settles O57: each request by who may answer it, then by its own answer. -/
theorem managementRequests : Obligations.ManagementRequests := by
  refine fun s hpow => ⟨fun hfw => ⟨fun c hc => ?pldmNot, fun c hc => ?spdmNot⟩, fun hfw => ⟨?pdr, fun n hn hnum => ?reading,
    fun n hn hnum => ?noReading, fun n hn h100 h101 => ?noState, ?worst, ?state, ?poll, ?refresh, ?version, ?capabilities,
    fun a h ha hh => ?negotiate, fun n hn => ⟨fun hno c hc => ?early, fun hyes => ⟨?digests, fun o k ho ho' hk => ?certificate,
      fun o k ho ho' hk => ?beyond, ?challenge, ?count, fun j hj hj' => ?noIndex, ?all, fun j hj hj' => ?one⟩⟩⟩⟩
  case pldmNot =>
    simp only [List.mem_cons, List.not_mem_nil, or_false] at hc
    have hno := pldm_not_ready hpow hfw
    rcases hc with rfl | rfl | rfl | rfl <;> exact congrArg Host.Outcome.next (hno _)
  case spdmNot =>
    simp only [List.mem_cons, List.not_mem_nil, or_false] at hc
    have hno := spdm_not_ready hpow hfw
    have hmasks : 0x400 < 2 ^ 32 ∧ 4 < 2 ^ 32 := by decide
    have hpart : 0 < 65536 ∧ 4 < 65536 := by decide
    have hnonce : (List.replicate 32 (0 : Byte)).length = 32 := rfl
    have hindex : 1 < 256 ∧ (List.replicate 32 (0 : Byte)).length = 32 := by decide
    rcases hc with rfl | rfl | rfl | rfl | rfl | rfl | rfl
    · exact congrArg Host.Outcome.next (hno _)
    · exact congrArg Host.Outcome.next (hno _)
    · exact guarded_next hmasks (hno _)
    · exact congrArg Host.Outcome.next (hno _)
    · exact guarded_next hpart (hno _)
    · exact guarded_next hnonce (hno _)
    · exact guarded_next hindex (hno _)
  case pdr => exact ⟨_, congrArg Host.Outcome.next (pldm_of_fw hpow hfw _), rfl, rfl⟩
  case reading =>
    have hrun : exec (.getSensorReading n) s = .next (s.answer .pldm 0
        (match Tbl.find s.sideband.sensors n with | none => [] | some v => leBytes 8 v)) := by
      refine (if_pos hn).trans (congrArg Host.Outcome.next ((pldm_of_fw hpow hfw _).trans ((if_pos hnum).trans ?_)))
      cases Tbl.find s.sideband.sensors n <;> rfl
    exact ⟨_, hrun, rfl, rfl⟩
  case noReading =>
    exact (if_pos hn).trans (congrArg Host.Outcome.next ((pldm_of_fw hpow hfw _).trans (if_neg (by simp [hnum]))))
  case noState =>
    exact (if_pos hn).trans (congrArg Host.Outcome.next ((pldm_of_fw hpow hfw _).trans ((if_neg h100).trans (if_neg h101))))
  case worst => exact ⟨_, congrArg Host.Outcome.next (pldm_of_fw hpow hfw _), rfl, rfl, rfl⟩
  case state => exact ⟨_, congrArg Host.Outcome.next (pldm_of_fw hpow hfw _), rfl, rfl⟩
  case poll =>
    refine ⟨_, congrArg Host.Outcome.next (pldm_of_fw hpow hfw _), ?_⟩
    rcases hevents : s.sideband.events with _ | ⟨x, r⟩
    · refine ⟨?_, rfl⟩
      exact hevents
    · exact ⟨rfl, rfl⟩
  case refresh => exact ⟨_, congrArg Host.Outcome.next (if_pos hfw), rfl, rfl⟩
  case version => exact congrArg Host.Outcome.next (spdm_of_fw hpow hfw _)
  case capabilities => exact ⟨_, congrArg Host.Outcome.next (spdm_of_fw hpow hfw _), rfl, rfl⟩
  case negotiate =>
    refine ⟨_, (if_pos ⟨ha, hh⟩).trans (congrArg Host.Outcome.next (spdm_of_fw hpow hfw _)), ?_⟩
    cases bit a 10 && bit h 2
    · exact ⟨rfl, rfl⟩
    · exact ⟨rfl, rfl⟩
  case early =>
    simp only [List.mem_cons, List.not_mem_nil, or_false] at hc
    have hno := spdmAgreed_of_not hpow hfw hno
    have hpart : 0 < 65536 ∧ 4 < 65536 := by decide
    rcases hc with rfl | rfl | rfl | rfl
    · exact congrArg Host.Outcome.next (hno _)
    · exact guarded_next hpart (hno _)
    · exact (if_pos hn).trans (congrArg Host.Outcome.next (hno _))
    · exact (if_pos ⟨by decide, hn⟩).trans (congrArg Host.Outcome.next (hno _))
  case digests => exact congrArg Host.Outcome.next (spdmAgreed_of_agreed hpow hfw hyes _)
  case certificate =>
    exact (if_pos ⟨ho', hk⟩).trans (congrArg Host.Outcome.next ((spdmAgreed_of_agreed hpow hfw hyes _).trans (if_pos ho)))
  case beyond =>
    exact (if_pos ⟨ho', hk⟩).trans (congrArg Host.Outcome.next ((spdmAgreed_of_agreed hpow hfw hyes _).trans
      (if_neg (by omega))))
  case challenge => exact (if_pos hn).trans (congrArg Host.Outcome.next (spdmAgreed_of_agreed hpow hfw hyes _))
  case count =>
    exact (if_pos ⟨by decide, hn⟩).trans (congrArg Host.Outcome.next ((spdmAgreed_of_agreed hpow hfw hyes _).trans
      (if_pos rfl)))
  case noIndex =>
    exact (if_pos ⟨by omega, hn⟩).trans (congrArg Host.Outcome.next ((spdmAgreed_of_agreed hpow hfw hyes _).trans
      ((if_neg (by omega)).trans (if_neg (by omega)))))
  case all =>
    exact ⟨_, rfl, (if_pos ⟨by decide, hn⟩).trans (congrArg Host.Outcome.next ((spdmAgreed_of_agreed hpow hfw hyes _).trans
      ((if_neg (by decide)).trans (if_pos (.inr rfl)))))⟩
  case one =>
    have h255 : ¬ j = 255 := by omega
    refine (if_pos ⟨by omega, hn⟩).trans (congrArg Host.Outcome.next ((spdmAgreed_of_agreed hpow hfw hyes _).trans
      ((if_neg (by omega)).trans ((if_pos (.inl hj')).trans ?_))))
    dsimp only
    rw [if_neg h255]

/-! ### The vendor commands (R334 to R336) -/

/-- The frame of a vendor command that answers, from that of what it does. -/
theorem vend_frame {s t : State} {l : List (F × Nat)} (h : s.onlyRegs t l) (code : Nat) :
    s.onlyRegs { t.vend code with sideband := s.sideband } l := by
  obtain ⟨hrest, hregs⟩ := h
  refine ⟨?_, hregs⟩
  show ({ t with sideband := s.sideband } : State) = _
  rw [hrest]
  rfl

theorem vend_rdi (s : State) (code : Nat) (f : F) (k : Nat) : (s.vend code).rdi f k = s.rdi f k := rfl

theorem vend_answer (s : State) (code : Nat) : (s.vend code).sideband.answer = some ⟨.vendor, code, []⟩ := rfl

theorem writeProfile_eq (s : State) (v : Nat) :
    s.writeProfile v = if v % 4 = 3 then s.wr .PW_STAT_CFG_REFUSED 1
      else if s.modeBusy (.profile (v % 4)) then (s.wr .PW_STAT_CFG_REFUSED 1).wr .PW_STAT_BUSY 1
      else s.orAfter (.profile (v % 4)) fun s => s.beginProfile (v % 4) := by
  have hbits : bits v 0 2 = v % 4 := by simp [bits]
  rw [State.writeProfile, hbits]

/-- The answer to SET_PROFILE. -/
def State.profileCode (s : State) (v : Nat) : Nat := if v % 4 = 3 then 2 else if s.modeBusy (.profile 0) then 1 else 0

theorem modeBusy_profile (s : State) (p q : Nat) : s.modeBusy (.profile p) = s.modeBusy (.profile q) :=
  congrArg s.modes.any (funext fun x => by cases x <;> rfl)

theorem modeBusy_scrub (s : State) (m n : Nat) : s.modeBusy (.scrub m) = s.modeBusy (.scrub n) :=
  congrArg s.modes.any (funext fun x => by cases x <;> rfl)

theorem setCap_run {s : State} (hpow : s.boot.phase ≠ .off) (hfw : s.fwUp = true) {v : Nat} (hv : v < 2 ^ 32) :
    exec (.setCap v) s = .next (if 900 ≤ v % 4096 ∧ v % 4096 ≤ 2800 then (s.wr .PW_CAP_WATTS (v % 4096)).vend 0
      else (s.wr .PW_STAT_CFG_REFUSED 1).vend 2) := by
  have hbits : bits v 0 12 = v % 4096 := by simp [bits]
  refine guarded_next hv ((vendor_of_fw hpow hfw _).trans ?_)
  rw [State.writeCap, hbits]
  split <;> rfl

theorem setScrub_run {s : State} (hpow : s.boot.phase ≠ .off) (hfw : s.fwUp = true) {v : Nat} (hv : v < 2 ^ 32) :
    exec (.setScrub v) s = .next ((s.askScrub (min 3 v)).vend
      (if 3 ≤ v then 2 else if s.modeBusy (.scrub 0) then 1 else 0)) :=
  guarded_next hv (vendor_of_fw hpow hfw _)

theorem setProfile_run {s : State} (hpow : s.boot.phase ≠ .off) (hfw : s.fwUp = true) {v : Nat} (hv : v < 2 ^ 32) :
    exec (.setProfile v) s = .next ((s.writeProfile v).vend (s.profileCode v)) := by
  have hbits : bits v 0 2 = v % 4 := by simp [bits]
  refine guarded_next hv ((vendor_of_fw hpow hfw _).trans ?_)
  rw [hbits]
  rfl

/-- An alert acknowledged where its bit is set. -/
def State.ackAlert (s : State) (m : Nat) (f : F) (i : Nat) : State := if bit m i then s.wr f 0 else s

theorem ackAlert_rd (s : State) (m : Nat) (f : F) (i : Nat) (g : F) :
    (s.ackAlert m f i).rd g = if g = f ∧ bit m i = true then 0 else s.rd g := by
  unfold State.ackAlert
  by_cases hb : bit m i = true
  · rw [if_pos hb]
    by_cases hg : g = f
    · rw [if_pos ⟨hg, hb⟩, hg]
      exact rdi_wri_same.trans (Nat.zero_mod _)
    · rw [if_neg fun h => hg h.1]
      exact rdi_wri_other (.inl hg)
  · rw [if_neg hb, if_neg fun h => hb h.2]

theorem ackAlert_onlyRegs {s t : State} {l : List (F × Nat)} (h : s.onlyRegs t l) {f : F} (hf : (f, 0) ∈ l) (m i : Nat) :
    s.onlyRegs (t.ackAlert m f i) l := .ite (h.wr hf 0) h

/-- The five alerts, each under its own bit (R344). -/
def State.ackAlerts (s : State) (m : Nat) : State :=
  ((((s.ackAlert m .HI_ALERT_CLKFAIL 0).ackAlert m .HI_ALERT_TRIP 1).ackAlert m .HI_ALERT_BAY 2).ackAlert m .HI_ALERT_FATAL
    3).ackAlert m .HI_ALERT_FLOOR 4

theorem ackAlerts_rd (s : State) (m : Nat) {f : F} {k : Nat} (h : (f, k) ∈ [(F.HI_ALERT_CLKFAIL, 0), (.HI_ALERT_TRIP, 1),
    (.HI_ALERT_BAY, 2), (.HI_ALERT_FATAL, 3), (.HI_ALERT_FLOOR, 4)]) :
    (s.ackAlerts m).rd f = if bit m k then 0 else s.rd f := by
  simp only [List.mem_cons, Prod.mk.injEq, List.not_mem_nil, or_false] at h
  rcases h with ⟨rfl, rfl⟩ | ⟨rfl, rfl⟩ | ⟨rfl, rfl⟩ | ⟨rfl, rfl⟩ | ⟨rfl, rfl⟩ <;>
    simp [State.ackAlerts, ackAlert_rd]

/-- Settles O56: each command by who may answer it, then by what it does and its answer. -/
theorem vendorCommands : Obligations.VendorCommands := by
  refine ⟨fun s hoff c hc => ?dead, fun s hpow => ⟨?state, fun hdorm => ?wakes, fun hdorm => ?awake, ?reset, fun k hk hne => ?badKey,
    fun e he => ⟨fun h0 h255 => ?eid, fun hbad => ?badEid⟩, fun hfw c hc => ?notReady, fun hfw => ⟨fun v p hv hp =>
      ⟨fun hp3 hmodes => ?profile, fun hp3 hmodes hfree => ?profileLater, fun hp3 hbusy => ?profileBusy, fun hp3 => ?profileBad⟩,
      fun v w hv hw => ⟨fun hlo hhi => ?cap, fun hout => ?capBad⟩, fun v hv => ⟨fun hno => ?scrubBusy,
        fun hv3 hmodes hidle => ?scrub, fun hv3 hfree hlater => ?scrubLater⟩, fun hidle => ?dormant, fun hidle => ?dormantBusy,
      fun n fn h1 h8 hmay => ?claim, fun n fn h8 hno => ?claimBad, fun n hown => ⟨?release, fun b => ?drive⟩,
      fun n b => ?read, fun n hown a ha => ?notOwner, fun m hm => ?ack⟩⟩⟩
  case dead =>
    have hside : ∀ k, s.bySide k = s := fun k => if_pos hoff
    simp only [List.mem_cons, List.not_mem_nil, or_false] at hc
    have hword : 1800 < 2 ^ 32 ∧ 1 < 2 ^ 32 ∧ 0 < 2 ^ 32 := by decide
    have hkey : 0xD1E5 < 65536 := by decide
    have heid : 8 < 256 := by decide
    rcases hc with rfl | rfl | rfl | rfl | rfl | rfl | rfl | rfl | rfl | rfl
    · exact congrArg Host.Outcome.next (hside _)
    · exact guarded_next hword.2.2 (hside _)
    · exact guarded_next hword.1 (hside _)
    · exact guarded_next hword.2.1 (hside _)
    · exact congrArg Host.Outcome.next (hside _)
    · exact congrArg Host.Outcome.next (hside _)
    · exact guarded_next hkey (hside _)
    · exact guarded_next (c := GpioAct.release.wf = true) rfl (hside _)
    · exact guarded_next hword.2.2 (hside _)
    · exact guarded_next heid (hside _)
  case state => exact ⟨_, congrArg Host.Outcome.next (bySide_of_on hpow _), rfl, rfl⟩
  case wakes =>
    have hrun : exec .sidebandWake s = .next ((s.wakeBy 3 0).vend 0) :=
      congrArg Host.Outcome.next ((bySide_of_on hpow _).trans (if_pos hdorm))
    obtain ⟨hphase, -, hdormant, hsource, -⟩ := wakeBy_records s (k := 3) (p := 0) (by decide) (by decide)
    exact ⟨_, hrun, hdormant, hphase, hsource⟩
  case awake => exact congrArg Host.Outcome.next ((bySide_of_on hpow _).trans (if_neg (by simp [hdorm])))
  case reset =>
    have hrun : exec (.softReset 0xD1E5) s = .next ((s.resetTo 4).vend 0) := by
      show execSoftReset 0xD1E5 s = _
      rw [execSoftReset, if_pos (by decide), bySide_of_on hpow, if_pos rfl]
    have hreset := resetTo_resetFrom s (c := 4) rfl
    refine ⟨_, hrun, hreset.phase, rfl, ?_⟩
    show 4 ∈ (s.resetTo 4).boot.causes
    rw [hreset.causes]
    split <;> simp
  case badKey => exact (if_pos hk).trans (congrArg Host.Outcome.next ((bySide_of_on hpow _).trans (if_neg hne)))
  case eid =>
    have hgood : ¬ (e = 0 ∨ e = 255) := by omega
    exact ⟨_, (if_pos he).trans (congrArg Host.Outcome.next ((bySide_of_on hpow _).trans (if_neg hgood))), rfl, rfl⟩
  case badEid => exact (if_pos he).trans (congrArg Host.Outcome.next ((bySide_of_on hpow _).trans (if_pos hbad)))
  case notReady =>
    have hno := vendor_not_ready hpow hfw
    simp only [List.mem_cons, List.not_mem_nil, or_false] at hc
    have hword : 1800 < 2 ^ 32 ∧ 1 < 2 ^ 32 ∧ 0 < 2 ^ 32 := by decide
    rcases hc with rfl | rfl | rfl | rfl | rfl | rfl
    · exact guarded_next hword.2.2 (hno _)
    · exact guarded_next hword.1 (hno _)
    · exact guarded_next hword.2.1 (hno _)
    · exact congrArg Host.Outcome.next (hno _)
    · exact guarded_next (c := GpioAct.release.wf = true) rfl (hno _)
    · exact guarded_next hword.2.2 (hno _)
  case profile =>
    subst hp
    have hempty : s.modes.isEmpty = true := by rw [hmodes]; rfl
    have hfree : ∀ m, s.modeBusy m = false := fun m => by simp [State.modeBusy, hmodes]
    have hne : ¬ v % 4 = 3 := by omega
    have hrun : exec (.setProfile v) s = .next ((s.beginProfile (v % 4)).vend 0) := by
      rw [setProfile_run hpow hfw hv, writeProfile_eq, State.profileCode, if_neg hne, if_neg hne, hfree, hfree,
        if_neg Bool.false_ne_true, if_neg Bool.false_ne_true, State.orAfter, if_pos hempty]
    obtain ⟨hprofile, hwatts, -⟩ := applyProfile_rd s hp3
    exact ⟨_, hrun, hprofile, hwatts, rfl, rfl⟩
  case profileLater =>
    subst hp
    have hne : ¬ v % 4 = 3 := by omega
    rw [setProfile_run hpow hfw hv, writeProfile_eq, State.profileCode, if_neg hne, if_neg hne, modeBusy_profile s _ 0, hfree,
      if_neg Bool.false_ne_true, if_neg Bool.false_ne_true, State.orAfter, if_neg (by simp [modes_isEmpty hmodes])]
    rfl
  case profileBusy =>
    subst hp
    have hrun : exec (.setProfile v) s = .next (((s.wr .PW_STAT_CFG_REFUSED 1).wr .PW_STAT_BUSY 1).vend 1) := by
      have hne : ¬ v % 4 = 3 := by omega
      rw [setProfile_run hpow hfw hv, writeProfile_eq, State.profileCode, if_neg hne, if_neg hne, modeBusy_profile s _ 0,
        if_pos hbusy, if_pos hbusy]
    exact ⟨_, hrun, (vend_rdi _ _ _ 0).trans rdi_wri_same, rfl, vend_frame (((State.onlyRegs.refl s _).wr (by simp) 1).wr
      (by simp) 1) 1⟩
  case profileBad =>
    have hp3' : v % 4 = 3 := hp.symm.trans hp3
    have hrun : exec (.setProfile v) s = .next ((s.wr .PW_STAT_CFG_REFUSED 1).vend 2) := by
      rw [setProfile_run hpow hfw hv, writeProfile_eq, State.profileCode, if_pos hp3', if_pos hp3']
    exact ⟨_, hrun, (vend_rdi _ _ _ 0).trans rdi_wri_same, rfl, vend_frame ((State.onlyRegs.refl s _).wr (by simp) 1) 2⟩
  case cap =>
    subst hw
    have hrun : exec (.setCap v) s = .next ((s.wr .PW_CAP_WATTS (v % 4096)).vend 0) := by
      rw [setCap_run hpow hfw hv, if_pos ⟨hlo, hhi⟩]
    refine ⟨_, hrun, (vend_rdi _ _ _ 0).trans (rdi_wri_same.trans ?_), rfl, vend_frame ((State.onlyRegs.refl s _).wr
      (by simp) _) 0⟩
    exact Nat.mod_eq_of_lt (Nat.mod_lt _ (by decide))
  case capBad =>
    subst hw
    have hrun : exec (.setCap v) s = .next ((s.wr .PW_STAT_CFG_REFUSED 1).vend 2) := by
      rw [setCap_run hpow hfw hv, if_neg (by omega)]
    exact ⟨_, hrun, (vend_rdi _ _ _ 0).trans rdi_wri_same, rfl, vend_frame ((State.onlyRegs.refl s _).wr (by simp) 1) 2⟩
  case scrubBusy =>
    have hrefused : min 3 v = 3 ∨ s.modeBusy (.scrub (min 3 v)) = true := hno.imp (by omega) ((modeBusy_scrub s _ 0).trans ·)
    have hrun : exec (.setScrub v) s = .next ((s.wr .GN_STAT_BUSY 1).vend (if 3 ≤ v then 2 else 1)) := by
      rw [setScrub_run hpow hfw hv, State.askScrub, if_pos hrefused]
      by_cases h3 : 3 ≤ v
      · rw [if_pos h3, if_pos h3]
      · rw [if_neg h3, if_neg h3, if_pos (hno.resolve_left h3)]
    exact ⟨_, hrun, (vend_rdi _ _ _ 0).trans rdi_wri_same, rfl, vend_frame ((State.onlyRegs.refl s _).wr (by simp) 1) _⟩
  case scrub =>
    have hmin : min 3 v = v := by omega
    have hfree : ∀ m, s.modeBusy m = false := fun m => by simp [State.modeBusy, hmodes]
    have hempty : s.modes.isEmpty = true := by rw [hmodes]; rfl
    have hrun : exec (.setScrub v) s = .next ((s.wr .GN_CFG_SCRUB v).vend 0) := by
      rw [setScrub_run hpow hfw hv, State.askScrub, hmin, if_neg (by simp [hfree]; omega), if_pos (by simp [hempty, hidle]),
        if_neg (by omega), if_neg (by simp [hfree])]
    refine ⟨_, hrun, (vend_rdi _ _ _ 0).trans (rdi_wri_same.trans ?_), rfl, vend_frame ((State.onlyRegs.refl s _).wr
      (by simp) _) 0⟩
    exact Nat.mod_eq_of_lt (Nat.lt_of_lt_of_le hv3 (by decide))
  case scrubLater =>
    have hmin : min 3 v = v := by omega
    have hwait : ¬ (s.modes.isEmpty && !s.scrubRuns) = true := by
      rcases hlater with h | h
      · simp [modes_isEmpty h]
      · simp [h]
    have hfree' : ¬ (v = 3 ∨ s.modeBusy (.scrub v) = true) := by
      rintro (h | h)
      · omega
      · exact Bool.false_ne_true (hfree.symm.trans ((modeBusy_scrub s 0 v).trans h))
    rw [setScrub_run hpow hfw hv, State.askScrub, hmin, if_neg hfree', if_neg hwait, if_neg (by omega),
      if_neg (by simp [hfree])]
    rfl
  case dormant =>
    have hrun : exec .dormant s = .next (s.goDormant.vend 0) :=
      congrArg Host.Outcome.next ((vendor_of_fw hpow hfw _).trans (if_pos hidle))
    refine ⟨_, hrun, ?_⟩
    unfold State.goDormant
    generalize s.allOff _ = u
    exact ⟨rfl, rfl⟩
  case dormantBusy =>
    have hrun : exec .dormant s = .next ((s.wr .PW_STAT_BUSY 1).vend 1) :=
      congrArg Host.Outcome.next ((vendor_of_fw hpow hfw _).trans (if_neg (by simp [hidle])))
    exact ⟨_, hrun, (vend_rdi _ _ _ 0).trans rdi_wri_same, rfl, vend_frame ((State.onlyRegs.refl s _).wr (by simp) 1) 1⟩
  case claim =>
    have hrun : exec (.gpio n (.claim fn)) s = .next (((s.setPin n 3 fn).showPin n (s.rdi .ER_GPIO_IN n)).vend 0) :=
      guarded_next (decide_eq_true h8) ((vendor_of_fw hpow hfw _).trans ((if_neg (by omega)).trans (if_pos hmay)))
    refine ⟨_, hrun, ?_, ?_, rfl, vend_frame ((((State.onlyRegs.refl s _).wri (by simp) fn).wri (by simp) _).wri (by simp) _) 0⟩
    · have hown : (if fn = 0 then 0 else 3) = 3 := if_neg (by omega)
      refine (vend_rdi _ _ _ _).trans ((rdi_wri_other (.inl (by decide))).trans (rdi_wri_same.trans ?_))
      rw [hown]
      rfl
    · refine (vend_rdi _ _ _ _).trans ((rdi_wri_other (.inl (by decide))).trans ((rdi_wri_other (.inl (by decide))).trans ?_))
      exact rdi_wri_same.trans (Nat.mod_eq_of_lt h8)
  case claimBad =>
    refine guarded_next (decide_eq_true h8) ((vendor_of_fw hpow hfw _).trans ?_)
    by_cases h0 : fn = 0
    · exact (if_pos h0).trans (by rw [if_pos h0]; rfl)
    · refine (if_neg h0).trans ((if_neg (by simp [hno.resolve_left h0])).trans ?_)
      rw [if_neg h0]
      rfl
  case release =>
    have hrun : exec (.gpio n .release) s = .next ((s.setPin n 3 0).vend 0) :=
      guarded_next (c := GpioAct.release.wf = true) rfl ((vendor_of_fw hpow hfw _).trans (if_pos hown))
    refine ⟨_, hrun, (vend_rdi _ _ _ _).trans rdi_wri_same, ?_, rfl, vend_frame (((State.onlyRegs.refl s _).wri (by simp) 0).wri
      (by simp) _) 0⟩
    exact (vend_rdi _ _ _ _).trans ((rdi_wri_other (.inl (by decide))).trans rdi_wri_same)
  case drive =>
    have hrun : exec (.gpio n (.drive b)) s = .next (((s.wri .ER_GPIO_OUT n (b2n b)).showPin n (s.rdi .ER_GPIO_IN n)).vend 0) :=
      guarded_next (c := (GpioAct.drive b).wf = true) rfl ((vendor_of_fw hpow hfw _).trans (if_pos hown))
    refine ⟨_, hrun, (vend_rdi _ _ _ _).trans ((rdi_wri_other (.inl (by decide))).trans (rdi_wri_same.trans ?_)), rfl,
      vend_frame (((State.onlyRegs.refl s _).wri (by simp) _).wri (by simp) _) 0⟩
    cases b <;> rfl
  case read =>
    have hin : (s.showPin n (b2n b)).rdi .ER_GPIO_IN n = s.pinLevel n (b2n b) % 2 := rdi_wri_same
    have hrun : exec (.gpio n (.read b)) s = .next ((s.showPin n (b2n b)).answer .vendor 0
        (leBytes 1 (s.pinLevel n (b2n b) % 2))) := by
      rw [← hin]
      exact guarded_next (c := (GpioAct.read b).wf = true) rfl (vendor_of_fw hpow hfw _)
    refine ⟨_, hrun, hin, rfl, ?_⟩
    exact vend_frame (t := s.showPin n (b2n b)) ((State.onlyRegs.refl s _).wri (by simp) _) 0
  case notOwner =>
    have hno : ¬ s.rdi .ER_GPIO_OWN n = 3 := hown
    simp only [List.mem_cons, List.not_mem_nil, or_false] at ha
    rcases ha with rfl | rfl | rfl
    · exact guarded_next (c := GpioAct.release.wf = true) rfl ((vendor_of_fw hpow hfw _).trans (if_neg hno))
    · exact guarded_next (c := (GpioAct.drive false).wf = true) rfl ((vendor_of_fw hpow hfw _).trans (if_neg hno))
    · exact guarded_next (c := (GpioAct.drive true).wf = true) rfl ((vendor_of_fw hpow hfw _).trans (if_neg hno))
  case ack =>
    have hrun : exec (.alertAck m) s = .next ((s.ackAlerts m).vend 0) := guarded_next hm (vendor_of_fw hpow hfw _)
    have hframe := ackAlert_onlyRegs (ackAlert_onlyRegs (ackAlert_onlyRegs (ackAlert_onlyRegs (ackAlert_onlyRegs
      (.refl s [(F.HI_ALERT_CLKFAIL, 0), (.HI_ALERT_TRIP, 0), (.HI_ALERT_BAY, 0), (.HI_ALERT_FATAL, 0), (.HI_ALERT_FLOOR, 0)])
      (f := .HI_ALERT_CLKFAIL) (by simp) m 0) (f := .HI_ALERT_TRIP) (by simp) m 1) (f := .HI_ALERT_BAY) (by simp) m 2)
      (f := .HI_ALERT_FATAL) (by simp) m 3) (f := .HI_ALERT_FLOOR) (by simp) m 4
    exact ⟨_, hrun, fun f k hf => (vend_rdi _ 0 f 0).trans (ackAlerts_rd s m hf), vend_frame hframe 0⟩

end Sys2Proof.Machine

/-! What a write may change where no error waits and nothing is versioned: bytes of its own places, and poison marks
(R133, R136, R164). -/

namespace Sys2Proof.Machine

/-- `t` is `s` with other bytes at most at the places of `A`, and other poison marks. -/
structure State.WroteIn (A : Nat → Prop) (s t : State) : Prop where
  rest : t = { s with mem := t.mem, poison := t.poison }
  bytes : ∀ p, ¬ A p → t.byteAt p = s.byteAt p

/-- Pieces of a run put down by `put`, where nothing is versioned. -/
def putPieces (put : State → Nat → List PByte → State) (s : State) (space z : Nat) (ps : List (Nat × List PByte)) :
    State :=
  ps.foldl (fun s p => put s (s.phys space z p.1) p.2) s

namespace State.WroteIn

variable {A B : Nat → Prop} {s t u : State}

theorem refl (A : Nat → Prop) (s : State) : s.WroteIn A s := ⟨rfl, fun _ _ => rfl⟩

theorem trans (h : s.WroteIn A t) (k : t.WroteIn A u) : s.WroteIn A u :=
  ⟨by rw [k.rest, h.rest], fun p hp => (k.bytes p hp).trans (h.bytes p hp)⟩

theorem mono (h : s.WroteIn A t) (hAB : ∀ p, A p → B p) : s.WroteIn B t :=
  ⟨h.rest, fun p hp => h.bytes p (mt (hAB p) hp)⟩

theorem regs_eq (h : s.WroteIn A t) : t.regs = s.regs := (congrArg State.regs h.rest :)
theorem flaws_eq (h : s.WroteIn A t) : t.flaws = s.flaws := (congrArg State.flaws h.rest :)
theorem queues_eq (h : s.WroteIn A t) : t.queues = s.queues := (congrArg State.queues h.rest :)
theorem rdi_eq (h : s.WroteIn A t) (f : F) (k : Nat) : t.rdi f k = s.rdi f k := by rw [State.rdi, h.regs_eq, State.rdi]

theorem phys_eq (h : s.WroteIn A t) : t.phys = s.phys := by
  funext space z a
  rw [State.phys, State.interleave, State.rd, h.rdi_eq]
  rfl

theorem vregs_eq (h : s.WroteIn A t) : t.vregs = s.vregs := by rw [h.rest]; rfl

theorem mark (s : State) (p : Nat) (b : Bool) : s.WroteIn A (s.mark p b) := ⟨rfl, fun _ _ => rfl⟩

theorem setByte (s : State) {p : Nat} (hp : A p) (b : Byte) : s.WroteIn A (s.setByte p b) :=
  ⟨rfl, fun k hk => byteAt_setByte_other _ fun (heq : k = p) => hk (heq ▸ hp)⟩

theorem setBytes (s : State) {es : List (Nat × PByte)} (h : ∀ e ∈ es, A e.1) :
    s.WroteIn A (es.foldl (fun s e => s.setByte e.1 e.2.val) s) := by
  induction es generalizing s with
  | nil => exact refl A s
  | cons e es ih =>
    obtain ⟨he, hes⟩ := List.forall_mem_cons.mp h
    exact (setByte s he _).trans (ih _ hes)

theorem writeUnit (hs : s.flaws = []) {g : Nat × List (Nat × PByte)} (h : ∀ e ∈ g.2, A e.1) :
    s.WroteIn A (s.writeUnit g) := by
  have hopen : s.WroteIn A (if g.2.length = unitSize g.1 then s.mark g.1 false
      else if s.flaws.isEmpty then s else s.sense g.1) := by
    split
    · exact mark s _ _
    · rw [hs]
      exact refl A s
  unfold State.writeUnit
  dsimp only
  generalize (if g.2.length = unitSize g.1 then s.mark g.1 false
      else if s.flaws.isEmpty then s else s.sense g.1) = v at hopen
  rw [rewritten_of_flawless (hopen.flaws_eq.trans hs)]
  split
  · exact hopen
  · split
    · exact (hopen.trans (setBytes v h)).trans (mark _ _ _)
    · exact hopen.trans (setBytes v h)

theorem writeUnits (hs : s.flaws = []) {gs : List (Nat × List (Nat × PByte))}
    (h : ∀ g ∈ gs, ∀ e ∈ g.2, A e.1) : s.WroteIn A (gs.foldl State.writeUnit s) := by
  induction gs generalizing s with
  | nil => exact refl A s
  | cons g gs ih =>
    obtain ⟨hg, hgs⟩ := List.forall_mem_cons.mp h
    have hfirst := writeUnit hs hg
    exact hfirst.trans (ih (hfirst.flaws_eq.trans hs) hgs)

theorem storePhys (hs : s.flaws = []) {p : Nat} {l : List PByte} (h : ∀ j < l.length, A (p + j)) :
    s.WroteIn A (s.storePhys p l) := by
  cases hfail : s.onFailed p with
  | true => simpa only [State.storePhys, hfail, if_true] using refl A s
  | false =>
    rw [storePhys_eq hfail]
    refine writeUnits hs fun g hg e he => ?_
    have hmem : e ∈ (groupUnits (laid id p l)).flatMap Prod.snd := List.mem_flatMap.mpr ⟨g, hg, he⟩
    rw [flatMap_groupUnits] at hmem
    obtain ⟨⟨j, hj, hplace⟩, -⟩ := mem_laid hmem
    exact hplace ▸ h j hj

theorem writePhys (hs : s.flaws = []) {p : Nat} {l : List PByte} (h : ∀ j < l.length, A (p + j)) :
    s.WroteIn A (s.writePhys p l) := by
  rw [writePhys_of_flawless hs]
  exact storePhys hs h

theorem resultPhys (hs : s.flaws = []) {p : Nat} {l : List PByte} (h : ∀ j < l.length, A (p + j)) :
    s.WroteIn A (s.resultPhys p l) := by
  unfold State.resultPhys
  rw [hs]
  split
  · exact writePhys hs h
  · exact storePhys hs h

/-- The places of the `n` addresses from `a` of a space. -/
def places (s : State) (space z a n : Nat) (p : Nat) : Prop := ∃ j < n, p = s.phys space z (a + j)

theorem putPieces {put : State → Nat → List PByte → State}
    (hput : ∀ {t : State} {p : Nat} {l : List PByte}, t.flaws = [] → (∀ j < l.length, A (p + j)) →
      t.WroteIn A (put t p l))
    (hs : s.flaws = []) (fuel : Nat) {space z a : Nat} {l : List PByte} (hA : ∀ j < l.length, A (s.phys space z (a + j))) :
    s.WroteIn A (putPieces put s space z (splitBy (cutRun (granSize space) fuel a l.length) l)) := by
  induction fuel generalizing s a l with
  | zero => exact refl A s
  | succ fuel ih =>
    by_cases hnil : l.length = 0
    · rw [cutRun, if_pos hnil]
      exact refl A s
    rw [cutRun, if_neg hnil]
    have hlen : min l.length (granSize space - a % granSize space) ≤ l.length := Nat.min_le_left ..
    have hgran : min l.length (granSize space - a % granSize space) ≤ granSize space - a % granSize space :=
      Nat.min_le_right ..
    generalize min l.length (granSize space - a % granSize space) = k at hlen hgran ⊢
    have hfirst : s.WroteIn A (put s (s.phys space z a) (l.take k)) := hput hs fun j hj => by
      have hj' : j < k ∧ j < l.length := by
        rw [List.length_take] at hj
        omega
      rw [← phys_add s (by omega)]
      exact hA j hj'.2
    dsimp only
    rw [← List.length_drop]
    refine hfirst.trans (ih (hfirst.flaws_eq.trans hs) fun j hj => ?_)
    rw [List.length_drop] at hj
    rw [hfirst.phys_eq, Nat.add_assoc]
    exact hA (k + j) (by omega)

theorem writeVia {put : State → Nat → List PByte → State}
    (hput : ∀ {t : State} {p : Nat} {l : List PByte}, t.flaws = [] → (∀ j < l.length, A (p + j)) →
      t.WroteIn A (put t p l))
    (hv : s.vregs = []) (hs : s.flaws = []) {space z a : Nat} (view : View) {l : List PByte}
    (hA : ∀ j < l.length, A (s.phys space z (a + j))) : s.WroteIn A (s.writeVia put view space z a l) := by
  unfold State.writeVia
  rw [hv]
  exact putPieces hput hs _ hA

/-- A write where nothing is versioned changes bytes of its own places at most. -/
theorem writeAt (hv : s.vregs = []) (hs : s.flaws = []) (view : View) (space z a : Nat) (l : List PByte) :
    s.WroteIn (places s space z a l.length) (s.writeAt view space z a l) :=
  writeVia (fun ht h => writePhys ht h) hv hs view fun j hj => ⟨j, hj, rfl⟩

theorem writeResult (hv : s.vregs = []) (hs : s.flaws = []) (view : View) (space z a : Nat) (l : List PByte) :
    s.WroteIn (places s space z a l.length) (s.writeResult view space z a l) :=
  writeVia (fun ht h => resultPhys ht h) hv hs view fun j hj => ⟨j, hj, rfl⟩

end State.WroteIn

end Sys2Proof.Machine

/-! The memory window and the event ring (R319, R322, R323, R325, R326). -/

namespace Sys2Proof.Machine

/-! ### The memory window -/

section Window

variable {s b : State} {w a : Nat}

theorem serveWrite_unmapped {d : List Byte} (h : windowMapped w d.length = false) (ep : Bool) :
    b.serveWrite w d ep = b.emit (.aer false) := by
  rw [State.serveWrite, h, if_neg Bool.false_ne_true]

theorem windowMapped_of_piece {n : Nat} {x : Nat × Nat × Nat} (hone : windowPieces w n = [(w, n)])
    (hplace : windowPlace w = some x) : windowMapped w n = true := by
  simp [windowMapped, hone, hplace]

/-- A write of one piece that lies in a target that is there, versioned nowhere, is put down there. -/
theorem serveWrite_piece {d : List Byte} {space t k : Nat} (hv : b.vregs = [])
    (hone : windowPieces w d.length = [(w, d.length)]) (hplace : windowPlace w = some (space, t, k))
    (hthere : b.windowThere space t k = true) (ep : Bool) :
    b.serveWrite w d ep = b.writeAt .unbound space t k (d.map fun x => ⟨x, ep⟩) := by
  have hfree : b.windowVersioned space t k d.length = false := by simp [State.windowVersioned, hv]
  have htake : (d.map fun x => (⟨x, ep⟩ : PByte)).take d.length = d.map fun x => ⟨x, ep⟩ :=
    List.take_of_length_le (List.length_map _).le
  rw [State.serveWrite, windowMapped_of_piece hone hplace, if_pos rfl, hone]
  simp [splitBy, windowWritePiece, hplace, hthere, hfree, htake]

theorem serveRead_unmapped {n : Nat} (h : windowMapped w n = false) : b.serveRead w n =
    { b with host := { b.host with replies := b.host.replies ++ [⟨false, false, []⟩] } } := by
  rw [State.serveRead, h, if_neg Bool.false_ne_true]

/-- A read of one piece of a target that is there, versioned nowhere, answers the bytes there. -/
theorem serveRead_piece {n space t k : Nat} (hv : b.vregs = []) (hs : b.flaws = [])
    (hone : windowPieces w n = [(w, n)]) (hplace : windowPlace w = some (space, t, k))
    (hthere : b.windowThere space t k = true) : b.serveRead w n =
      { b with host := { b.host with replies := b.host.replies ++
        [⟨true, anyBad (b.readAt .unbound space t k n), (b.readAt .unbound space t k n).map PByte.val⟩] } } := by
  have hseen : b.windowBlind space t k n = false := by simp [State.windowBlind, hv, hthere]
  have hsense : b.windowSense (w, n) = b := by simp [State.windowSense, hplace, hseen, senseAt_of_flawless hs]
  have hpiece : b.windowReadPiece (w, n) = b.readAt .unbound space t k n := by
    simp [State.windowReadPiece, hplace, hseen]
  rw [State.serveRead, windowMapped_of_piece hone hplace, if_pos rfl, hone]
  simp [hsense, hpiece]

theorem windowWrite_run (hup : s.hostUp = true) (hb : b = s.leaveIdle) (hw : w = b.rd .HI_MWIN_OFFSET_OFFSET + a)
    {d : List Byte} (hlen : 1 ≤ d.length ∧ d.length ≤ 512 ∧ a + d.length ≤ 2 ^ 42) (ep : Bool) :
    exec (.memoryWindowWrite a d ep) s = .next (if s.inBar a d.length then
      (if b.windowWaits w d.length then b.holdAccess (.write w d ep) else b.serveWrite w d ep) else s) := by
  subst hb hw
  exact (if_pos hlen).trans (congrArg Host.Outcome.next (byHost_of_up hup _))

theorem windowRead_run (hup : s.hostUp = true) (hb : b = s.leaveIdle) (hw : w = b.rd .HI_MWIN_OFFSET_OFFSET + a)
    {n : Nat} (hlen : 1 ≤ n ∧ n ≤ 4096 ∧ a + n ≤ 2 ^ 42) :
    exec (.memoryWindowRead a n) s = .next (if s.inBar a n then
      (if b.windowWaits w n then b.holdAccess (.read w n) else b.serveRead w n) else s) := by
  subst hb hw
  exact (if_pos hlen).trans (congrArg Host.Outcome.next (byHost_of_up hup _))

end Window

/-! ### The event ring -/

theorem msix_held (s : State) (v : Nat) : (s.msix v).host.held = s.host.held := by
  unfold State.msix
  split <;> rfl

theorem eventDone_of_kind {s : State} {e : EvtRec} (h : e.kind ≠ 0) : s.eventDone e = s := if_neg h

/-- EVT_CFG as a write leaves it: LOG2N as it was judged, then EN. -/
def State.ringSet (s : State) (n : Nat) (on judged : Bool) : State :=
  let t := if judged then s.wr .HI_EVT_CFG_LOG2N n else s.wr .HI_STAT_CFG_REFUSED 1
  if on then
    (if s.flag .HI_EVT_CFG_EN 0 then t else ((t.wr .HI_EVT_CFG_EN 1).wr .HI_EVT_HEAD_HEAD 0).wr .HI_EVT_TAIL_TAIL 0)
  else if s.flag .HI_EVT_CFG_EN 0 then t.dropEvents else t

/-- Is this LOG2N one that EVT_CFG takes (R326)? -/
def State.ringTakes (s : State) (n : Nat) : Bool :=
  !decide (n < 6 ∨ 16 < n ∨ (s.flag .HI_EVT_CFG_EN 0 ∧ n ≠ s.rd .HI_EVT_CFG_LOG2N))

theorem evtCfgWrite_run {s : State} (hup : s.hostUp = true) {n : Nat} (hn : n < 32) (on : Bool) :
    exec (.evtCfgWrite (n + if on then 2 ^ 31 else 0)) s = .next (s.ringSet n on (s.ringTakes n)) := by
  have hv : n + (if on then 2 ^ 31 else 0) < 2 ^ 32 := by split <;> omega
  have hlow : bits (n + if on then 2 ^ 31 else 0) 0 5 = n := by
    rw [bits]
    split <;> omega
  have hbit : bit (n + if on then 2 ^ 31 else 0) 31 = on := by
    rw [bit_eq_testBit, Nat.testBit_eq_decide_div_mod_eq]
    cases on <;> simp <;> omega
  have hjudge : (if n < 6 ∨ 16 < n ∨ (s.flag .HI_EVT_CFG_EN 0 ∧ n ≠ s.rd .HI_EVT_CFG_LOG2N)
      then s.wr .HI_STAT_CFG_REFUSED 1 else s.wr .HI_EVT_CFG_LOG2N n) =
      if s.ringTakes n then s.wr .HI_EVT_CFG_LOG2N n else s.wr .HI_STAT_CFG_REFUSED 1 := by
    rw [State.ringTakes]
    split <;> simp [*]
  refine (if_pos hv).trans (congrArg Host.Outcome.next ((byHost_of_up hup _).trans ?_))
  dsimp only
  rw [hlow, hbit, hjudge]
  rfl

/-- A write of LOG2N that EVT_CFG takes turns the ring on, both pointers at 0, where it was off. -/
theorem ringSet_on {s : State} (hoff : s.flag .HI_EVT_CFG_EN 0 = false) {n : Nat} (hn : n < 32) :
    (s.ringSet n true true).rd .HI_EVT_CFG_LOG2N = n ∧ (s.ringSet n true true).rd .HI_EVT_CFG_EN = 1 ∧
      (s.ringSet n true true).rd .HI_EVT_HEAD_HEAD = 0 ∧ (s.ringSet n true true).rd .HI_EVT_TAIL_TAIL = 0 ∧
      s.onlyRegs (s.ringSet n true true)
        [(.HI_EVT_CFG_LOG2N, 0), (.HI_EVT_CFG_EN, 0), (.HI_EVT_HEAD_HEAD, 0), (.HI_EVT_TAIL_TAIL, 0)] := by
  have hset : s.ringSet n true true =
      (((s.wr .HI_EVT_CFG_LOG2N n).wr .HI_EVT_CFG_EN 1).wr .HI_EVT_HEAD_HEAD 0).wr .HI_EVT_TAIL_TAIL 0 := by
    simp [State.ringSet, hoff]
  rw [hset]
  refine ⟨?_, ?_, ?_, rd_wr_same, ?_⟩
  · rw [rd_wr_other (by decide), rd_wr_other (by decide), rd_wr_other (by decide), rd_wr_same]
    exact Nat.mod_eq_of_lt hn
  · rw [rd_wr_other (by decide), rd_wr_other (by decide), rd_wr_same]
    rfl
  · rw [rd_wr_other (by decide), rd_wr_same]
    rfl
  · exact ((((State.onlyRegs.refl s _).wr (f := .HI_EVT_CFG_LOG2N) (by simp) _).wr (f := .HI_EVT_CFG_EN) (by simp) _).wr
      (f := .HI_EVT_HEAD_HEAD) (by simp) _).wr (f := .HI_EVT_TAIL_TAIL) (by simp) _

/-- With nothing held, a ring turned off drops nothing. -/
theorem dropEvents_of_none {s : State} (h : s.host.held = []) : s.dropEvents = s.wr .HI_EVT_CFG_EN 0 := by
  have hsame : ({ s with host := { s.host with held := [] } } : State) = s := by rw [← h]
  rw [State.dropEvents, hsame, h]
  rfl

theorem ringSet_off {s : State} (hon : s.flag .HI_EVT_CFG_EN 0 = true) (hheld : s.host.held = []) (n : Nat) :
    (s.ringSet n false true).rd .HI_EVT_CFG_EN = 0 ∧
      s.onlyRegs (s.ringSet n false true) [(.HI_EVT_CFG_EN, 0), (.HI_EVT_CFG_LOG2N, 0)] := by
  have hset : s.ringSet n false true = (s.wr .HI_EVT_CFG_LOG2N n).wr .HI_EVT_CFG_EN 0 := by
    simp [State.ringSet, hon, dropEvents_of_none (s := s.wr .HI_EVT_CFG_LOG2N n) hheld]
  rw [hset]
  exact ⟨rd_wr_same, ((State.onlyRegs.refl s _).wr (f := .HI_EVT_CFG_LOG2N) (by simp) _).wr (f := .HI_EVT_CFG_EN)
    (by simp) _⟩

/-- What a write of EVT_CFG that is not taken leaves, where EN stays as it is. -/
theorem ringSet_refused {s : State} {on : Bool} (hsame : s.flag .HI_EVT_CFG_EN 0 = on) (n : Nat) :
    s.ringSet n on false = s.wr .HI_STAT_CFG_REFUSED 1 := by
  subst hsame
  cases hon : s.flag .HI_EVT_CFG_EN 0 <;> simp [State.ringSet, hon]

/-! ### Window and ring -/

/-- Settles O54: an access by its one piece (`serveWrite_piece`, `serveRead_piece`; the frame of a write by
`State.WroteIn`), a write of EVT_CFG by whether it is taken (`State.ringTakes`), an event by the record it writes. -/
theorem windowAndEventRing : Obligations.WindowAndEventRing := by
  refine ⟨fun s b a w hup hb hw => ⟨fun d ep h1 h512 hin => ?write, fun n h1 h4096 hin => ?read⟩,
    fun s hup => ⟨fun v n hv hn => ?offset, fun n h30 h42 => ?resize, fun v h hv hh => ?head, fun n h6 h16 => ?cfg,
      fun n hn hoff => ?range, fun hnone => ?stay, fun e r hheld hkind hon hroom => ?release⟩, fun s hdown => ?down⟩
  case write =>
    have hrun := windowWrite_run hup hb hw ⟨h1, h512, hin⟩ ep
    refine ⟨fun hbar => ?_, fun hbar hwait => ?_, fun hbar hwait =>
      ⟨fun hmap => ?_, fun space t k hv hs hone hplace hthere => ?_⟩⟩
    · rwa [hbar, if_neg Bool.false_ne_true] at hrun
    · rwa [hbar, if_pos rfl, hwait, if_pos rfl] at hrun
    · rw [hbar, if_pos rfl, hwait, if_neg Bool.false_ne_true, serveWrite_unmapped hmap] at hrun
      exact ⟨_, hrun, rfl⟩
    · rw [hbar, if_pos rfl, hwait, if_neg Bool.false_ne_true, serveWrite_piece hv hone hplace hthere] at hrun
      refine ⟨_, hrun, rfl, fun p hp => (State.WroteIn.writeAt hv hs _ _ _ _ _).bytes p ?_⟩
      rintro ⟨j, hj, heq⟩
      exact hp j (by rwa [List.length_map] at hj) heq
  case read =>
    have hrun := windowRead_run hup hb hw ⟨h1, h4096, hin⟩
    refine ⟨fun hbar => ?_, fun hbar hwait => ?_, fun hbar hwait =>
      ⟨fun hmap => ?_, fun space t k hv hs hone hplace hthere => ?_⟩⟩
    · rwa [hbar, if_neg Bool.false_ne_true] at hrun
    · rwa [hbar, if_pos rfl, hwait, if_pos rfl] at hrun
    · rw [hbar, if_pos rfl, hwait, if_neg Bool.false_ne_true, serveRead_unmapped hmap] at hrun
      exact ⟨_, hrun, rfl, rfl⟩
    · rw [hbar, if_pos rfl, hwait, if_neg Bool.false_ne_true, serveRead_piece hv hs hone hplace hthere] at hrun
      exact ⟨_, hrun, rfl, rfl⟩
  case offset =>
    have hbits : bits v 0 42 = n := by rw [hn, bits, Nat.pow_zero, Nat.div_one]
    have hrun : exec (.mwinOffsetWrite v) s = .next (if n % 2 ^ s.host.barLog2 = 0 then s.wr .HI_MWIN_OFFSET_OFFSET n
        else s.wr .HI_STAT_CFG_REFUSED 1) := by
      subst hbits
      exact (if_pos hv).trans (congrArg Host.Outcome.next (byHost_of_up hup _))
    refine ⟨fun hmul => ?_, fun hmul => ?_⟩
    · rw [if_pos hmul] at hrun
      exact ⟨_, hrun, wri_shows s (f := .HI_MWIN_OFFSET_OFFSET) (hn ▸ Nat.mod_lt _ (by decide)) 0⟩
    · rw [if_neg hmul] at hrun
      exact ⟨_, hrun, wri_shows s (f := .HI_STAT_CFG_REFUSED) (by decide) 0⟩
  case resize =>
    have hrun : exec (.barResize n) s =
        .next { s.wr .HI_MWIN_OFFSET_OFFSET 0 with host := { s.host with barLog2 := n } } :=
      (if_pos ⟨h30, h42⟩).trans (congrArg Host.Outcome.next (byHost_of_up hup _))
    obtain ⟨hzero, hframe⟩ := wri_shows s (f := .HI_MWIN_OFFSET_OFFSET) (v := 0) (by decide) 0
    exact ⟨_, hrun, rfl, hzero, hframe⟩
  case head =>
    subst hh
    have hrun : exec (.evtHeadWrite v) s = .next (if (v + 2 ^ 32 - s.rd .HI_EVT_HEAD_HEAD) % 2 ^ 32 ≤
        (s.rd .HI_EVT_TAIL_TAIL + 2 ^ 32 - s.rd .HI_EVT_HEAD_HEAD) % 2 ^ 32 then s.wr .HI_EVT_HEAD_HEAD v
        else s.wr .HI_STAT_BAD_HEAD 1) :=
      (if_pos hv).trans (congrArg Host.Outcome.next (byHost_of_up hup _))
    refine ⟨fun hle => ?_, fun hlt => ?_⟩
    · rw [if_pos hle] at hrun
      exact ⟨_, hrun, wri_shows s (f := .HI_EVT_HEAD_HEAD) hv 0⟩
    · rw [if_neg (Nat.not_le.2 hlt)] at hrun
      exact ⟨_, hrun, wri_shows s (f := .HI_STAT_BAD_HEAD) (by decide) 0⟩
  case cfg =>
    have hn : n < 32 := by omega
    have hset := evtCfgWrite_run hup hn true
    have hclear := evtCfgWrite_run hup hn false
    rw [if_pos rfl] at hset
    rw [if_neg Bool.false_ne_true, Nat.add_zero] at hclear
    have htakes : (s.flag .HI_EVT_CFG_EN 0 = false ∨ n = s.rd .HI_EVT_CFG_LOG2N) → s.ringTakes n = true := fun h => by
      rw [State.ringTakes, Bool.not_eq_true', decide_eq_false_iff_not]
      rintro (h' | h' | ⟨hon, hne⟩)
      · omega
      · omega
      · obtain hoff | heq := h
        · exact absurd (hoff.symm.trans hon) Bool.false_ne_true
        · exact hne heq
    refine ⟨fun hoff => ⟨?_, ?_⟩, fun hon hheld heq => ?_, fun hon hne => ?_⟩
    · rw [htakes (.inl hoff)] at hset
      exact ⟨_, hset, ringSet_on hoff hn⟩
    · have hjust : s.ringSet n false true = s.wr .HI_EVT_CFG_LOG2N n := by simp [State.ringSet, hoff]
      rw [htakes (.inl hoff), hjust] at hclear
      exact ⟨_, hclear, wri_shows s (f := .HI_EVT_CFG_LOG2N) hn 0⟩
    · rw [htakes (.inr heq)] at hclear
      exact ⟨_, hclear, ringSet_off hon hheld n⟩
    · have hrefused : s.ringTakes n = false := by
        rw [State.ringTakes, Bool.not_eq_false', decide_eq_true_eq]
        exact .inr (.inr ⟨hon, hne⟩)
      rw [hrefused, ringSet_refused hon] at hset
      exact ⟨_, hset, wri_shows s (f := .HI_STAT_CFG_REFUSED) (by decide) 0⟩
  case range =>
    have hclear := evtCfgWrite_run hup (by omega : n < 32) false
    have hrefused : s.ringTakes n = false := by
      rw [State.ringTakes, Bool.not_eq_false', decide_eq_true_eq]
      omega
    rw [if_neg Bool.false_ne_true, Nat.add_zero, hrefused, ringSet_refused hoff] at hclear
    exact ⟨_, hclear, wri_shows s (f := .HI_STAT_CFG_REFUSED) (by decide) 0⟩
  case stay =>
    show execEventRelease s = .next s
    unfold execEventRelease
    split
    · rfl
    · next e r hheld =>
      refine congrArg Host.Outcome.next (if_neg ?_)
      rintro ⟨hon, -, hroom⟩
      obtain hnil | hoff | hfull := hnone
      · exact absurd (hheld.symm.trans hnil) (List.cons_ne_nil _ _)
      · exact absurd (hoff.symm.trans hon) Bool.false_ne_true
      · exact hroom hfull
  case release =>
    have hrun : exec .eventRelease s =
        .next (({ s with host := { s.host with held := r } } : State).writeEvent e) := by
      show execEventRelease s = _
      unfold execEventRelease
      rw [hheld]
      dsimp only
      rw [if_pos ⟨hon, hup, ne_true_of_eq_false hroom⟩, eventDone_of_kind hkind]
    have hlog := writeEvent_logged ({ s with host := { s.host with held := r } } : State) e
    exact ⟨_, hrun, msix_held _ _, writeEvent_tail _ e, hlog.mem_eq, hlog.queues_eq⟩
  case down =>
    have hno : ∀ k : State → State, s.byHost k = s := fun k => if_neg (ne_true_of_eq_false hdown)
    refine ⟨fun a d ep h1 h512 hin => ?_, fun a n h1 h4096 hin => ?_, fun v hv => ?_, fun n h30 h42 => ?_,
      fun v hv => ⟨?_, ?_⟩, ?_⟩
    · exact (if_pos ⟨h1, h512, hin⟩).trans (congrArg Host.Outcome.next (hno _))
    · exact (if_pos ⟨h1, h4096, hin⟩).trans (congrArg Host.Outcome.next (hno _))
    · exact (if_pos hv).trans (congrArg Host.Outcome.next (hno _))
    · exact (if_pos ⟨h30, h42⟩).trans (congrArg Host.Outcome.next (hno _))
    · exact (if_pos hv).trans (congrArg Host.Outcome.next (hno _))
    · exact (if_pos hv).trans (congrArg Host.Outcome.next (hno _))
    · show execEventRelease s = .next s
      unfold execEventRelease
      split
      · rfl
      · exact congrArg Host.Outcome.next (if_neg fun h => absurd (hdown.symm.trans h.2.1) Bool.false_ne_true)

end Sys2Proof.Machine

/-! Provisional steps (O20 to O22). -/

namespace Sys2Proof.Machine

/-! ### The flag banks (R208) -/

/-- The register fields of the flag banks. -/
def flagBanks : List F :=
  [.PS_NUMFLAG_OVF_C, .PS_NUMFLAG_NAN_C, .PS_NUMFLAG_OVF_O, .PS_NUMFLAG_NAN_O, .PS_NUMFLAG_OVF_A, .PS_NUMFLAG_NAN_A,
    .PS_ESC_FLAG_ESC_C, .PS_ESC_FLAG_ESC_O, .PS_ESC_FLAG_ESC_A]

/-- The register fields that say which epochs are live, and count their ends. -/
def epochFields : List F :=
  [.PS_STAT_OPEN, .PS_STAT_CLOSED, .PS_EPOCH_OPEN_EPOCH, .PS_EPOCH_CLOSED_EPOCH, .PS_EPOCH_LAST_EPOCH, .PS_STAT_FOLDING,
    .PS_STAT_LAST_SQUASHED, .PS_CONFIRM_CNT_COUNT, .PS_SQUASH_CNT_COUNT]

/-- `t` is `s` with other values at most in the registers of the flag banks. -/
abbrev State.Banked (s t : State) : Prop := s.Logged t flagBanks

namespace State.Banked

variable {s t : State}

theorem refl (s : State) : s.Banked s := Logged.refl s _

theorem set (h : s.Banked t) {f : F} (hf : f ∈ flagBanks) (k v : Nat) : s.Banked (t.wri f k v) := Logged.wri h hf k v

theorem moveFlag (h : s.Banked t) {a b : F} (ha : a ∈ flagBanks) (hb : b ∈ flagBanks) : s.Banked (t.moveFlag a b) :=
  Logged.foldl (fun _ k h => Logged.ite ((Logged.wri h hb k 1).wri ha k 0) h) _ h

theorem dropFlag (h : s.Banked t) {a : F} (ha : a ∈ flagBanks) : s.Banked (t.dropFlag a) :=
  Logged.foldl (fun _ k h => Logged.wri h ha k 0) _ h

theorem moveEsc (h : s.Banked t) {a b : F} (ha : a ∈ flagBanks) (hb : b ∈ flagBanks) :
    s.Banked (if t.flag a 0 then (t.wr b 1).wr a 0 else t) := Logged.ite ((h.set hb 0 1).set ha 0 0) h

theorem closeBanks (h : s.Banked t) : s.Banked t.closeBanks := by
  unfold State.closeBanks
  exact moveEsc ((h.moveFlag (by decide) (by decide)).moveFlag (by decide) (by decide)) (by decide) (by decide)

theorem confirmBanks (h : s.Banked t) (closed : Bool) : s.Banked (t.confirmBanks closed) := by
  unfold State.confirmBanks
  split
  · exact moveEsc ((h.moveFlag (by decide) (by decide)).moveFlag (by decide) (by decide)) (by decide) (by decide)
  · exact moveEsc ((h.moveFlag (by decide) (by decide)).moveFlag (by decide) (by decide)) (by decide) (by decide)

theorem dropBanks (h : s.Banked t) : s.Banked t.dropBanks :=
  (((((h.dropFlag (a := .PS_NUMFLAG_OVF_O) (by decide)).dropFlag (a := .PS_NUMFLAG_NAN_O) (by decide)).dropFlag
    (a := .PS_NUMFLAG_OVF_A) (by decide)).dropFlag (a := .PS_NUMFLAG_NAN_A) (by decide)).set
      (f := .PS_ESC_FLAG_ESC_O) (by decide) 0 0).set (f := .PS_ESC_FLAG_ESC_A) (by decide) 0 0

theorem prov_eq (h : s.Banked t) : t.prov = s.prov := (congrArg State.prov h.rest :)
theorem net_eq (h : s.Banked t) : t.net = s.net := (congrArg State.net h.rest :)

end State.Banked

theorem dropFlag_rdi (s : State) (f g : F) (k : Nat) :
    (s.dropFlag f).rdi g k = if g = f ∧ k < 8 then 0 else s.rdi g k := by
  rw [State.dropFlag, foldl_wri_rdi, Nat.zero_mod]

theorem dropBanks_num (s : State) {k : Nat} (hk : k < 8) {f : F}
    (hf : f ∈ [F.PS_NUMFLAG_OVF_O, .PS_NUMFLAG_NAN_O, .PS_NUMFLAG_OVF_A, .PS_NUMFLAG_NAN_A]) :
    s.dropBanks.rdi f k = 0 := by
  simp only [List.mem_cons, List.not_mem_nil, or_false] at hf
  obtain rfl | rfl | rfl | rfl := hf <;> simp [State.dropBanks, State.wr, rdi_wri, dropFlag_rdi, hk]

theorem dropBanks_esc (s : State) : s.dropBanks.rdi .PS_ESC_FLAG_ESC_O 0 = 0 ∧ s.dropBanks.rdi .PS_ESC_FLAG_ESC_A 0 = 0 := by
  constructor <;> simp [State.dropBanks, State.wr, rdi_wri]

/-! ### What the end of an epoch changes (R198, R201, R202) -/

/-- A state without the records of provisional steps. -/
def State.sansSteps (s : State) : State := { s.sansLog with prov := State.reset.prov }

/-- `t` is `s` with other records of provisional steps, and other values at most in the registers of epochs and banks. -/
structure State.Stepped (s t : State) : Prop where
  rest : t.sansSteps = s.sansSteps
  regs : ∀ f k, f ∉ flagBanks ++ epochFields → t.rdi f k = s.rdi f k

namespace State.Stepped

variable {s t u : State}

theorem of_banked (h : s.Banked t) : s.Stepped t :=
  ⟨congrArg (fun x : State => { x with prov := State.reset.prov }) h.rest, fun f k hf =>
    h.regs f k fun hm => hf (List.mem_append_left _ hm)⟩

theorem refl (s : State) : s.Stepped s := of_banked (.refl s)

theorem trans (h : s.Stepped t) (k : t.Stepped u) : s.Stepped u :=
  ⟨k.rest.trans h.rest, fun f j hf => (k.regs f j hf).trans (h.regs f j hf)⟩

theorem set (h : s.Stepped t) {f : F} (hf : f ∈ flagBanks ++ epochFields) (k v : Nat) : s.Stepped (t.wri f k v) :=
  ⟨h.rest, fun g j hg => (rdi_wri_other (.inl fun (e : g = f) => hg (e ▸ hf))).trans (h.regs g j hg)⟩

theorem setProv (h : s.Stepped t) (p : Prov) : s.Stepped { t with prov := p } := ⟨h.rest, h.regs⟩

theorem ite (h : s.Stepped t) {p : Prop} [Decidable p] (k : s.Stepped u) : s.Stepped (if p then t else u) := by
  split <;> assumption

theorem foldl {α : Type} {f : State → α → State} (hf : ∀ t a, s.Stepped t → s.Stepped (f t a)) (l : List α)
    (h : s.Stepped t) : s.Stepped (l.foldl f t) := foldl_keeps hf l h

theorem endEpoch (h : s.Stepped t) (e : Nat) (b : Bool) : s.Stepped (t.endEpoch e b) :=
  ((h.setProv _).set (f := .PS_STAT_FOLDING) (by decide) 0 1).set (f := .PS_STAT_LAST_SQUASHED) (by decide) 0 _

theorem confirmEpoch (h : s.Stepped t) : s.Stepped t.confirmEpoch := by
  have hended := fun e => ((h.trans (of_banked ((Banked.refl t).confirmBanks (t.flag .PS_STAT_CLOSED 0)))).setProv
    { (t.confirmBanks (t.flag .PS_STAT_CLOSED 0)).prov with
      checks := Tbl.del (t.confirmBanks (t.flag .PS_STAT_CLOSED 0)).prov.checks e }).endEpoch e false
  exact (((hended _).set (f := .PS_STAT_CLOSED) (by decide) 0 0).ite ((hended _).set (f := .PS_STAT_OPEN) (by decide) 0
    0)).set (f := .PS_CONFIRM_CNT_COUNT) (by decide) 0 _

theorem queues_eq (h : s.Stepped t) : t.queues = s.queues := (congrArg State.queues h.rest :)
theorem mem_eq (h : s.Stepped t) : t.mem = s.mem := (congrArg State.mem h.rest :)
theorem net_eq (h : s.Stepped t) : t.net = s.net := (congrArg State.net h.rest :)
theorem byteAt_eq (h : s.Stepped t) (p : Nat) : t.byteAt p = s.byteAt p := by rw [State.byteAt, h.mem_eq, State.byteAt]
theorem queue_eq (h : s.Stepped t) (q : Nat) : t.queue q = s.queue q := by rw [State.queue, h.queues_eq, State.queue]

end State.Stepped

/-- The register fields that say which epochs are live. -/
def liveFields : List F := [.PS_STAT_OPEN, .PS_STAT_CLOSED, .PS_EPOCH_OPEN_EPOCH, .PS_EPOCH_CLOSED_EPOCH]

theorem liveEpochs_congr {s t : State} (h : ∀ f ∈ liveFields, t.rdi f 0 = s.rdi f 0) : t.liveEpochs = s.liveEpochs := by
  simp [State.liveEpochs, State.flag, State.rd, h .PS_STAT_OPEN (by decide), h .PS_STAT_CLOSED (by decide),
    h .PS_EPOCH_OPEN_EPOCH (by decide), h .PS_EPOCH_CLOSED_EPOCH (by decide)]

/-- The oldest live epoch is the closed one, or the open one where none is closed. -/
theorem liveEpochs_cons {s : State} {e : Nat} {r : List Nat} (h : s.liveEpochs = e :: r) :
    s.flag .PS_STAT_CLOSED 0 = true ∧ e = s.rd .PS_EPOCH_CLOSED_EPOCH ∧
        r = (if s.flag .PS_STAT_OPEN 0 then [s.rd .PS_EPOCH_OPEN_EPOCH] else []) ∨
      s.flag .PS_STAT_CLOSED 0 = false ∧ e = s.rd .PS_EPOCH_OPEN_EPOCH ∧ r = [] := by
  unfold State.liveEpochs at h
  cases hc : s.flag .PS_STAT_CLOSED 0 with
  | true =>
    rw [hc, if_pos rfl, List.singleton_append, List.cons.injEq] at h
    exact .inl ⟨rfl, h.1.symm, h.2.symm⟩
  | false =>
    rw [hc, if_neg Bool.false_ne_true, List.nil_append] at h
    split at h
    · rw [List.cons.injEq] at h
      exact .inr ⟨rfl, h.1.symm, h.2.symm⟩
    · cases h

theorem endEpoch_rdi (s : State) (e : Nat) (b : Bool) {f : F} (k : Nat)
    (hf : f ≠ .PS_STAT_FOLDING ∧ f ≠ .PS_STAT_LAST_SQUASHED) : (s.endEpoch e b).rdi f k = s.rdi f k :=
  (rdi_wri_other (.inl hf.2)).trans (rdi_wri_other (.inl hf.1))

theorem endEpoch_folding (s : State) (e : Nat) (b : Bool) : (s.endEpoch e b).rd .PS_STAT_FOLDING = 1 :=
  (rd_wr_other (by decide)).trans rd_wr_same

/-- What a state shows once the older live epoch `e`, whose field is `f`, has ended confirmed in it. -/
def State.confirmed (s : State) (f : F) (e : Nat) : State :=
  (((s.dropCheck e).endEpoch e false).wr f 0).addSat .PS_CONFIRM_CNT_COUNT 0 1

theorem confirmed_rdi (s : State) {f g : F} (e k : Nat)
    (hg : g ≠ f ∧ g ≠ .PS_CONFIRM_CNT_COUNT ∧ g ≠ .PS_STAT_FOLDING ∧ g ≠ .PS_STAT_LAST_SQUASHED) :
    (s.confirmed f e).rdi g k = s.rdi g k := by
  obtain ⟨hf, hcount, hends⟩ := hg
  exact ((rdi_wri_other (.inl hcount)).trans (rdi_wri_other (.inl hf))).trans (endEpoch_rdi _ _ _ _ hends)

theorem confirmed_shows (s : State) {f : F} (e : Nat) (hf : f = .PS_STAT_CLOSED ∨ f = .PS_STAT_OPEN) :
    (s.confirmed f e).flag f 0 = false ∧ (s.confirmed f e).rd .PS_STAT_FOLDING = 1 ∧
      (s.confirmed f e).rd .PS_CONFIRM_CNT_COUNT = min (2 ^ 32 - 1) (s.rd .PS_CONFIRM_CNT_COUNT + 1) ∧
      (s.confirmed f e).prov.ended = s.prov.ended ++ [⟨e, false, false⟩] := by
  have hne : F.PS_STAT_FOLDING ≠ f ∧ F.PS_CONFIRM_CNT_COUNT ≠ f ∧ f ≠ .PS_CONFIRM_CNT_COUNT := by
    obtain rfl | rfl := hf <;> decide
  refine ⟨?_, ?_, ?_, rfl⟩
  · have hzero : (s.confirmed f e).rdi f 0 = 0 :=
      (rdi_wri_other (.inl hne.2.2)).trans (rdi_wri_same.trans (Nat.zero_mod _))
    simp [State.flag, hzero]
  · exact (rdi_wri_other (.inl (by decide))).trans ((rdi_wri_other (.inl hne.1)).trans (endEpoch_folding _ e false))
  · have hcount : (((s.dropCheck e).endEpoch e false).wr f 0).rdi .PS_CONFIRM_CNT_COUNT 0 =
        s.rdi .PS_CONFIRM_CNT_COUNT 0 := (rdi_wri_other (.inl hne.2.1)).trans (endEpoch_rdi _ e false 0 (by decide))
    refine rdi_wri_same.trans ?_
    rw [hcount]
    exact Nat.mod_eq_of_lt (Nat.lt_of_le_of_lt (Nat.min_le_left ..) (by decide))

/-- The older live epoch ends confirmed; the other stays. -/
theorem confirmEpoch_shows {s : State} {e : Nat} {r : List Nat} (h : s.liveEpochs = e :: r) :
    s.confirmEpoch.liveEpochs = r ∧ s.confirmEpoch.rd .PS_STAT_FOLDING = 1 ∧
      s.confirmEpoch.rd .PS_CONFIRM_CNT_COUNT = min (2 ^ 32 - 1) (s.rd .PS_CONFIRM_CNT_COUNT + 1) ∧
      s.confirmEpoch.prov.ended = s.prov.ended ++ [⟨e, false, false⟩] := by
  have hbank := fun c => (State.Banked.refl s).confirmBanks c
  have hkeeps : ∀ c f, f ∉ flagBanks → (s.confirmBanks c).rdi f 0 = s.rdi f 0 := fun c f hf => (hbank c).regs f 0 hf
  have hother : ∀ c g, g = .PS_STAT_OPEN ∨ g = .PS_STAT_CLOSED ∨ g = .PS_EPOCH_OPEN_EPOCH →
      ∀ f, g ≠ f → ((s.confirmBanks c).confirmed f e).rdi g 0 = s.rdi g 0 := fun c g hg f hf => by
    obtain rfl | rfl | rfl := hg <;> exact (confirmed_rdi _ e 0 ⟨hf, by decide⟩).trans (hkeeps c _ (by decide))
  obtain ⟨hc, he, hr⟩ | ⟨hc, he, hr⟩ := liveEpochs_cons h
  · have heq : s.confirmEpoch = (s.confirmBanks true).confirmed .PS_STAT_CLOSED e := by
      rw [State.confirmEpoch, hc, he]
      rfl
    obtain ⟨hoff, hfold, hcount, hended⟩ := confirmed_shows (s.confirmBanks true) e (.inl rfl)
    rw [(hbank true).prov_eq] at hended
    rw [heq]
    refine ⟨?_, hfold, hcount.trans (by rw [State.rd, hkeeps true _ (by decide), State.rd]), hended⟩
    have hopen : ((s.confirmBanks true).confirmed .PS_STAT_CLOSED e).flag .PS_STAT_OPEN 0 = s.flag .PS_STAT_OPEN 0 :=
      congrArg (fun n => n != 0) (hother true _ (.inl rfl) _ (by decide))
    have hepoch : ((s.confirmBanks true).confirmed .PS_STAT_CLOSED e).rd .PS_EPOCH_OPEN_EPOCH =
        s.rd .PS_EPOCH_OPEN_EPOCH := hother true _ (.inr (.inr rfl)) _ (by decide)
    rw [State.liveEpochs, hoff, hr, hopen, hepoch]
    rfl
  · have heq : s.confirmEpoch = (s.confirmBanks false).confirmed .PS_STAT_OPEN e := by
      rw [State.confirmEpoch, hc, he]
      rfl
    obtain ⟨hoff, hfold, hcount, hended⟩ := confirmed_shows (s.confirmBanks false) e (.inr rfl)
    rw [(hbank false).prov_eq] at hended
    rw [heq]
    refine ⟨?_, hfold, hcount.trans (by rw [State.rd, hkeeps false _ (by decide), State.rd]), hended⟩
    have hclosed : ((s.confirmBanks false).confirmed .PS_STAT_OPEN e).flag .PS_STAT_CLOSED 0 = false :=
      (congrArg (fun n => n != 0) (hother false _ (.inr (.inl rfl)) _ (by decide))).trans hc
    rw [State.liveEpochs, hoff, hclosed, hr]
    rfl

/-! ### Waiters that are served, and the instructions in progress -/

/-- Of the instructions of `l` those that are not plain stand in `m`, and beside them only others of `l` and plain ones. -/
structure WorkKept (l m : List Work) : Prop where
  old : ∀ w ∈ m, w ∈ l ∨ w.kind = .plain
  kept : ∀ w ∈ l, w.kind ≠ .plain → w ∈ m

/-- Every queue keeps its instructions in progress but for plain ones. -/
def State.Woken (s t : State) : Prop := ∀ q, WorkKept (s.queue q).work (t.queue q).work

theorem WorkKept.refl (l : List Work) : WorkKept l l := ⟨fun _ => .inl, fun _ h _ => h⟩

theorem WorkKept.trans {l m n : List Work} (h : WorkKept l m) (k : WorkKept m n) : WorkKept l n :=
  ⟨fun w hw => (k.old w hw).elim (h.old w) .inr, fun w hw hne => k.kept w (h.kept w hw hne) hne⟩

theorem finished_plain {w x : Work} (hw : w.kind = .plain) (hx : x ∈ finished w [{ w with done := true }]) :
    x.kind = .plain := by
  have howes : w.owesProg = false := by rw [Work.owesProg, hw]; rfl
  unfold finished at hx
  split at hx
  · simp at hx
  · simp only [howes, List.map_cons, List.map_nil, List.mem_singleton] at hx
    rw [hx]
    rfl

/-- The plain instructions that are not done complete, all others stay. -/
theorem WorkKept.finish (l : List Work) :
    WorkKept l (l.flatMap fun k => if k.kind = .plain ∧ !k.done then finished k [{ k with done := true }] else [k]) := by
  refine ⟨fun w hw => ?_, fun w hw hne => List.mem_flatMap.2 ⟨w, hw, ?_⟩⟩
  · obtain ⟨x, hx, hwx⟩ := List.mem_flatMap.1 hw
    split at hwx
    · next hplain => exact .inr (finished_plain hplain.1 hwx)
    · exact .inl (List.mem_singleton.1 hwx ▸ hx)
  · rw [if_neg fun h => hne h.1]
    exact List.mem_singleton_self w

namespace State.Woken

variable {s t u : State}

theorem refl (s : State) : s.Woken s := fun _ => .refl _

theorem trans (h : s.Woken t) (k : t.Woken u) : s.Woken u := fun q => (h q).trans (k q)

theorem updQueue (h : s.Woken t) (q : Nat) {g : Queue → Queue} (hg : ∀ x, WorkKept x.work (g x).work) :
    s.Woken (t.updQueue q g) := fun k => by
  by_cases hk : k = q
  · subst hk
    rw [queue_updQueue_same]
    exact (h k).trans (hg _)
  · rw [queue_updQueue_other _ hk]
    exact h k

theorem advance (h : s.Woken t) (q npc : Nat) : s.Woken (t.advance q npc) :=
  updQueue h q (g := fun x => { x with loops := _, buf := _, taken := _, held := _, wait := _ }) fun _ => .refl _

theorem wake (h : s.Woken t) (q : Nat) : s.Woken (t.wake q) := by
  have hrun : s.Woken ((t.setQState q (t.runState q)).orderPoint q) :=
    updQueue h q (g := fun x => { x with ordPoint := t.stamp + 1 }) fun _ => .refl _
  unfold State.wake
  dsimp only
  split
  · exact hrun
  · split
    · exact (hrun.advance _ _).updQueue _ fun x => .finish x.work
    · exact hrun.updQueue _ fun _ => .refl _

theorem serveList (u : Nat) (l : List Waiter) (h : s.Woken t) : s.Woken (Machine.serveList u l t) := by
  induction l generalizing t with
  | nil => exact h
  | cons w r ih =>
    rw [Machine.serveList]
    split
    · exact ih (wake (t := t.setTally u (t.tally u - w.need)) h w.queue)
    · exact h

theorem leaveWait (h : s.Woken t) (q : Nat) : s.Woken (t.leaveWait q) := by
  unfold State.leaveWait
  split
  · exact h
  · refine serveList _ _ (updQueue (t := t.setWaiters _ _) h q fun x => ⟨fun w hw => .inl (List.mem_of_mem_filter hw),
      fun w hw hne => List.mem_filter.2 ⟨hw, ?_⟩⟩)
    simp [hne]

theorem beginSkip (h : s.Woken t) (q : Nat) : s.Woken (t.beginSkip q) := by
  have hskip : s.Woken (t.updQueue q fun x => { x with skipping := true }) := h.updQueue q fun _ => .refl _
  unfold State.beginSkip
  dsimp only
  split
  · split
    · exact hskip.leaveWait q
    · exact hskip
  · exact h

end State.Woken

theorem State.Served.net_eq {s t : State} (h : s.Served t) : t.net = s.net := (congrArg State.net h.rest :)
theorem State.Served.prov_eq {s t : State} (h : s.Served t) : t.prov = s.prov := (congrArg State.prov h.rest :)
theorem State.Served.mem_eq {s t : State} (h : s.Served t) : t.mem = s.mem := (congrArg State.mem h.rest :)

theorem State.Served.beginSkip {s t : State} (h : s.Served t) (q : Nat) : s.Served (t.beginSkip q) := by
  have hskip : s.Served (t.updQueue q fun x => { x with skipping := true }) := h.updQueue q _
  unfold State.beginSkip
  dsimp only
  split
  · split
    · exact (hskip.leaveWait q).runs q
    · exact hskip
  · exact h

/-! ### Squash (R202) -/

/-- Every live epoch has ended in a squash; the queues have not begun to skip. -/
def State.epochsLost (s : State) : State :=
  let l := s.liveEpochs
  let s := { s with prov := { s.prov with squashing := s.prov.squashing ++ l.head?.toList } }
  let s := l.foldl (fun s e => s.endEpoch e true) s
  let s := (l.drop 1).foldl State.dropCheck s
  ((s.dropBanks.wr .PS_STAT_OPEN 0).wr .PS_STAT_CLOSED 0).addSat .PS_SQUASH_CNT_COUNT 0 l.length

theorem squashEpochs_eq (s : State) : s.squashEpochs = (List.range 52).foldl State.beginSkip s.epochsLost := rfl

theorem State.Stepped.epochsLost (s : State) : s.Stepped s.epochsLost := by
  have hended := Stepped.foldl (fun _ e h => h.endEpoch e true) s.liveEpochs
    ((Stepped.refl s).setProv { s.prov with squashing := s.prov.squashing ++ s.liveEpochs.head?.toList })
  have hdropped := Stepped.foldl (f := State.dropCheck) (fun _ _ h => h.setProv _) (s.liveEpochs.drop 1) hended
  exact (((hdropped.trans (Stepped.of_banked (Banked.refl _).dropBanks)).set (f := .PS_STAT_OPEN) (by decide) 0 0).set
    (f := .PS_STAT_CLOSED) (by decide) 0 0).set (f := .PS_SQUASH_CNT_COUNT) (by decide) 0 _

theorem foldl_endEpoch_prov (s : State) (l : List Nat) : (l.foldl (fun s e => s.endEpoch e true) s).prov =
    { s.prov with ended := s.prov.ended ++ l.map fun e => ⟨e, true, false⟩ } := by
  induction l generalizing s with
  | nil => simp
  | cons e l ih =>
    rw [List.foldl_cons, ih]
    simp [State.endEpoch]

theorem foldl_dropCheck_prov (s : State) (l : List Nat) :
    (l.foldl State.dropCheck s).prov.ended = s.prov.ended ∧ (l.foldl State.dropCheck s).prov.squashing = s.prov.squashing := by
  induction l generalizing s with
  | nil => exact ⟨rfl, rfl⟩
  | cons e l ih => exact ih (s.dropCheck e)

/-- A squash leaves no epoch live, none of the banks' flags, and a restore to come for the oldest. -/
theorem epochsLost_shows {s : State} {e : Nat} {r : List Nat} (h : s.liveEpochs = e :: r) :
    s.epochsLost.flag .PS_STAT_OPEN 0 = false ∧ s.epochsLost.flag .PS_STAT_CLOSED 0 = false ∧
      s.epochsLost.prov.squashing = s.prov.squashing ++ [e] ∧ (∀ x ∈ e :: r, s.epochsLost.squashed x = true) ∧
      s.epochsLost.rdi .PS_ESC_FLAG_ESC_O 0 = 0 ∧ s.epochsLost.rdi .PS_ESC_FLAG_ESC_A 0 = 0 ∧
      ∀ k, k < 8 → ∀ f ∈ [F.PS_NUMFLAG_OVF_O, .PS_NUMFLAG_NAN_O, .PS_NUMFLAG_OVF_A, .PS_NUMFLAG_NAN_A],
        s.epochsLost.rdi f k = 0 := by
  have hprov : s.epochsLost.prov.squashing = s.prov.squashing ++ [e] ∧
      s.epochsLost.prov.ended = s.prov.ended ++ (e :: r).map fun e => ⟨e, true, false⟩ := by
    unfold State.epochsLost
    dsimp only
    generalize hd : (List.drop 1 s.liveEpochs).foldl State.dropCheck _ = d
    have hbank := (State.Banked.refl d).dropBanks.prov_eq
    obtain ⟨hended, hsquash⟩ := foldl_dropCheck_prov (s.liveEpochs.foldl (fun s e => s.endEpoch e true)
      { s with prov := { s.prov with squashing := s.prov.squashing ++ s.liveEpochs.head?.toList } }) (s.liveEpochs.drop 1)
    rw [hd, foldl_endEpoch_prov] at hended hsquash
    simp only [addSat_prov, wr_prov, hbank, hended, hsquash, h]
    exact ⟨rfl, trivial⟩
  obtain ⟨hsquash, hended⟩ := hprov
  obtain ⟨d, n, hd⟩ : ∃ d n, s.epochsLost =
      ((State.dropBanks d).wr .PS_STAT_OPEN 0 |>.wr .PS_STAT_CLOSED 0).addSat .PS_SQUASH_CNT_COUNT 0 n := ⟨_, _, rfl⟩
  have hkeeps : ∀ f k, f ∈ flagBanks → s.epochsLost.rdi f k = d.dropBanks.rdi f k := fun f k hf => by
    have hne : f ≠ .PS_SQUASH_CNT_COUNT ∧ f ≠ .PS_STAT_CLOSED ∧ f ≠ .PS_STAT_OPEN := by
      revert hf; revert f; decide
    rw [hd]
    exact (rdi_wri_other (.inl hne.1)).trans ((rdi_wri_other (.inl hne.2.1)).trans (rdi_wri_other (.inl hne.2.2)))
  have hopen : s.epochsLost.rdi .PS_STAT_OPEN 0 = 0 := by
    rw [hd]
    exact (rdi_wri_other (.inl (by decide))).trans ((rdi_wri_other (.inl (by decide))).trans rdi_wri_same)
  have hclosed : s.epochsLost.rdi .PS_STAT_CLOSED 0 = 0 := by
    rw [hd]
    exact (rdi_wri_other (.inl (by decide))).trans rdi_wri_same
  obtain ⟨hesco, hesca⟩ := dropBanks_esc d
  refine ⟨by rw [State.flag, hopen]; rfl, by rw [State.flag, hclosed]; rfl, hsquash, fun x hx => ?_,
    (hkeeps _ _ (by decide)).trans hesco, (hkeeps _ _ (by decide)).trans hesca, fun k hk f hf => ?_⟩
  · rw [State.squashed, hended, List.any_append, Bool.or_eq_true]
    refine .inr (List.any_eq_true.2 ⟨⟨x, true, false⟩, List.mem_map.2 ⟨x, hx, rfl⟩, ?_⟩)
    simp
  · have hbank : f ∈ flagBanks := by
      revert hf; revert f; decide
    exact (hkeeps f k hbank).trans (dropBanks_num d hk hf)

theorem foldl_beginSkip_woken (s : State) (l : List Nat) :
    s.Served (l.foldl State.beginSkip s) ∧ s.Woken (l.foldl State.beginSkip s) :=
  ⟨foldl_keeps (P := s.Served) (fun _ q h => h.beginSkip q) l (.refl s),
    foldl_keeps (P := s.Woken) (fun _ q h => h.beginSkip q) l (.refl s)⟩

/-! ### Confirm and squash -/

/-- What a PSTEP.SQUASH is in progress, for the oldest epoch `e` of those it squashes. -/
def squashWork (s : State) (q : Nat) (i : Ins) (e : Nat) : Work :=
  { newWork ((s.begun q).queue q) i .squash none with desc := e }

theorem goOn_rdi (s : State) (q : Nat) (i : Ins) (w : Work) {f : F} {k : Nat} (hpc : f ≠ .EN_Q_PC_PC ∨ k ≠ q)
    (hcount : f ≠ .EN_Q_ISSUED_COUNT ∨ k ≠ q) : (s.goOn q i w).rdi f k = s.rdi f k :=
  (rdi_wri_other hpc).trans (rdi_wri_other hcount)

@[simp] theorem begun_pstepCheck (s : State) (q t op : Nat) : (s.begun q).pstepCheck t op = s.pstepCheck t op := rfl
@[simp] theorem begun_liveEpochs (s : State) (q : Nat) : (s.begun q).liveEpochs = s.liveEpochs := rfl

theorem pstepCheck_owner {s : State} {t : Nat} (h : s.rd .PS_CFG_CTL_T ≠ t) (op : Nat) :
    s.pstepCheck t op = .error (.of .provOwner) := by
  rw [State.pstepCheck, beq_eq_false_iff_ne.2 h]
  rfl

theorem pstepCheck_ok {s : State} {t op : Nat} (h : s.rd .PS_CFG_CTL_T = t) (hon : s.flag .PS_CFG_EN 0 = true)
    (hroom : op = 0x21 → (s.flag .PS_STAT_OPEN 0 && s.flag .PS_STAT_CLOSED 0) = false)
    (hlive : op = 0x22 → s.liveEpochs.isEmpty = false) : s.pstepCheck t op = .ok () := by
  have hdepth : (op == 0x21 && s.flag .PS_STAT_OPEN 0 && s.flag .PS_STAT_CLOSED 0) = false := by
    by_cases hop : op = 0x21
    · rw [Bool.and_assoc, hroom hop, Bool.and_false]
    · rw [beq_eq_false_iff_ne.2 hop, Bool.false_and, Bool.false_and]
  have hnone : (op == 0x22 && s.liveEpochs.isEmpty) = false := by
    by_cases hop : op = 0x22
    · rw [hlive hop, Bool.and_false]
    · rw [beq_eq_false_iff_ne.2 hop, Bool.false_and]
  rw [State.pstepCheck, h, hon, hdepth, hnone, beq_self_eq_true]
  rfl

theorem pstepCheck_none {s : State} {t : Nat} (h : s.rd .PS_CFG_CTL_T = t) (hon : s.flag .PS_CFG_EN 0 = true)
    (hlive : s.liveEpochs = []) : s.pstepCheck t 0x22 = .error (.of .provNone) := by
  rw [State.pstepCheck, h, hon, hlive, beq_self_eq_true]
  rfl

/-- With nothing waiting to be written, what waits for an ended epoch is nothing. -/
theorem releaseWrites_resume {u : State} (hnone : u.net.heldWr = [])
    (hwork : ∀ q, q < 52 → ∀ w ∈ (u.queue q).work, w.settled) : u.releaseWrites.resume = u := by
  rw [releaseWrites_of_none hnone, resume_of_landed hwork]

/-- A squash with nothing waiting to be written: no epoch is live and no bank of theirs holds a flag; every instruction
in progress but plain ones goes on. -/
theorem squashEpochs_shows {g : State} {e : Nat} {r : List Nat} (hlive : g.liveEpochs = e :: r)
    (hnone : g.net.heldWr = []) (hwork : ∀ q, q < 52 → ∀ w ∈ (g.queue q).work, w.settled) :
    g.squashEpochs.releaseWrites.resume.liveEpochs = [] ∧
      g.squashEpochs.releaseWrites.resume.prov.squashing = g.prov.squashing ++ [e] ∧
      (∀ x ∈ e :: r, g.squashEpochs.releaseWrites.resume.squashed x = true) ∧
      g.squashEpochs.releaseWrites.resume.flag .PS_ESC_FLAG_ESC_O 0 = false ∧
      g.squashEpochs.releaseWrites.resume.flag .PS_ESC_FLAG_ESC_A 0 = false ∧
      (∀ k, k < 8 → ∀ f ∈ [F.PS_NUMFLAG_OVF_O, .PS_NUMFLAG_NAN_O, .PS_NUMFLAG_OVF_A, .PS_NUMFLAG_NAN_A],
        g.squashEpochs.releaseWrites.resume.flag f k = false) ∧
      (∀ p, g.squashEpochs.releaseWrites.resume.byteAt p = g.byteAt p) ∧
      ∀ q, ∀ w ∈ (g.queue q).work, w.kind ≠ .plain → w ∈ (g.squashEpochs.releaseWrites.resume.queue q).work := by
  have hlost := State.Stepped.epochsLost g
  obtain ⟨hopen, hclosed, hsquash, hall, hesco, hesca, hnum⟩ := epochsLost_shows hlive
  obtain ⟨hserved, hwoken⟩ := foldl_beginSkip_woken g.epochsLost (List.range 52)
  rw [← squashEpochs_eq] at hserved hwoken
  generalize g.squashEpochs = u at hserved hwoken ⊢
  have hquiet : u.releaseWrites.resume = u := by
    have hnet : u.net = g.net := hserved.net_eq.trans hlost.net_eq
    refine releaseWrites_resume (by rw [hnet, hnone]) fun q hq w hw => ?_
    obtain hw | hplain := (hwoken q).old w hw
    · rw [hlost.queue_eq] at hw
      exact hwork q hq w hw
    · exact .inr (.inr hplain)
  rw [hquiet]
  have hprov : u.prov = g.epochsLost.prov := hserved.prov_eq
  have hflag : ∀ f k, f ∉ serveFields → g.epochsLost.rdi f k = 0 → u.flag f k = false := fun f k hf h0 => by
    rw [State.flag, hserved.regs f k hf, h0]
    rfl
  refine ⟨?_, by rw [hprov, hsquash], fun x hx => ?_, hflag _ _ (by decide) hesco, hflag _ _ (by decide) hesca,
    fun k hk f hf => hflag f k (by revert hf; revert f; decide) (hnum k hk f hf), fun p => ?_, fun q w hw hne => ?_⟩
  · have hsame : u.liveEpochs = g.epochsLost.liveEpochs :=
      liveEpochs_congr fun f hf => hserved.regs f 0 (by revert hf; revert f; decide)
    rw [hsame, State.liveEpochs, hopen, hclosed]
    rfl
  · rw [State.squashed, hprov, ← State.squashed]
    exact hall x hx
  · have hmem : u.mem = g.epochsLost.mem := hserved.mem_eq
    rw [← hlost.byteAt_eq p, State.byteAt, hmem, State.byteAt]
  · exact (hwoken q).kept w (by rwa [hlost.queue_eq]) hne

/-- Settles O20: a confirm by `confirmEpoch_shows`, a squash by `epochsLost_shows` and by what the queues that begin to
skip keep (`State.Woken`); with nothing waiting to be written, what follows the end of an epoch does nothing. -/
theorem confirmAndSquash : Obligations.ConfirmAndSquash := by
  intro s t i
  refine ⟨fun hctl hon => ⟨fun e r h hcalm hlive => ?confirm, fun e r h hcalm hlive => ?squash,
    fun h hlive => ?nothing, fun h hlive => ?none⟩, fun hctl => ⟨fun h => ?_, fun h => ?_, fun h => ?_⟩⟩
  case confirm =>
    have hcheck : s.pstepCheck t 0x22 = .ok () := pstepCheck_ok hctl hon (by simp) (by simp [hlive])
    have hstep := (State.Stepped.refl (s.begun (thrQ t 0))).confirmEpoch
    obtain ⟨hr, hfold, hcount, hended⟩ := confirmEpoch_shows (s := s.begun (thrQ t 0)) hlive
    have hbegun : ∀ q, ((s.begun (thrQ t 0)).queue q).work = (s.queue q).work := fun q => by
      by_cases hq : q = thrQ t 0
      · rw [hq, begun_work]
      · rw [begun_other hq]
    have hquiet : (s.begun (thrQ t 0)).confirmEpoch.releaseWrites.resume = (s.begun (thrQ t 0)).confirmEpoch :=
      releaseWrites_resume (by rw [hstep.net_eq]; exact hcalm.writes) fun q hq w hw => by
        rw [hstep.queue_eq, hbegun] at hw
        exact hcalm.settled hq hw
    have hrun : exec (.pstepConfirm t) s = .next ((s.begun (thrQ t 0)).confirmEpoch.retire (thrQ t 0) i) :=
      next_issue h (by simp only [begun_pstepCheck, hcheck, hquiet])
    generalize (s.begun (thrQ t 0)).confirmEpoch = u at hstep hr hfold hcount hended hrun
    have hkeeps : ∀ f k, f ≠ .EN_Q_PC_PC → f ≠ .EN_Q_ISSUED_COUNT → (u.retire (thrQ t 0) i).rdi f k = u.rdi f k :=
      fun f k hpc hissued => retireTo_rdi u _ i _ (.inl hpc) (.inl hissued)
    refine ⟨_, hrun, ?_, (hkeeps _ _ (by decide) (by decide)).trans hfold,
      (hkeeps _ _ (by decide) (by decide)).trans hcount, hended, ?_, fun p => ?_, fun k hk => ?_⟩
    · rw [← hr]
      exact liveEpochs_congr fun f hf => hkeeps f 0 (by revert hf; revert f; decide) (by revert hf; revert f; decide)
    · refine (retireTo_pc ..).trans ?_
      rw [hstep.queue_eq, begun_loops]
    · exact hstep.byteAt_eq p
    · exact (retireTo_other _ _ _ _ hk).trans ((hstep.queue_eq k).trans (begun_other hk))
  case squash =>
    have hcheck : s.pstepCheck t 0x23 = .ok () := pstepCheck_ok hctl hon (by simp) (by simp)
    have hkeeps : ∀ w f, f ∈ liveFields → ((s.begun (thrQ t 0)).goOn (thrQ t 0) i w).rdi f 0 = s.rdi f 0 :=
      fun w f hf => goOn_rdi _ _ _ _ (.inl (by revert hf; revert f; decide)) (.inl (by revert hf; revert f; decide))
    have hrun : exec (.pstepSquash t) s = .next (((s.begun (thrQ t 0)).goOn (thrQ t 0) i
        (squashWork s (thrQ t 0) i e)).squashEpochs.releaseWrites.resume) :=
      next_issue h (by simp only [begun_pstepCheck, hcheck, begun_liveEpochs, hlive]; rfl)
    have hmem : squashWork s (thrQ t 0) i e ∈ (((s.begun (thrQ t 0)).goOn (thrQ t 0) i
        (squashWork s (thrQ t 0) i e)).queue (thrQ t 0)).work := by
      rw [goOn_work]
      exact List.mem_append_right _ (List.mem_singleton_self _)
    have hsettled : ∀ q, q < 52 → ∀ w ∈ (((s.begun (thrQ t 0)).goOn (thrQ t 0) i
        (squashWork s (thrQ t 0) i e)).queue q).work, w.settled := fun q hq w hw => by
      by_cases hself : q = thrQ t 0
      · subst hself
        rw [goOn_work, begun_work] at hw
        obtain hw | hw := List.mem_append.1 hw
        · exact hcalm.settled hq hw
        · exact .inl (List.mem_singleton.1 hw ▸ rfl)
      · rw [goOn_other _ _ _ _ hself, begun_other hself] at hw
        exact hcalm.settled hq hw
    have hbytes : ∀ p, ((s.begun (thrQ t 0)).goOn (thrQ t 0) i (squashWork s (thrQ t 0) i e)).byteAt p = s.byteAt p :=
      fun p => goOn_byteAt _ _ _ _ p
    have hnet : ((s.begun (thrQ t 0)).goOn (thrQ t 0) i (squashWork s (thrQ t 0) i e)).net = s.net := rfl
    have hlive' := (liveEpochs_congr (hkeeps (squashWork s (thrQ t 0) i e))).trans hlive
    obtain ⟨hgone, hsquash, hall, hesco, hesca, hnum, hbytes', hkept⟩ :=
      squashEpochs_shows hlive' (by rw [hnet, hcalm.writes]) hsettled
    exact ⟨_, _, hrun, hgone, hsquash, hall, hkept _ _ hmem (show WorkKind.squash ≠ .plain by decide), rfl, rfl, hesco, hesca,
      fun k hk => ⟨hnum k hk _ (by decide), hnum k hk _ (by decide), hnum k hk _ (by decide), hnum k hk _ (by decide)⟩,
      fun p => (hbytes' p).trans (hbytes p)⟩
  case nothing =>
    have hcheck : s.pstepCheck t 0x23 = .ok () := pstepCheck_ok hctl hon (by simp) (by simp)
    exact ⟨_, next_issue h (by simp only [begun_pstepCheck, hcheck, begun_liveEpochs, hlive]; rfl),
      (State.Poised.of_begun s _ []).retired i _ (by simp)⟩
  case none =>
    exact next_issue h (by simp only [begun_pstepCheck, pstepCheck_none hctl hon hlive])
  all_goals exact next_issue h (by simp only [begun_pstepCheck, pstepCheck_owner hctl])

end Sys2Proof.Machine

/-! An instruction with a descriptor (R103, R142), PSTEP.OPEN (O21), and the end of epochs (O22). -/

namespace Sys2Proof.Machine

/-! ### The descriptor of an instruction (R103, R142) -/

@[simp] theorem begun_descAt (s : State) (q : Nat) (i : Ins) : (s.begun q).descAt q i = s.descAt q i := by
  simp only [State.descAt, begun_loops]
  rfl

/-- An instruction that finds its descriptor, with no error to find there and no conflict, works on it. -/
theorem withDesc_of_finds {s : State} {q : Nat} {i : Ins} {x : Desc} (h : s.finds q i x) (hflaws : s.flaws = [])
    (hstall : s.mustStall q [x.span] [] none = false) (k : Desc → State → State) :
    withDesc q i (s.begun q) k = k x (s.begun q) := by
  obtain ⟨hspan, haddr, hspace, hclean, hword⟩ := h
  have hx : (⟨x.span.lo.toNat, x.span.space, pNat (s.readAt (s.viewOf (s.bindEpoch i)) x.span.space x.span.sub
      x.span.lo.toNat 64), x.span⟩ : Desc) = x := by
    rw [← hspace, ← haddr, ← hword]
  rw [haddr, hspace] at hclean
  simp only [withDesc, begun_descAt, hspan, begun_mustStall, hstall, begun_viewOf, begun_bindEpoch,
    senseAt_of_flawless ((begun_flaws s q).trans hflaws), begun_readAt, hclean, hx, Bool.false_eq_true, if_false]

/-! ### Open (R198 to R200) -/

@[simp] theorem begun_openCheck (s : State) (q t : Nat) (d : Desc) : (s.begun q).openCheck t d = s.openCheck t d := rfl
@[simp] theorem begun_openTallies (s : State) (q t w : Nat) : (s.begun q).openTallies t w = s.openTallies t w := rfl
@[simp] theorem begun_unfolded (s : State) (q : Nat) : (s.begun q).unfolded = s.unfolded := rfl

/-- The open epoch becomes the closed one. -/
def State.shut (s : State) : State :=
  (s.closeBanks.wr .PS_STAT_CLOSED 1).wr .PS_EPOCH_CLOSED_EPOCH (s.rd .PS_EPOCH_OPEN_EPOCH)

/-- Epoch `e` opens, the counts of the tallies `us` recorded. -/
def State.opens (s : State) (e : Nat) (us : List Nat) : State :=
  ((({ s with prov := { s.prov with
    checks := Tbl.put s.prov.checks e (us.map fun u => (u, s.tally u)), opened := true } } : State).wr .PS_STAT_OPEN 1).wr
      .PS_EPOCH_OPEN_EPOCH e).wr .PS_EPOCH_LAST_EPOCH e

theorem openEpoch_eq (s : State) (e : Nat) (us : List Nat) :
    s.openEpoch e us = (if s.flag .PS_STAT_OPEN 0 then s.shut else s).opens e us := rfl

theorem shut_stepped (s : State) : s.Stepped s.shut :=
  ((State.Stepped.of_banked (State.Banked.refl s).closeBanks).set (f := .PS_STAT_CLOSED) (by decide) 0 1).set
    (f := .PS_EPOCH_CLOSED_EPOCH) (by decide) 0 _

theorem opens_stepped (s : State) (e : Nat) (us : List Nat) : s.Stepped (s.opens e us) :=
  ((((State.Stepped.refl s).setProv _).set (f := .PS_STAT_OPEN) (by decide) 0 1).set (f := .PS_EPOCH_OPEN_EPOCH)
    (by decide) 0 e).set (f := .PS_EPOCH_LAST_EPOCH) (by decide) 0 e

/-- What a state shows once epoch `e` has opened in it. -/
theorem opens_shows (s : State) {e : Nat} (he : e < 2 ^ 32) (us : List Nat) :
    (s.opens e us).liveEpochs = (if s.flag .PS_STAT_CLOSED 0 then [s.rd .PS_EPOCH_CLOSED_EPOCH] else []) ++ [e] ∧
      (s.opens e us).rd .PS_EPOCH_LAST_EPOCH = e ∧
      Tbl.get [] (s.opens e us).prov.checks e = us.map fun k => (k, s.tally k) := by
  have hmod : e % 2 ^ 32 = e := Nat.mod_eq_of_lt he
  have hkeeps : ∀ f, f ≠ .PS_EPOCH_LAST_EPOCH ∧ f ≠ .PS_EPOCH_OPEN_EPOCH ∧ f ≠ .PS_STAT_OPEN →
      (s.opens e us).rdi f 0 = s.rdi f 0 := fun f ⟨hlast, hepoch, hopen⟩ =>
    (rdi_wri_other (.inl hlast)).trans ((rdi_wri_other (.inl hepoch)).trans (rdi_wri_other (.inl hopen)))
  have hopen : (s.opens e us).flag .PS_STAT_OPEN 0 = true := by
    have hone : (s.opens e us).rdi .PS_STAT_OPEN 0 = 1 :=
      (rdi_wri_other (.inl (by decide))).trans ((rdi_wri_other (.inl (by decide))).trans rdi_wri_same)
    rw [State.flag, hone]
    rfl
  have hepoch : (s.opens e us).rd .PS_EPOCH_OPEN_EPOCH = e :=
    (rd_wr_other (by decide)).trans (rd_wr_same.trans hmod)
  have hclosed : (s.opens e us).flag .PS_STAT_CLOSED 0 = s.flag .PS_STAT_CLOSED 0 :=
    congrArg (fun n => n != 0) (hkeeps _ (by decide))
  have hclosedE : (s.opens e us).rd .PS_EPOCH_CLOSED_EPOCH = s.rd .PS_EPOCH_CLOSED_EPOCH := hkeeps _ (by decide)
  refine ⟨?_, rd_wr_same.trans hmod, Tbl.get_put_same⟩
  rw [State.liveEpochs, hopen, hepoch, hclosed, hclosedE]
  rfl

theorem shut_shows {s : State} (he : s.rd .PS_EPOCH_OPEN_EPOCH < 2 ^ 32) :
    s.shut.flag .PS_STAT_CLOSED 0 = true ∧ s.shut.rd .PS_EPOCH_CLOSED_EPOCH = s.rd .PS_EPOCH_OPEN_EPOCH := by
  have hone : s.shut.rdi .PS_STAT_CLOSED 0 = 1 := (rdi_wri_other (.inl (by decide))).trans rdi_wri_same
  refine ⟨?_, rd_wr_same.trans (Nat.mod_eq_of_lt he)⟩
  rw [State.flag, hone]
  rfl

/-- With at most one epoch live, the new one is live behind it. -/
theorem openEpoch_shows {s : State} (hone : s.liveEpochs.length ≤ 1) (hopen : s.rd .PS_EPOCH_OPEN_EPOCH < 2 ^ 32) {e : Nat}
    (he : e < 2 ^ 32) (us : List Nat) : (s.openEpoch e us).liveEpochs = s.liveEpochs ++ [e] ∧
      (s.openEpoch e us).rd .PS_EPOCH_LAST_EPOCH = e ∧
      Tbl.get [] (s.openEpoch e us).prov.checks e = us.map (fun k => (k, s.tally k)) ∧
      s.Stepped (s.openEpoch e us) := by
  rw [openEpoch_eq]
  cases ho : s.flag .PS_STAT_OPEN 0 with
  | false =>
    obtain ⟨hlive, hlast, hcheck⟩ := opens_shows s he us
    refine ⟨hlive.trans ?_, hlast, hcheck, opens_stepped s e us⟩
    rw [State.liveEpochs, ho, if_neg Bool.false_ne_true, List.append_nil]
  | true =>
    have hclosed : s.flag .PS_STAT_CLOSED 0 = false := by
      cases hc : s.flag .PS_STAT_CLOSED 0 with
      | false => rfl
      | true => simp [State.liveEpochs, ho, hc] at hone
    obtain ⟨hshut, hshutE⟩ := shut_shows hopen
    obtain ⟨hlive, hlast, hcheck⟩ := opens_shows s.shut he us
    have htally : ∀ u, s.shut.tally u = s.tally u := fun u => (shut_stepped s).regs _ u (by decide)
    simp only [htally] at hcheck
    refine ⟨hlive.trans ?_, hlast, hcheck, (shut_stepped s).trans (opens_stepped s.shut e us)⟩
    rw [hshut, hshutE, State.liveEpochs, ho, hclosed]
    rfl

/-- Settles O21: past its checks the instruction opens the epoch (`openEpoch_shows`) and retires. -/
theorem openStartsEpoch : Obligations.OpenStartsEpoch := by
  intro s t i x us h hctl hon hone hflaws hopenE hfinds hstall hcheck htallies hroom
  have hdepth : (s.flag .PS_STAT_OPEN 0 && s.flag .PS_STAT_CLOSED 0) = false := by
    cases ho : s.flag .PS_STAT_OPEN 0 <;> cases hc : s.flag .PS_STAT_CLOSED 0 <;>
      simp [State.liveEpochs, ho, hc] at hone ⊢
  have hmay : s.pstepCheck t 0x21 = .ok () := pstepCheck_ok hctl hon (fun _ => hdepth) (by simp)
  have hrun : exec (.pstepOpen t) s =
      .next (((s.begun (thrQ t 0)).openEpoch (fld x.word 0 4) us).retire (thrQ t 0) i) := by
    refine next_issue h ?_
    simp only [begun_pstepCheck, hmay]
    rw [withDesc_of_finds hfinds hflaws hstall]
    simp only [begun_openCheck, hcheck, senseAt_of_flawless ((begun_flaws s _).trans hflaws), begun_openTallies, htallies,
      begun_liveEpochs, begun_unfolded]
    rw [if_neg (Nat.not_le.2 hroom)]
  have he : fld x.word 0 4 < 2 ^ 32 := Nat.mod_lt _ (by decide)
  obtain ⟨hlive, hlast, hchecks, hstep⟩ := openEpoch_shows (s := s.begun (thrQ t 0)) hone hopenE he us
  generalize (s.begun (thrQ t 0)).openEpoch (fld x.word 0 4) us = u at hrun hlive hlast hchecks hstep
  have hkeeps : ∀ f k, f ≠ .EN_Q_PC_PC → f ≠ .EN_Q_ISSUED_COUNT → (u.retire (thrQ t 0) i).rdi f k = u.rdi f k :=
    fun f k hpc hissued => retireTo_rdi u _ i _ (.inl hpc) (.inl hissued)
  refine ⟨_, hrun, ?_, (hkeeps _ _ (by decide) (by decide)).trans hlast, hchecks, hstep.byteAt_eq⟩
  rw [← begun_liveEpochs s (thrQ t 0), ← hlive]
  exact liveEpochs_congr fun f hf => hkeeps f 0 (by revert hf; revert f; decide) (by revert hf; revert f; decide)

end Sys2Proof.Machine

/-! The restore of a squash and the fold of an ended epoch (O22). -/

namespace Sys2Proof.Machine

/-! ### The restore (R202, R207) -/

/-- The count `n` of tally `u` is back from the checkpoint of epoch `e`; the squashes behind it are `r`. -/
def State.countBack (s : State) (e u n : Nat) (r : List Nat) : State :=
  let t := ((s.setTally u n).setWaiters u []).dropCheck e
  { t with prov := { t.prov with squashing := r } }

/-- No instruction of a completed one's number goes on. -/
theorem complete_done (s : State) (q id : Nat) {w : Work} (hw : w ∈ ((s.complete q id).queue q).work) (hid : w.id = id) :
    w.done = true := by
  cases hfind : (s.queue q).work.find? fun x => x.id == id with
  | none =>
    have hsame : (s.complete q id).queue q = s.queue q := by simp [State.complete, hfind]
    rw [hsame] at hw
    exact absurd (List.find?_eq_none.1 hfind w hw) (by simp [hid])
  | some y =>
    have hy : y.id = id := by simpa using List.find?_some hfind
    rw [complete_queue hfind] at hw
    dsimp only at hw
    unfold finished at hw
    split at hw
    · exact absurd (List.mem_filter.1 hw).2 (by simp [hid, hy])
    · obtain ⟨x, -, rfl⟩ := List.mem_map.1 hw
      split at hid
      · next hx => simp [hx]
      · next hx => exact absurd (hid.trans hy.symm) hx

theorem squashRestore_run {s : State} {e u n : Nat} {r : List Nat} (hsquash : s.prov.squashing = e :: r)
    (hdrained : s.squashDrained = true) (hnone : s.waiters = []) (hcheck : Tbl.get [] s.prov.checks e = [(u, n)])
    (halloc : s.allocated u = true) (hend : ∀ q id, s.squasher e = some (q, id) → (s.queue q).ending = none) :
    s.squasher e = none ∧ exec .squashRestore s = .next (s.countBack e u n r) ∨
      ∃ q id, s.squasher e = some (q, id) ∧ exec .squashRestore s = .next ((s.countBack e u n r).complete q id) := by
  have hserve : (s.setTally u n).serve u = (s.setTally u n).setWaiters u [] :=
    serve_of_no_waiters (by rw [State.waitersOf, setTally_waiters, hnone]; rfl)
  have hsame : (s.countBack e u n r).squasher e = s.squasher e := rfl
  have hrun : ∀ x, (s.countBack e u n r).squasher e = x → exec .squashRestore s = .next (x.elim (s.countBack e u n r)
      fun y => ((s.countBack e u n r).complete y.1 y.2).settleEnd y.1) := by
    rintro x hx
    show execSquashRestore s = _
    unfold execSquashRestore
    rw [hsquash]
    simp only [hdrained, hcheck, List.foldl_cons, List.foldl_nil, halloc, if_true, hserve]
    split
    · next hno =>
      obtain rfl : none = x := hno.symm.trans hx
      rfl
    · next q id hsome =>
      obtain rfl : some (q, id) = x := hsome.symm.trans hx
      rfl
  cases hq : s.squasher e with
  | none => exact .inl ⟨rfl, hrun none (hsame.trans hq)⟩
  | some y =>
    obtain ⟨q, id⟩ := y
    refine .inr ⟨q, id, rfl, (hrun _ (hsame.trans hq)).trans (congrArg Host.Outcome.next (settleEnd_of_none ?_))⟩
    have hkept : ∀ v : State, ((v.complete q id).queue q).ending = (v.queue q).ending := fun v => by
      rw [State.complete, queue_updQueue_same]
      split <;> rfl
    exact (hkept _).trans (hend q id hq)

/-! ### The fold (R203) -/

/-- The one tagged granule as the fold of its ended epoch leaves it, where its entry is DUAL. -/
theorem settled_dual {s : State} {r : Vreg} {gr : Granule} {e : Nat} (hdual : r.scratch = false)
    (htag : gr.tag = some e) (hdead : s.live e = false) :
    s.settled r gr = (⟨if s.squashed e then gr.sideB else !gr.sideB, none⟩, false) := by
  unfold State.settled
  rw [htag]
  simp only [hdead, hdual, Bool.false_eq_true, if_false]
  split <;> rfl

theorem granKey_entry {v g : Nat} (hg : g < 2 ^ 23) : granKey v g / 2 ^ 23 = v ∧ granKey v g % 2 ^ 23 = g := by
  unfold granKey
  omega

theorem foldGranule_dual {s : State} {v g e : Nat} {gr : Granule} (hg : g < 2 ^ 23) (hgr : s.granule v g = gr)
    (hdual : s.flag .PS_VREG_CFG_KIND v = false) (htag : gr.tag = some e) (hdead : s.live e = false) :
    s.foldGranule (granKey v g) =
      s.setGranule v g ⟨if s.squashed e then gr.sideB else !gr.sideB, none⟩ := by
  obtain ⟨hv, hrest⟩ := granKey_entry (v := v) hg
  have hsettled : s.settled (s.vregAt v) (s.granule (s.vregAt v).v g) =
      (⟨if s.squashed e then gr.sideB else !gr.sideB, none⟩, false) := by
    rw [show (s.vregAt v).v = v from rfl, hgr]
    exact settled_dual hdual htag hdead
  unfold State.foldGranule
  dsimp only
  rw [hv, hrest, hsettled]
  rfl

/-- The ended epoch `e` is folded; FOLDING shows whether another still folds. -/
def State.foldDone (s : State) (e : Nat) : State :=
  let t := { s with prov := { s.prov with
    ended := s.prov.ended.map fun (y : Machine.Ended) => if y.epoch = e then { y with folded := true } else y } }
  t.wr .PS_STAT_FOLDING (b2n (!t.unfolded.isEmpty))

theorem granule_setGranule (s : State) (v g : Nat) (x : Granule) : (s.setGranule v g x).granule v g = x :=
  Tbl.get_set_same

/-- Settles O22: the count comes back and the SQUASH completes (`squashRestore_run`); the fold settles the one granule
tagged with the epoch (`foldGranule_dual`). -/
theorem restoreAndFold : Obligations.RestoreAndFold := by
  refine ⟨fun s e u n r hsquash hdrained hnone hcheck hn halloc hend => ?restore, fun s h => ?idle,
    fun s x r v g gr hended hopen hgrans htag _ hg hdual hdead hlost => ?fold⟩
  case restore =>
    have htally : (s.countBack e u n r).tally u = n := rdi_wri_same.trans (Nat.mod_eq_of_lt hn)
    have hothers : ∀ k, k ≠ u → (s.countBack e u n r).tally k = s.tally k := fun k hk => rdi_wri_other (.inr hk)
    obtain ⟨hno, hrun⟩ | ⟨q, id, hq, hrun⟩ := squashRestore_run hsquash hdrained hnone hcheck halloc hend
    · refine ⟨_, hrun, htally, rfl, fun q id hsome => ?_, hothers, fun _ => rfl⟩
      rw [hno] at hsome
      cases hsome
    · refine ⟨_, hrun, htally, rfl, fun q' id' hsome w hw hid => ?_, hothers, fun _ => rfl⟩
      obtain ⟨rfl, rfl⟩ : q = q' ∧ id = id' := by
        rw [hq] at hsome
        exact Prod.mk.inj (Option.some.inj hsome)
      exact complete_done _ q id hw hid
  case idle =>
    show execSquashRestore s = .next s
    unfold execSquashRestore
    split
    · rfl
    · next e r hsquash =>
      obtain hnil | hbusy := h
      · exact absurd (hsquash.symm.trans hnil) (List.cons_ne_nil _ _)
      · exact if_neg (ne_true_of_eq_false hbusy)
  case fold =>
    have hgr : s.granule v g = gr := by
      rw [State.granule, hgrans]
      exact if_pos rfl
    have hfirst : s.unfolded.head? = some x := by simp [State.unfolded, hended, hopen]
    have hkeys : (s.prov.granules.filterMap fun y => if y.2.tag = some x.epoch then some y.1 else none) = [granKey v g] := by
      simp [hgrans, htag]
    have hrun : exec .epochFold s = .next ((s.setGranule v g ⟨if x.squashed then gr.sideB else !gr.sideB, none⟩).foldDone
        x.epoch) := by
      rw [← hlost, ← foldGranule_dual hg hgr hdual htag hdead]
      show execEpochFold s = _
      unfold execEpochFold
      rw [hfirst]
      simp only [hkeys, List.foldl_cons, List.foldl_nil]
      rfl
    refine ⟨_, hrun, ?_, ?_, ?_, fun _ => rfl, fun f k hf => rdi_wri_other (.inl hf)⟩
    · exact congrArg Granule.tag (granule_setGranule s v g _)
    · exact congrArg Granule.sideB (granule_setGranule s v g _)
    · show ((s.prov.ended.map _).head?.map Ended.folded) = some true
      rw [hended]
      simp

end Sys2Proof.Machine

/-! What faults, drains and the taking of tiles leave of the partitions: their states, codes and active tiles (R71, R74
to R76, R107). -/

namespace Sys2Proof.Machine

/-! ### Registers and records of partitions that stay -/

/-- The register fields of a partition's fault. -/
def partFields : List F := [.TH_PART_STAT_STATE, .TH_PART_STAT_CODE, .TH_STAT_NFAULT]

/-- `t` has the partitions of `s`, and the registers of their faults. -/
structure State.PartsKept (s t : State) : Prop where
  parts : t.parts = s.parts
  regs : ∀ f ∈ partFields, ∀ k, t.rdi f k = s.rdi f k

theorem State.Stored.partsKept {s t : State} (h : s.Stored t) : s.PartsKept t :=
  ⟨(congrArg State.parts h.rest :), fun f hf k => h.regs f k (by revert hf; revert f; decide)⟩

theorem State.Logged.partsKept {s t : State} {fs : List F} (h : s.Logged t fs) (hfs : ∀ f ∈ partFields, f ∉ fs) :
    s.PartsKept t := ⟨(congrArg State.parts h.rest :), fun f hf k => h.regs f k (hfs f hf)⟩

theorem State.Halted.partsKept {s t : State} (h : s.Halted t) : s.PartsKept t :=
  ⟨(congrArg State.parts h.rest :), fun f hf k => h.regs f k (by revert hf; revert f; decide)⟩

theorem State.Digested.partsKept {s t : State} (h : s.Digested t) : s.PartsKept t :=
  ⟨(congrArg State.parts h.rest :), fun f hf k => h.regs f k (by revert hf; revert f; decide)⟩

namespace State.PartsKept

variable {s t u : State}

theorem refl (s : State) : s.PartsKept s := ⟨rfl, fun _ _ _ => rfl⟩

theorem trans (h : s.PartsKept t) (k : t.PartsKept u) : s.PartsKept u :=
  ⟨k.parts.trans h.parts, fun f hf j => (k.regs f hf j).trans (h.regs f hf j)⟩

theorem ite (h : s.PartsKept t) {p : Prop} [Decidable p] (k : s.PartsKept u) : s.PartsKept (if p then t else u) := by
  split <;> assumption

theorem foldl {α : Type} {f : State → α → State} (hf : ∀ t a, s.PartsKept t → s.PartsKept (f t a)) (l : List α)
    (h : s.PartsKept t) : s.PartsKept (l.foldl f t) := foldl_keeps hf l h

theorem set (h : s.PartsKept t) {f : F} (hf : f ∉ partFields) (k v : Nat) : s.PartsKept (t.wri f k v) :=
  ⟨h.parts, fun g hg j => (rdi_wri_other (.inl fun (e : g = f) => hf (e ▸ hg))).trans (h.regs g hg j)⟩

theorem addSat (h : s.PartsKept t) {f : F} (hf : f ∉ partFields) (k n : Nat) : s.PartsKept (t.addSat f k n) :=
  h.set hf k _

theorem updQueue (h : s.PartsKept t) (q : Nat) (g : Queue → Queue) : s.PartsKept (t.updQueue q g) := ⟨h.parts, h.regs⟩

theorem updTurner (h : s.PartsKept t) (q : Nat) (g : Turner → Turner) : s.PartsKept (t.updTurner q g) :=
  ⟨h.parts, h.regs⟩

theorem markReady (h : s.PartsKept t) (q id : Nat) : s.PartsKept (t.markReady q id) := h.updQueue _ _

theorem part_eq (h : s.PartsKept t) (q p : Nat) : t.part q p = s.part q p := by rw [State.part, h.parts, State.part]

theorem failWork (h : s.PartsKept t) (q id : Nat) (f : EFault) : s.PartsKept (t.failWork q id f) := by
  refine h.trans ?_
  cases hw : t.workAt q id with
  | none =>
    unfold State.workAt at hw
    rw [State.failWork, hw]
    exact (engineFault_halted t q f _).partsKept
  | some x =>
    rw [failWork_of_work hw]
    refine PartsKept.trans ?_ (engineFault_halted _ q f x.pc).partsKept
    refine PartsKept.trans ?_ ((State.Digested.refl _).leaveDigest q x).partsKept
    have hstatus : t.Stored (if x.kind = .rscat then t.writeStatus x f.code.val else t) :=
      ((State.Stored.refl t).writeStatus _ _).ite (.refl t)
    exact ⟨hstatus.partsKept.parts, hstatus.partsKept.regs⟩

theorem raiseNum (h : s.PartsKept t) (k bank : Nat) (ovf nan : Bool) : s.PartsKept (t.raiseNum k bank ovf nan) := by
  have hflag : ∀ v : State, s.PartsKept v → ∀ a b c : F, a ∉ partFields → b ∉ partFields → c ∉ partFields →
      ∀ on : Bool, s.PartsKept (if on then match bank with
        | 0 => v.wri a k 1
        | 1 => v.wri b k 1
        | 2 => v.wri c k 1
        | _ => v
        else v) := by
    intro v hv a b c ha hb hc on
    split
    · split
      · exact hv.set ha k 1
      · exact hv.set hb k 1
      · exact hv.set hc k 1
      · exact hv
    · exact hv
  exact hflag _ (hflag t h _ _ _ (by decide) (by decide) (by decide) ovf) _ _ _ (by decide) (by decide) (by decide) nan

theorem noteConv (h : s.PartsKept t) (k bank : Nat) (r : Conv) : s.PartsKept (t.noteConv k bank r) := by
  have hesc : ∀ v : State, s.PartsKept v → s.PartsKept (v.raiseEsc bank) := fun v hv => by
    unfold State.raiseEsc
    split
    · exact hv.set (f := .PS_ESC_FLAG_ESC_C) (by decide) 0 1
    · exact hv.set (f := .PS_ESC_FLAG_ESC_O) (by decide) 0 1
    · exact hv.set (f := .PS_ESC_FLAG_ESC_A) (by decide) 0 1
    · exact hv
  have hcount := PartsKept.ite (p := r.esc = true) ((h.raiseNum k bank r.ovf r.nan).addSat (f := .WN_ESC_CNT_CONV)
    (by decide) (thrBay k) 1) (h.raiseNum k bank r.ovf r.nan)
  exact ((hesc _ hcount).addSat (f := .WN_SAT_CNT_COUNT) (by decide) 0 1).ite hcount

theorem writeUnits (h : s.PartsKept t) (view : View) (k bank : Nat) (l : List OutUnit) :
    s.PartsKept (t.writeUnits view k bank l) := by
  have hruns : t.Stored (t.writeRuns view (l.map fun u => ⟨u.space, u.thr, u.addr, clean u.conv.bytes⟩)) :=
    State.Stored.foldl (fun _ _ h => h.writeResult _ _ _ _ _) _ (.refl t)
  exact foldl (fun _ _ h => h.noteConv _ _ _) l (h.trans hruns.partsKept)

theorem endPart (h : s.PartsKept t) (k : Nat) (r : Role) (id : Nat) : s.PartsKept (t.endPart k r id) := by
  unfold State.endPart
  split
  · exact h
  · exact ((h.writeUnits _ _ _ _).ite h).markReady _ _

theorem endPass (h : s.PartsKept t) (k : Nat) (x : Pass) : s.PartsKept (t.endPass k x) := by
  refine foldl (fun v r hv => ?_) _ h
  split
  · exact hv.ite (hv.endPart _ _ _)
  · exact hv

theorem passBanks (h : s.PartsKept t) (k n : Nat) : s.PartsKept (t.passBanks k n).2 := by
  refine (foldl (fun v c hv => ?_) _ h).updTurner _ _
  have hraise := fun (w : State) e => ((State.Logged.refl w logFields).partsKept (by decide)).trans
    ((raise_logged w e 7 k 0 0 0).partsKept (by decide))
  unfold countCode
  split
  · exact hv
  · exact (hv.set (f := .TN_ECC_CE) (by decide) k _).trans (hraise _ _)
  · exact (hv.set (f := .TN_ECC_UE) (by decide) k _).trans (hraise _ _)

theorem takeOperand (h : s.PartsKept t) (view : View) (k : Nat) (o : Operand) (routed : Bool) :
    s.PartsKept (t.takeOperand view k o routed).2 := by
  have hsense : s.PartsKept (t.senseOperand view k o) := by
    unfold State.senseOperand
    split
    · exact h
    · exact h.trans (State.Stored.foldl (fun _ _ h => h.senseAt _ _ _ _ _) _ (.refl t)).partsKept
  unfold State.takeOperand
  dsimp only
  split
  · exact (hsense.passBanks _ _).set (f := .TN_SQUARE_CNT_COUNT) (by decide) k _
  · exact hsense

end State.PartsKept

/-! ### Partitions that go on (R86, R107) -/

theorem partKey_inj {t p k : Nat} (h : partKey t p = partKey t k) : p = k := Nat.add_left_cancel h

theorem part_updPart_other (s : State) {t p k : Nat} (g : Part → Part) (h : k ≠ p) :
    (s.updPart t p g).part t k = s.part t k := Tbl.get_upd_other fun e => h (partKey_inj e)

/-- `u` is `s` after partitions of thresher `t` have gone on: every active tile stays, and one without a pass has none. -/
structure State.Advanced (s u : State) (t : Nat) : Prop where
  regs : ∀ f ∈ partFields, ∀ k, u.rdi f k = s.rdi f k
  active : ∀ p, (u.part t p).active = (s.part t p).active
  idle : ∀ p, (s.part t p).passes = [] → (u.part t p).passes = []

theorem State.PartsKept.advanced {s u : State} (h : s.PartsKept u) (t : Nat) : s.Advanced u t :=
  ⟨h.regs, fun p => by rw [h.part_eq], fun p hp => by rw [h.part_eq, hp]⟩

namespace State.Advanced

variable {s u v : State} {t : Nat}

theorem refl (s : State) (t : Nat) : s.Advanced s t := (PartsKept.refl s).advanced t

theorem trans (h : s.Advanced u t) (k : u.Advanced v t) : s.Advanced v t :=
  ⟨fun f hf j => (k.regs f hf j).trans (h.regs f hf j), fun p => (k.active p).trans (h.active p),
    fun p hp => k.idle p (h.idle p hp)⟩

/-- A change of a partition that keeps its active tile, and that leaves it without a pass where it has none. -/
theorem updPart (s : State) {t p : Nat} {g : Part → Part} (hactive : ∀ x, (g x).active = x.active)
    (hidle : (s.part t p).passes = [] → (g (s.part t p)).passes = []) : s.Advanced (s.updPart t p g) t := by
  refine ⟨fun _ _ _ => rfl, fun k => ?_, fun k hk => ?_⟩
  · by_cases hkp : k = p
    · rw [hkp, part_updPart_same, hactive]
    · rw [part_updPart_other _ _ hkp]
  · by_cases hkp : k = p
    · subst hkp
      rw [part_updPart_same, hidle hk]
    · rw [part_updPart_other _ _ hkp, hk]

theorem popPasses (s : State) (t p : Nat) : s.Advanced (s.popPasses t p) t :=
  updPart s (fun _ => rfl) fun h => by rw [h, List.drop_nil]

theorem setHead (s : State) {t p : Nat} (h : (s.part t p).passes ≠ []) (x : Pass) : s.Advanced (s.setHead t p x) t :=
  updPart s (fun _ => rfl) fun hnil => absurd hnil h

theorem loadHead (s : State) {t p : Nat} (h : (s.part t p).passes ≠ []) (x : Pass) (w : Work) :
    s.Advanced (s.loadHead t p x w) t := by
  have htake := (PartsKept.refl s).takeOperand (s.viewOf w.bound) t (PassDesc.ofWord w.desc).weights
    (PassDesc.ofWord w.desc).wTurn
  unfold State.loadHead
  dsimp only
  generalize s.takeOperand (s.viewOf w.bound) t (PassDesc.ofWord w.desc).weights (PassDesc.ofWord w.desc).wTurn = y
    at htake
  obtain ⟨g, v⟩ := y
  have hne : (v.part t p).passes ≠ [] := by
    rw [htake.part_eq]
    exact h
  refine (htake.advanced t).trans ?_
  dsimp only
  split
  · exact (setHead v hne _).trans ((((PartsKept.refl _).failWork _ _ _).endPass _ _).advanced t)
  · have hshadow : v.Advanced (v.updPart t p fun y => { y with shadow := some ((PassDesc.ofWord w.desc).tileOf g) }) t :=
      updPart v (fun _ => rfl) id
    have hne' : ((v.updPart t p fun y => { y with shadow := some ((PassDesc.ofWord w.desc).tileOf g) }).part t
        p).passes ≠ [] := by
      rw [part_updPart_same]
      exact hne
    exact (hshadow.trans (setHead _ hne' _)).trans (((PartsKept.refl _).markReady _ _).advanced t)

theorem advancePart (t p n : Nat) (s : State) : s.Advanced (Machine.advancePart t p n s) t := by
  induction n generalizing s with
  | zero => exact refl s t
  | succ n ih =>
    have hpop := popPasses s t p
    unfold Machine.advancePart
    dsimp only
    generalize s.popPasses t p = v at hpop
    split
    · exact hpop
    · next x l hpasses =>
      split
      · split
        · exact hpop
        · split
          · exact hpop
          · split
            · exact (hpop.trans (loadHead v (by rw [hpasses]; exact List.cons_ne_nil _ _) _ _)).trans (ih _)
            · exact hpop
      · exact hpop

theorem advanceTurned (t n : Nat) (s : State) : s.Advanced (Machine.advanceTurned t n s) t := by
  induction n generalizing s with
  | zero => exact refl s t
  | succ n ih =>
    unfold Machine.advanceTurned
    split
    · exact refl s t
    · dsimp only
      split
      · exact advancePart t _ _ s
      · exact (advancePart t _ _ s).trans (ih _)

theorem advancePasses (s : State) (t p : Nat) : s.Advanced (s.advancePasses t p) t :=
  (advancePart t p _ s).trans (advanceTurned t _ _)

end State.Advanced

end Sys2Proof.Machine

/-! Partitions and organisations (O40). -/

namespace Sys2Proof.Machine

/-! ### Partition faults (R71, R74 to R77) -/

/-- The state in which the fault of partition `p` has been recorded. -/
def State.partNoted (s : State) (t p : Nat) (c : E) : State :=
  (((s.wri .TH_PART_STAT_STATE (partKey t p) 3).wri .TH_PART_STAT_CODE (partKey t p) c.val).addWrap .TH_STAT_NFAULT t
    1).raise c 0 t p 0 0

theorem partNoted_shows (s : State) (t p : Nat) (c : E) :
    (s.partNoted t p c).rdi .TH_PART_STAT_STATE (partKey t p) = 3 ∧
      (s.partNoted t p c).rdi .TH_PART_STAT_CODE (partKey t p) = c.val ∧
      (s.partNoted t p c).rdi .TH_STAT_NFAULT t = (s.rdi .TH_STAT_NFAULT t + 1) % 1024 := by
  have hcode : c.val < 2 ^ F.TH_PART_STAT_CODE.info.width := by cases c <;> decide
  have hlog := fun f k (hf : f ∉ logFields) => (raise_logged (((s.wri .TH_PART_STAT_STATE (partKey t p) 3).wri
    .TH_PART_STAT_CODE (partKey t p) c.val).addWrap .TH_STAT_NFAULT t 1) c 0 t p 0 0).regs f k hf
  refine ⟨(hlog _ _ (by decide)).trans ?_, (hlog _ _ (by decide)).trans ?_, (hlog _ _ (by decide)).trans ?_⟩
  · exact (rdi_wri_other (.inl (by decide))).trans ((rdi_wri_other (.inl (by decide))).trans rdi_wri_same)
  · exact (rdi_wri_other (.inl (by decide))).trans (rdi_wri_same.trans (Nat.mod_eq_of_lt hcode))
  · have hsame : ((s.wri .TH_PART_STAT_STATE (partKey t p) 3).wri .TH_PART_STAT_CODE (partKey t p) c.val).rdi
        .TH_STAT_NFAULT t = s.rdi .TH_STAT_NFAULT t :=
      (rdi_wri_other (.inl (by decide))).trans (rdi_wri_other (.inl (by decide)))
    refine rdi_wri_same.trans ?_
    rw [hsame]
    rfl

theorem State.PartsKept.dropUnbegun {s u : State} (h : s.PartsKept u) (t p : Nat) (x : Pass) :
    s.PartsKept (u.dropUnbegun t p x) :=
  h.ite ((h.set (f := .TH_PART_STAT_DROP) (by decide) _ 1).endPass t x)

/-- What follows the record of a fault keeps it, and leaves the partition without a pass. -/
theorem faultPart_keeps (s : State) (t p : Nat) (c : E) :
    (∀ f ∈ partFields, ∀ k, (s.faultPart t p c).rdi f k = (s.partNoted t p c).rdi f k) ∧
      ((s.faultPart t p c).part t p).passes = [] := by
  unfold State.faultPart
  dsimp only
  generalize (s.swapOf t p).isSome = begun
  generalize (s.part t p).passes = l
  rw [← State.partNoted]
  generalize s.partNoted t p c = v
  have htile : ∀ f k, (if begun then v.swapTile t p else v).rdi f k = v.rdi f k := fun f k => by
    split <;> rfl
  generalize (if begun then v.swapTile t p else v) = a at htile
  have hended : a.PartsKept (match begun, l with
      | true, x :: _ => a.endPass t x
      | _, _ => a) := by
    split
    · exact (State.PartsKept.refl a).endPass t _
    · exact .refl a
  have hdropped : ∀ b, a.PartsKept b → ∀ m : List Pass, a.PartsKept (m.foldl (fun s x => s.dropUnbegun t p x) b) :=
    fun b hb m => State.PartsKept.foldl (fun _ x h => h.dropUnbegun t p x) m hb
  have hkept := hdropped _ hended (if begun then l.drop 1 else l)
  generalize List.foldl _ _ _ = b at hkept
  have hadvanced := State.Advanced.advancePasses (b.updPart t p fun x => { x with passes := [] }) t p
  refine ⟨fun f hf k => ?_, hadvanced.idle p ?_⟩
  · exact (hadvanced.regs f hf k).trans ((hkept.regs f hf k).trans (htile f k))
  · rw [part_updPart_same]

/-- A partition that faults has its code and no pass. -/
theorem faultPart_shows (s : State) (t p : Nat) (c : E) :
    (s.faultPart t p c).rdi .TH_PART_STAT_STATE (partKey t p) = 3 ∧
      (s.faultPart t p c).rdi .TH_PART_STAT_CODE (partKey t p) = c.val ∧ ((s.faultPart t p c).part t p).passes = [] ∧
      (s.faultPart t p c).rdi .TH_STAT_NFAULT t = (s.rdi .TH_STAT_NFAULT t + 1) % 1024 := by
  obtain ⟨hstate, hcode, hcount⟩ := partNoted_shows s t p c
  obtain ⟨hregs, hidle⟩ := faultPart_keeps s t p c
  exact ⟨(hregs _ (by decide) _).trans hstate, (hregs _ (by decide) _).trans hcode, hidle,
    (hregs _ (by decide) _).trans hcount⟩

/-! ### Organisations (R56 to R58) -/

/-- Every partition of thresher `t` READY where `on` says so, else off, with no code and no freezes counted. -/
def State.partsReady (s : State) (t : Nat) (on : Nat → Nat) : State :=
  (List.range 576).foldl (fun s p => ((s.wri .TH_PART_STAT_STATE (partKey t p) (on p)).wri .TH_PART_STAT_CODE
    (partKey t p) 0).wri .TH_PART_FREEZE_COUNT (partKey t p) 0) s

theorem partsReady_logged (s : State) (t : Nat) (on : Nat → Nat) :
    s.Logged (s.partsReady t on) [.TH_PART_STAT_STATE, .TH_PART_STAT_CODE, .TH_PART_FREEZE_COUNT] :=
  State.Logged.foldl (fun _ p h => ((h.wri (f := .TH_PART_STAT_STATE) (by decide) _ _).wri (f := .TH_PART_STAT_CODE)
    (by decide) _ _).wri (f := .TH_PART_FREEZE_COUNT) (by decide) _ _) _ (.refl s _)

theorem partsReady_state (s : State) {t p : Nat} {on : Nat → Nat} (hp : p < 576) (hon : on p < 4) :
    (s.partsReady t on).rdi .TH_PART_STAT_STATE (partKey t p) = on p := by
  have hkeeps : ∀ (v : State) (k : Nat), (((v.wri .TH_PART_STAT_STATE (partKey t k) (on k)).wri
      .TH_PART_STAT_CODE (partKey t k) 0).wri .TH_PART_FREEZE_COUNT (partKey t k) 0).rdi .TH_PART_STAT_STATE
      (partKey t p) = (v.wri .TH_PART_STAT_STATE (partKey t k) (on k)).rdi .TH_PART_STAT_STATE (partKey t p) :=
    fun v k => (rdi_wri_other (.inl (by decide))).trans (rdi_wri_other (.inl (by decide)))
  unfold State.partsReady
  refine foldl_range_at (P := fun _ : State => True) (Q := fun v : State => v.rdi .TH_PART_STAT_STATE (partKey t p) = on p)
    hp (fun _ _ _ _ => trivial) (fun v _ => ?_) (fun v i hi hv => ?_) trivial
  · rw [hkeeps v p]
    exact rdi_wri_same.trans (Nat.mod_eq_of_lt hon)
  · rw [hkeeps v i]
    exact (rdi_wri_other (.inr fun h => hi (partKey_inj h).symm)).trans hv

theorem Tbl.find_put_same {α : Type} {t : List (Nat × α)} {k : Nat} {v : α} : Tbl.find (Tbl.put t k v) k = some v := by
  induction t with
  | nil => simp [Tbl.put, Tbl.find]
  | cons e r ih =>
    obtain ⟨j, w⟩ := e
    simp only [Tbl.put]
    split_ifs with h1 h2
    · simp [Tbl.find]
    · simp [Tbl.find]
    · simpa [Tbl.find, h1] using ih

theorem Tbl.find_put_other {α : Type} {t : List (Nat × α)} {k j : Nat} {v : α} (h : j ≠ k) :
    Tbl.find (Tbl.put t k v) j = Tbl.find t j := by
  induction t with
  | nil => simp [Tbl.put, Tbl.find, Ne.symm h]
  | cons e r ih =>
    obtain ⟨i, w⟩ := e
    simp only [Tbl.put]
    split_ifs with h1 h2
    · subst h1
      simp [Tbl.find, Ne.symm h]
    · simp [Tbl.find, Ne.symm h]
    · simp [Tbl.find, ih]

theorem Tbl.find_eq_none {α : Type} {t : List (Nat × α)} {k : Nat} (h : ∀ e ∈ t, e.1 ≠ k) : Tbl.find t k = none := by
  induction t with
  | nil => rfl
  | cons e r ih =>
    obtain ⟨i, w⟩ := e
    obtain ⟨he, hr⟩ := List.forall_mem_cons.1 h
    rw [Tbl.find, if_neg he, ih hr]

/-- The entries of partitions put into a table: a partition of the list is found, any other as before. -/
theorem find_putEntries (t : Nat) {es : List (Nat × Rect)} (hnodup : (es.map Prod.fst).Nodup) (o : List (Nat × Rect))
    (p : Nat) : Tbl.find (es.foldl (fun o e => Tbl.put o (partKey t e.1) e.2) o) (partKey t p) =
      ((es.find? fun e => e.1 == p).map Prod.snd).or (Tbl.find o (partKey t p)) := by
  induction es generalizing o with
  | nil => rfl
  | cons e es ih =>
    obtain ⟨hnot, hrest⟩ := List.nodup_cons.1 hnodup
    rw [List.foldl_cons, ih hrest]
    by_cases he : e.1 = p
    · subst he
      have hnone : es.find? (fun x => x.1 == e.1) = none := List.find?_eq_none.2 fun x hx heq =>
        hnot (List.mem_map.2 ⟨x, hx, beq_iff_eq.1 heq⟩)
      rw [hnone, Tbl.find_put_same, List.find?_cons]
      simp
    · have hne : partKey t p ≠ partKey t e.1 := fun h => he (partKey_inj h).symm
      rw [Tbl.find_put_other hne, List.find?_cons, beq_eq_false_iff_ne.2 he]

theorem filterMap_fst {α : Type} (c : Nat → Bool) (g : Nat → α) (l : List Nat) :
    ((l.filterMap fun p => if c p then some (p, g p) else none).map Prod.fst) = l.filter c := by
  induction l with
  | nil => rfl
  | cons p l ih => cases hc : c p <;> simp [hc, ih]

theorem filterMap_find {α : Type} (c : Nat → Bool) (g : Nat → α) (l : List Nat) (p : Nat) :
    (l.filterMap fun p => if c p then some (p, g p) else none).find? (fun e => e.1 == p) =
      if p ∈ l ∧ c p then some (p, g p) else none := by
  induction l with
  | nil => simp
  | cons k l ih =>
    by_cases hk : k = p
    · subst hk
      cases hc : c k
      · simp [hc, ih]
      · simp [hc]
    · cases hc : c k <;> simp [hc, ih, hk, Ne.symm hk]

theorem stagedEntries_nodup (s : State) (t : Nat) : ((s.stagedEntries t).map Prod.fst).Nodup := by
  rw [State.stagedEntries, filterMap_fst]
  exact List.Nodup.filter _ List.nodup_range

theorem stagedEntries_find (s : State) {t p : Nat} (hp : p < 576) :
    (s.stagedEntries t).find? (fun e => e.1 == p) =
      if s.flag .TH_PART_CFG_EN (partKey t p) then some (p, s.stagedRect t p) else none := by
  rw [State.stagedEntries, filterMap_find]
  simp [hp]

/-- What a commit's checks and its staged entries rest on. -/
theorem commitStatus_judged (s : State) (t : Nat) (m : Nat) :
    (s.wri .TH_ORG_MODE t m).commitStatus t m = s.commitStatus t m ∧
      ∀ v, ((s.wri .TH_ORG_MODE t m).wri .TH_ORG_STATUS t v).stagedEntries t = s.stagedEntries t := by
  constructor
  · simp [State.commitStatus, State.idleAll, State.qState, State.modeBusy, State.flag, State.stagedEntries,
      State.stagedRect, rdi_wri_other]
  · intro v
    simp [State.stagedEntries, State.flag, State.stagedRect, rdi_wri_other]

theorem commitStatus_lt (s : State) (t mode : Nat) : s.commitStatus t mode < 2 ^ F.TH_ORG_STATUS.info.width := by
  unfold State.commitStatus
  dsimp only
  split_ifs <;> decide

/-- The organisation in force once the entries `es` of thresher `t` are. -/
def State.orgOf (s : State) (t : Nat) (es : List (Nat × Rect)) : State :=
  { s with
    org := es.foldl (fun o e => Tbl.put o (partKey t e.1) e.2) (dropThresher t s.org), parts := dropThresher t s.parts }

/-- The registers that sum an organisation up. -/
def State.orgSummed (s : State) (t mode n gated : Nat) : State :=
  ((s.wri .TH_ORG_CUR_MODE t mode).wri .TH_ORG_NPART t n).wri .TH_STAT_GATED t gated

theorem applyOrg_whole (s : State) (t : Nat) (es : List (Nat × Rect)) :
    s.applyOrg t 0 es = ((s.orgOf t []).partsReady t fun p => b2n (p == 0)).orgSummed t 0 1 0 := rfl

theorem applyOrg_staged (s : State) (t : Nat) (es : List (Nat × Rect)) :
    s.applyOrg t 1 es = ((s.orgOf t es).partsReady t fun p => b2n (es.any fun e => e.1 == p)).orgSummed t 1 es.length
      (576 - (es.map fun e => e.2.height * e.2.width).sum) := rfl

theorem orgSummed_rdi (s : State) (t mode n gated : Nat) {f : F} (k : Nat)
    (hf : f ≠ .TH_ORG_CUR_MODE ∧ f ≠ .TH_ORG_NPART ∧ f ≠ .TH_STAT_GATED) :
    (s.orgSummed t mode n gated).rdi f k = s.rdi f k :=
  (rdi_wri_other (.inl hf.2.2)).trans ((rdi_wri_other (.inl hf.2.1)).trans (rdi_wri_other (.inl hf.1)))

/-- What an organisation that comes into force leaves: no pass in the thresher, memory and queues alone. -/
theorem orgDone_shows (s : State) {t mode : Nat} (hmode : mode < 2) (es : List (Nat × Rect)) (on : Nat → Nat)
    (n gated : Nat) (u : State) (hu : u = ((s.orgOf t es).partsReady t on).orgSummed t mode n gated) :
    u.rdi .TH_ORG_CUR_MODE t = mode ∧ (∀ p, p < 576 → u.part t p = Part.empty) ∧ u.mem = s.mem ∧ u.queues = s.queues ∧
      u.rdi .TH_ORG_STATUS t = s.rdi .TH_ORG_STATUS t ∧ u.org = (s.orgOf t es).org ∧
      ∀ p, p < 576 → on p < 4 → u.rdi .TH_PART_STAT_STATE (partKey t p) = on p := by
  subst hu
  have hlog := partsReady_logged (s.orgOf t es) t on
  have hstates := fun p (hp : p < 576) (hon : on p < 4) => partsReady_state (s.orgOf t es) (t := t) hp hon
  generalize hv : (s.orgOf t es).partsReady t on = v at hlog hstates
  have hparts : v.parts = dropThresher t s.parts := (congrArg State.parts hlog.rest :)
  refine ⟨?_, fun p hp => ?_, hlog.mem_eq, hlog.queues_eq, ?_, (congrArg State.org hlog.rest :), fun p hp hon => ?_⟩
  · refine (rdi_wri_other (.inl (by decide))).trans ((rdi_wri_other (.inl (by decide))).trans ?_)
    exact rdi_wri_same.trans (Nat.mod_eq_of_lt hmode)
  · show Tbl.get Part.empty v.parts (partKey t p) = Part.empty
    have hkey : partKey t p / 576 = t := by
      unfold partKey
      omega
    rw [hparts, dropThresher, Tbl.get_filter _ fun k => k / 576 != t, if_neg (by simp [hkey])]
  · exact (orgSummed_rdi _ _ _ _ _ _ (by decide)).trans (hlog.regs _ _ (by decide))
  · exact (orgSummed_rdi _ _ _ _ _ _ (by decide)).trans (hstates p hp hon)

/-- Settles O40: a fault by `faultPart_shows`; a commit by its checks, which the registers written before them do not
touch (`commitStatus_judged`), and by what an organisation leaves as it comes into force (`orgDone_shows`). -/
theorem partitionsAndOrganisations : Obligations.PartitionsAndOrganisations := by
  refine ⟨fun t p s => ⟨fun hok => ⟨fun c hrect => ?fault, fun x hswap hlimit hsteps => ?stall⟩,
    fun hup hon hfaulted hbay hfatal => ?clear⟩, fun t m s hup hon => ⟨fun hst => ?refused, fun hst hmodes => ?behind,
    fun hst hmodes => ?commit⟩⟩
  case fault =>
    have hrun : exec (.partitionFault t p c) s = .next (s.faultPart t p (causeCode c)) :=
      if_pos ⟨hrect, ne_true_of_eq_false hok⟩
    exact ⟨_, hrun, faultPart_shows s t p (causeCode c)⟩
  case stall =>
    have hflag : s.flag .TH_FREEZE_LIMIT_LIMIT t = true := bne_iff_ne.2 hlimit
    have hrun : exec (.partStall t p) s = .next (s.faultPart t p .partStall) := by
      show execPartStall t p s = _
      unfold execPartStall
      rw [hswap]
      exact if_pos ⟨hflag, hsteps⟩
    obtain ⟨hstate, hcode, hidle, -⟩ := faultPart_shows s t p .partStall
    exact ⟨_, hrun, hstate, hcode, hidle⟩
  case clear =>
    have hrun : exec (.thPartClear t p) s = .next ((((s.updPart t p fun _ => Part.empty).wri .TH_PART_STAT_STATE
        (partKey t p) 1).wri .TH_PART_STAT_CODE (partKey t p) 0).wri .TH_STAT_NFAULT t (s.rdi .TH_STAT_NFAULT t - 1)) :=
      congrArg Host.Outcome.next ((byThrHost_of_on hup hon _).trans
        (if_pos ⟨hfaulted, ne_true_of_eq_false hbay, ne_true_of_eq_false hfatal⟩))
    refine ⟨_, hrun, ?_, ?_, part_updPart_same s t p fun _ => Part.empty, ?_⟩
    · exact (rdi_wri_other (.inl (by decide))).trans ((rdi_wri_other (.inl (by decide))).trans rdi_wri_same)
    · exact (rdi_wri_other (.inl (by decide))).trans rdi_wri_same
    · exact (((State.onlyRegs.refl s _).wri (f := .TH_PART_STAT_STATE) (i := partKey t p) (by simp) 1).wri
        (f := .TH_PART_STAT_CODE) (i := partKey t p) (by simp) 0).wri (f := .TH_STAT_NFAULT) (i := t.val) (by simp) _
  all_goals
    obtain ⟨hjudged, hstaged⟩ := commitStatus_judged s t m
    have hrun : exec (.thOrgCommit t m) s = .next (if s.commitStatus t m = 0 then
        ((s.wri .TH_ORG_MODE t m).wri .TH_ORG_STATUS t (s.commitStatus t m)).orAfter
          (.organisation t m (s.stagedEntries t)) fun v => v.applyOrg t m (s.stagedEntries t)
        else (s.wri .TH_ORG_MODE t m).wri .TH_ORG_STATUS t (s.commitStatus t m)) := by
      refine congrArg Host.Outcome.next ((byThrHost_of_on hup hon _).trans ?_)
      dsimp only
      rw [hstaged, hjudged]
    have hnoted := ((State.onlyRegs.refl s [(.TH_ORG_MODE, t.val), (.TH_ORG_STATUS, t.val)]).wri (f := .TH_ORG_MODE)
      (i := t.val) (by simp) m).wri (f := .TH_ORG_STATUS) (i := t.val) (by simp) (s.commitStatus t m)
    have hstatus : ((s.wri .TH_ORG_MODE t m).wri .TH_ORG_STATUS t (s.commitStatus t m)).rdi .TH_ORG_STATUS t =
        s.commitStatus t m := rdi_wri_same.trans (Nat.mod_eq_of_lt (commitStatus_lt s t m))
  case refused =>
    rw [if_neg hst] at hrun
    exact ⟨_, hrun, hstatus, hnoted⟩
  case behind =>
    rw [if_pos hst, State.orAfter, if_neg (by rw [wri_modes, wri_modes, modes_isEmpty hmodes]; decide)] at hrun
    exact ⟨_, hrun, rfl, hstatus.trans hst, hnoted⟩
  case commit =>
    have hstatus0 : ((s.wri .TH_ORG_MODE t m).wri .TH_ORG_STATUS t (s.commitStatus t m)).rdi .TH_ORG_STATUS t = 0 :=
      hstatus.trans hst
    rw [if_pos hst, State.orAfter, if_pos (by rw [wri_modes, wri_modes, hmodes]; rfl)] at hrun
    have hmem : ((s.wri .TH_ORG_MODE t m).wri .TH_ORG_STATUS t (s.commitStatus t m)).mem = s.mem := rfl
    have hqueues : ((s.wri .TH_ORG_MODE t m).wri .TH_ORG_STATUS t (s.commitStatus t m)).queues = s.queues := rfl
    have horg : ((s.wri .TH_ORG_MODE t m).wri .TH_ORG_STATUS t (s.commitStatus t m)).org = s.org := rfl
    generalize (s.wri .TH_ORG_MODE t m).wri .TH_ORG_STATUS t (s.commitStatus t m) = v at hrun hstatus0 hmem hqueues horg
    obtain hm | hm : m.val = 0 ∨ m.val = 1 := by omega
    · rw [hm, applyOrg_whole] at hrun
      obtain ⟨hmode, hparts, hmem', hqueues', hsame, -, -⟩ := orgDone_shows v (mode := 0) (by decide) [] _ _ _ _ rfl
      refine ⟨_, hrun, hsame.trans hstatus0, hmode.trans hm.symm, hparts, fun _ p hp => ?_,
        fun h1 => absurd (hm.symm.trans h1) (by decide), byteAt_of_mem (hmem'.trans hmem),
        hqueues'.trans hqueues⟩
      rw [State.rectOf, State.flag, hmode]
      rfl
    · rw [hm, applyOrg_staged] at hrun
      obtain ⟨hmode, hparts, hmem', hqueues', hsame, horg', hstates⟩ :=
        orgDone_shows v (mode := 1) (by decide) (s.stagedEntries t) _ _ _ _ rfl
      refine ⟨_, hrun, hsame.trans hstatus0, hmode.trans hm.symm, hparts, fun h0 => absurd (hm.symm.trans h0) (by decide),
        fun _ p hp => ⟨?_, ?_⟩, byteAt_of_mem (hmem'.trans hmem), hqueues'.trans hqueues⟩
      · have hfind : Tbl.find (v.orgOf t (s.stagedEntries t)).org (partKey t p) =
            if s.flag .TH_PART_CFG_EN (partKey t p) then some (s.stagedRect t p) else none := by
          have hgone : Tbl.find (dropThresher t.val s.org) (partKey t p) = none := Tbl.find_eq_none fun e he heq => by
            have hkey : partKey t p / 576 = t := by
              unfold partKey
              omega
            exact absurd (List.mem_filter.1 he).2 (by simp [heq, hkey])
          rw [State.orgOf, horg, find_putEntries t (stagedEntries_nodup s t), stagedEntries_find s hp, hgone]
          split <;> rfl
        rw [State.rectOf, State.flag, hmode, horg', hfind]
        exact if_pos hp
      · have hany : ((s.stagedEntries t).any fun e => e.1 == p) = s.flag .TH_PART_CFG_EN (partKey t p) := by
          rw [Bool.eq_iff_iff, List.any_eq_true, ← List.find?_isSome, stagedEntries_find s hp]
          cases s.flag .TH_PART_CFG_EN (partKey t p) <;> simp
        rw [← hany]
        exact hstates p hp (by cases (s.stagedEntries t).any fun e => e.1 == p <;> decide)

end Sys2Proof.Machine

/-! What a read of memory rests on, and the pass instructions (O38). -/

namespace Sys2Proof.Machine

/-! ### What a read rests on (R135, R154, R175, R204) -/

/-- The register fields a read of memory rests on: the interleave, the versioned regions, the live epochs, the stacks. -/
def readFields : List F :=
  [.GN_CFG_INTERLEAVE, .PS_VREG_A_BASE, .PS_VREG_B_BASE, .PS_VREG_CFG_GRANULES, .PS_VREG_CFG_KIND, .PS_VREG_CFG_V,
    .PS_STAT_OPEN, .PS_STAT_CLOSED, .PS_EPOCH_OPEN_EPOCH, .PS_EPOCH_CLOSED_EPOCH, .GN_STACK_STAT_STATE]

/-- Memory reads in `t` as it does in `s`. -/
structure State.ReadsAs (s t : State) : Prop where
  regs : ∀ f ∈ readFields, ∀ k, t.rdi f k = s.rdi f k
  mem : t.mem = s.mem
  poison : t.poison = s.poison
  flaws : t.flaws = s.flaws
  prov : t.prov = s.prov

namespace State.ReadsAs

variable {s t u : State}

theorem refl (s : State) : s.ReadsAs s := ⟨fun _ _ _ => rfl, rfl, rfl, rfl, rfl⟩

theorem trans (h : s.ReadsAs t) (k : t.ReadsAs u) : s.ReadsAs u :=
  ⟨fun f hf j => (k.regs f hf j).trans (h.regs f hf j), k.mem.trans h.mem, k.poison.trans h.poison,
    k.flaws.trans h.flaws, k.prov.trans h.prov⟩

theorem set (h : s.ReadsAs t) {f : F} (hf : f ∉ readFields) (k v : Nat) : s.ReadsAs (t.wri f k v) :=
  ⟨fun g hg j => (rdi_wri_other (.inl fun (e : g = f) => hf (e ▸ hg))).trans (h.regs g hg j), h.mem, h.poison, h.flaws,
    h.prov⟩

theorem updQueue (h : s.ReadsAs t) (q : Nat) (g : Queue → Queue) : s.ReadsAs (t.updQueue q g) :=
  ⟨h.regs, h.mem, h.poison, h.flaws, h.prov⟩

theorem updPart (h : s.ReadsAs t) (q p : Nat) (g : Part → Part) : s.ReadsAs (t.updPart q p g) :=
  ⟨h.regs, h.mem, h.poison, h.flaws, h.prov⟩

theorem begun (s : State) (q : Nat) : s.ReadsAs (s.begun q) := (refl s).updQueue q _

theorem goOn (h : s.ReadsAs t) (q : Nat) (i : Ins) (w : Work) : s.ReadsAs (t.goOn q i w) :=
  ((((h.set (f := .EN_Q_ISSUED_COUNT) (by decide) q _).updQueue q _).updQueue q _).updQueue q _).set (f := .EN_Q_PC_PC)
    (by decide) q _

theorem flag_eq (h : s.ReadsAs t) {f : F} (hf : f ∈ readFields) (k : Nat) : t.flag f k = s.flag f k := by
  rw [State.flag, h.regs f hf k, State.flag]

theorem phys_eq (h : s.ReadsAs t) : t.phys = s.phys := by
  funext space z a
  rw [State.phys, State.interleave, State.rd, h.regs _ (by decide), State.phys, State.interleave, State.rd]

theorem vregs_eq (h : s.ReadsAs t) : t.vregs = s.vregs := by
  have hentry : t.vregAt = s.vregAt := funext fun v => by
    simp only [State.vregAt, h.regs .PS_VREG_A_BASE (by decide), h.regs .PS_VREG_B_BASE (by decide),
      h.regs .PS_VREG_CFG_GRANULES (by decide), h.flag_eq (f := .PS_VREG_CFG_KIND) (by decide)]
  have hflag : t.flag .PS_VREG_CFG_V = s.flag .PS_VREG_CFG_V := funext fun v => h.flag_eq (by decide) v
  rw [State.vregs, hentry, hflag, State.vregs]

theorem live_eq (h : s.ReadsAs t) : t.live = s.live := by
  funext e
  rw [State.live, State.live, liveEpochs_congr fun f hf => h.regs f (by revert hf; revert f; decide) 0]

theorem squashed_eq (h : s.ReadsAs t) : t.squashed = s.squashed := by
  funext e
  rw [State.squashed, h.prov, State.squashed]

theorem viewOf_eq (h : s.ReadsAs t) : t.viewOf = s.viewOf := by
  funext b
  cases b with
  | none => rfl
  | some e => rw [State.viewOf, State.viewOf, h.live_eq, h.squashed_eq]

theorem settled_eq (h : s.ReadsAs t) : t.settled = s.settled := by
  funext r x
  rw [State.settled, State.settled, h.live_eq, h.squashed_eq]

theorem readPlace_eq (h : s.ReadsAs t) : t.readPlace = s.readPlace := by
  funext rs view space z a
  have hgran : t.granule = s.granule := funext₂ fun v g => by rw [State.granule, h.prov, State.granule]
  have hcopy : t.copyPhys = s.copyPhys := funext fun r => funext₂ fun b a => by
    rw [State.copyPhys, h.phys_eq, State.copyPhys]
  simp only [State.readPlace, h.phys_eq, h.settled_eq, hgran, hcopy]

theorem readPhys_eq (h : s.ReadsAs t) : t.readPhys = s.readPhys := by
  funext p n
  have hfail : t.onFailed = s.onFailed := funext fun p => by
    rw [State.onFailed, h.regs _ (by decide), State.onFailed]
  have hbyte : t.byteAt = s.byteAt := funext fun p => by rw [State.byteAt, h.mem, State.byteAt]
  have hmark : t.poisoned = s.poisoned := funext fun p => by rw [State.poisoned, h.poison, State.poisoned]
  have hleave : t.leavesBad = s.leavesBad := funext fun p => by
    rw [State.leavesBad, State.flawAt, h.flaws, State.leavesBad, State.flawAt]
  simp only [State.readPhys, State.pbyte, hfail, hbyte, hmark, hleave, h.flaws]

theorem readAt_eq (h : s.ReadsAs t) : t.readAt = s.readAt := by
  funext view space z a n
  simp only [State.readAt, h.vregs_eq, h.readPlace_eq, h.readPhys_eq]

theorem readGrid_eq (h : s.ReadsAs t) : t.readGrid = s.readGrid := by
  funext view k o
  have hlines : t.readLines = s.readLines := funext₂ fun v k => funext₂ fun o a => by
    simp only [State.readLines, h.readAt_eq]
  rw [State.readGrid, hlines, State.readGrid]

end State.ReadsAs

/-! ### A pass instruction that issues (R106, R107) -/

section
variable (s : State) (q : Nat)

@[simp] theorem begun_passCheck (t : Nat) (r : Role) (b : Option Nat) (x : Desc) :
    (s.begun q).passCheck t r b x = s.passCheck t r b x := rfl
@[simp] theorem begun_heldBy205 (b : Option Nat) (us : List Use) : (s.begun q).heldBy205 b us = s.heldBy205 b us := rfl
@[simp] theorem begun_channelFull (p : Nat) : (s.begun q).channelFull q p = s.channelFull q p := by
  simp only [State.channelFull, begun_work]

end

/-- The pass instruction `i` of role `r`, in progress with descriptor `x`. -/
def passWork (s : State) (t : Nat) (r : Role) (i : Ins) (x : Desc) : Work :=
  { s.workFor (r.queue t) i .pass x.word ((PassDesc.ofWord x.word).uses t r) with
    ready := false, part := (PassDesc.ofWord x.word).part }

theorem goOn_partFaulted (s : State) (q : Nat) (i : Ins) (w : Work) (t p : Nat) :
    ((s.begun q).goOn q i w).partFaulted t p = s.partFaulted t p :=
  congrArg (fun n => n == 3) (goOn_rdi (s.begun q) q i w (.inl (by decide)) (.inl (by decide)))

/-- An instruction that passes its checks and stalls for nothing goes in progress. -/
theorem passIssue_run {s : State} {t op : Nat} {r : Role} {i : Ins} {x : Desc} (h : s.issues (r.queue t) op i)
    (hfinds : s.finds (r.queue t) i x) (hflaws : s.flaws = [])
    (hcheck : s.passCheck t r (s.bindEpoch i) x = .ok ())
    (hfree : s.heldBy205 (s.bindEpoch i) ((PassDesc.ofWord x.word).uses t r) = false)
    (hstall : s.mustStall (r.queue t) [x.span] [] none = false)
    (hstall' : s.mustStall (r.queue t) (usesSpans false ((PassDesc.ofWord x.word).uses t r ++ [x.use]))
      (usesSpans true ((PassDesc.ofWord x.word).uses t r)) (some (PassDesc.ofWord x.word).part) = false)
    (hroom : s.channelFull (r.queue t) (PassDesc.ofWord x.word).part = false) :
    passIssue t r op s =
      if s.partFaulted t (PassDesc.ofWord x.word).part then
        ((s.begun (r.queue t)).goOn (r.queue t) i (passWork s t r i x)).dropPass t (PassDesc.ofWord x.word).part r
          (passWork s t r i x).id
      else ((s.begun (r.queue t)).goOn (r.queue t) i (passWork s t r i x)).joinPass t (PassDesc.ofWord x.word).part r x.key
        (passWork s t r i x).id := by
  have hwork : passWork s t r i x = { newWork ((s.begun (r.queue t)).queue (r.queue t)) i .pass (s.bindEpoch i) with
      ready := false, desc := x.word, part := (PassDesc.ofWord x.word).part,
      reads := usesSpans false ((PassDesc.ofWord x.word).uses t r),
      writes := usesSpans true ((PassDesc.ofWord x.word).uses t r) } := by
    simp [passWork, State.workFor, newWork]
  rw [passIssue]
  dsimp only
  rw [issue_eq h, withDesc_of_finds hfinds hflaws hstall]
  simp only [begun_passCheck, begun_bindEpoch, hcheck, begun_heldBy205, hfree, begun_mustStall, hstall', begun_channelFull,
    hroom, Bool.or_self, Bool.false_eq_true, if_false, goOn_partFaulted]
  rw [hwork]

/-! ### The first instruction of a pass -/

/-- The pass that its first instruction forms. -/
def firstPass (r : Role) (addr id : Nat) (done : Bool) : Pass := Pass.set ⟨addr, none, none, none, .active⟩ r ⟨id, done⟩

theorem joined_empty (r : Role) (addr id : Nat) (done : Bool) :
    Part.empty.joined r addr ⟨id, done⟩ = { Part.empty.counted r with passes := [firstPass r addr id done] } := by
  cases r <;> rfl

/-- A turned or plain operand of a state without array errors is taken with what the turner's banks, counts and the log
may change, and nothing else. -/
theorem takeOperand_frame {s : State} (hs : s.flaws = []) (view : View) (t : Nat) (o : Operand) (routed : Bool) :
    (s.takeOperand view t o routed).2.mem = s.mem ∧ (s.takeOperand view t o routed).2.queues = s.queues ∧
      (s.takeOperand view t o routed).2.parts = s.parts := by
  have hsense : s.senseOperand view t o = s := by simp [State.senseOperand, hs]
  have hbanks : ∀ l : List Code, s.Logged (l.foldl (countCode t) s) ([.TN_ECC_CE, .TN_ECC_UE] ++ logFields) := fun l => by
    refine State.Logged.foldl (fun v c hv => ?_) l (.refl s _)
    have hraise := fun (w : State) e => (raise_logged w e 7 t 0 0 0).mono (gs := [.TN_ECC_CE, .TN_ECC_UE] ++ logFields)
      (by decide)
    unfold countCode
    split
    · exact hv
    · exact (hv.wri (f := .TN_ECC_CE) (by decide) t _).trans (hraise _ _)
    · exact (hv.wri (f := .TN_ECC_UE) (by decide) t _).trans (hraise _ _)
  unfold State.takeOperand
  dsimp only
  rw [hsense]
  split
  · have hlog := hbanks ((s.turner t).banks.take o.squares)
    exact ⟨hlog.mem_eq, hlog.queues_eq, (congrArg State.parts hlog.rest :)⟩
  · exact ⟨rfl, rfl, rfl⟩

/-- What an operand reads as rests on memory and on the turner's banks. -/
theorem takeOperand_congr {s u : State} (h : s.ReadsAs u) (hs : s.flaws = []) (hturn : u.turners = s.turners)
    (view : View) (t : Nat) (o : Operand) (routed : Bool) :
    (u.takeOperand view t o routed).1 = (s.takeOperand view t o routed).1 := by
  have hsense : ∀ v : State, v.flaws = [] → v.senseOperand view t o = v := fun v hv => by simp [State.senseOperand, hv]
  have hbanks : u.turner t = s.turner t := by rw [State.turner, hturn, State.turner]
  unfold State.takeOperand
  dsimp only
  rw [hsense s hs, hsense u (h.flaws.trans hs), h.readGrid_eq]
  split
  · simp only [State.passBanks, hbanks]
  · rfl

theorem joinPass_empty {v : State} {t p : Nat} (h : v.part t p = Part.empty) (r : Role) (addr id : Nat) :
    v.joinPass t p r addr id = (v.updPart t p fun x => x.joined r addr ⟨id, false⟩).advancePasses t p := by
  have hnext : Part.empty.nextPass r = none := by cases r <;> rfl
  unfold State.joinPass
  dsimp only
  rw [h, hnext]
  rfl

/-- With an open pass at the head, no pass leaves. -/
theorem popPasses_of_active {z : State} {t p : Nat} {y : Pass} {l : List Pass} (h : (z.part t p).passes = y :: l)
    (hmode : y.mode = .active) : z.popPasses t p = z.updPart t p fun x => x := by
  have hnone : endedHead (z.part t p).passes = 0 := by
    rw [h, endedHead, if_neg fun hn => hn.1 hmode]
  rw [State.popPasses, hnone]
  rfl

theorem advanceOne_unloaded {z : State} {t p : Nat} {y : Pass} (h : (z.part t p).passes = [y]) (hmode : y.mode = .active)
    (hload : y.load = none) : z.advanceOne t p = z.updPart t p fun x => x := by
  rw [State.advanceOne, h, advancePart, popPasses_of_active h hmode, part_updPart_same, h]
  dsimp only
  rw [hmode, hload]

/-- The tile of the pass at the head goes into the shadow registers. -/
def State.tileIn (z : State) (t p : Nat) (y : Pass) (w : Work) : State :=
  let x := z.takeOperand (z.viewOf w.bound) t (PassDesc.ofWord w.desc).weights (PassDesc.ofWord w.desc).wTurn
  ((x.2.updPart t p fun k => { k with shadow := some ((PassDesc.ofWord w.desc).tileOf x.1) }).setHead t p
    (y.set .load ⟨w.id, true⟩)).markReady (thrQ t 2) w.id

theorem tileIn_part {z : State} (hz : z.flaws = []) (t p : Nat) (y : Pass) (w : Work) :
    (z.tileIn t p y w).part t p = { z.part t p with
      shadow := some ((PassDesc.ofWord w.desc).tileOf (z.takeOperand (z.viewOf w.bound) t
        (PassDesc.ofWord w.desc).weights (PassDesc.ofWord w.desc).wTurn).1)
      passes := y.set .load ⟨w.id, true⟩ :: (z.part t p).passes.drop 1 } := by
  obtain ⟨-, -, hparts⟩ := takeOperand_frame hz (z.viewOf w.bound) t (PassDesc.ofWord w.desc).weights
    (PassDesc.ofWord w.desc).wTurn
  unfold State.tileIn
  dsimp only
  generalize z.takeOperand (z.viewOf w.bound) t (PassDesc.ofWord w.desc).weights (PassDesc.ofWord w.desc).wTurn = x
    at hparts ⊢
  have hpart : x.2.part t p = z.part t p := by rw [State.part, hparts, State.part]
  rw [State.markReady, State.updWork, updQueue_part_read, State.setHead, part_updPart_same, part_updPart_same, hpart]

theorem loadHead_quiet {z : State} {t p : Nat} {y : Pass} {w : Work} (hhop : w.hop = false) :
    z.loadHead t p y w = z.tileIn t p y w := by
  unfold State.loadHead State.tileIn
  dsimp only
  rw [hhop, Bool.false_and, if_neg Bool.false_ne_true]

theorem advanceOne_loads {z : State} {t p : Nat} {y : Pass} {l : PassPart} {w : Work} (hz : z.flaws = [])
    (h : (z.part t p).passes = [y]) (hmode : y.mode = .active) (hload : y.load = some l) (hopen : l.done = false)
    (hw : z.workOf (thrQ t 2) l.id = some w) (hcome : z.turnCome (thrQ t 2) w = true) (hhop : w.hop = false) :
    z.advanceOne t p = ((z.updPart t p fun x => x).tileIn t p y w).updPart t p
      fun x => x := by
  rw [State.advanceOne, h, List.length_singleton, advancePart, popPasses_of_active h hmode]
  generalize hv : z.updPart t p (fun x => x) = v
  have hpass : (v.part t p).passes = [y] := by
    rw [← hv, part_updPart_same]
    exact h
  have hw' : v.workOf (thrQ t 2) l.id = some w := by rw [← hv]; exact hw
  have hcome' : v.turnCome (thrQ t 2) w = true := by rw [← hv]; exact hcome
  have hflaws : v.flaws = [] := by rw [← hv]; exact hz
  rw [hpass]
  dsimp only
  rw [hmode, hload]
  simp only [hopen, Bool.false_eq_true, if_false, hw', hcome', if_true]
  rw [loadHead_quiet hhop]
  have hin : ((v.tileIn t p y w).part t p).passes = [y.set .load ⟨w.id, true⟩] := by
    rw [tileIn_part hflaws, hpass]
    rfl
  rw [advancePart, popPasses_of_active hin hmode, part_updPart_same, hin]
  dsimp only
  rw [show (y.set .load ⟨w.id, true⟩).mode = .active from hmode]
  rfl

theorem tileIn_frame {z : State} (hz : z.flaws = []) (t p : Nat) (y : Pass) (w : Work) :
    (z.tileIn t p y w).mem = z.mem ∧ (∀ k, k ≠ thrQ t 2 → (z.tileIn t p y w).queue k = z.queue k) ∧
      ((z.tileIn t p y w).queue (thrQ t 2)).work =
        (z.queue (thrQ t 2)).work.map fun x => if x.id = w.id then { x with ready := true } else x := by
  obtain ⟨hmem, hqueues, -⟩ := takeOperand_frame hz (z.viewOf w.bound) t (PassDesc.ofWord w.desc).weights
    (PassDesc.ofWord w.desc).wTurn
  unfold State.tileIn
  dsimp only
  generalize z.takeOperand (z.viewOf w.bound) t (PassDesc.ofWord w.desc).weights (PassDesc.ofWord w.desc).wTurn = x
    at hmem hqueues ⊢
  have hqueue : ∀ k, x.2.queue k = z.queue k := fun k => by rw [State.queue, hqueues, State.queue]
  refine ⟨hmem, fun k hk => ?_, ?_⟩
  · exact (queue_updQueue_other _ hk).trans (hqueue k)
  · rw [← hqueue, State.markReady, State.updWork, queue_updQueue_same]
    rfl

/-- A partition that goes on while no turner-routed load waits is all that goes on. -/
theorem advancePasses_alone {z : State} {t p : Nat} (h : (z.advanceOne t p).turnNext t = none) :
    z.advancePasses t p = z.advanceOne t p := by
  rw [State.advancePasses, advanceTurned, h]

theorem turnNext_congr {s u : State} {t : Nat} (h : (u.queue (thrQ t 2)).work = (s.queue (thrQ t 2)).work) :
    u.turnNext t = s.turnNext t := by rw [State.turnNext, h, State.turnNext]

/-- No turner-routed load waits: each is done, has delivered, or is not turner-routed. -/
theorem turnNext_none {s : State} {t : Nat} (h : s.turnNext t = none) {w : Work} (hw : w ∈ (s.queue (thrQ t 2)).work) :
    (w.done || w.ready || !turnRouted (thrQ t 2) w) = true := by
  have hnot := List.find?_eq_none.1 h w hw
  cases hd : w.done <;> cases hr : w.ready <;> simp_all

/-- The first load of a partition brings its tile in. -/
theorem firstLoad_advances {s z : State} {t p : Nat} {i : Ins} {x : Desc} {c : Part} (hreads : s.ReadsAs z)
    (hflaws : s.flaws = []) (hturners : z.turners = s.turners)
    (hin : (z.queue (thrQ t 2)).work = (s.queue (thrQ t 2)).work ++ [passWork s t .load i x])
    (hids : ((s.queue (thrQ t 2)).work.all fun y => y.id != (passWork s t .load i x).id) = true)
    (hturn : s.turnNext t = none) (hhop : i.hop = false)
    (hjoined : z.part t p = { c with passes := [firstPass .load x.key (passWork s t .load i x).id false] }) :
    (z.advancePasses t p).mem = s.mem ∧ (∀ k, k ≠ thrQ t 2 → (z.advancePasses t p).queue k = z.queue k) ∧
      (z.advancePasses t p).part t p = { c with
        shadow := some ((PassDesc.ofWord x.word).tileOf (s.takeOperand (s.viewOf (s.bindEpoch i)) t
          (PassDesc.ofWord x.word).weights (PassDesc.ofWord x.word).wTurn).1)
        passes := [firstPass .load x.key (passWork s t .load i x).id true] } := by
  have hfind : z.workOf (thrQ t 2) (passWork s t .load i x).id = some (passWork s t .load i x) := by
    have hnone : (s.queue (thrQ t 2)).work.find? (fun y => y.id == (passWork s t .load i x).id) = none :=
      List.find?_eq_none.2 fun y hy heq => bne_iff_ne.1 (List.all_eq_true.1 hids y hy) (beq_iff_eq.1 heq)
    rw [State.workOf, hin, List.find?_append, hnone]
    simp
  have hcome : z.turnCome (thrQ t 2) (passWork s t .load i x) = true := by
    have hmay : z.mayTurn (thrQ t 2) (passWork s t .load i x).id = true := by
      rw [State.mayTurn, hin, List.all_append, Bool.and_eq_true]
      refine ⟨List.all_eq_true.2 fun y hy => ?_, by simp⟩
      have hdone := turnNext_none hturn hy
      rw [Bool.or_assoc, Bool.or_assoc, ← Bool.or_assoc y.done, hdone, Bool.or_true]
    rw [State.turnCome, hmay, Bool.or_true]
  have hreads' := hreads.updPart t p fun y => y
  have hloads := advanceOne_loads (y := firstPass .load x.key (passWork s t .load i x).id false)
    (l := ⟨(passWork s t .load i x).id, false⟩) (hreads.flaws.trans hflaws) (by rw [hjoined]) rfl rfl rfl hfind hcome hhop
  obtain ⟨hmem, hkeep, hready⟩ := tileIn_frame (hreads'.flaws.trans hflaws) t p
    (firstPass .load x.key (passWork s t .load i x).id false) (passWork s t .load i x)
  have htile := tileIn_part (hreads'.flaws.trans hflaws) t p (firstPass .load x.key (passWork s t .load i x).id false)
    (passWork s t .load i x)
  have hread : ((z.updPart t p fun y => y).takeOperand ((z.updPart t p fun y => y).viewOf (s.bindEpoch i)) t
      (PassDesc.ofWord x.word).weights (PassDesc.ofWord x.word).wTurn).1 =
      (s.takeOperand (s.viewOf (s.bindEpoch i)) t (PassDesc.ofWord x.word).weights (PassDesc.ofWord x.word).wTurn).1 := by
    rw [hreads'.viewOf_eq]
    exact takeOperand_congr hreads' hflaws hturners _ _ _ _
  generalize ((z.updPart t p fun y => y).tileIn t p (firstPass .load x.key (passWork s t .load i x).id false)
    (passWork s t .load i x)) = u at hloads hmem hkeep hready htile
  have hnone : (z.advanceOne t p).turnNext t = none := by
    rw [hloads]
    refine List.find?_eq_none.2 fun y hy => ?_
    have hy' : y ∈ (u.queue (thrQ t 2)).work := hy
    rw [hready] at hy'
    obtain ⟨k, hk, rfl⟩ := List.mem_map.1 hy'
    have hk' : k ∈ (s.queue (thrQ t 2)).work ++ [passWork s t .load i x] := by rwa [← hin]
    split
    · simp
    · next hne =>
      obtain hold | hnew := List.mem_append.1 hk'
      · have hdone := turnNext_none hturn hold
        cases hd : k.done <;> cases hrd : k.ready <;> simp_all
      · exact absurd (List.mem_singleton.1 hnew ▸ rfl) hne
  rw [advancePasses_alone hnone, hloads]
  refine ⟨hmem.trans hreads.mem, fun k hk => hkeep k hk, ?_⟩
  rw [part_updPart_same, htile, part_updPart_same, hjoined]
  exact congrArg (fun g => ({ c with
    shadow := some ((PassDesc.ofWord x.word).tileOf g)
    passes := [firstPass .load x.key (passWork s t .load i x).id true] } : Part)) hread

/-- Settles O38: past its checks the instruction goes in progress (`passIssue_run`); the first of a partition without a
pass forms it, and a load's tile goes in (`advanceOne_loads`). -/
theorem passInstructions : Obligations.PassInstructions := by
  intro t s i x c op r d w v hc h hd hfinds hflaws hcheck hfree hstall hstall' hroom hw hv
  subst hd
  obtain rfl : w = passWork s t r i x := hw
  subst hv
  have hexec : exec c s = .next (passIssue t r op s) := by
    simp only [List.mem_cons, List.not_mem_nil, or_false, Prod.mk.injEq] at hc
    obtain ⟨rfl, rfl, rfl⟩ | ⟨rfl, rfl, rfl⟩ | ⟨rfl, rfl, rfl⟩ := hc <;> rfl
  rw [passIssue_run h hfinds hflaws hcheck hfree hstall hstall' hroom] at hexec
  refine ⟨fun hfaulted => by rw [hexec, if_pos hfaulted], fun hok => by rw [hexec, if_neg (ne_true_of_eq_false hok)],
    fun hok hempty hhop hturn hids => ?_⟩
  rw [if_neg (ne_true_of_eq_false hok)] at hexec
  have hreads := ((State.ReadsAs.begun s (r.queue t)).goOn (r.queue t) i (passWork s t r i x))
  have hwork : (((s.begun (r.queue t)).goOn (r.queue t) i (passWork s t r i x)).queue (r.queue t)).work =
      (s.queue (r.queue t)).work ++ [passWork s t r i x] := by rw [goOn_work, begun_work]
  have hothers : ∀ k, k ≠ r.queue t → ((s.begun (r.queue t)).goOn (r.queue t) i (passWork s t r i x)).queue k = s.queue k :=
    fun k hk => (goOn_other _ _ _ _ hk).trans (begun_other hk)
  have hpart : ((s.begun (r.queue t)).goOn (r.queue t) i (passWork s t r i x)).part t (PassDesc.ofWord x.word).part =
      Part.empty := hempty
  have hturners : ((s.begun (r.queue t)).goOn (r.queue t) i (passWork s t r i x)).turners = s.turners := rfl
  generalize (s.begun (r.queue t)).goOn (r.queue t) i (passWork s t r i x) = v at *
  rw [joinPass_empty hpart] at hexec
  refine ⟨_, hexec, ?_⟩
  generalize (PassDesc.ofWord x.word).part = p at *
  have hjoined : (v.updPart t p fun y => y.joined r x.key ⟨(passWork s t r i x).id, false⟩).part t p =
      { Part.empty.counted r with passes := [firstPass r x.key (passWork s t r i x).id false] } := by
    rw [part_updPart_same, hpart, joined_empty]
  have hreads' := hreads.updPart t p fun y => y.joined r x.key ⟨(passWork s t r i x).id, false⟩
  have hqueue : ∀ k, (v.updPart t p fun y => y.joined r x.key ⟨(passWork s t r i x).id, false⟩).queue k = v.queue k :=
    fun _ => rfl
  have hturners' : (v.updPart t p fun y => y.joined r x.key ⟨(passWork s t r i x).id, false⟩).turners = s.turners :=
    hturners
  generalize (v.updPart t p fun y => y.joined r x.key ⟨(passWork s t r i x).id, false⟩) = z at *
  by_cases hr : r = .load
  · subst hr
    obtain ⟨hmem, hkeep, hpart'⟩ := firstLoad_advances hreads' hflaws hturners' ((congrArg Queue.work (hqueue _)).trans hwork)
      hids hturn hhop hjoined
    refine ⟨byteAt_of_mem hmem, by rw [hpart']; rfl, fun _ => by rw [hpart'], fun k hk => ?_⟩
    exact (hkeep k hk).trans ((hqueue k).trans (hothers k hk))
  · have hload : (firstPass r x.key (passWork s t r i x).id false).load = none := by
      cases r
      · exact absurd rfl hr
      · rfl
      · rfl
    have hmode : (firstPass r x.key (passWork s t r i x).id false).mode = .active := by cases r <;> rfl
    have hone := advanceOne_unloaded (z := z) (by rw [hjoined]) hmode hload
    have hother : thrQ t 2 ≠ r.queue t := by
      cases r
      · exact absurd rfl hr
      · simp [Role.queue, thrQ]
      · simp [Role.queue, thrQ]
    have hnone : (z.advanceOne t p).turnNext t = none := by
      rw [hone]
      exact (turnNext_congr (congrArg Queue.work ((hqueue _).trans (hothers _ hother)))).trans hturn
    rw [advancePasses_alone hnone, hone]
    refine ⟨byteAt_of_mem hreads'.mem, ?_, fun h => absurd h hr, fun k hk => (hqueue k).trans (hothers k hk)⟩
    rw [part_updPart_same, hjoined]
    cases r
    · exact absurd rfl hr
    · rfl
    · rfl

end Sys2Proof.Machine

/-! What writes change, and what they look at, where no array error waits: memory, poison marks and granules (R136, R164,
R203 to R205). -/

namespace Sys2Proof.Machine

theorem State.ReadsAs.symm {s t : State} (h : s.ReadsAs t) : t.ReadsAs s :=
  ⟨fun f hf k => (h.regs f hf k).symm, h.mem.symm, h.poison.symm, h.flaws.symm, h.prov.symm⟩

theorem State.ReadsAs.across {s t : State} (h : s.ReadsAs t) {s' t' : State} (hs : s.ReadsAs s') (ht : t.ReadsAs t') :
    s'.ReadsAs t' := hs.symm.trans (h.trans ht)

/-- `u` is `s` with other memory, poison marks and granules. -/
def State.Put (s u : State) : Prop := u = { s with mem := u.mem, poison := u.poison, prov := u.prov }

namespace State.Put

variable {s t u : State}

theorem refl (s : State) : s.Put s := rfl

theorem trans (h : s.Put t) (k : t.Put u) : s.Put u := by rw [Put, k, h]

theorem regs_eq (h : s.Put t) : t.regs = s.regs := (congrArg State.regs h :)
theorem queues_eq (h : s.Put t) : t.queues = s.queues := (congrArg State.queues h :)
theorem flaws_eq (h : s.Put t) : t.flaws = s.flaws := (congrArg State.flaws h :)
theorem rdi_eq (h : s.Put t) (f : F) (k : Nat) : t.rdi f k = s.rdi f k := by rw [State.rdi, h.regs_eq, State.rdi]

end State.Put

/-- A change that, where no array error waits, is one of memory alone, and rests on what reads rest on. -/
def Silent (f : State → State) : Prop :=
  ∀ s t : State, s.ReadsAs t → s.flaws = [] → s.Put (f s) ∧ (f s).ReadsAs (f t)

theorem Silent.put {f : State → State} (hf : Silent f) {s : State} (hs : s.flaws = []) : s.Put (f s) :=
  (hf s s (.refl s) hs).1

theorem Silent.readsAs {f : State → State} (hf : Silent f) {s t : State} (h : s.ReadsAs t) (hs : s.flaws = []) :
    (f s).ReadsAs (f t) := (hf s t h hs).2

theorem Silent.comp {f g : State → State} (hf : Silent f) (hg : Silent g) : Silent fun s => g (f s) := fun s t h hs => by
  obtain ⟨hput, hreads⟩ := hf s t h hs
  obtain ⟨hput', hreads'⟩ := hg (f s) (f t) hreads (hput.flaws_eq.trans hs)
  exact ⟨hput.trans hput', hreads'⟩

theorem Silent.id : Silent fun s => s := fun s _ h _ => ⟨.refl s, h⟩

theorem Silent.foldl {α : Type} {f : State → α → State} (hf : ∀ a, Silent fun s => f s a) (l : List α) :
    Silent fun s => l.foldl f s := by
  induction l with
  | nil => exact .id
  | cons a l ih => exact (hf a).comp ih

/-- A choice by something that rests on what reads rest on. -/
theorem Silent.look {α : Type} {o : State → α} {f : α → State → State} (ho : ∀ s t : State, s.ReadsAs t → o t = o s)
    (hf : ∀ a, Silent (f a)) : Silent fun s => f (o s) s := fun s t h hs => by
  dsimp only
  rw [ho s t h]
  exact hf (o s) s t h hs

theorem Silent.congr {f g : State → State} (hg : Silent g) (h : ∀ s, s.flaws = [] → f s = g s) : Silent f :=
  fun s t hst hs => by
    rw [h s hs, h t (hst.flaws.trans hs)]
    exact hg s t hst hs

theorem Silent.ite {f g : State → State} (hf : Silent f) (hg : Silent g) (p : Prop) [Decidable p] :
    Silent fun s => if p then f s else g s := by
  split
  · exact hf
  · exact hg

theorem Silent.mark (p : Nat) (b : Bool) : Silent fun s => s.mark p b := fun _ _ h _ =>
  ⟨rfl, h.regs, h.mem, congrArg (fun x => Tbl.set false x (unitOf p) b) h.poison, h.flaws, h.prov⟩

theorem Silent.setByte (p : Nat) (b : Byte) : Silent fun s => s.setByte p b := fun _ _ h _ =>
  ⟨rfl, h.regs, congrArg (fun x => Tbl.set 0 x p b) h.mem, h.poison, h.flaws, h.prov⟩

theorem Silent.setGranule (v g : Nat) (y : Granule) : Silent fun s => s.setGranule v g y := fun _ _ h _ =>
  ⟨rfl, h.regs, h.mem, h.poison, h.flaws, congrArg (fun x : Prov => { x with granules := Tbl.set ⟨false, none⟩ x.granules (granKey v g) y }) h.prov⟩

/-! ### What a write looks at -/

namespace State.ReadsAs

variable {s t : State}

theorem onFailed_eq (h : s.ReadsAs t) : t.onFailed = s.onFailed := funext fun p => by
  rw [State.onFailed, h.regs _ (by decide), State.onFailed]

theorem byteAt_eq (h : s.ReadsAs t) : t.byteAt = s.byteAt := funext fun p => by rw [State.byteAt, h.mem, State.byteAt]

theorem poisoned_eq (h : s.ReadsAs t) : t.poisoned = s.poisoned := funext fun p => by
  rw [State.poisoned, h.poison, State.poisoned]

theorem granule_eq (h : s.ReadsAs t) : t.granule = s.granule := funext₂ fun v g => by
  rw [State.granule, h.prov, State.granule]

theorem copyPhys_eq (h : s.ReadsAs t) : t.copyPhys = s.copyPhys := funext fun r => funext₂ fun b a => by
  rw [State.copyPhys, h.phys_eq, State.copyPhys]

end State.ReadsAs

/-- The bytes of a unit put in their places, where it is not poisoned. -/
def unitPut (g : Nat × List (Nat × PByte)) (s : State) : State :=
  if s.poisoned g.1 then s
  else
    let s := g.2.foldl (fun s e => s.setByte e.1 e.2.val) s
    if g.2.any fun e => e.2.bad then s.mark g.1 true else s

theorem writeUnit_of_flawless {s : State} (hs : s.flaws = []) (g : Nat × List (Nat × PByte)) :
    s.writeUnit g = unitPut g (if g.2.length = unitSize g.1 then s.mark g.1 false else s) := by
  have hopen : (if g.2.length = unitSize g.1 then s.mark g.1 false else s).flaws = [] := by
    split
    · exact hs
    · exact hs
  rw [State.writeUnit, unitPut]
  simp only [hs, List.isEmpty_nil, if_true] at hopen ⊢
  rw [rewritten_of_flawless hopen]

theorem Silent.unitPut (g : Nat × List (Nat × PByte)) : Silent (Machine.unitPut g) := by
  refine Silent.look (o := fun s => s.poisoned g.1)
    (f := fun b s => if b then s else
      let s := g.2.foldl (fun s e => s.setByte e.1 e.2.val) s
      if g.2.any fun e => e.2.bad then s.mark g.1 true else s) (fun _ _ h => by rw [h.poisoned_eq]) fun b => ?_
  refine .ite .id ?_ (b = true)
  exact (Silent.foldl (f := fun s (e : Nat × PByte) => s.setByte e.1 e.2.val) (fun e => .setByte e.1 e.2.val) g.2).comp
    (.ite (.mark g.1 true) .id ((g.2.any fun e => e.2.bad) = true))

theorem Silent.writeUnit (g : Nat × List (Nat × PByte)) : Silent fun s => s.writeUnit g :=
  (((Silent.mark g.1 false).ite .id (g.2.length = unitSize g.1)).comp (.unitPut g)).congr
    fun _ hs => writeUnit_of_flawless hs g

theorem Silent.storePhys (p : Nat) (l : List PByte) : Silent fun s => s.storePhys p l := by
  refine Silent.look (o := fun s => s.onFailed p)
    (f := fun b s => if b then s else
      (groupUnits ((List.range l.length).zip l |>.map fun e => (p + e.1, e.2))).foldl State.writeUnit s)
    (fun _ _ h => by rw [h.onFailed_eq]) fun b => ?_
  exact .ite .id (.foldl .writeUnit _) (b = true)

theorem Silent.writePhys (p : Nat) (l : List PByte) : Silent fun s => s.writePhys p l :=
  (Silent.storePhys p l).congr fun _ hs => writePhys_of_flawless hs p l

theorem Silent.resultPhys (p : Nat) (l : List PByte) : Silent fun s => s.resultPhys p l :=
  (Silent.storePhys p l).congr fun s hs => by
    rw [State.resultPhys, writePhys_of_flawless hs, hs]
    simp

theorem Silent.poisonRun (p n : Nat) : Silent fun s => s.poisonRun p n := .foldl (fun u => .mark u true) _

theorem Silent.copyGranule (r : Vreg) (b : Bool) (a : Nat) : Silent fun s => s.copyGranule r b a := by
  have hplain : Silent fun s => s.storePhys (s.copyPhys r (!b) a) (s.readPhys (s.copyPhys r b a) (granSize r.space)) :=
    Silent.look (o := fun s => (s.copyPhys r (!b) a, s.readPhys (s.copyPhys r b a) (granSize r.space)))
      (f := fun y s => s.storePhys y.1 y.2) (fun _ _ h => by rw [h.copyPhys_eq, h.readPhys_eq]) fun y => .storePhys y.1 y.2
  exact hplain.congr fun s hs => by simp [State.copyGranule, State.senseRun, hs]

/-- What a write's preparation looks at: the granule as it was written, as its fold will leave it, and its first place. -/
def State.granuleSeen (s : State) (r : Vreg) (space t a : Nat) : Granule × (Granule × Bool) × Nat :=
  let g := (a - r.a) / granSize space
  (s.granule r.v g, s.settled r (s.granule r.v g), s.phys space t (r.a + g * granSize space))

theorem State.ReadsAs.granuleSeen_eq {s u : State} (h : s.ReadsAs u) (r : Vreg) (space t a : Nat) :
    u.granuleSeen r space t a = s.granuleSeen r space t a := by
  rw [State.granuleSeen, h.granule_eq, h.settled_eq, h.phys_eq, State.granuleSeen]

/-- The granule of a write of `n` bytes prepared, by what was seen of it. -/
def granulePrepared (r : Vreg) (view : View) (space a n : Nat) (y : Granule × (Granule × Bool) × Nat) (s : State) :
    State :=
  let z := granSize space
  let g := (a - r.a) / z
  if r.scratch then
    (if y.2.1.2 then s.poisonRun y.2.2 z else s).setGranule r.v g
      ⟨false, match view with
        | .unbound => none
        | .live e => some e
        | .squashed e => some e⟩
  else
    match view with
    | .unbound => if y.1.tag = y.2.1.1.tag then s else s.setGranule r.v g y.2.1.1
    | .live e => (if y.1.tag = some e ∨ n = z then s else s.copyGranule r y.2.1.1.sideB (r.a + g * z)).setGranule
        r.v g ⟨y.2.1.1.sideB, some e⟩
    | .squashed _ => s

theorem Silent.granulePrepared (r : Vreg) (view : View) (space a n : Nat) (y : Granule × (Granule × Bool) × Nat) :
    Silent (Machine.granulePrepared r view space a n y) := by
  unfold Machine.granulePrepared
  dsimp only
  cases r.scratch with
  | true => exact ((Silent.poisonRun _ _).ite .id (y.2.1.2 = true)).comp (.setGranule _ _ _)
  | false =>
    cases view with
    | unbound => exact .ite .id (.setGranule _ _ _) _
    | live e => exact (Silent.ite .id (.copyGranule _ _ _) _).comp (.setGranule _ _ _)
    | squashed e => exact .id

theorem writePlace_snd (s : State) (rs : List Vreg) (view : View) (space t a n : Nat) :
    (s.writePlace rs view space t a n).2 = match rs.find? fun r => r.hasName space t a with
      | none => s
      | some r => granulePrepared r view space a n (s.granuleSeen r space t a) s := by
  unfold State.writePlace
  cases rs.find? fun r => r.hasName space t a with
  | none => rfl
  | some r =>
    dsimp only [granulePrepared]
    cases r.scratch with
    | true => rfl
    | false => cases view <;> rfl

theorem Silent.writePlace (rs : List Vreg) (view : View) (space t a n : Nat) :
    Silent fun s => (s.writePlace rs view space t a n).2 := by
  simp only [writePlace_snd]
  cases rs.find? fun r => r.hasName space t a with
  | none => exact .id
  | some r => exact .look (o := fun s => s.granuleSeen r space t a) (fun _ _ h => h.granuleSeen_eq r space t a) fun y => .granulePrepared r view space a n y

theorem State.Stored.copyPhys_eq {s u : State} (h : s.Stored u) : u.copyPhys = s.copyPhys ∧ u.phys = s.phys := by
  have hphys : u.phys = s.phys := by
    funext space t a
    rw [State.phys, State.interleave, State.rd, h.regs _ _ (by decide), State.phys, State.interleave, State.rd]
  exact ⟨funext fun r => funext₂ fun b a => by rw [State.copyPhys, hphys, State.copyPhys], hphys⟩

/-- Where a write lands (R203 to R205): no place where it is discarded. -/
def State.placeOf (s : State) (view : View) (space t a : Nat) : Option Vreg → Option Nat
  | none => some (s.phys space t a)
  | some r =>
    if r.scratch then some (s.phys space t a)
    else
      match view with
      | .unbound => some (s.copyPhys r (s.granuleSeen r space t a).2.1.1.sideB a)
      | .live _ => some (s.copyPhys r (!(s.granuleSeen r space t a).2.1.1.sideB) a)
      | .squashed _ => none

theorem State.ReadsAs.placeOf_eq {s u : State} (h : s.ReadsAs u) : u.placeOf = s.placeOf := by
  funext view space t a r
  cases r with
  | none => rw [State.placeOf, h.phys_eq, State.placeOf]
  | some r => simp only [State.placeOf, h.phys_eq, h.copyPhys_eq, h.granuleSeen_eq]

theorem writePlace_fst (s : State) (rs : List Vreg) (view : View) (space t a n : Nat) :
    (s.writePlace rs view space t a n).1 = s.placeOf view space t a (rs.find? fun r => r.hasName space t a) := by
  unfold State.writePlace
  cases rs.find? fun r => r.hasName space t a with
  | none => rfl
  | some r =>
    dsimp only [State.placeOf]
    cases r.scratch with
    | true =>
      have hphys := ((((State.Stored.refl s).poisonRun (s.granuleSeen r space t a).2.2 (granSize space)).ite
        (p := (s.granuleSeen r space t a).2.1.2 = true) (.refl s)).copyPhys_eq).2
      exact congrArg (fun f => some (f space t a)) hphys
    | false =>
      cases view with
      | unbound => rfl
      | live e =>
        have hcopy := (((State.Stored.refl s).ite (p := (s.granuleSeen r space t a).1.tag = some e ∨ n = granSize space)
          ((State.Stored.refl s).copyGranule r (s.granuleSeen r space t a).2.1.1.sideB
            (r.a + (a - r.a) / granSize space * granSize space))).copyPhys_eq).1
        exact congrArg (fun f => some (f r (!(s.granuleSeen r space t a).2.1.1.sideB) a)) hcopy
      | squashed e => rfl

theorem Silent.writeVia {put : State → Nat → List PByte → State} (hput : ∀ p l, Silent fun s => put s p l) (view : View)
    (space t a : Nat) (l : List PByte) : Silent fun s => s.writeVia put view space t a l := by
  refine Silent.look (o := fun s => s.vregs)
    (f := fun rs s => (splitBy (piecesOf space a l.length) l).foldl
      (fun s p => match s.writePlace rs view space t p.1 p.2.length with
        | (some q, s') => put s' q p.2
        | (none, s') => s') s) (fun _ _ h => h.vregs_eq) fun rs => ?_
  refine .foldl (fun p => ?_) _
  have hpiece : Silent fun s => match (s.writePlace rs view space t p.1 p.2.length).1 with
      | some q => put (s.writePlace rs view space t p.1 p.2.length).2 q p.2
      | none => (s.writePlace rs view space t p.1 p.2.length).2 :=
    .look (o := fun s => (s.writePlace rs view space t p.1 p.2.length).1)
      (f := fun q s => match q with
        | some q => put (s.writePlace rs view space t p.1 p.2.length).2 q p.2
        | none => (s.writePlace rs view space t p.1 p.2.length).2)
      (fun s u h => by rw [writePlace_fst, writePlace_fst, h.placeOf_eq]) fun q => by
        cases q with
        | none => exact .writePlace rs view space t p.1 p.2.length
        | some q => exact (Silent.writePlace rs view space t p.1 p.2.length).comp (hput q p.2)
  refine hpiece.congr fun s _ => ?_
  generalize s.writePlace rs view space t p.1 p.2.length = y
  obtain ⟨_ | q, v⟩ := y <;> rfl

theorem Silent.writeResult (view : View) (space t a : Nat) (l : List PByte) :
    Silent fun s => s.writeResult view space t a l := .writeVia .resultPhys view space t a l

theorem Silent.writeAt (view : View) (space t a : Nat) (l : List PByte) : Silent fun s => s.writeAt view space t a l :=
  .writeVia .writePhys view space t a l

theorem Silent.writeRuns (view : View) (l : List Run) : Silent fun s => s.writeRuns view l :=
  .foldl (f := fun s (r : Run) => s.writeResult view r.space r.thr r.addr r.data)
    (fun r => .writeResult view r.space r.thr r.addr r.data) _

/-! ### The numerical flags and counters (R32, R208, R220, R221) -/

/-- The fields a converted result may set: the numerical flags, and what an escape and a saturation count. -/
def convFields (t : Nat) : List (F × Nat) :=
  numFlags t ++ [(.PS_ESC_FLAG_ESC_C, 0), (.PS_ESC_FLAG_ESC_O, 0), (.PS_ESC_FLAG_ESC_A, 0), (.WN_ESC_CNT_CONV, thrBay t),
    (.WN_SAT_CNT_COUNT, 0)]

namespace State.onlyRegs

variable {s u : State} {l : List (F × Nat)}

theorem readsAs (h : s.onlyRegs u l) (hl : ∀ e ∈ l, e.1 ∉ readFields) : s.ReadsAs u := by
  obtain ⟨hrest, hregs⟩ := h
  exact ⟨fun f hf k => hregs f k fun hmem => hl _ hmem hf, (congrArg State.mem hrest :), (congrArg State.poison hrest :),
    (congrArg State.flaws hrest :), (congrArg State.prov hrest :)⟩

theorem queues_eq (h : s.onlyRegs u l) : u.queues = s.queues := (congrArg State.queues h.1 :)

theorem raiseNum (h : s.onlyRegs u l) {t : Nat} (hl : ∀ e ∈ numFlags t, e ∈ l) (bank : Nat) (ovf nan : Bool) :
    s.onlyRegs (u.raiseNum t bank ovf nan) l := by
  have hflag : ∀ {v : State}, s.onlyRegs v l → ∀ {a b c : F}, (a, t) ∈ l → (b, t) ∈ l → (c, t) ∈ l → ∀ on : Bool,
      s.onlyRegs (if on then match bank with
        | 0 => v.wri a t 1
        | 1 => v.wri b t 1
        | 2 => v.wri c t 1
        | _ => v
        else v) l := fun hv a b c ha hb hc on => by
    cases on with
    | false => exact hv
    | true =>
      match bank with
      | 0 => exact hv.wri ha 1
      | 1 => exact hv.wri hb 1
      | 2 => exact hv.wri hc 1
      | _ + 3 => exact hv
  exact hflag (hflag h (hl _ (by simp [numFlags])) (hl _ (by simp [numFlags])) (hl _ (by simp [numFlags])) ovf)
    (hl _ (by simp [numFlags])) (hl _ (by simp [numFlags])) (hl _ (by simp [numFlags])) nan

theorem noteConv (h : s.onlyRegs u (convFields k)) (bank : Nat) (r : Conv) :
    s.onlyRegs (u.noteConv k bank r) (convFields k) := by
  have hnum := h.raiseNum (fun e he => List.mem_append_left _ he) bank r.ovf r.nan
  have hcount := State.onlyRegs.ite (p := r.esc = true) (hnum.addSat (f := .WN_ESC_CNT_CONV) (i := thrBay k)
    (by simp [convFields]) 1) hnum
  refine State.onlyRegs.ite ?_ hcount
  refine State.onlyRegs.addSat ?_ (by simp [convFields]) 1
  match bank with
  | 0 => exact hcount.wr (by simp [convFields]) 1
  | 1 => exact hcount.wr (by simp [convFields]) 1
  | 2 => exact hcount.wr (by simp [convFields]) 1
  | _ + 3 => exact hcount

end State.onlyRegs

theorem raiseNum_onlyRegs (s : State) (t bank : Nat) (ovf nan : Bool) :
    s.onlyRegs (s.raiseNum t bank ovf nan) (numFlags t) := (State.onlyRegs.refl s _).raiseNum (fun _ he => he) bank ovf nan

theorem numFlags_notRead (t : Nat) : ∀ e ∈ numFlags t, e.1 ∉ readFields := by
  simp [numFlags, readFields]

theorem convFields_notRead (t : Nat) : ∀ e ∈ convFields t, e.1 ∉ readFields := by
  simp [convFields, numFlags, readFields]

theorem noteConvs_onlyRegs (s : State) (t bank : Nat) (l : List Conv) :
    s.onlyRegs (l.foldl (fun s r => s.noteConv t bank r) s) (convFields t) :=
  foldl_keeps (P := fun v => s.onlyRegs v (convFields t)) (fun _ r hv => hv.noteConv bank r) l (.refl s _)

end Sys2Proof.Machine

/-! The swap and the stream and drain behind it (O39). -/

namespace Sys2Proof.Machine

/-! ### What a drain leaves (R64) -/

theorem writeUnits_queues (s : State) (view : View) (t bank : Nat) (l : List OutUnit) :
    (s.writeUnits view t bank l).queues = s.queues := by
  have hruns : (s.writeRuns view (l.map fun u => ⟨u.space, u.thr, u.addr, clean u.conv.bytes⟩)).queues = s.queues :=
    (foldl_keeps (P := s.Stored) (fun _ r hv => hv.writeResult view r.space r.thr r.addr r.data) _ (.refl s)).queues_eq
  exact foldl_keeps (P := fun v => v.queues = s.queues)
    (fun v u hv => ((State.onlyRegs.refl v _).noteConv bank u.conv).queues_eq.trans hv) l hruns

theorem writeUnits_mem (s : State) (view : View) (t bank : Nat) (l : List OutUnit) : (s.writeUnits view t bank l).mem =
    (s.writeRuns view (l.map fun u => ⟨u.space, u.thr, u.addr, clean u.conv.bytes⟩)).mem := by
  generalize hv : s.writeRuns view (l.map fun u => ⟨u.space, u.thr, u.addr, clean u.conv.bytes⟩) = v
  rw [State.writeUnits, hv]
  exact foldl_keeps (P := fun u => u.mem = v.mem) (fun u r hu =>
    (((State.onlyRegs.refl u _).noteConv bank r.conv).readsAs (convFields_notRead t)).mem.trans hu) l rfl

theorem drainPass_queues (s : State) (t : Nat) (w : Work) (tile : Tile) (xs : List (List Cell)) (halt : Nat)
    (sums exps : List PByte) (cut : Option Nat) : (s.drainPass t w tile xs halt sums exps cut).queues = s.queues :=
  (writeUnits_queues _ _ _ _ _).trans (raiseNum_onlyRegs _ _ _ _ _).queues_eq

theorem State.ReadsAs.bankOf_eq {s u : State} (h : s.ReadsAs u) : u.bankOf = s.bankOf := by
  funext b
  cases b with
  | none => rfl
  | some e =>
    simp only [State.bankOf, h.flag_eq (f := .PS_STAT_OPEN) (by decide), h.flag_eq (f := .PS_STAT_CLOSED) (by decide),
      State.rd, h.regs .PS_EPOCH_OPEN_EPOCH (by decide), h.regs .PS_EPOCH_CLOSED_EPOCH (by decide), h.squashed_eq]
    rfl

/-- A drain writes the same bytes whatever the partitions and the queues are. -/
theorem drainPass_mem {s u : State} (h : s.ReadsAs u) (hregs : u.regs = s.regs) (hs : s.flaws = []) (t : Nat) (w : Work)
    (tile : Tile) (xs : List (List Cell)) (halt : Nat) (sums exps : List PByte) (cut : Option Nat) :
    (u.drainPass t w tile xs halt sums exps cut).mem = (s.drainPass t w tile xs halt sums exps cut).mem := by
  unfold State.drainPass
  dsimp only
  rw [h.bankOf_eq]
  generalize List.any _ _ = ovf
  generalize List.any _ _ = nan
  have hnum := raiseNum_onlyRegs s t (s.bankOf w.bound) ovf nan
  have hnum' := raiseNum_onlyRegs u t (s.bankOf w.bound) ovf nan
  have hreads := h.across (hnum.readsAs (numFlags_notRead t)) (hnum'.readsAs (numFlags_notRead t))
  have hfield : ∀ f, (f, 0) ∉ numFlags t →
      (u.raiseNum t (s.bankOf w.bound) ovf nan).rd f = (s.raiseNum t (s.bankOf w.bound) ovf nan).rd f := fun f hf =>
    (hnum'.2 f 0 hf).trans ((by rw [State.rdi, hregs, State.rdi] : u.rdi f 0 = s.rdi f 0).trans (hnum.2 f 0 hf).symm)
  have hdraws : ∀ rnd aux, (u.raiseNum t (s.bankOf w.bound) ovf nan).draws rnd aux
      = (s.raiseNum t (s.bankOf w.bound) ovf nan).draws rnd aux := fun rnd aux => by
    rw [State.draws, hfield _ (by simp [numFlags]), hfield _ (by simp [numFlags]), State.draws]
  rw [hreads.viewOf_eq, hdraws, hfield _ (by simp [numFlags]), writeUnits_mem, writeUnits_mem]
  exact ((Silent.writeRuns _ _).readsAs hreads ((hnum.readsAs (numFlags_notRead t)).flaws.trans hs)).mem

theorem State.PartsKept.drainPass {s v : State} (h : s.PartsKept v) (t : Nat) (w : Work) (tile : Tile)
    (xs : List (List Cell)) (halt : Nat) (sums exps : List PByte) (cut : Option Nat) :
    s.PartsKept (v.drainPass t w tile xs halt sums exps cut) := (h.raiseNum _ _ _ _).writeUnits _ _ _ _

theorem State.PartsKept.stream {s v : State} (h : s.PartsKept v) (t : Nat) (tile : Tile) (x : Swap) :
    s.PartsKept (v.stream t tile x) := by
  unfold State.stream
  dsimp only
  have htake := h.takeOperand (v.viewOf x.feed.bound) t (PassDesc.ofWord x.feed.desc).feed (PassDesc.ofWord x.feed.desc).xTurn
  generalize v.takeOperand (v.viewOf x.feed.bound) t (PassDesc.ofWord x.feed.desc).feed (PassDesc.ofWord x.feed.desc).xTurn
    = y at htake
  obtain ⟨g, a⟩ := y
  dsimp only at htake ⊢
  have hsense := htake.trans ((State.Stored.refl a).senseAt (a.viewOf x.drain.bound) 1 t (PassDesc.ofWord x.drain.desc).sumin
    (PassDesc.ofWord x.drain.desc).sumBytes |>.senseAt (a.viewOf x.drain.bound) 1 t (PassDesc.ofWord x.drain.desc).exp
      (PassDesc.ofWord x.drain.desc).gsBlocks).partsKept
  have hdrained := fun xs halt sums exps cut => hsense.drainPass t x.drain tile xs halt sums exps cut
  generalize (if x.feed.hop = true then _ else _) = halt
  generalize (if x.drain.hop = true then _ else none) = cut
  split
  · exact ((hdrained _ _ _ _ _).markReady _ _).failWork _ _ _
  · split
    · exact ((hdrained _ _ _ _ _).markReady _ _).failWork _ _ _
    · exact ((hdrained _ _ _ _ _).markReady _ _).markReady _ _

/-- The results of a stream that nothing halts, with no error to find: all steps are drained, feed and drain are ready. -/
def State.streamed (s : State) (t : Nat) (tile : Tile) (x : Swap) : State :=
  let d := PassDesc.ofWord x.feed.desc
  let e := PassDesc.ofWord x.drain.desc
  let xs := d.stepsOf (s.readGrid (s.viewOf x.feed.bound) t d.feed)
  ((s.drainPass t x.drain tile xs xs.length (s.readAt (s.viewOf x.drain.bound) 1 t e.sumin e.sumBytes)
    (s.readAt (s.viewOf x.drain.bound) 1 t e.exp e.gsBlocks) none).markReady (thrQ t 3) x.drain.id).markReady (thrQ t 1)
      x.feed.id

theorem streamed_part (s : State) (t : Nat) (tile : Tile) (x : Swap) (p : Nat) :
    (s.streamed t tile x).part t p = s.part t p :=
  ((((State.PartsKept.refl s).drainPass t x.drain tile _ _ _ _ none).markReady _ _).markReady _ _).part_eq t p

theorem stream_quiet {s : State} (hs : s.flaws = []) {x : Swap} (hf : x.feed.hop = false) (hd : x.drain.hop = false)
    (t : Nat) (ht : (PassDesc.ofWord x.feed.desc).xTurn = false) (tile : Tile) :
    s.stream t tile x = s.streamed t tile x := by
  have htake : ∀ view o, s.takeOperand view t o false = (s.readGrid view t o, s) := fun view o => by
    simp [State.takeOperand, State.senseOperand, hs]
  simp only [State.stream, State.streamed, ht, htake, hf, hd, senseAt_of_flawless hs, Bool.false_eq_true, if_false,
    Option.isSome_none, Nat.lt_irrefl]

theorem workOf_markReady (s : State) (q id : Nat) :
    (s.markReady q id).workOf q id = (s.workOf q id).map fun w => { w with ready := true } := by
  have hid : (fun w : Work => w.id == id) ∘ (fun w => if w.id = id then { w with ready := true } else w)
      = fun w => w.id == id := funext fun w => by
    by_cases h : w.id = id <;> simp [h]
  rw [State.workOf, State.markReady, State.updWork, queue_updQueue_same, List.find?_map, hid, State.workOf]
  cases hw : (s.queue q).work.find? fun w => w.id == id with
  | none => rfl
  | some w =>
    have hwid : w.id = id := by simpa using List.find?_some hw
    exact congrArg some (if_pos hwid)

theorem workOf_markReady_other (s : State) {q k : Nat} (h : k ≠ q) (id j : Nat) :
    (s.markReady q id).workOf k j = s.workOf k j := by
  rw [State.workOf, State.markReady, State.updWork, queue_updQueue_other _ h, State.workOf]

theorem workOf_congr {s u : State} (h : u.queues = s.queues) (q id : Nat) : u.workOf q id = s.workOf q id := by
  rw [State.workOf, State.queue, h, State.workOf, State.queue]

theorem streamed_feed (s : State) (t : Nat) (tile : Tile) (x : Swap) :
    (s.streamed t tile x).workOf (thrQ t 1) x.feed.id
      = (s.workOf (thrQ t 1) x.feed.id).map fun w => { w with ready := true } := by
  rw [State.streamed, workOf_markReady, workOf_markReady_other _ (by simp [thrQ]), workOf_congr (drainPass_queues ..)]

theorem streamed_drain (s : State) (t : Nat) (tile : Tile) (x : Swap) :
    (s.streamed t tile x).workOf (thrQ t 3) x.drain.id
      = (s.workOf (thrQ t 3) x.drain.id).map fun w => { w with ready := true } := by
  rw [State.streamed, workOf_markReady_other _ (by simp [thrQ]), workOf_markReady, workOf_congr (drainPass_queues ..)]

/-- The bytes a swap leaves are those of the drain in the state before it. -/
theorem streamed_bytes {s : State} (hs : s.flaws = []) (t p : Nat) (tile : Tile) (x : Swap) (a : Nat) :
    ((s.swapTile t p).streamed t tile x).byteAt a =
      (s.drainPass t x.drain tile
        ((PassDesc.ofWord x.feed.desc).stepsOf (s.readGrid (s.viewOf x.feed.bound) t (PassDesc.ofWord x.feed.desc).feed))
        ((PassDesc.ofWord x.feed.desc).stepsOf
          (s.readGrid (s.viewOf x.feed.bound) t (PassDesc.ofWord x.feed.desc).feed)).length
        (s.readAt (s.viewOf x.drain.bound) 1 t (PassDesc.ofWord x.drain.desc).sumin (PassDesc.ofWord x.drain.desc).sumBytes)
        (s.readAt (s.viewOf x.drain.bound) 1 t (PassDesc.ofWord x.drain.desc).exp (PassDesc.ofWord x.drain.desc).gsBlocks)
        none).byteAt a := by
  have hreads : s.ReadsAs (s.swapTile t p) := (State.ReadsAs.refl s).updPart t p _
  have hmem : ∀ v : State, ((v.markReady (thrQ t 3) x.drain.id).markReady (thrQ t 1) x.feed.id).byteAt a = v.byteAt a :=
    fun _ => rfl
  rw [State.streamed, hmem, hreads.viewOf_eq, hreads.readGrid_eq, hreads.readAt_eq]
  exact congrArg (fun m => Tbl.get 0 m a) (drainPass_mem hreads rfl hs _ _ _ _ _ _ _ _)

/-- A partition without a pass goes no further. -/
theorem advanceOne_idle {z : State} {t p : Nat} (h : (z.part t p).passes = []) :
    z.advanceOne t p = z.updPart t p fun x => x := by
  have hpop : z.popPasses t p = z.updPart t p fun x => x := by
    rw [State.popPasses, h]
    rfl
  have hpasses : ((z.updPart t p fun x => x).part t p).passes = [] := by rw [part_updPart_same, h]
  rw [State.advanceOne, h, List.length_nil, Machine.advancePart, hpop, hpasses]

theorem advancePasses_idle {z : State} {t p : Nat} (h : (z.part t p).passes = []) (hturn : z.turnNext t = none) :
    z.advancePasses t p = z.updPart t p fun x => x := by
  rw [← advanceOne_idle h]
  exact advancePasses_alone (by rw [advanceOne_idle h]; exact (turnNext_congr rfl).trans hturn)

theorem swapOf_of_ready {s : State} {t p : Nat} {y : Pass} {r : List Pass} {l f e : PassPart} {wf wd : Work}
    (hok : s.partFaulted t p = false) (hpasses : (s.part t p).passes = y :: r) (hmode : y.mode = .active)
    (hload : y.load = some l) (hdone : l.done = true) (hfeed : y.feed = some f) (hdrain : y.drain = some e)
    (hwf : s.workOf (thrQ t 1) f.id = some wf) (hwd : s.workOf (thrQ t 3) e.id = some wd)
    (hturn : s.turnCome (thrQ t 1) wf = true) : s.swapOf t p = some ⟨y, wf, wd⟩ := by
  simp [State.swapOf, hok, hpasses, hmode, hload, hdone, hfeed, hdrain, hwf, hwd, hturn]

theorem execSwap_of_ready {s : State} {t : Fin 8} {p : Fin 576} {x : Swap} (h : s.swapOf t p = some x) :
    exec (.swap t p) s = .next (
      if s.heldBy205 x.drain.bound ((PassDesc.ofWord x.drain.desc).uses t .drain) then s.hold205 (thrQ t 3)
      else if (usesSpans true ((PassDesc.ofWord x.drain.desc).uses t .drain)).any s.sleeps then s
      else if !((s.part t p).shadow.getD .none).sound then s.faultPart t p .cellParity
      else s.doSwap t p x) := by
  show execSwap t p s = _
  unfold execSwap
  rw [h]

theorem part_swapTile (s : State) (t p : Nat) : (s.swapTile t p).part t p =
    { s.part t p with active := (s.part t p).shadow, shadow := none, passes := (s.part t p).passes.drop 1,
                      base := (s.part t p).base + 1 } := part_updPart_same s t p _

theorem doSwap_active (s : State) (t p : Nat) (x : Swap) : ((s.doSwap t p x).part t p).active = (s.part t p).shadow := by
  have hstream := ((State.PartsKept.refl (s.swapTile t p)).stream t (((s.swapTile t p).part t p).active.getD .none)
    x).part_eq t p
  exact ((State.Advanced.advancePasses _ t p).active p).trans ((congrArg Part.active hstream).trans
    (congrArg Part.active (part_swapTile s t p)))

/-- What a swap leaves where nothing halts, no error is found and no other pass waits. -/
theorem doSwap_quiet {s : State} {t p : Nat} {y : Pass} {wf wd : Work} (hs : s.flaws = [])
    (hpasses : (s.part t p).passes = [y]) (hturn : s.turnNext t = none) (hf : wf.hop = false) (hd : wd.hop = false)
    (hx : (PassDesc.ofWord wf.desc).xTurn = false) : s.doSwap t p ⟨y, wf, wd⟩ =
      ((s.swapTile t p).streamed t ((s.part t p).shadow.getD .none) ⟨y, wf, wd⟩).updPart t p fun x => x := by
  have hactive : ((s.swapTile t p).part t p).active = (s.part t p).shadow := congrArg Part.active (part_swapTile s t p)
  have hstream : s.doSwap t p ⟨y, wf, wd⟩ =
      ((s.swapTile t p).streamed t ((s.part t p).shadow.getD .none) ⟨y, wf, wd⟩).advancePasses t p := by
    rw [← stream_quiet (s := s.swapTile t p) hs (x := ⟨y, wf, wd⟩) hf hd t hx, State.doSwap, hactive]
  have hidle : (((s.swapTile t p).streamed t ((s.part t p).shadow.getD .none) ⟨y, wf, wd⟩).part t p).passes = [] := by
    rw [streamed_part, part_swapTile, hpasses]
    rfl
  rw [hstream]
  refine advancePasses_idle hidle ((turnNext_congr ?_).trans hturn)
  rw [State.streamed, State.markReady, State.updWork, queue_updQueue_other _ (by simp [thrQ]), State.markReady,
    State.updWork, queue_updQueue_other _ (by simp [thrQ]), State.queue, drainPass_queues]
  rfl

/-- Settles O39: a pass that is ready is the one `State.swapOf` names; what is swapped in stays active behind the stream
(`doSwap_active`), and a stream that nothing halts is the drain of all its steps (`doSwap_quiet`), which does not look at
the partitions (`drainPass_mem`). -/
theorem swapRunsPass : Obligations.SwapRunsPass := by
  intro t p s
  refine ⟨fun hnone => ?_, fun y r l f e wf wd us d hok hpasses hmode hload hdone hfeed hdrain hwf hwd hcome hdesc hus => ?_⟩
  · show execSwap t p s = _
    rw [execSwap, hnone]
  · subst hus hdesc
    have hrun := execSwap_of_ready (swapOf_of_ready hok hpasses hmode hload hdone hfeed hdrain hwf hwd hcome)
    refine ⟨fun hheld => hrun.trans (congrArg _ (if_pos hheld)), fun hfree => ?_⟩
    replace hrun := hrun.trans (congrArg _ (if_neg (ne_true_of_eq_false hfree)))
    refine ⟨fun hsleeps => hrun.trans (congrArg _ (if_pos hsleeps)), fun hwake => ?_⟩
    replace hrun := hrun.trans (congrArg _ (if_neg (ne_true_of_eq_false hwake)))
    refine ⟨fun hunsound => ?_, fun hsound => ?_⟩
    · obtain ⟨hstate, hcode, hidle, -⟩ := faultPart_shows s t p .cellParity
      exact ⟨_, hrun.trans (congrArg _ (if_pos (by simp [hunsound]))), hstate, hcode, hidle⟩
    · refine ⟨_, hrun.trans (congrArg _ (if_neg (by simp [hsound]))), doSwap_active s t p _,
        fun hflaws hlast hturn hfhop hdhop hx => ?_⟩
      subst hlast
      rw [doSwap_quiet hflaws hpasses hturn hfhop hdhop hx]
      refine ⟨?_, ⟨{ wf with ready := true }, ?_, rfl⟩, ⟨{ wd with ready := true }, ?_, rfl⟩, ?_⟩
      · rw [part_updPart_same, streamed_part, part_swapTile, hpasses]
        rfl
      · have hfid : wf.id = f.id := by simpa using List.find?_some hwf
        have hfeed' := streamed_feed (s.swapTile t p) t ((s.part t p).shadow.getD .none) ⟨y, wf, wd⟩
        rw [hfid] at hfeed'
        exact hfeed'.trans (congrArg _ hwf)
      · have heid : wd.id = e.id := by simpa using List.find?_some hwd
        have hdrain' := streamed_drain (s.swapTile t p) t ((s.part t p).shadow.getD .none) ⟨y, wf, wd⟩
        rw [heid] at hdrain'
        exact hdrain'.trans (congrArg _ hwd)
      · intro xs hxs a
        subst hxs
        exact streamed_bytes hflaws t p ((s.part t p).shadow.getD .none) ⟨y, wf, wd⟩ a

end Sys2Proof.Machine

/-! Numbers: the code of a value read, and a chunk of one product (O60). -/

namespace Sys2Proof.Machine

/-! ### Rounding a magnitude -/

theorem roundMag_exact (m : Nat) (e : Int) (draw : Option Nat) : roundMag m e e draw = m := by
  simp [roundMag]

theorem flog2_shift {m : Nat} (hm : 0 < m) (j : Nat) (e : Int) : flog2 (m * 2 ^ j) (e - j) = flog2 m e := by
  have hlog : Nat.log2 (m * 2 ^ j) = Nat.log2 m + j := by
    rw [Nat.log2_eq_iff (Nat.mul_pos hm (Nat.two_pow_pos j)).ne', Nat.pow_add, Nat.add_right_comm, Nat.pow_add]
    exact ⟨Nat.mul_le_mul_right _ (Nat.log2_self_le hm.ne'), Nat.mul_lt_mul_of_pos_right Nat.lt_log2_self (Nat.two_pow_pos j)⟩
  rw [flog2, hlog, flog2]
  omega

/-- Rounding looks at the value alone: a magnitude written with `j` more bits rounds the same. -/
theorem roundMag_shift (m j : Nat) (e q : Int) (draw : Option Nat) :
    roundMag (m * 2 ^ j) (e - j) q draw = roundMag m e q draw := by
  unfold roundMag
  by_cases hq : q ≤ e
  · rw [if_pos hq]
    by_cases hqj : q ≤ e - j
    · rw [if_pos hqj, Nat.mul_assoc, ← Nat.pow_add]
      congr 2
      omega
    · obtain ⟨k, hk⟩ : ∃ k : Nat, k = (q - (e - j)).toNat := ⟨_, rfl⟩
      have hsplit : 2 ^ j = 2 ^ (e - q).toNat * 2 ^ k := by rw [← Nat.pow_add]; congr 1; omega
      rw [if_neg hqj, ← hk, hsplit, ← Nat.mul_assoc]
      dsimp only
      rw [Nat.mul_div_cancel _ (Nat.two_pow_pos k), Nat.mul_mod_left]
      cases draw with
      | none => simp [(Nat.two_pow_pos k).ne]
      | some u => simp
  · obtain ⟨k, hk⟩ : ∃ k : Nat, k = (q - e).toNat := ⟨_, rfl⟩
    have hkj : (q - (e - j)).toNat = k + j := by omega
    have hpos : 0 < 2 ^ j := Nat.two_pow_pos j
    rw [if_neg hq, if_neg (by omega), ← hk, hkj]
    dsimp only
    rw [Nat.pow_add, Nat.mul_div_mul_right _ _ hpos, Nat.mul_mod_mul_right]
    cases draw with
    | none =>
      have hlt : 2 ^ k * 2 ^ j < 2 * (m % 2 ^ k * 2 ^ j) ↔ 2 ^ k < 2 * (m % 2 ^ k) := by
        rw [← Nat.mul_assoc]
        exact Nat.mul_lt_mul_right hpos
      have heq : 2 * (m % 2 ^ k * 2 ^ j) = 2 ^ k * 2 ^ j ↔ 2 * (m % 2 ^ k) = 2 ^ k := by
        rw [← Nat.mul_assoc]
        exact Nat.mul_left_inj hpos.ne'
      simp only [hlt, heq]
    | some u =>
      have hdraw : m % 2 ^ k * 2 ^ j * 2 ^ 32 / (2 ^ k * 2 ^ j) = m % 2 ^ k * 2 ^ 32 / 2 ^ k := by
        rw [Nat.mul_right_comm, Nat.mul_div_mul_right _ _ hpos]
      simp only [hdraw]

theorem finiteCode_shift (f : Fmt) {m : Nat} (hm : 0 < m) (j : Nat) (e : Int) (draw : Option Nat) :
    f.finiteCode (m * 2 ^ j) (e - j) draw = f.finiteCode m e draw := by
  have hmag : ∀ d, f.magCode (m * 2 ^ j) (e - j) d = f.magCode m e d := fun d => by
    rw [Fmt.magCode, flog2_shift hm, roundMag_shift, Fmt.magCode]
  rw [Fmt.finiteCode, if_neg (Nat.mul_pos hm (Nat.two_pow_pos j)).ne', hmag, hmag, hmag, Fmt.finiteCode, if_neg hm.ne']

theorem round32_shift (s : Bool) {m : Nat} (hm : 0 < m) (j : Nat) (e : Int) :
    (Fp.num s (m * 2 ^ j) (e - j)).round32 = (Fp.num s m e).round32 := by
  rw [Fp.round32, Fmt.code, finiteCode_shift _ hm, Fp.round32, Fmt.code]

/-! ### Codes read back (R25, R28) -/

theorem finiteCode_subnormal (f : Fmt) {m : Nat} (hm : m < 2 ^ f.man) (htop : m ≤ f.top) :
    f.finiteCode m f.qmin none = m := by
  by_cases h0 : m = 0
  · rw [Fmt.finiteCode, if_pos h0, h0]
  · have hlog : Nat.log2 m < f.man := (Nat.log2_lt h0).2 hm
    have hq : max (flog2 m f.qmin - f.man) f.qmin = f.qmin := by
      rw [flog2]
      omega
    have hmag : f.magCode m f.qmin none = m := by
      rw [Fmt.magCode, hq, roundMag_exact]
      simp
    rw [Fmt.finiteCode, if_neg h0, hmag, ite_self, if_neg (Nat.not_lt.2 htop)]

theorem finiteCode_normal (f : Fmt) {x m : Nat} (hx : x ≠ 0) (hm : m < 2 ^ f.man) (htop : x * 2 ^ f.man + m ≤ f.top) :
    f.finiteCode (m + 2 ^ f.man) (f.qmin + x - 1) none = x * 2 ^ f.man + m := by
  have hlog : Nat.log2 (m + 2 ^ f.man) = f.man := by
    rw [Nat.log2_eq_iff (by have := Nat.two_pow_pos f.man; omega)]
    rw [Nat.pow_succ]
    omega
  have hq : max (flog2 (m + 2 ^ f.man) (f.qmin + x - 1) - f.man) f.qmin = f.qmin + x - 1 := by
    rw [flog2, hlog]
    omega
  have hmag : f.magCode (m + 2 ^ f.man) (f.qmin + x - 1) none = x * 2 ^ f.man + m := by
    obtain ⟨z, rfl⟩ : ∃ z, x = z + 1 := ⟨x - 1, by omega⟩
    have hz : (f.qmin + ((z + 1 : Nat) : Int) - 1 - f.qmin).toNat = z := by omega
    rw [Fmt.magCode, hq, roundMag_exact, hz]
    ring
  rw [Fmt.finiteCode, if_neg (by have := Nat.two_pow_pos f.man; omega), hmag, ite_self, if_neg (Nat.not_lt.2 htop)]

/-- A code is its sign bit and its magnitude. -/
theorem signBit_add_mag (f : Fmt) {n : Nat} (hwidth : 0 < f.width) (hn : n < 2 ^ f.width) :
    f.signBit (bit n (f.width - 1)) + n % 2 ^ (f.width - 1) = n := by
  have hsplit := Nat.div_add_mod n (2 ^ (f.width - 1))
  have hhalf : n / 2 ^ (f.width - 1) < 2 := by
    rw [Nat.div_lt_iff_lt_mul (Nat.two_pow_pos _), ← Nat.pow_succ']
    rwa [Nat.succ_eq_add_one, Nat.sub_add_cancel hwidth]
  rw [bit_eq_testBit, Nat.testBit_eq_decide_div_mod_eq, Fmt.signBit]
  rcases Nat.lt_succ_iff_lt_or_eq.1 hhalf with h0 | h1
  · have hzero : n / 2 ^ (f.width - 1) = 0 := Nat.lt_one_iff.1 h0
    rw [hzero, Nat.mul_zero] at hsplit
    simpa [hzero] using hsplit
  · rw [h1, Nat.mul_one] at hsplit
    simpa [h1] using hsplit

/-- The code of a finite value is the code it was read from. -/
theorem code_value_of_finite (f : Fmt) {n : Nat} (hwidth : 0 < f.width) (hn : n < 2 ^ f.width)
    (hfin : (f.value n).finite = true) : f.code (f.value n) none = n := by
  have htop : n % 2 ^ (f.width - 1) ≤ f.top := by
    by_contra hover
    unfold Fmt.value at hfin
    simp only [if_pos (Nat.lt_of_not_le hover)] at hfin
    split at hfin
    · exact Bool.false_ne_true hfin
    · split at hfin
      · exact Bool.false_ne_true hfin
      · exact Bool.false_ne_true hfin
  have hmag : f.code (f.value n) none = f.signBit (bit n (f.width - 1)) + n % 2 ^ (f.width - 1) := by
    have hdiv := Nat.div_add_mod (n % 2 ^ (f.width - 1)) (2 ^ f.man)
    have hm := Nat.mod_lt (n % 2 ^ (f.width - 1)) (Nat.two_pow_pos f.man)
    rw [Nat.mul_comm] at hdiv
    unfold Fmt.value
    dsimp only
    rw [if_neg (Nat.not_lt.2 htop)]
    by_cases hx : n % 2 ^ (f.width - 1) / 2 ^ f.man = 0
    · rw [hx, Nat.zero_mul, Nat.zero_add] at hdiv
      rw [if_pos hx, Fmt.code, hdiv, finiteCode_subnormal f (hdiv ▸ hm) htop]
    · rw [if_neg hx, Fmt.code, finiteCode_normal f hx hm (hdiv.symm ▸ htop), hdiv]
  exact hmag.trans (signBit_add_mag f hwidth hn)

/-- In FP32 and BF16, where the pattern above the largest finite one is infinity, the codes of infinities and of poison
read back too. -/
theorem code_value_of_wide (f : Fmt) {n : Nat} (hwidth : 0 < f.width) (hn : n < 2 ^ f.width) (hwide : f.wide = true)
    (hinf : ∀ k, k < 2 ^ (f.width - 1) → f.top < k → k % 2 ^ f.man = 0 → k = f.top + 1) (hnan : f.value n ≠ .nan) :
    f.code (f.value n) none = n := by
  by_cases htop : f.top < n % 2 ^ (f.width - 1)
  · unfold Fmt.value at hnan ⊢
    simp only [if_pos htop, hwide, true_and] at hnan ⊢
    split
    · have hmag := hinf _ (Nat.mod_lt _ (Nat.two_pow_pos _)) htop ‹_›
      rw [Fmt.code, if_pos hwide, ← hmag, signBit_add_mag f hwidth hn]
    · rw [if_neg ‹_›] at hnan
      split
      · exact (‹n = _›).symm
      · exact absurd (if_neg ‹_›) hnan
  · refine code_value_of_finite f hwidth hn ?_
    unfold Fmt.value
    simp only [if_neg htop]
    split <;> rfl

/-! ### A chunk of one product (R34) -/

theorem chunkResult_poison {l : List Term} {x : Term} (hx : x ∈ l) (h : x.x = .poison ∨ x.w = .poison) :
    chunkResult l = .poison := by
  have hany : (l.any fun t => t.x == .poison || t.w == .poison) = true :=
    List.any_eq_true.2 ⟨x, hx, by simpa using h⟩
  rw [chunkResult, if_pos hany]

/-- One product that is not 0, aligned to itself: it keeps all its bits, as they are at most 60. -/
theorem truncSum_single (s : Bool) {m : Nat} (hm : 0 < m) (hlt : m < 2 ^ 60) (e : Int) :
    truncSum (flog2 m e - 60) [.num s m e] = (if s then -1 else 1) * ((m * 2 ^ (60 - Nat.log2 m) : Nat) : Int) := by
  have hlog : Nat.log2 m < 60 := (Nat.log2_lt hm.ne').2 hlt
  have hq : flog2 m e - 60 ≤ e := by rw [flog2]; omega
  have hshift : (e - (flog2 m e - 60)).toNat = 60 - Nat.log2 m := by rw [flog2]; omega
  simp only [truncSum, if_pos hq, hshift, add_zero]
  cases s with
  | true => simp
  | false => simp

theorem chunkResult_single (s : Bool) {m : Nat} (hm : 0 < m) (hlt : m < 2 ^ 60) (e : Int) {x : Term}
    (hx : x.x ≠ .poison) (hw : x.w ≠ .poison) (hprod : (x.x.mul x.w).scale x.k = .num s m e) :
    chunkResult [x] = (Fp.num s m e).round32 := by
  have htop : topExp [.num s m e] = some (flog2 m e) := by rw [topExp, if_neg hm.ne', topExp]
  have hlog : Nat.log2 m < 60 := (Nat.log2_lt hm.ne').2 hlt
  have hpos : 0 < m * 2 ^ (60 - Nat.log2 m) := Nat.mul_pos hm (Nat.two_pow_pos _)
  have hexp : flog2 m e - 60 = e - ((60 - Nat.log2 m : Nat) : Int) := by rw [flog2]; omega
  have hres : chunkResult [x] = (if truncSum (flog2 m e - 60) [.num s m e] = 0 then Fp.zero
      else Fp.round32 (.num (decide (truncSum (flog2 m e - 60) [.num s m e] < 0))
        (truncSum (flog2 m e - 60) [.num s m e]).natAbs (flog2 m e - 60))) := by
    have hinf : ∀ b, (Fp.num s m e == Fp.inf b) = false := fun b => by simp
    simp [chunkResult, hx, hw, hprod, htop, hinf]
  rw [hres, truncSum_single s hm hlt, hexp]
  rw [← round32_shift s hm (60 - Nat.log2 m) e]
  generalize m * 2 ^ (60 - Nat.log2 m) = z at hpos
  cases s with
  | true =>
    simp [hpos.ne', hpos]
  | false =>
    have hnonneg : ¬ (z : Int) < 0 := by omega
    simp [hpos.ne', hnonneg]

/-- Settles O60: the code of a value by its sign bit and magnitude (`code_value_of_finite`, `code_value_of_wide`), one
product by keeping all its bits as it is aligned to itself (`chunkResult_single`). -/
theorem numbersReadBack : Obligations.NumbersReadBack := by
  refine ⟨fun c n hc hc7 hn h => ?codes, fun l x hx h => chunkResult_poison hx h, fun s t m n e f k hpos hlt => ?product⟩
  case codes =>
    have hwidth : 0 < (fmtOf c).width := by interval_cases c <;> decide
    rcases h with hfin | ⟨hwide, hnan⟩
    · exact code_value_of_finite _ hwidth hn hfin
    · refine code_value_of_wide _ hwidth hn (by interval_cases c <;> rfl) (fun k hk htop hman => ?_) hnan
      interval_cases c
      · simp only [fmtOf, fp32Fmt] at hk htop hman ⊢
        omega
      · simp only [fmtOf, bf16Fmt] at hk htop hman ⊢
        omega
  case product =>
    exact chunkResult_single (s != t) hpos hlt (e + f + k) (by simp) (by simp) rfl

end Sys2Proof.Machine

/-! What an engine that reads and writes memory leaves behind an instruction (R101, R136, R182): the layer the vector and
copy engines share. -/

namespace Sys2Proof.Machine

/-! ### Going in progress -/

theorem goOn_entered (s : State) (q : Nat) (i : Ins) (w : Work) : s.Entered ((s.begun q).goOn q i w) q i w [] where
  pc := by
    have hloops : ((s.begun q).queue q).loops = (s.queue q).loops := by rw [State.begun, queue_updQueue_same]
    simp [State.goOn, State.advance, State.countIssue, State.addWrap, F.info, hloops]
  issued := (rdi_wri_other (.inl (by decide))).trans rdi_wri_same
  last := by simp [State.goOn, State.advance, State.countIssue, State.addWrap]
  work := by rw [goOn_work, begun_work]
  regs := fun f k hmem => by
    simp only [List.mem_cons, Prod.mk.injEq, not_or, not_and_or, List.not_mem_nil, not_false_eq_true, and_true] at hmem
    exact goOn_rdi (s.begun q) q i w hmem.1 hmem.2
  others := fun k hk => (goOn_other _ _ _ _ hk).trans (begun_other hk)

theorem State.Entered.congr {s v u : State} {q : Nat} {i : Ins} {w : Work} {l : List (F × Nat)}
    (h : s.Entered v q i w []) (hqueues : u.queues = v.queues) (hregs : ∀ f k, (f, k) ∉ l → u.rdi f k = v.rdi f k)
    (hpc : (.EN_Q_PC_PC, q) ∉ l) (hcount : (.EN_Q_ISSUED_COUNT, q) ∉ l) : s.Entered u q i w l where
  pc := (hregs _ _ hpc).trans h.pc
  issued := (hregs _ _ hcount).trans h.issued
  last := by rw [State.queue, hqueues]; exact h.last
  work := by rw [State.queue, hqueues]; exact h.work
  regs := fun f k hmem => by
    simp only [List.mem_cons, not_or] at hmem
    obtain ⟨hne, hne', hl⟩ := hmem
    exact (hregs f k hl).trans (h.regs f k (by simp [hne, hne']))
  others := fun k hk => by rw [State.queue, hqueues]; exact h.others k hk

@[simp] theorem begun_newWork (s : State) (q : Nat) (i : Ins) (k : WorkKind) (b : Option Nat) :
    newWork ((s.begun q).queue q) i k b = newWork (s.queue q) i k b := by simp [newWork]

theorem entered_readsAs (s : State) (q : Nat) (i : Ins) (w : Work) : s.ReadsAs ((s.begun q).goOn q i w) :=
  (State.ReadsAs.begun s q).goOn q i w

@[simp] theorem entered_viewOf (s : State) (q : Nat) (i : Ins) (w : Work) : ((s.begun q).goOn q i w).viewOf = s.viewOf :=
  (entered_readsAs s q i w).viewOf_eq

@[simp] theorem entered_bankOf (s : State) (q : Nat) (i : Ins) (w : Work) : ((s.begun q).goOn q i w).bankOf = s.bankOf :=
  (entered_readsAs s q i w).bankOf_eq

/-- Fewer spans conflict with less (R182). -/
theorem mustStall_mono {s : State} {q : Nat} {rs rs' ws ws' : List Span} (hr : ∀ x ∈ rs, x ∈ rs') (hw : ∀ x ∈ ws, x ∈ ws')
    (h : s.mustStall q rs' ws' none = false) : s.mustStall q rs ws none = false := by
  rw [State.mustStall, Bool.or_eq_false_iff] at h ⊢
  obtain ⟨hconf, hsleep⟩ := h
  refine ⟨?_, ?_⟩
  · rw [conflicts, List.any_eq_false] at hconf ⊢
    intro w hmem hbad
    refine hconf w hmem ?_
    simp only [Bool.and_eq_true, Bool.or_eq_true, List.any_eq_true] at hbad ⊢
    obtain ⟨hopen, hmeet⟩ := hbad
    refine ⟨hopen, ?_⟩
    rcases hmeet with ⟨x, hx, hmeets⟩ | ⟨x, hx, hmeets⟩
    · exact .inl ⟨x, hw x hx, hmeets⟩
    · exact .inr ⟨x, hr x hx, hmeets⟩
  · rw [List.any_eq_false] at hsleep ⊢
    intro x hx
    rcases List.mem_append.1 hx with hx | hx
    · exact hsleep x (List.mem_append_left _ (hr x hx))
    · exact hsleep x (List.mem_append_right _ (hw x hx))

theorem State.clear.descFree {s : State} {q : Nat} {i : Ins} {x : Desc} {us : List Use} {chk : Chk Unit}
    (h : s.clear q i x us chk) : s.mustStall q [x.span] [] none = false :=
  mustStall_mono (by simp [usesSpans, Desc.use]) (by simp) h.apart

/-! ### What an instruction may change besides its queue -/

/-- `u` is `s` with other values at most in the register fields of the list, other memory, marks and granules; where
nothing is versioned, only bytes at places of `A` differ. -/
structure State.Out (l : List (F × Nat)) (A : Nat → Prop) (s u : State) : Prop where
  rest : u = { s with regs := u.regs, mem := u.mem, poison := u.poison, prov := u.prov }
  regs : ∀ f k, (f, k) ∉ l → u.rdi f k = s.rdi f k
  bytes : s.vregs = [] → ∀ p, ¬ A p → u.byteAt p = s.byteAt p

namespace State.Out

variable {l : List (F × Nat)} {A : Nat → Prop} {s u v : State}

theorem refl (s : State) : s.Out l A s := ⟨rfl, fun _ _ _ => rfl, fun _ _ _ => rfl⟩

theorem queues_eq (h : s.Out l A u) : u.queues = s.queues := (congrArg State.queues h.rest :)
theorem flaws_eq (h : s.Out l A u) : u.flaws = s.flaws := (congrArg State.flaws h.rest :)

section
variable (hl : ∀ e ∈ l, e.1 ∉ readFields)
include hl

theorem vregs_eq (h : s.Out l A u) : u.vregs = s.vregs := by
  have hreads : s.ReadsAs { s with regs := u.regs } := ⟨fun f hf k => h.regs f k fun hmem => hl _ hmem hf, rfl, rfl, rfl, rfl⟩
  exact hreads.vregs_eq

theorem phys_eq (h : s.Out l A u) : u.phys = s.phys := by
  have hreads : s.ReadsAs { s with regs := u.regs } := ⟨fun f hf k => h.regs f k fun hmem => hl _ hmem hf, rfl, rfl, rfl, rfl⟩
  exact hreads.phys_eq

theorem trans (h : s.Out l A u) (k : u.Out l A v) : s.Out l A v :=
  ⟨by rw [k.rest, h.rest], fun f j hj => (k.regs f j hj).trans (h.regs f j hj),
    fun hv p hp => (k.bytes ((h.vregs_eq hl).trans hv) p hp).trans (h.bytes hv p hp)⟩

/-- A write of memory, whose places lie in `A` where nothing is versioned. -/
theorem writes (h : s.Out l A u) {f : State → State} (hf : Silent f) (hs : s.flaws = [])
    (hA : u.vregs = [] → u.flaws = [] → u.WroteIn A (f u)) : s.Out l A (f u) := by
  have hflaws := h.flaws_eq.trans hs
  have hput := hf.put hflaws
  exact h.trans hl ⟨by rw [hput], fun f k _ => hput.rdi_eq f k, fun hv p hp => (hA hv hflaws).bytes p hp⟩

theorem writeResult (h : s.Out l A u) (hs : s.flaws = []) (view : View) (space t a : Nat) (b : List PByte)
    (hA : ∀ j < b.length, A (s.phys space t (a + j))) : s.Out l A (u.writeResult view space t a b) :=
  h.writes hl (.writeResult view space t a b) hs fun hv hflaws => (State.WroteIn.writeResult hv hflaws view space t a b).mono
    fun p ⟨j, hj, hp⟩ => by rw [hp, h.phys_eq hl]; exact hA j hj

theorem writeAt (h : s.Out l A u) (hs : s.flaws = []) (view : View) (space t a : Nat) (b : List PByte)
    (hA : ∀ j < b.length, A (s.phys space t (a + j))) : s.Out l A (u.writeAt view space t a b) :=
  h.writes hl (.writeAt view space t a b) hs fun hv hflaws => (State.WroteIn.writeAt hv hflaws view space t a b).mono
    fun p ⟨j, hj, hp⟩ => by rw [hp, h.phys_eq hl]; exact hA j hj

theorem onlyRegs (h : s.Out l A u) (hregs : u.onlyRegs v l) : s.Out l A v :=
  h.trans hl ⟨by rw [hregs.1], hregs.2, fun _ p _ => by rw [State.byteAt, hregs.1, State.byteAt]⟩

end

end State.Out

end Sys2Proof.Machine

/-! The vector engine (O41, O42). -/

namespace Sys2Proof.Machine

/-! ### A vector instruction in progress (R101, R108) -/

/-- The state in which vector instruction `i` of thresher `t` has gone in progress. -/
def State.vecEntered (s : State) (t : Nat) (i : Ins) (x : Desc) (us : List Use) : State :=
  (s.begun (thrQ t 4)).goOn (thrQ t 4) i (s.workFor (thrQ t 4) i .vector x.word us)

theorem vecIssue_run {s : State} {t op : Nat} {i : Ins} {x : Desc} {chk : Nat → Chk Unit}
    {uses : Nat → VecDesc → List Use} {run : VecRun} (h : s.issues (thrQ t 4) op i)
    (hclear : s.clear (thrQ t 4) i x (uses t (VecDesc.ofWord x.word))
      (do chk x.word; s.checkUses (s.bindEpoch i) (uses t (VecDesc.ofWord x.word) ++ [x.use]) (.ok ())))
    (hroom : ((s.queue (thrQ t 4)).work.filter fun w => w.kind == .vector && !w.done).length < 8) {u : State} {halts : Bool}
    (hrun : run t (VecDesc.ofWord x.word) i.hop (s.viewOf (s.bindEpoch i)) (s.bankOf (s.bindEpoch i))
      (s.vecEntered t i x (uses t (VecDesc.ofWord x.word))) = (u, halts)) :
    vecIssue t op chk uses run s =
      if halts then u.failWork (thrQ t 4) (s.queue (thrQ t 4)).nextId (.of .poison) else u := by
  obtain ⟨hfinds, hflaws, hpass, hfree, hapart⟩ := hclear
  have hstall : s.mustStall (thrQ t 4) [x.span] [] none = false :=
    mustStall_mono (by simp [usesSpans, Desc.use]) (by simp) hapart
  rw [State.vecEntered, State.workFor] at hrun
  rw [vecIssue]
  dsimp only
  rw [issue_eq h, withDesc_of_finds hfinds hflaws hstall]
  simp only [begun_bindEpoch, begun_checkUses, hpass, begun_heldBy205, hfree, begun_mustStall, hapart, begun_work,
    decide_eq_false (Nat.not_le.2 hroom), Bool.or_self, Bool.false_eq_true, if_false, begun_newWork, entered_viewOf,
    entered_bankOf, hrun]
  cases halts <;> rfl

/-! ### Steps in ascending order (R31) -/

section
variable {view : View} {step : Nat → Sink → Sink × Bool} {v : Nat → Sink}

theorem runSteps_range' {n k : Nat} (h : ∀ j, k ≤ j → j < k + n → step j (v j) = (v (j + 1), false)) :
    runSteps view step (List.range' k n) (v k) = (((v (k + n)).flush view).st, false) := by
  induction n generalizing k with
  | zero => rfl
  | succ n ih =>
    rw [List.range'_succ, runSteps, h k (Nat.le_refl k) (by omega)]
    dsimp only
    rw [ih fun j hj hlt => h j (by omega) (by omega), show k + 1 + n = k + (n + 1) by omega]

theorem runSteps_all {n : Nat} (h : ∀ j, j < n → step j (v j) = (v (j + 1), false)) :
    runSteps view step (List.range n) (v 0) = (((v n).flush view).st, false) := by
  rw [List.range_eq_range', runSteps_range' fun j _ hj => h j (by omega), Nat.zero_add]

theorem runSteps_halts' {n k m : Nat} {x : Sink} (hm : k ≤ m) (hn : m < k + n)
    (h : ∀ j, k ≤ j → j < m → step j (v j) = (v (j + 1), false)) (hx : step m (v m) = (x, true)) :
    runSteps view step (List.range' k n) (v k) = ((x.flush view).st, true) := by
  induction n generalizing k with
  | zero => omega
  | succ n ih =>
    rw [List.range'_succ, runSteps]
    rcases Nat.eq_or_lt_of_le hm with rfl | hlt
    · rw [hx]
    · rw [h k (Nat.le_refl k) hlt]
      exact ih hlt (by omega) fun j hj => h j (by omega)

theorem runSteps_halts {n m : Nat} {x : Sink} (hn : m < n) (h : ∀ j, j < m → step j (v j) = (v (j + 1), false))
    (hx : step m (v m) = (x, true)) : runSteps view step (List.range n) (v 0) = ((x.flush view).st, true) := by
  rw [List.range_eq_range']
  exact runSteps_halts' (Nat.zero_le m) (by omega) (fun j _ => h j) hx

end

/-! ### What is put out (R31, R32, R136) -/

/-- What a sink has written and holds back, over `s`: fields of the list, and bytes at places of `A`. -/
structure Sink.Out (l : List (F × Nat)) (A : Nat → Prop) (s : State) (x : Sink) : Prop where
  st : s.Out l A x.st
  pend : ∀ r, x.pend = some r → ∀ j < r.data.length, A (s.phys r.space r.thr (r.addr + j))

namespace Sink.Out

variable {l : List (F × Nat)} {A : Nat → Prop} {s : State} {x : Sink} (hl : ∀ e ∈ l, e.1 ∉ readFields)
  (hs : s.flaws = [])

theorem start (s : State) : Sink.Out l A s ⟨s, none⟩ := ⟨.refl s, fun _ h => absurd h (by simp)⟩

include hl hs in
theorem flush (h : x.Out l A s) (view : View) : (x.flush view).Out l A s := by
  unfold Sink.flush
  split
  · exact h
  · exact ⟨h.st.writeResult hl hs view _ _ _ _ (h.pend _ ‹_›), fun _ hr => absurd hr (by simp)⟩

include hl hs in
theorem reading (h : x.Out l A s) (view : View) (t a n : Nat) : (x.reading view t a n).Out l A s := by
  have hsense : ∀ y : Sink, y.Out l A s → ({ y with st := y.st.senseAt view 1 t a n } : Sink).Out l A s := fun y hy => by
    rw [senseAt_of_flawless (hy.st.flaws_eq.trans hs)]
    exact hy
  refine hsense _ ?_
  split
  · exact h.flush hl hs view
  · exact h

include hl hs in
theorem readSrc (h : x.Out l A s) (view : View) (t i : Nat) (v : VecSrc) : (x.readSrc view t i v).Out l A s := by
  match v with
  | .at b st => exact h.reading hl hs view t _ 4
  | .imm v => exact h

include hl hs in
theorem put (h : x.Out l A s) (view : View) (t a : Nat) {b : List Byte} (hA : ∀ j < b.length, A (s.phys 1 t (a + j))) :
    (x.put view t a b).Out l A s := by
  have hnew : ∀ {r : Run}, some (⟨1, t, a, clean b⟩ : Run) = some r → ∀ j < r.data.length,
      A (s.phys r.space r.thr (r.addr + j)) := fun hr j hj => by
    obtain rfl := Option.some.inj hr
    exact hA j (by simpa [clean] using hj)
  unfold Sink.put
  split
  · rename_i r hr
    split
    · rename_i hnext
      obtain ⟨hspace, hthr, haddr⟩ := hnext
      refine ⟨h.st, fun r' hr' j hj => ?_⟩
      obtain rfl := Option.some.inj hr'
      by_cases hold : j < r.data.length
      · exact h.pend r hr j hold
      · have hplace := hA (j - r.data.length) (by simp [clean] at hj; omega)
        rw [haddr, show r.addr + r.data.length + (j - r.data.length) = r.addr + j by omega] at hplace
        rw [hspace, hthr]
        exact hplace
    · exact ⟨(h.flush hl hs view).st, fun _ hr' => hnew hr'⟩
  · exact ⟨h.st, fun _ hr' => hnew hr'⟩

include hl in
theorem onlyRegs (h : x.Out l A s) {u : State} (hu : x.st.onlyRegs u l) : ({ x with st := u } : Sink).Out l A s :=
  ⟨h.st.onlyRegs hl hu, h.pend⟩

include hl hs in
theorem vecPut (h : x.Out l A s) (view : View) (t bank a : Nat) (args : List Fp) (r : Fp) (hnum : ∀ e ∈ numFlags t, e ∈ l)
    (hA : ∀ j < 4, A (s.phys 1 t (a + j))) : (x.vecPut view t bank a args r).Out l A s :=
  (h.put hl hs view t a (by simpa using hA)).onlyRegs hl ((State.onlyRegs.refl _ l).raiseNum hnum bank _ _)

end Sink.Out

/-! ### Elementwise operations (R45, R47) -/

theorem exec_elementwise (t : Fin 8) (s : State) : ∀ e ∈ elementwise t,
    exec e.1 s = .next (vecIssue t e.2.1 vecPlainCheck (mapUses e.2.2.1) (vecMap e.2.2.1 e.2.2.2) s) := by
  simp only [elementwise, List.forall_mem_cons]
  exact ⟨rfl, rfl, rfl, rfl, rfl, rfl, rfl, rfl, rfl, rfl, rfl, rfl, rfl, rfl, rfl, by simp⟩

/-- The places of the first `count` elements of D in the loft of thresher `t`. -/
def VecDesc.places (d : VecDesc) (t : Nat) (p : Nat) : Prop :=
  ∃ k < d.count, ¬ outsideRun p (Config.loftBase t + vecAt d.d d.dStep 1 k) 4

theorem VecDesc.place_mem (d : VecDesc) (s : State) {t k j : Nat} (hk : k < d.count) (hj : j < 4) :
    d.places t (s.phys 1 t (vecAt d.d d.dStep 1 k + j)) := by
  refine ⟨k, hk, ?_⟩
  rw [State.phys, if_neg (by decide), outsideRun]
  omega

theorem ready_out {l : List (F × Nat)} {A : Nat → Prop} {s : State} {x : Sink} (hl : ∀ e ∈ l, e.1 ∉ readFields)
    (hs : s.flaws = []) (h : x.Out l A s) (n t : Nat) (d : VecDesc) (view : View) (k : Nat) :
    (x.ready n t d view k).Out l A s :=
  foldl_keeps (P := fun y : Sink => y.Out l A s) (fun _ v hy => hy.readSrc hl hs view t k v) (d.sources n) h

theorem vecAfter_out {s : State} (hs : s.flaws = []) (n : Nat) (g : List Fp → Fp) (t : Nat) (d : VecDesc) (view : View)
    (bank : Nat) {k : Nat} (hk : k ≤ d.count) : (s.vecAfter n g t d view bank k).Out (numFlags t) (d.places t) s := by
  induction k with
  | zero => exact .start s
  | succ k ih =>
    exact (ready_out (numFlags_notRead t) hs (ih (by omega)) n t d view k).vecPut (numFlags_notRead t) hs view t bank _ _ _
      (fun _ he => he) fun j hj => d.place_mem s (by omega) hj

/-- What one step of an elementwise operation does with an element none of whose operands halts it. -/
theorem vecMap_goes {s : State} {n : Nat} {g : List Fp → Fp} {t : Nat} {d : VecDesc} {hop : Bool} {view : View} {bank : Nat}
    (h : hop = true → ∀ k < d.count, Fp.poison ∉ (s.vecAfter n g t d view bank k).args n t d view k) :
    vecMap n g t d hop view bank s = (((s.vecAfter n g t d view bank d.count).flush view).st, false) := by
  refine runSteps_all (v := s.vecAfter n g t d view bank) fun k hk => if_neg fun hhalt => ?_
  obtain ⟨hhop, hany⟩ := Bool.and_eq_true_iff.1 hhalt
  obtain ⟨y, hy, heq⟩ := List.any_eq_true.1 hany
  exact h hhop k hk ((beq_iff_eq.1 heq) ▸ hy)

theorem vecMap_halts {s : State} {n : Nat} {g : List Fp → Fp} {t : Nat} {d : VecDesc} {hop : Bool} {view : View}
    {bank k : Nat} (hhop : hop = true) (hk : k < d.count)
    (hbad : Fp.poison ∈ (s.vecAfter n g t d view bank k).args n t d view k)
    (h : ∀ j < k, Fp.poison ∉ (s.vecAfter n g t d view bank j).args n t d view j) :
    vecMap n g t d hop view bank s = ((((s.vecAfter n g t d view bank k).ready n t d view k).flush view).st, true) := by
  subst hhop
  refine runSteps_halts (v := s.vecAfter n g t d view bank) hk (fun j hj => if_neg fun hhalt => ?_) (if_pos ?_)
  · obtain ⟨y, hy, heq⟩ := List.any_eq_true.1 hhalt
    exact h j hj ((beq_iff_eq.1 heq) ▸ hy)
  · exact List.any_eq_true.2 ⟨_, hbad, by simp⟩

/-- What a vector instruction leaves besides its queue, as the statements say it. -/
theorem vecEntered_out {s u : State} {t : Nat} {i : Ins} {x : Desc} {us : List Use} {A : Nat → Prop}
    (h : (s.vecEntered t i x us).Out (numFlags t) A u) :
    s.Entered u (thrQ t 4) i (s.workFor (thrQ t 4) i .vector x.word us) (numFlags t) ∧
      (s.vregs = [] → ∀ p, ¬ A p → u.byteAt p = s.byteAt p) := by
  refine ⟨(goOn_entered s _ i _).congr h.queues_eq h.regs (by simp [numFlags]) (by simp [numFlags]), fun hv p hp => ?_⟩
  exact h.bytes ((entered_readsAs ..).vregs_eq.trans hv) p hp

/-- Settles O41: the elements go one after another (`vecMap_goes`, `vecMap_halts`), and what is put out changes memory at
the places of D and numerical flags alone (`vecAfter_out`). -/
theorem elementwiseVectors : Obligations.ElementwiseVectors := by
  intro t s i x c op n g d view v hop hi hd hclear hroom hview hv
  subst hd hview hv
  have hexec := exec_elementwise t s _ hop
  dsimp only at hexec
  have hflaws : (s.vecEntered t i x (mapUses n t (VecDesc.ofWord x.word))).flaws = [] := hclear.flawless
  refine ⟨fun hclean => ?_, fun k hhop hk hbad hfirst => ?_⟩
  · have hrun := vecIssue_run hi hclear hroom (vecMap_goes (s := s.vecEntered t i x (mapUses n t (VecDesc.ofWord x.word)))
      (g := g) hclean)
    have hout := (vecAfter_out hflaws n g t (VecDesc.ofWord x.word) (s.viewOf (s.bindEpoch i)) (s.bankOf (s.bindEpoch i))
      (Nat.le_refl _)).flush (numFlags_notRead t) hflaws (s.viewOf (s.bindEpoch i))
    obtain ⟨hentered, hbytes⟩ := vecEntered_out hout.st
    refine ⟨hexec.trans (congrArg _ hrun), hentered, fun hvregs p hp => hbytes hvregs p ?_⟩
    rintro ⟨k, hk, hin⟩
    exact hin (hp k hk)
  · have hhalts := vecMap_halts (s := s.vecEntered t i x (mapUses n t (VecDesc.ofWord x.word))) (g := g) hhop hk hbad
      hfirst
    exact hexec.trans (congrArg _ (vecIssue_run hi hclear hroom hhalts))

/-! ### Reductions and conversions (R38, R46) -/

theorem readSrc_quiet {s : State} (hs : s.flaws = []) (view : View) (t i : Nat) (v : VecSrc) :
    (Sink.mk s none).readSrc view t i v = ⟨s, none⟩ := by
  match v with
  | .at b st => simp [Sink.readSrc, Sink.reading, senseAt_of_flawless hs]
  | .imm v => rfl

theorem State.ReadsAs.vecValue_eq {s u : State} (h : s.ReadsAs u) : u.vecValue = s.vecValue := by
  funext view t i v
  match v with
  | .at b st => rw [State.vecValue, State.vecValue, h.readAt_eq]
  | .imm v => rfl

/-- A reduction of operands none of which halts it. -/
theorem vecReduce_quiet {s : State} (hs : s.flaws = []) (o : RedOp) (t : Nat) (d : VecDesc) (hop : Bool) (view : View)
    (bank : Nat) {a : List Fp} (ha : a = (List.range d.count).map fun k => s.vecValue view t k (.at d.a d.aStep)) :
    vecReduce o t d hop view bank s =
      if hop && (a.any fun x => x == .poison) then (s, true)
      else ((((Sink.mk s none).vecPut view t bank d.d a (reduce o a)).flush view).st, false) := by
  have hreads : (List.range d.count).foldl (fun k i => k.readSrc view t i (.at d.a d.aStep)) (Sink.mk s none) = ⟨s, none⟩ :=
    foldl_keeps (P := fun k => k = Sink.mk s none) (fun _ i hk => by rw [hk, readSrc_quiet hs]) _ rfl
  rw [ha, vecReduce, hreads]

theorem vecReduce_out {s : State} (hs : s.flaws = []) (t : Nat) (view : View) (bank p : Nat) (a : List Fp) (r : Fp) :
    s.Out (numFlags t) (fun _ => True) (((Sink.mk s none).vecPut view t bank p a r).flush view).st :=
  (((Sink.Out.start s).vecPut (numFlags_notRead t) hs view t bank p a r (fun _ he => he) fun _ _ => trivial).flush
    (numFlags_notRead t) hs view).st

theorem exec_reduce (t : Fin 8) (s : State) :
    ∀ e ∈ [(Instr.vRsum t, 0x71, RedOp.sum), (Instr.vRmax t, 0x72, .max), (Instr.vRmin t, 0x73, .min)],
      exec e.1 s = .next (vecIssue t e.2.1 vecPlainCheck reduceUses (vecReduce e.2.2) s) := by
  simp only [List.forall_mem_cons]
  exact ⟨rfl, rfl, rfl, by simp⟩

theorem unitValues_fp32 (l : List PByte) : unitValues 1 l = [(unitValues 1 l).headD .zero] := by
  unfold unitValues unitRaw
  by_cases hbad : anyBad l ∨ (isBlock 1 ∧ bits (pNat l) (8 * (unitBytes 1 - 1)) 8 = 0xFF)
  · simp only [if_pos hbad]
    rfl
  · simp only [if_neg hbad]
    rfl

/-- A result that neither escapes nor saturates only raises numerical flags. -/
theorem noteConv_wide (s : State) (t bank c : Nat) (draw : Option Nat) (v : Fp) :
    s.noteConv t bank (wideElem c draw v) = s.raiseNum t bank (wideElem c draw v).ovf (wideElem c draw v).nan := rfl

/-- One FP32 element converted to BF16: its rounded code, and its flags. -/
theorem vecConvert_one {s : State} (hs : s.flaws = []) {t : Nat} {d : VecDesc} {hop : Bool} (view : View)
    (bank : Nat) (hhop : hop = false) (hsrc : d.srcFmt = 1) (hdst : d.dstFmt = 2) (hcount : d.count = 1) (hrnd : d.rnd = false) {r : Conv}
    (hr : r = wideElem 2 none (s.vecValue view t 0 (.at d.a d.aStep))) :
    ∃ ovf, vecConvert t d hop view bank s =
      ((((s.noteConv t bank r).raiseNum t bank ovf false).writeResult view 1 t d.d (clean r.bytes)), false) := by
  refine ⟨groupOvf 2 [s.readAt view 1 t (vecAt d.a d.aStep 1 0) 4] 1, ?_⟩
  have hat : vecAt d.d d.dStep 2 0 = d.d := by simp [vecAt]
  have hvalue : unitValues 1 (s.readAt view 1 t (vecAt d.a d.aStep 1 0) 4) = [s.vecValue view t 0 (.at d.a d.aStep)] :=
    unitValues_fp32 _
  have hgroup : groupElems 1 2 = 1 := rfl
  have hunits : unitElems 1 = 1 ∧ unitElems 2 = 1 ∧ unitBytes 1 = 4 := ⟨rfl, rfl, rfl⟩
  obtain ⟨hone, htwo, hbytes⟩ := hunits
  simp [vecConvert, hhop, hsrc, hdst, hcount, hrnd, hgroup, hone, htwo, hbytes, runSteps, Sink.reading, senseAt_of_flawless hs,
    State.draws, encodeGroup, isBlock, drawOf, Sink.put, Sink.flush, hat, hvalue, hr]

/-- Settles O42: a reduction reads its operands and writes one result (`vecReduce_quiet`); a conversion is `vecConvert`,
which for one element of FP32 to BF16 writes its rounded code (`vecConvert_one`). -/
theorem reductionsAndConversion : Obligations.ReductionsAndConversion := by
  intro t s i x d view bank hd hview hbank hroom
  subst hd hview hbank
  refine ⟨fun c op o v a hop hi hclear hv ha => ?_, fun v hi hclear hv => ?_⟩
  · obtain rfl : v = s.vecEntered t i x (reduceUses t (VecDesc.ofWord x.word)) := hv
    have hexec := exec_reduce t s _ hop
    have hflaws : (s.vecEntered t i x (reduceUses t (VecDesc.ofWord x.word))).flaws = [] := hclear.flawless
    have hreads : s.ReadsAs (s.vecEntered t i x (reduceUses t (VecDesc.ofWord x.word))) := entered_readsAs ..
    have hquiet := vecReduce_quiet hflaws o t (VecDesc.ofWord x.word) i.hop (s.viewOf (s.bindEpoch i))
      (s.bankOf (s.bindEpoch i)) (a := a) (by rw [ha, hreads.vecValue_eq])
    have hhalt : (i.hop && a.any fun x => x == Fp.poison) = true ↔ i.hop = true ∧ Fp.poison ∈ a := by simp
    refine ⟨fun hgo => ?_, fun hhop hbad => ?_⟩
    · rw [if_neg (hhalt.not.2 fun ⟨hhop, hbad⟩ => hgo.elim (fun h => Bool.false_ne_true (h.symm.trans hhop)) (· hbad))]
        at hquiet
      exact ⟨_, hexec.trans (congrArg _ (vecIssue_run hi hclear hroom hquiet)), rfl, (vecEntered_out
        (vecReduce_out hflaws t (s.viewOf (s.bindEpoch i)) (s.bankOf (s.bindEpoch i)) _ a (reduce o a))).1⟩
    · rw [if_pos (hhalt.2 ⟨hhop, hbad⟩)] at hquiet
      exact hexec.trans (congrArg _ (vecIssue_run hi hclear hroom hquiet))
  · obtain rfl : v = s.vecEntered t i x (cvtUses t (VecDesc.ofWord x.word)) := hv
    refine ⟨fun u hu => congrArg _ (vecIssue_run hi hclear hroom hu), fun u hu => congrArg _ (vecIssue_run hi hclear hroom hu),
      fun hsrc hdst hcount hrnd hhop => ?_⟩
    have hflaws : (s.vecEntered t i x (cvtUses t (VecDesc.ofWord x.word))).flaws = [] := hclear.flawless
    have hreads : s.ReadsAs (s.vecEntered t i x (cvtUses t (VecDesc.ofWord x.word))) := entered_readsAs ..
    obtain ⟨ovf, hone⟩ := vecConvert_one hflaws (s.viewOf (s.bindEpoch i)) (s.bankOf (s.bindEpoch i)) hhop hsrc hdst hcount
      hrnd (r := wideElem 2 none (s.vecValue (s.viewOf (s.bindEpoch i)) t 0
        (.at (VecDesc.ofWord x.word).a (VecDesc.ofWord x.word).aStep))) (by rw [hreads.vecValue_eq])
    refine ⟨_, congrArg Host.Outcome.next (vecIssue_run hi hclear hroom hone), ?_⟩
    rw [if_neg Bool.false_ne_true, noteConv_wide]
    generalize wideElem 2 none _ = r
    have hnum := ((State.onlyRegs.refl (s.vecEntered t i x (cvtUses t (VecDesc.ofWord x.word))) (numFlags t)).raiseNum
      (fun _ he => he) (s.bankOf (s.bindEpoch i)) r.ovf r.nan).raiseNum (fun _ he => he) (s.bankOf (s.bindEpoch i)) ovf false
    have hout := ((State.Out.refl (A := fun _ => True) _).onlyRegs (numFlags_notRead t) hnum).writeResult
      (numFlags_notRead t) hflaws (s.viewOf (s.bindEpoch i)) 1 t (VecDesc.ofWord x.word).d (clean r.bytes) fun _ _ => trivial
    exact ⟨(vecEntered_out hout).1,
      ((Silent.writeResult _ _ _ _ _).readsAs (hnum.readsAs (numFlags_notRead t)) hflaws).mem⟩

end Sys2Proof.Machine

/-! The copy engine: local copies, fills and gathers (O43, O44). -/

namespace Sys2Proof.Machine

/-! ### A copy that names no remote place (R142, R143) -/

theorem Ep.ofWord_space_of_zero : (Ep.ofWord 0).space = 0 := by decide

theorem ownSpan_spanOf (s : State) {space : Nat} (h : space ≠ 2) (sub addr len : Nat) (dims : List (Nat × Int)) :
    s.ownSpan (spanOf space sub addr len dims) = none := by
  unfold spanOf
  split
  · rfl
  · exact if_neg fun hs => h hs.1

theorem ownSpan_srcSpan (s : State) (d : CopyDesc) {e : Ep} (h : e.space ≠ 2) : s.ownSpan (d.srcSpan e) = none :=
  ownSpan_spanOf s h _ _ _ _

theorem ownSpan_dstSpan (s : State) (d : CopyDesc) {e : Ep} (h : e.space ≠ 2) : s.ownSpan (d.dstSpan e) = none := by
  unfold CopyDesc.dstSpan
  split
  · rfl
  · exact ownSpan_spanOf s h _ _ _ _

theorem heldBy205_cons_none (s : State) (b : Option Nat) (w : Bool) (n : Nat) (us : List Use) :
    s.heldBy205 b (⟨none, w, n⟩ :: us) = s.heldBy205 b us := by
  simp [State.heldBy205]

theorem ownRefusal_local {s : State} {c : CopyRun} (hsrc : (Ep.ofWord c.d.src).space ≠ 2)
    (hdst : (Ep.ofWord c.d.dst).space ≠ 2) : s.ownRefusal c = none := by
  simp only [State.ownRefusal, ownSpan_srcSpan s c.d hsrc, ownSpan_dstSpan s c.d hdst]

@[simp] theorem begun_copySpans (s : State) (q : Nat) (b : Option Nat) (d : CopyDesc) (fill : Bool) (us : List Use) :
    (s.begun q).copySpans b d fill us = s.copySpans b d fill us := rfl
@[simp] theorem begun_copiesFull (s : State) (q : Nat) : (s.begun q).copiesFull q = s.copiesFull q := by
  simp only [State.copiesFull, begun_work]
@[simp] theorem begun_ownSpan (s : State) (q : Nat) (x : Option Span) : (s.begun q).ownSpan x = s.ownSpan x := rfl

/-- The state in which copy or fill `i` of thresher `t` has gone in progress. -/
def State.copyEntered (s : State) (t : Nat) (i : Ins) (x : Desc) (us : List Use) : State :=
  (s.begun (thrQ t 5)).goOn (thrQ t 5) i (s.workFor (thrQ t 5) i .copy x.word us)

/-- The descriptor a copy or fill works with: a fill folds nothing into a digest. -/
def copyDescOf (fill : Bool) (w : Nat) : CopyDesc :=
  if fill then { CopyDesc.ofWord w with digest := false } else CopyDesc.ofWord w

/-- Where a copy's or fill's bytes come from. -/
def copySource (fill : Bool) (d : CopyDesc) : Source :=
  let e := Ep.ofWord d.src
  if fill then .pattern d.src else if e.space = 3 then .host else .at e.space e.thr e.addr

/-- A local copy or fill that passes its checks and waits for nothing goes in progress and moves its bytes. -/
theorem copyBody_run {s : State} {t : Nat} {fill : Bool} {i : Ins} {x : Desc} {d : CopyDesc}
    (hd : d = copyDescOf fill x.word) (hspans : s.copySpans (s.bindEpoch i) d fill (d.uses fill t ++ [x.use]) = .ok ())
    (hfree : s.heldBy205 (s.bindEpoch i) (d.uses fill t) = false)
    (hapart : s.mustStall (thrQ t 5) (usesSpans false (d.uses fill t ++ [x.use])) (usesSpans true (d.uses fill t)) none
      = false) (hroom : s.copiesFull (thrQ t 5) = false) (hsrc : fill = true ∨ (Ep.ofWord d.src).space ≠ 2)
    (hdst : (Ep.ofWord d.dst).space ≤ 1) :
    copyBody t fill i x (s.begun (thrQ t 5)) =
      if d.empty then s.copyEntered t i x (d.uses fill t)
      else moveBytes ⟨thrQ t 5, (s.queue (thrQ t 5)).nextId, t, i.hop && !fill, s.viewOf (s.bindEpoch i),
        s.bankOf (s.bindEpoch i), s.bindEpoch i, d⟩ (copySource fill d) (s.copyEntered t i x (d.uses fill t)) := by
  have hremote : (!fill && (Ep.ofWord d.src).space == 2 && !d.empty) = false := by
    rcases hsrc with rfl | hsrc
    · rfl
    · simp [hsrc]
  have hdst2 : (Ep.ofWord d.dst).space ≠ 2 := by omega
  have hhost : ¬ ((Ep.ofWord d.dst).space = 3 ∧ ¬ d.empty = true) := fun h => by omega
  have howndst := ownSpan_dstSpan s d hdst2
  have hownsrc : s.ownSpan (if fill then none else d.srcSpan (Ep.ofWord d.src)) = none := by
    rcases hsrc with rfl | hsrc
    · rfl
    · cases fill with
      | true => rfl
      | false => exact ownSpan_srcSpan s d hsrc
  have hrefusal : ∀ (u : State) (q id : Nat) (hop : Bool) (view : View) (bank : Nat) (b : Option Nat),
      u.ownRefusal (if fill then ⟨q, id, t, hop, view, bank, b, { d with src := 0 }⟩ else ⟨q, id, t, hop, view, bank, b, d⟩)
        = none := fun u q id hop view bank b => by
    cases fill with
    | true => exact ownRefusal_local (by simp [Ep.ofWord_space_of_zero]) hdst2
    | false => exact ownRefusal_local (by simpa using hsrc) hdst2
  unfold copyBody
  dsimp only
  rw [← copyDescOf, ← hd]
  simp only [begun_bindEpoch, begun_copySpans, hspans, begun_ownSpan, howndst, hownsrc, begun_heldBy205,
    heldBy205_cons_none, hfree, begun_mustStall, hapart, begun_copiesFull, hroom, Option.toList_none, List.append_nil,
    List.any_nil, Bool.or_self, Bool.false_eq_true, if_false, if_neg hhost, begun_newWork, entered_viewOf, entered_bankOf,
    hremote, hrefusal]
  rfl

theorem copyIssue_run {s : State} {t : Fin 8} {i : Ins} {x : Desc} (hi : s.issues (thrQ t 5) 0xA0 i)
    (hfinds : s.finds (thrQ t 5) i x) (hflaws : s.flaws = []) (hstall : s.mustStall (thrQ t 5) [x.span] [] none = false)
    (hcheck : copyCheck t x.word = .ok ()) :
    exec (.ceCopy t) s = .next (if (CopyDesc.ofWord x.word).glean = 0 then copyBody t false i x (s.begun (thrQ t 5))
      else gatherBody t i x (s.begun (thrQ t 5))) := by
  show execCeCopy t s = _
  rw [execCeCopy, issue_eq hi, withDesc_of_finds hfinds hflaws hstall, hcheck]

theorem fillIssue_run {s : State} {t : Fin 8} {i : Ins} {x : Desc} (hi : s.issues (thrQ t 5) 0xA1 i)
    (hfinds : s.finds (thrQ t 5) i x) (hflaws : s.flaws = []) (hstall : s.mustStall (thrQ t 5) [x.span] [] none = false)
    (hcheck : fillCheck x.word = .ok ()) :
    exec (.ceFill t) s = .next (copyBody t true i x (s.begun (thrQ t 5))) := by
  show execCeFill t s = _
  rw [execCeFill, issue_eq hi, withDesc_of_finds hfinds hflaws hstall, hcheck]

/-! ### Plain runs (R143, R147) -/

/-- What a plain copy or fill reads for one run. -/
def Source.plainBytes (x : Source) (s : State) (view : View) (off : Int) (n : Nat) : List PByte :=
  match x with
  | .at space t a => s.readAt view space t ((a : Int) + off).toNat n
  | .pattern w => clean ((List.range n).map fun j => BitVec.ofNat 8 (w / 2 ^ (8 * (j % 8))))
  | _ => []

/-- Is a source memory of this module, or a pattern? -/
def Source.plain : Source → Bool
  | .at _ _ _ | .pattern _ => true
  | _ => false

theorem readRun_plain {s : State} (hs : s.flaws = []) (view : View) {x : Source} (hx : x.plain = true) (k : Nat) (off : Int)
    (n : Nat) : s.readRun view x false k off n = (x.plainBytes s view off n, s) := by
  match x, hx with
  | .at space t a, _ => simp [State.readRun, Source.plainBytes, senseAt_of_flawless hs]
  | .pattern w, _ => simp [State.readRun, Source.plainBytes, clean]
  | .host, hx => exact absurd hx (by decide)
  | .got l, hx => exact absurd hx (Bool.false_ne_true)

theorem cutRun_length (z fuel a n : Nat) : ((cutRun z fuel a n).map Prod.snd).sum ≤ n := by
  induction fuel generalizing a n with
  | zero => simp [cutRun]
  | succ fuel ih =>
    rw [cutRun]
    split
    · simp
    · have := ih (a + min n (z - a % z)) (n - min n (z - a % z))
      simp only [List.map_cons, List.sum_cons]
      omega

theorem length_readPhys (s : State) (p n : Nat) : (s.readPhys p n).length = n := by
  unfold State.readPhys
  dsimp only
  split <;> simp

theorem length_readAt_le (s : State) (view : View) (space t a n : Nat) : (s.readAt view space t a n).length ≤ n := by
  have hlen : (s.readAt view space t a n).length = ((piecesOf space a n).map Prod.snd).sum := by
    simp [State.readAt, List.length_flatMap, length_readPhys]
  rw [hlen]
  exact cutRun_length _ _ _ _

theorem length_plainBytes_le (x : Source) (s : State) (view : View) (off : Int) (n : Nat) :
    (x.plainBytes s view off n).length ≤ n := by
  match x with
  | .at space t a => exact length_readAt_le ..
  | .pattern w => simp [Source.plainBytes, clean]
  | .host => simp [Source.plainBytes]
  | .got l => simp [Source.plainBytes]

/-- Each piece of a copy that does not transpose is one run. -/
theorem jobs_single {d : CopyDesc} (h : d.transpose = false) : ∀ j ∈ d.jobs, j.srcs = [j.srcs.headD 0] := by
  intro j hj
  simp only [CopyDesc.jobs, h, Bool.false_eq_true, if_false, List.mem_flatMap, List.mem_map] at hj
  obtain ⟨i3, -, i2, -, i1, -, rfl⟩ := hj
  rfl

/-- A run of a plain copy or fill moved. -/
def State.moveRun (view : View) (x : Source) (e : Ep) (n : Nat) (u : State) (j : Job) : State :=
  u.writeAt view e.space e.thr ((e.addr : Int) + j.dst).toNat (x.plainBytes u view (j.srcs.headD 0) n)

theorem runJobs_plain {c : CopyRun} {x : Source} {e : Ep} (hx : x.plain = true) (he : e.space ≤ 1)
    (htrans : c.d.transpose = false) (hconv : c.d.converts = false) (hhop : c.hop = false) {l : List Job}
    (hl : ∀ j ∈ l, j.srcs = [j.srcs.headD 0]) {s : State} (hs : s.flaws = []) (k : Nat) :
    runJobs c x e 1 k l s = (l.foldl (State.moveRun c.view x e c.d.len) s, none) := by
  induction l generalizing s k with
  | nil => rfl
  | cons j l ih =>
    obtain ⟨hj, hrest⟩ := List.forall_mem_cons.1 hl
    have hout : (e.space == 2) = false := by simp; omega
    have hruns : ∀ k o, s.readRuns c.view x false c.d.len k [o] = ([x.plainBytes s c.view o c.d.len], s) := fun k o => by
      rw [State.readRuns, readRun_plain hs c.view hx]
      rfl
    have hflaws : (State.moveRun c.view x e c.d.len s j).flaws = [] :=
      ((Silent.writeAt _ _ _ _ _).put hs).flaws_eq.trans hs
    have hput : ∀ b, s.putRun c e j.dst b = (s.writeAt c.view e.space e.thr ((e.addr : Int) + j.dst).toNat b, none) :=
      fun b => by
        unfold State.putRun
        dsimp only
        split
        · omega
        · omega
        · rfl
    rw [runJobs, hout, hj, hruns]
    simp only [copyOut, htrans, hconv, Bool.false_eq_true, if_false, plainOut, hhop, List.flatten_cons, List.flatten_nil,
      List.append_nil, hput]
    exact ih hrest hflaws (k + 1)

/-- What plain runs change: nothing but memory, and of it, where nothing is versioned, the places of their destinations. -/
theorem moveRuns_out {s : State} (hs : s.flaws = []) (view : View) (x : Source) (e : Ep) (n : Nat) {A : Nat → Prop}
    {l : List Job} (hA : ∀ j ∈ l, ∀ k < n, A (s.phys e.space e.thr (((e.addr : Int) + j.dst).toNat + k))) {u : State}
    (hu : s.Out [] A u) : s.Out [] A (l.foldl (State.moveRun view x e n) u) := by
  induction l generalizing u with
  | nil => exact hu
  | cons j l ih =>
    obtain ⟨hj, hrest⟩ := List.forall_mem_cons.1 hA
    exact ih hrest (hu.writeAt (by simp) hs view _ _ _ _ fun k hk => hj k (hk.trans_le (length_plainBytes_le ..)))

theorem moveBytes_plain {c : CopyRun} {x : Source} (hx : x.plain = true) (he : (Ep.ofWord c.d.dst).space ≤ 1)
    (htrans : c.d.transpose = false) (hconv : c.d.converts = false) (hhop : c.hop = false) {s : State} (hs : s.flaws = []) :
    moveBytes c x s = c.d.jobs.foldl (State.moveRun c.view x (Ep.ofWord c.d.dst) c.d.len) s := by
  have hone : (if c.d.transpose then 32 else 1) = 1 := by rw [htrans]; rfl
  rw [moveBytes, hone, runJobs_plain hx he htrans hconv hhop (jobs_single htrans) hs 0]

/-- The places of the destination runs of a plain copy or fill. -/
def CopyDesc.places (d : CopyDesc) (s : State) (e : Ep) (p : Nat) : Prop :=
  ∃ j ∈ d.jobs, ∃ k < d.len, p = s.phys e.space e.thr (((e.addr : Int) + j.dst).toNat + k)

/-- What plain runs leave behind the instruction that moves them, as the statements say it. -/
theorem moved_shows {s : State} (hs : s.flaws = []) (t : Nat) (i : Ins) (x : Desc) (us : List Use) (view : View)
    (y : Source) (e : Ep) (d : CopyDesc) {u : State}
    (hu : u = d.jobs.foldl (State.moveRun view y e d.len) (s.copyEntered t i x us)) :
    s.Entered u (thrQ t 5) i (s.workFor (thrQ t 5) i .copy x.word us) [] ∧
      (s.vregs = [] → ∀ p, (∀ j ∈ d.jobs, ∀ k, k < d.len →
        p ≠ s.phys e.space e.thr (((e.addr : Int) + j.dst).toNat + k)) → u.byteAt p = s.byteAt p) := by
  have hreads : s.ReadsAs (s.copyEntered t i x us) := entered_readsAs ..
  have hout : (s.copyEntered t i x us).Out [] (d.places s e) u := by
    rw [hu]
    exact moveRuns_out (hreads.flaws.trans hs) view y e d.len (fun j hj k hk => ⟨j, hj, k, hk, by rw [hreads.phys_eq]⟩)
      (.refl _)
  refine ⟨(goOn_entered s _ i _).congr hout.queues_eq hout.regs (by simp) (by simp), fun hv p hp => ?_⟩
  refine hout.bytes (hreads.vregs_eq.trans hv) p ?_
  rintro ⟨j, hj, k, hk, heq⟩
  exact hp j hj k hk heq

/-- Settles O43: a local copy goes in progress and moves its bytes (`copyBody_run`); a plain one moves them run by run
(`moveBytes_plain`), and changes memory at its destination alone (`moved_shows`). -/
theorem localCopies : Obligations.LocalCopies := by
  intro t s v i x d a e b w hb hd ha he hspace hsrc hglean hi hcheck hclear hroom hw hv
  obtain ⟨hfinds, hflaws, hspans, hfree, hapart⟩ := hclear
  subst hb hw ha he
  obtain rfl : v = s.copyEntered t i x (d.uses false t) := hv
  have hstall : s.mustStall (thrQ t 5) [x.span] [] none = false :=
    mustStall_mono (by simp [usesSpans, Desc.use]) (by simp) hapart
  have hrun := (copyIssue_run hi hfinds hflaws hstall hcheck).trans (congrArg _ ((if_pos (hd ▸ hglean)).trans
    (copyBody_run (fill := false) hd hspans hfree hapart hroom (.inr hsrc) hspace)))
  refine ⟨fun hempty => ?_, fun hfull => ?_, fun hfull hspace' hfmt htrans hhop => ?_⟩
  · exact ⟨hrun.trans (congrArg _ (if_pos hempty)), goOn_entered s _ i _⟩
  · have hhop : (i.hop && !false) = i.hop := Bool.and_true _
    rw [hhop] at hrun
    exact hrun.trans (congrArg _ (if_neg (ne_true_of_eq_false hfull)))
  · have hsource : copySource false d = .at (Ep.ofWord d.src).space (Ep.ofWord d.src).thr (Ep.ofWord d.src).addr :=
      if_neg (by omega)
    have hmoved := moveBytes_plain (c := ⟨thrQ t 5, (s.queue (thrQ t 5)).nextId, t, i.hop && !false,
      s.viewOf (s.bindEpoch i), s.bankOf (s.bindEpoch i), s.bindEpoch i, d⟩) (x := copySource false d)
      (by rw [hsource]; rfl) hspace htrans (by simp [CopyDesc.converts, hfmt]) (by simp [hhop])
      (s := s.copyEntered t i x (d.uses false t)) hflaws
    obtain ⟨hentered, hbytes⟩ := moved_shows hflaws t i x (d.uses false t) (s.viewOf (s.bindEpoch i)) (copySource false d)
      (Ep.ofWord d.dst) d rfl
    refine ⟨_, hrun.trans (congrArg _ ((if_neg (ne_true_of_eq_false hfull)).trans hmoved)), hentered, ?_, hbytes⟩
    rw [hsource]
    rfl

/-! ### Fills (R147) -/

theorem need_ok {b : Bool} {c : E} (h : need b c = .ok ()) : b = true := by
  cases b with
  | true => rfl
  | false => exact absurd h (by simp [need])

theorem Chk.bind_ok {α β : Type} {x : Chk α} {f : α → Chk β} {b : β} (h : (x >>= f) = .ok b) :
    ∃ a, x = .ok a ∧ f a = .ok b := by
  cases x with
  | error e => exact absurd h (by simp [bind, Except.bind])
  | ok a => exact ⟨a, rfl, h⟩

theorem fillCheck_ok {w : Nat} (h : fillCheck w = .ok ()) :
    (CopyDesc.ofWord w).transpose = false ∧ (CopyDesc.ofWord w).converts = false := by
  obtain ⟨-, -, hfill⟩ := Chk.bind_ok h
  have hok := need_ok hfill
  simp only [CopyDesc.fillOk, Bool.and_eq_true, beq_iff_eq, Bool.not_eq_true'] at hok
  obtain ⟨⟨⟨⟨⟨hsrc, hdst⟩, hrnd⟩, hguard⟩, htrans⟩, hglean⟩ := hok
  exact ⟨htrans, by simp [CopyDesc.converts, hsrc, hdst]⟩

/-! ### Gathers (R148, R159 to R161) -/

theorem Chk.all_append_ok {α : Type} {l m : List α} {g : α → Chk Unit} (h : Chk.all (l ++ m) g = .ok ()) :
    Chk.all l g = .ok () := by
  induction l with
  | nil => rfl
  | cons a l ih =>
    rw [List.cons_append, Chk.all] at h
    rw [Chk.all]
    split at h
    · exact ih h
    · exact absurd h (by simp)

theorem senseIndices_of_flawless {s : State} (hs : s.flaws = []) (view : View) (t : Nat) (d : CopyDesc) :
    s.senseIndices view t d = s :=
  foldl_keeps (P := fun u => u = s) (fun _ j hu => foldl_keeps (P := fun u => u = s)
    (fun _ o hu => by rw [hu, senseAt_of_flawless hs]) _ hu) _ rfl

theorem State.ReadsAs.gatherIndices_eq {s u : State} (h : s.ReadsAs u) : u.gatherIndices = s.gatherIndices := by
  funext view t d
  rw [State.gatherIndices, h.readAt_eq, State.gatherIndices]

/-- `u` is `s` further on in a gather: counters, log and memory may have changed. -/
structure State.Gathering (s u : State) : Prop where
  queues : u.queues = s.queues
  flaws : u.flaws = s.flaws
  pc : ∀ q, u.rdi .EN_Q_PC_PC q = s.rdi .EN_Q_PC_PC q

namespace State.Gathering

variable {s u : State}

theorem refl (s : State) : s.Gathering s := ⟨rfl, rfl, fun _ => rfl⟩

theorem set (h : s.Gathering u) {f : F} (hf : f ≠ .EN_Q_PC_PC) (k v : Nat) : s.Gathering (u.wri f k v) :=
  ⟨h.queues, h.flaws, fun q => (rdi_wri_other (.inl hf.symm)).trans (h.pc q)⟩

theorem addWrap (h : s.Gathering u) {f : F} (hf : f ≠ .EN_Q_PC_PC) (k n : Nat) : s.Gathering (u.addWrap f k n) :=
  h.set hf k _

theorem addSat (h : s.Gathering u) {f : F} (hf : f ≠ .EN_Q_PC_PC) (k n : Nat) : s.Gathering (u.addSat f k n) :=
  h.set hf k _

theorem raise (h : s.Gathering u) (c : E) (a b d e g : Nat) : s.Gathering (u.raise c a b d e g) := by
  have hlog := raise_logged u c a b d e g
  exact ⟨(congrArg State.queues hlog.rest :).trans h.queues, (congrArg State.flaws hlog.rest :).trans h.flaws,
    fun q => (hlog.regs _ _ (by decide)).trans (h.pc q)⟩

theorem put {f : State → State} (h : s.Gathering u) (hs : s.flaws = []) (hf : Silent f) : s.Gathering (f u) := by
  have hput := hf.put (h.flaws.trans hs)
  exact ⟨hput.queues_eq.trans h.queues, hput.flaws_eq.trans h.flaws, fun q => (hput.rdi_eq _ q).trans (h.pc q)⟩

theorem fetchItem (h : s.Gathering u) (hs : s.flaws = []) (view : View) (d : CopyDesc) (i : Nat) :
    s.Gathering (u.fetchItem view d i).2.2 := by
  have hflaws := h.flaws.trans hs
  unfold State.fetchItem
  simp only [hflaws, List.isEmpty_nil, if_true]
  split
  · dsimp only
    exact ((h.addWrap (f := .GL_ITEMS_COUNT) (by decide) _ _).addSat (f := .GL_POISON_COUNT) (by decide) _ _).raise _ _ _ _ _ _
  · exact h.addWrap (f := .GL_ITEMS_COUNT) (by decide) _ _

end State.Gathering

theorem gatherItems_keeps {s : State} (hs : s.flaws = []) {c : CopyRun} (hhop : c.hop = false) (table : Option Span)
    (l : List (Option Nat × Option Nat)) {g : Gather} (hg : s.Gathering g.st) (hgo : g.halted = false) :
    s.Gathering (gatherItems c table l g).2.st ∧ (gatherItems c table l g).2.halted = false := by
  induction l generalizing g with
  | nil => exact ⟨hg, hgo⟩
  | cons e l ih =>
    obtain ⟨i, j⟩ := e
    unfold gatherItems
    simp only [hhop, Bool.false_and, Bool.false_eq_true, if_false]
    cases j with
    | none => exact ih hg hgo
    | some k =>
      dsimp only
      split
      · exact ih (hg.set (f := .LF_STAT_GATHER_RACE) (by decide) _ _) hgo
      · exact ih (hg.fetchItem hs _ _ _) hgo

theorem gatherRuns_keeps {s : State} (hs : s.flaws = []) {c : CopyRun} (hhop : c.hop = false) (e : Ep)
    (table : Option Span) (l : List (Job × List (Option Nat))) {g : Gather} (hg : s.Gathering g.st)
    (hgo : g.halted = false) :
    s.Gathering (gatherRuns c e table l g).st ∧ (gatherRuns c e table l g).halted = false := by
  induction l generalizing g with
  | nil => exact ⟨hg, hgo⟩
  | cons y l ih =>
    obtain ⟨j, is⟩ := y
    rw [gatherRuns]
    dsimp only
    obtain ⟨hitems, hgo'⟩ := gatherItems_keeps hs hhop table (is.zip (j.srcs.flatMap fun x =>
      indices (g.st.readAt c.view 1 c.t (((Ep.ofWord c.d.src).addr : Int) + x).toNat c.d.len))) hg hgo
    split
    · exact absurd ‹_› (ne_true_of_eq_false hgo')
    · exact ih (hitems.put hs (.writeAt _ _ _ _ _)) hgo'

@[simp] theorem begun_tableRegion (s : State) (q n : Nat) : (s.begun q).tableRegion n = s.tableRegion n := rfl
@[simp] theorem begun_checkSpan (s : State) (q : Nat) (x : Option Span) (a : Attr) (n : Nat) :
    (s.begun q).checkSpan x a n = s.checkSpan x a n := rfl
@[simp] theorem begun_gatherSpans (s : State) (q : Nat) (b : Option Nat) (d : CopyDesc) (us : List Use) (xs : List Span) :
    (s.begun q).gatherSpans b d us xs = s.gatherSpans b d us xs := rfl

/-- Packets counted at every stack. -/
def State.countPackets (s : State) (n : Nat → Nat) : State :=
  (List.range 24).foldl (fun s k => s.addWrap .GL_PACKETS_COUNT k (n k)) s

theorem packets_fst (g : Gather) (d : CopyDesc) (vol : Bool) : (g.packets d vol).1 = g.st.countPackets
    fun k => (g.served.count k + (if g.halted then (if vol then 1 else 64 / d.item) - 1 else 0)) /
      (if vol then 1 else 64 / d.item) := by
  rw [Gather.packets, State.countPackets]

theorem countPackets_shows (s : State) (n : Nat → Nat) :
    s.Gathering (s.countPackets n) ∧ (s.countPackets n).mem = s.mem ∧ (s.countPackets n).poison = s.poison := by
  unfold State.countPackets
  generalize List.range 24 = l
  exact foldl_keeps (P := fun u : State => s.Gathering u ∧ u.mem = s.mem ∧ u.poison = s.poison)
    (fun u k ⟨hu, hmem, hpoison⟩ => ⟨hu.addWrap (f := .GL_PACKETS_COUNT) (by decide) _ _, hmem, hpoison⟩) l
    ⟨.refl s, rfl, rfl⟩

/-- A gather that nothing halts: what its runs leave, with the packets counted and the partial ones kept. -/
def Gather.ended (g : Gather) (q id : Nat) (d : CopyDesc) (vol : Bool) : State :=
  (g.packets d vol).1.updWork q id fun w => { w with packs := (g.packets d vol).2 }

theorem ended_shows (g : Gather) (q id : Nat) (d : CopyDesc) (vol : Bool) :
    (g.ended q id d vol).mem = g.st.mem ∧ (g.ended q id d vol).poison = g.st.poison ∧
      (∀ k, (g.ended q id d vol).rdi .EN_Q_PC_PC k = g.st.rdi .EN_Q_PC_PC k) ∧
      ((g.ended q id d vol).queue q).work.map Work.id = (g.st.queue q).work.map Work.id ∧
      ∀ k, k ≠ q → (g.ended q id d vol).queue k = g.st.queue k := by
  have hcount := countPackets_shows g.st
    fun k => (g.served.count k + (if g.halted then (if vol then 1 else 64 / d.item) - 1 else 0)) /
      (if vol then 1 else 64 / d.item)
  rw [← packets_fst] at hcount
  unfold Gather.ended
  generalize g.packets d vol = y at hcount ⊢
  obtain ⟨u, packs⟩ := y
  obtain ⟨hkept, hmem, hpoison⟩ := hcount
  dsimp only at hkept hmem hpoison ⊢
  have hqueue : ∀ k, u.queue k = g.st.queue k := fun k => by rw [State.queue, hkept.queues, State.queue]
  refine ⟨hmem, hpoison, hkept.pc, ?_, fun k hk => (queue_updQueue_other _ hk).trans (hqueue k)⟩
  have hid : ∀ w : Work, (if w.id = id then { w with packs := packs } else w).id = w.id := fun w => by
    split <;> rfl
  rw [State.updWork, queue_updQueue_same, hqueue, List.map_map]
  exact List.map_congr_left fun w _ => hid w

/-- A gather that passes its checks and waits for nothing goes in progress, and fetches and writes its items. -/
theorem gatherBody_run {s : State} {t : Nat} {i : Ins} {x : Desc} {d : CopyDesc} {us : List Use} {r : Span} {g : Gather}
    {runs : List (List (Option Nat))} {w : Work} (hd : d = CopyDesc.ofWord x.word) (hflaws : s.flaws = [])
    (hfull : d.empty = false) (hus : us = [⟨d.srcSpan (Ep.ofWord d.src), false, 0⟩, ⟨d.dstSpan (Ep.ofWord d.dst), true, 1⟩])
    (hruns : runs = s.gatherIndices (s.viewOf (s.bindEpoch i)) t d) (htable : s.tableRegion (bits d.aux 0 42) = some r)
    (hspans : s.gatherSpans (s.bindEpoch i) d (us ++ [x.use]) ((runs.flatten.filterMap id).map d.itemSpan) = .ok ())
    (hfree : s.heldBy205 (s.bindEpoch i) us = false)
    (hapart : s.mustStall (thrQ t 5) (r :: usesSpans false (us ++ [x.use])) (usesSpans true us) none = false)
    (hroom : s.copiesFull (thrQ t 5) = false)
    (hw : w = { s.workFor (thrQ t 5) i .copy x.word us with reads := r :: usesSpans false us })
    (hg : g = gatherRuns ⟨thrQ t 5, w.id, t, i.hop, s.viewOf (s.bindEpoch i), s.bankOf (s.bindEpoch i), s.bindEpoch i, d⟩
      (Ep.ofWord d.dst) (some r) (d.jobs.zip runs) ⟨(s.begun (thrQ t 5)).goOn (thrQ t 5) i w, [], false⟩)
    (hgo : g.halted = false) :
    gatherBody t i x (s.begun (thrQ t 5)) = g.ended (thrQ t 5) w.id d i.vol := by
  have hfirst : Chk.all us (fun u => s.checkSpan u.span u.attr u.side) = .ok () := by
    have hchecks := hspans
    unfold State.gatherSpans at hchecks
    obtain ⟨_, hall, _⟩ := Chk.bind_ok hchecks
    exact Chk.all_append_ok hall
  have hstall : s.mustStall (thrQ t 5) (usesSpans false us) [] none = false :=
    mustStall_mono (fun y hy => List.mem_cons_of_mem _ (by simp only [usesSpans, List.filterMap_append] at hy ⊢; simp [hy]))
      (by simp) hapart
  have hindices : (s.begun (thrQ t 5)).gatherIndices = s.gatherIndices := (State.ReadsAs.begun s _).gatherIndices_eq
  have hsense : ∀ view, (s.begun (thrQ t 5)).senseIndices view t d = s.begun (thrQ t 5) := fun view =>
    senseIndices_of_flawless (s := s.begun (thrQ t 5)) hflaws view t d
  unfold gatherBody
  dsimp only
  rw [← hd, ← hus]
  simp only [hfull, Bool.false_eq_true, if_false, begun_tableRegion, htable, Option.isSome_some, begun_checkSpan, hfirst,
    Bool.and_self, Bool.true_and, begun_mustStall, hstall, if_true, begun_viewOf, begun_bindEpoch, hsense, hindices,
    ← hruns, begun_gatherSpans, hspans, begun_heldBy205, hfree, Option.toList_some, List.singleton_append, hapart,
    begun_copiesFull, hroom, Bool.or_self, begun_newWork, entered_viewOf, entered_bankOf]
  have hwork : { newWork (s.queue (thrQ t 5)) i .copy (s.bindEpoch i) with
      desc := x.word, reads := r :: usesSpans false us, writes := usesSpans true us } = w := by rw [hw, State.workFor]
  have hid : (newWork (s.queue (thrQ t 5)) i .copy (s.bindEpoch i)).id = w.id := by
    rw [hw]
    rfl
  simp only [hwork]
  simp only [hid]
  rw [← hg, if_neg (ne_true_of_eq_false hgo)]
  rfl

/-- Settles O44: a fill moves its pattern run by run (`moveBytes_plain`), a gather is `gatherRuns` and then counts its
packets (`gatherBody_run`, `ended_shows`). -/
theorem fillsAndGathers : Obligations.FillsAndGathers := by
  intro t s i x d e b hb hd he hspace hroom
  subst hb he
  refine ⟨fun v w us hi hcheck hus hclear hw hv hfull => ?_, fun v w us runs r g hi hcheck hglean hhop hfull hfinds hflaws hus
    hruns htable hspans hfree hapart hw hv hg => ?_⟩
  · obtain ⟨hfinds, hflaws, hpass, hfree, hapart⟩ := hclear
    obtain ⟨htrans, hconv⟩ := fillCheck_ok hcheck
    subst hus hw
    obtain rfl : v = s.copyEntered t i x (({ d with digest := false } : CopyDesc).uses true t) := hv
    have hstall : s.mustStall (thrQ t 5) [x.span] [] none = false :=
      mustStall_mono (by simp [usesSpans, Desc.use]) (by simp) hapart
    have hdesc : ({ d with digest := false } : CopyDesc) = copyDescOf true x.word := by rw [hd]; rfl
    have hrun := (fillIssue_run hi hfinds hflaws hstall hcheck).trans (congrArg _
      (copyBody_run (fill := true) hdesc hpass hfree hapart hroom (.inl rfl) hspace))
    have hmoved := moveBytes_plain (c := ⟨thrQ t 5, (s.queue (thrQ t 5)).nextId, t, i.hop && !true,
      s.viewOf (s.bindEpoch i), s.bankOf (s.bindEpoch i), s.bindEpoch i, { d with digest := false }⟩)
      (x := copySource true { d with digest := false }) rfl hspace (hd ▸ htrans) (hd ▸ hconv) (Bool.and_false _)
      (s := s.copyEntered t i x (({ d with digest := false } : CopyDesc).uses true t)) hflaws
    obtain ⟨hentered, hbytes⟩ := moved_shows hflaws t i x (({ d with digest := false } : CopyDesc).uses true t)
      (s.viewOf (s.bindEpoch i)) (.pattern d.src) (Ep.ofWord d.dst) d rfl
    exact ⟨_, hrun.trans (congrArg _ ((if_neg (ne_true_of_eq_false hfull)).trans hmoved)), hentered, rfl, hbytes⟩
  · have hstall : s.mustStall (thrQ t 5) [x.span] [] none = false :=
      mustStall_mono (by simp [usesSpans, Desc.use]) (by simp) hapart
    subst hv
    have hreads : s.ReadsAs ((s.begun (thrQ t 5)).goOn (thrQ t 5) i w) := entered_readsAs ..
    obtain ⟨hkept, hgo⟩ := gatherRuns_keeps (s := (s.begun (thrQ t 5)).goOn (thrQ t 5) i w) (hreads.flaws.trans hflaws)
      (c := ⟨thrQ t 5, w.id, t, i.hop, s.viewOf (s.bindEpoch i), s.bankOf (s.bindEpoch i), s.bindEpoch i, d⟩) hhop
      (Ep.ofWord d.dst) (some r) (d.jobs.zip runs) (g := ⟨(s.begun (thrQ t 5)).goOn (thrQ t 5) i w, [], false⟩) (.refl _) rfl
    rw [← hg] at hkept hgo
    have hrun := (copyIssue_run hi hfinds hflaws hstall hcheck).trans (congrArg _ ((if_neg (by rw [← hd]; omega)).trans
      (gatherBody_run hd hflaws hfull hus hruns htable hspans hfree hapart hroom hw hg hgo)))
    obtain ⟨hmem, hpoison, hpc, hwork, hothers⟩ := ended_shows g (thrQ t 5) w.id d i.vol
    have hentered := goOn_entered s (thrQ t 5) i w
    have hqueue : ∀ k, g.st.queue k = ((s.begun (thrQ t 5)).goOn (thrQ t 5) i w).queue k := fun k => by
      rw [State.queue, hkept.queues, State.queue]
    refine ⟨_, hrun, hmem, hpoison, (hpc _).trans ((hkept.pc _).trans hentered.pc), ?_, fun k hk => ?_⟩
    · rw [hwork, hqueue, hentered.work]
    · rw [hothers k hk, hqueue, hentered.others k hk]

end Sys2Proof.Machine

/-! The collectives issue (O46). -/

namespace Sys2Proof.Machine

/-! ### What the checks of a collective look at -/

section
variable (s : State) (q : Nat)

@[simp] theorem begun_rankCount : (s.begun q).rankCount = s.rankCount := rfl
@[simp] theorem begun_seqBusy (seq : Nat) (health : Bool) : (s.begun q).seqBusy q seq health = s.seqBusy q seq health := by
  simp only [State.seqBusy, begun_work]
@[simp] theorem begun_collFull : (s.begun q).collFull q = s.collFull q := by simp only [State.collFull, begun_work]
@[simp] theorem begun_tallyFault (n : Nat) : (s.begun q).tallyFault q n = s.tallyFault q n := rfl
@[simp] theorem begun_healthCheck (b w : Nat) : (s.begun q).healthCheck b w = s.healthCheck b w := rfl
@[simp] theorem begun_sample (d : HealthDesc) : (s.begun q).sample d = s.sample d := rfl

@[simp] theorem begun_healthsOf (seq : Nat) : (s.begun q).healthsOf seq = s.healthsOf seq := by
  have hwork : ∀ k, ((s.begun q).queue k).work = (s.queue k).work := fun k => by
    by_cases h : k = q
    · rw [h, begun_work]
    · rw [begun_other h]
  simp only [State.healthsOf, hwork]

end

/-! ### Issue (R209, R214, R228) -/

theorem collective_unranked {s : State} {b : Fin 4} {i : Ins} (hvalid : s.flag .WN_RANK_CTL_VALID 0 = false) :
    ∀ e ∈ [(Instr.wnRscat b, 0xB1), (Instr.wnGather b, 0xB0), (Instr.wnHealth b, 0xB2)], s.issues (48 + b) e.2 i →
      exec e.1 s = .next ((s.begun (48 + b)).engineFault (48 + b) (.of .rankNone) i.pc) := by
  have hunranked : (!(s.begun (48 + b)).flag .WN_RANK_CTL_VALID 0) = true := by rw [begun_flag, hvalid]; rfl
  simp only [List.forall_mem_cons, List.not_mem_nil, false_imp_iff, implies_true, and_true]
  refine ⟨fun h => ?_, fun h => ?_, fun h => ?_⟩
  · show execWnRscat b s = _
    rw [execWnRscat]
    dsimp only
    rw [issue_eq h, if_pos hunranked]
  · show execWnGather b s = _
    rw [execWnGather]
    dsimp only
    rw [issue_eq h, if_pos hunranked]
  · show execWnHealth b s = _
    rw [execWnHealth]
    dsimp only
    rw [issue_eq h, if_pos hunranked]

theorem rscat_issues {s : State} {b : Fin 4} {i : Ins} {x : Desc} {d : RscatDesc} {w : Work}
    (hvalid : s.flag .WN_RANK_CTL_VALID 0 = true) (hi : s.issues (48 + b) 0xB1 i) (hd : d = RscatDesc.ofWord x.word)
    (hclear : s.clear (48 + b) i x (d.uses s.rankCount)
      (do rscatCheck b x.word; s.checkUses (s.bindEpoch i) (d.uses s.rankCount ++ [x.use]) (.ok ())))
    (hfresh : s.seqBusy (48 + b) d.seq false = false) (hroom : s.collFull (48 + b) = false)
    (hw : w = { s.workFor (48 + b) i .rscat x.word (d.uses s.rankCount) with
      ready := false, coll := some (Coll.fresh d.seq) }) :
    exec (.wnRscat b) s = .next (((s.begun (48 + b)).goOn (48 + b) i w).tryRscat d.seq) := by
  obtain ⟨hfinds, hflaws, hpass, hfree, hapart⟩ := hclear
  have hstall : s.mustStall (48 + b) [x.span] [] none = false :=
    mustStall_mono (by simp [usesSpans, Desc.use]) (by simp) hapart
  subst hd hw
  show execWnRscat b s = _
  rw [execWnRscat]
  dsimp only
  rw [issue_eq hi, withDesc_of_finds hfinds hflaws hstall]
  simp only [begun_flag, hvalid, Bool.not_true, Bool.false_eq_true, if_false, begun_rankCount, begun_bindEpoch,
    begun_checkUses, hpass, begun_seqBusy, hfresh, begun_heldBy205, hfree, begun_mustStall, hapart, begun_collFull, hroom,
    Bool.or_self, begun_newWork]
  rfl

theorem gather_issues {s : State} {b : Fin 4} {i : Ins} {x : Desc} {d : GatherDesc} {w : Work}
    (hvalid : s.flag .WN_RANK_CTL_VALID 0 = true) (hi : s.issues (48 + b) 0xB0 i) (hd : d = GatherDesc.ofWord x.word)
    (hclear : s.clear (48 + b) i x (d.uses s.rankCount)
      (do gatherCheck s.rankCount x.word; s.checkUses (s.bindEpoch i) (d.uses s.rankCount ++ [x.use]) (.ok ())))
    (hprog : d.prog = 0xFFFF ∨ s.tallyFault (48 + b) d.prog = none)
    (hfresh : s.seqBusy (48 + b) d.seq false = false) (hroom : s.collFull (48 + b) = false)
    (hw : w = { s.workFor (48 + b) i .gather x.word (d.uses s.rankCount) with
      ready := false, coll := some (Coll.fresh d.seq) }) :
    exec (.wnGather b) s =
      .next ((((s.begun (48 + b)).goOn (48 + b) i w).askShards (48 + b) w i.vol).gatherGo (48 + b) w.id) := by
  obtain ⟨hfinds, hflaws, hpass, hfree, hapart⟩ := hclear
  have hstall : s.mustStall (48 + b) [x.span] [] none = false :=
    mustStall_mono (by simp [usesSpans, Desc.use]) (by simp) hapart
  subst hd hw
  obtain ⟨⟨⟩, hgather, huses⟩ := Chk.bind_ok hpass
  have htally : (if (GatherDesc.ofWord x.word).prog = 0xFFFF then none
      else s.tallyFault (48 + b) (GatherDesc.ofWord x.word).prog) = none := by
    split
    · rfl
    · exact hprog.resolve_left ‹_›
  show execWnGather b s = _
  rw [execWnGather]
  dsimp only
  rw [issue_eq hi, withDesc_of_finds hfinds hflaws hstall]
  simp only [begun_flag, hvalid, Bool.not_true, Bool.false_eq_true, if_false, begun_rankCount, begun_bindEpoch,
    begun_checkUses, hgather, huses, begun_tallyFault, htally, begun_seqBusy, hfresh, begun_heldBy205, hfree,
    begun_mustStall, hapart, begun_collFull, hroom, Bool.or_self, begun_newWork]
  rfl

/-- The state in which a health check goes in progress: its leader may clear the banks it has sampled. -/
def State.healthBegun (s : State) (q : Nat) (lead : Bool) (d : HealthDesc) : State :=
  if lead ∧ d.clear then (s.begun q).clearBanks d else s.begun q

theorem health_issues {s : State} {b : Fin 4} {i : Ins} {x : Desc} {d : HealthDesc} {w : Work} {lead : Bool}
    (hvalid : s.flag .WN_RANK_CTL_VALID 0 = true) (hi : s.issues (48 + b) 0xB2 i) (hd : d = HealthDesc.ofWord x.word)
    (hclear : s.clear (48 + b) i x [wordUse d.result 8 true 1]
      (do s.healthCheck b x.word; s.checkUses (s.bindEpoch i) ([wordUse d.result 8 true 1] ++ [x.use]) (.ok ())))
    (hfresh : s.seqBusy (48 + b) d.seq true = false) (hroom : s.collFull (48 + b) = false)
    (hlead : lead = (s.healthsOf d.seq).isEmpty)
    (hw : w = { s.workFor (48 + b) i .health x.word [wordUse d.result 8 true 1] with
      ready := false, coll := some { Coll.fresh d.seq with started := lead, value := if lead then s.sample d else 0 } }) :
    exec (.wnHealth b) s = .next (if lead then ((s.healthBegun (48 + b) lead d).goOn (48 + b) i w).healthOn d.seq
      else (s.healthBegun (48 + b) lead d).goOn (48 + b) i w) := by
  obtain ⟨hfinds, hflaws, hpass, hfree, hapart⟩ := hclear
  have hstall : s.mustStall (48 + b) [x.span] [] none = false :=
    mustStall_mono (by simp [usesSpans, Desc.use]) (by simp) hapart
  have hreads : usesSpans false ([wordUse d.result 8 true 1] ++ [x.use]) = usesSpans false [x.use] := by
    simp [usesSpans, wordUse]
  rw [hreads] at hapart
  subst hd hw hlead
  show execWnHealth b s = _
  rw [execWnHealth]
  dsimp only
  rw [issue_eq hi, withDesc_of_finds hfinds hflaws hstall]
  simp only [begun_flag, hvalid, Bool.not_true, Bool.false_eq_true, if_false, begun_bindEpoch, begun_healthCheck,
    begun_checkUses, hpass, begun_seqBusy, hfresh, begun_heldBy205, hfree, begun_mustStall, hapart, begun_collFull, hroom,
    Bool.or_self, begun_newWork, begun_healthsOf, begun_sample]
  rfl

/-! ### A health check with one rank (R209, R210) -/

/-- `u` is `s` but for flags that neither reads, queues nor the wain look at. -/
structure State.FlagsApart (s u : State) : Prop where
  reads : s.ReadsAs u
  queues : u.queues = s.queues
  net : u.net = s.net

theorem State.FlagsApart.set {s u : State} (h : s.FlagsApart u) {f : F} (hf : f ∉ readFields) (k v : Nat) :
    s.FlagsApart (u.wri f k v) := ⟨h.reads.set hf k v, h.queues, h.net⟩

theorem State.FlagsApart.dropFlag {s u : State} (h : s.FlagsApart u) {f : F} (hf : f ∉ readFields) :
    s.FlagsApart (u.dropFlag f) := foldl_keeps (P := s.FlagsApart) (fun _ t hv => hv.set hf t 0) _ h

theorem bankFields_notRead (n : Nat) :
    (bankFields n).1 ∉ readFields ∧ (bankFields n).2.1 ∉ readFields ∧ (bankFields n).2.2 ∉ readFields := by
  match n with
  | 0 => decide
  | 1 => decide
  | _ + 2 => exact (by decide : (F.PS_NUMFLAG_OVF_A ∉ readFields) ∧ (F.PS_NUMFLAG_NAN_A ∉ readFields) ∧
      (F.PS_ESC_FLAG_ESC_A ∉ readFields))

theorem State.FlagsApart.clearBanks {s u : State} (h : s.FlagsApart u) (d : HealthDesc) : s.FlagsApart (u.clearBanks d) := by
  unfold State.clearBanks
  rw [List.foldl_map]
  refine foldl_keeps (P := s.FlagsApart) (fun v n hv => ?_) _ h
  obtain ⟨hovf, hnan, hesc⟩ := bankFields_notRead n
  exact ((hv.dropFlag hovf).dropFlag hnan).set hesc 0 0

theorem healthBegun_apart (s : State) (q : Nat) (lead : Bool) (d : HealthDesc) :
    (s.begun q).FlagsApart (s.healthBegun q lead d) := by
  have hrefl : (s.begun q).FlagsApart (s.begun q) := ⟨.refl _, rfl, rfl⟩
  unfold State.healthBegun
  split
  · exact hrefl.clearBanks d
  · exact hrefl

/-- The first health check of a SEQ is alone. -/
theorem healthsOf_first {z : State} {b : Fin 4} {i : Ins} {w : Work} {seq : Nat} (hnone : z.healthsOf seq = [])
    (hw : (w.kind == .health && !w.ready && (w.coll.any fun c => c.seq == seq)) = true) :
    (z.goOn (48 + b) i w).healthsOf seq = [(48 + b.val, w)] := by
  have hempty : ∀ k ∈ [48, 49, 50, 51],
      (z.queue k).work.filter (fun w => w.kind == .health && !w.ready && (w.coll.any fun c => c.seq == seq)) = [] :=
    fun k hk => List.map_eq_nil_iff.1 (List.flatMap_eq_nil_iff.1 hnone k hk)
  have hwork : ∀ k ∈ [48, 49, 50, 51], ((z.goOn (48 + b) i w).queue k).work.filter
      (fun w => w.kind == .health && !w.ready && (w.coll.any fun c => c.seq == seq)) = if k = 48 + b.val then [w] else [] :=
    fun k hk => by
      split
      · rename_i hkb
        subst hkb
        rw [goOn_work, List.filter_append, hempty _ hk, List.nil_append, List.filter_eq_self]
        simpa using hw
      · rename_i hkb
        rw [goOn_other _ _ _ _ hkb, hempty k hk]
  simp only [State.healthsOf, List.flatMap_cons, List.flatMap_nil, hwork 48 (by simp), hwork 49 (by simp),
    hwork 50 (by simp), hwork 51 (by simp)]
  fin_cases b <;> rfl

/-- The end of a health check that is alone writes its result. -/
theorem endHealth_mem {v : State} {q seq value : Nat} {w : Work} (h : v.healthsOf seq = [(q, w)]) :
    (v.endHealth seq value).mem =
      (v.collWrite w (HealthDesc.ofWord w.desc).result 0 (leBytes 8 (healthWord value seq))).mem := by
  have hemptied : ∀ (u : State) (p op : Nat) (f : Frame), (u.emptied p op f).mem = u.mem := fun u p op f => by
    unfold State.emptied
    split <;> rfl
  unfold State.endHealth
  rw [h]
  dsimp only [List.foldl_cons, List.foldl_nil]
  exact foldl_keeps (P := fun u : State => u.mem =
    (v.collWrite w (HealthDesc.ofWord w.desc).result 0 (leBytes 8 (healthWord value seq))).mem)
    (fun u h hu => (hemptied u h.port opHealth h.f).trans hu) _ rfl

/-- The health check that leads and is alone has no round to wait for. -/
theorem healthOn_alone {v : State} {q seq : Nat} {w : Work} {c : Coll} (h : v.healthsOf seq = [(q, w)])
    (hc : w.coll = some c) (hlead : c.started = true) (hround : c.round = 0) (hrank : v.rankCount = 1)
    (hself : v.net.rankSelf = 0) : v.healthOn seq = v.endHealth seq c.value := by
  have hsteps : healthSteps 1 0 = [] := by decide
  unfold State.healthOn
  simp [h, hc, hlead, hround, hrank, hself, hsteps, healthGo]

/-- Settles O46: what each instruction looks at is as the issue finds it (`rscat_issues`, `gather_issues`, `health_issues`);
a health check with one rank is alone and has no round (`healthsOf_first`, `healthOn_alone`). -/
theorem collectivesIssue : Obligations.CollectivesIssue := by
  intro b s i
  refine ⟨fun hvalid => collective_unranked hvalid, fun x d w v hvalid hi hd hclear hfresh hroom hw hv => ?_,
    fun x d w v hvalid hi hd hclear hprog hfresh hroom hw hv => ?_,
    fun x d w v lead hvalid hi hd hclear hfresh hroom hlead hw hv => ?_⟩
  · have hrun := rscat_issues hvalid hi hd hclear hfresh hroom hw
    rw [← hv] at hrun
    refine ⟨fun hgroup => ?_, fun ws hgroup => ⟨fun hawake => ?_, fun hsleeps => ?_⟩⟩
    · rw [State.tryRscat, hgroup] at hrun
      exact ⟨hrun, hv ▸ goOn_entered s (48 + b) i w, fun p => by rw [hv]; rfl⟩
    · rw [State.tryRscat, hgroup] at hrun
      exact hrun.trans (congrArg _ (if_neg (ne_true_of_eq_false hawake)))
    · rw [State.tryRscat, hgroup] at hrun
      exact hrun.trans (congrArg _ (if_pos hsleeps))
  · rw [hv]
    exact gather_issues hvalid hi hd hclear hprog hfresh hroom hw
  · have hrun := health_issues hvalid hi hd hclear hfresh hroom hlead hw
    have hv' : v = (s.healthBegun (48 + b) lead d).goOn (48 + b) i w := hv
    rw [← hv'] at hrun
    refine ⟨hrun, fun hleads hrank hself => ?_⟩
    have hapart := healthBegun_apart s (48 + b) lead d
    have hnone : (s.healthBegun (48 + b) lead d).healthsOf d.seq = [] := by
      have hqueues : (s.healthBegun (48 + b) lead d).healthsOf d.seq = (s.begun (48 + b)).healthsOf d.seq := by
        simp only [State.healthsOf, State.queue, hapart.queues]
      rw [hqueues, begun_healthsOf]
      exact List.isEmpty_iff.1 (hlead.symm.trans hleads)
    have hone : v.healthsOf d.seq = [(48 + b.val, w)] := by
      rw [hv']
      exact healthsOf_first hnone (by rw [hw]; simp [State.workFor, newWork, Coll.fresh])
    have hnet : v.net = s.net := by rw [hv']; exact hapart.net
    have hreads : s.ReadsAs v := by
      rw [hv']
      exact ((State.ReadsAs.begun s (48 + b)).trans hapart.reads).goOn _ i w
    have hcoll : w.coll = some { Coll.fresh d.seq with started := lead, value := if lead then s.sample d else 0 } := by rw [hw]
    have hend := healthOn_alone hone hcoll hleads rfl ((congrArg (fun n : Net => n.ranks.length) hnet).trans hrank)
      ((congrArg Net.rankSelf hnet).trans hself)
    refine ⟨_, hrun, ?_⟩
    rw [if_pos hleads, hend, endHealth_mem hone, State.collWrite, hreads.viewOf_eq, hw]
    simp [State.workFor, newWork, hleads, healthWord, ← hd]

end Sys2Proof.Machine

/-! What changes the links alone, and what keeps a link going (O52). -/

namespace Sys2Proof.Machine

/-! ### States that differ in their links alone (R240, R244 to R246) -/

/-- `t` is `s` but for its links, what waits for link state, and what its ports put out. -/
def State.LinkOnly (s t : State) : Prop := ∃ links recent peerWait out,
  t = { s with net := { s.net with links := links, recent := recent, peerWait := peerWait, out := out } }

namespace State.LinkOnly

variable {s t u : State}

theorem refl (s : State) : s.LinkOnly s := ⟨_, _, _, _, rfl⟩

theorem trans (h : s.LinkOnly t) (k : t.LinkOnly u) : s.LinkOnly u := by
  obtain ⟨_, _, _, _, rfl⟩ := h
  obtain ⟨_, _, _, _, rfl⟩ := k
  exact ⟨_, _, _, _, rfl⟩

theorem setLinks (h : s.LinkOnly t) (links : List (Nat × Link)) (recent : List Nat) (peerWait : List (Nat × OutFrame))
    (out : List (Nat × PortOut)) :
    s.LinkOnly { t with net := { t.net with links := links, recent := recent, peerWait := peerWait, out := out } } :=
  h.trans ⟨_, _, _, _, rfl⟩

theorem ite (h : s.LinkOnly t) {p : Prop} [Decidable p] (k : s.LinkOnly u) : s.LinkOnly (if p then t else u) := by
  split <;> assumption

theorem foldl {α : Type} {f : State → α → State} (hf : ∀ t a, s.LinkOnly t → s.LinkOnly (f t a)) (l : List α)
    (h : s.LinkOnly t) : s.LinkOnly (l.foldl f t) := by
  induction l generalizing t with
  | nil => exact h
  | cons a l ih => exact ih (hf t a h)

theorem updLink (h : s.LinkOnly t) (k : Nat) (g : Link → Link) : s.LinkOnly (t.updLink k g) :=
  h.setLinks _ t.net.recent t.net.peerWait t.net.out

theorem putOut (h : s.LinkOnly t) (p : Nat) (x : PortOut) : s.LinkOnly (t.putOut p x) :=
  h.setLinks t.net.links t.net.recent t.net.peerWait _

theorem sendControl (h : s.LinkOnly t) (p k : Nat) (nak : Bool) : s.LinkOnly (t.sendControl p k nak) :=
  (h.putOut _ _).updLink _ _

theorem nakOnce (h : s.LinkOnly t) (p k : Nat) : s.LinkOnly (t.nakOnce p k) :=
  h.ite ((h.sendControl _ _ _).updLink _ _)

theorem transmit (h : s.LinkOnly t) (p k : Nat) (o : OutFrame) : s.LinkOnly (t.transmit p k o) :=
  (h.updLink _ _).putOut _ _

theorem makeRoom (h : s.LinkOnly t) {p k : Nat} (hroom : t.makeRoom p k = some u) : s.LinkOnly u := by
  unfold State.makeRoom at hroom
  split at hroom
  · dsimp only at hroom
    split at hroom
    · exact Option.some.inj hroom ▸ h.setLinks t.net.links _ t.net.peerWait t.net.out
    · split at hroom
      · exact absurd hroom (by simp)
      · exact Option.some.inj hroom ▸ h.setLinks _ _ t.net.peerWait t.net.out
  · exact Option.some.inj hroom ▸ h

theorem putOnLink (h : s.LinkOnly t) (p k : Nat) (o : OutFrame) : s.LinkOnly (t.putOnLink p k o) := by
  unfold State.putOnLink
  split
  · exact h.setLinks t.net.links t.net.recent _ t.net.out
  · next u hroom =>
    dsimp only
    split
    · exact (h.makeRoom hroom).transmit _ _ _
    · exact (h.makeRoom hroom).updLink _ _

theorem drainLink (p k : Nat) (l : List OutFrame) (h : s.LinkOnly t) : s.LinkOnly (Machine.drainLink p k l t) := by
  induction l generalizing t with
  | nil => exact h
  | cons o r ih => exact ih (h.putOnLink p k o)

theorem retryPeers (h : s.LinkOnly t) (p : Nat) : s.LinkOnly (t.retryPeers p) :=
  h.ite (foldl (fun _ x h => h.putOnLink p _ x.2) _ (h.setLinks t.net.links t.net.recent _ t.net.out))

theorem kick (h : s.LinkOnly t) (p k : Nat) : s.LinkOnly (t.kick p k) :=
  (drainLink p k _ (h.updLink _ _)).retryPeers p

theorem send (h : s.LinkOnly t) {o : OutFrame} (hsend : t.send o = some u) : s.LinkOnly u := by
  unfold State.send at hsend
  split at hsend
  · exact absurd hsend (by simp)
  · exact Option.some.inj hsend ▸ h.putOnLink _ _ _

theorem reply (h : s.LinkOnly t) (f : Frame) (op arg : Nat) (l : List Byte) : s.LinkOnly (t.reply f op arg l) := by
  unfold State.reply
  split
  · exact h
  · next hsend => exact h.send hsend

theorem emptied (h : s.LinkOnly t) (p op : Nat) (f : Frame) : s.LinkOnly (t.emptied p op f) := h.ite (h.updLink _ _)

/-- A header without NAK changes the links alone. -/
theorem takeHeader (h : s.LinkOnly t) {x : LinkHeader} (hnak : x.nak = false) (p k : Nat) :
    s.LinkOnly (t.takeHeader p k x) := by
  unfold State.takeHeader
  dsimp only
  rw [if_neg (by simp [hnak])]
  exact (h.updLink _ _).kick p k

theorem eq (h : s.LinkOnly t) : t = { s with net := t.net } := by
  obtain ⟨_, _, _, _, rfl⟩ := h
  rfl

theorem rdi_eq (h : s.LinkOnly t) (f : F) (k : Nat) : t.rdi f k = s.rdi f k := by
  obtain ⟨_, _, _, _, rfl⟩ := h
  rfl

theorem mem_eq (h : s.LinkOnly t) : t.mem = s.mem := by
  obtain ⟨_, _, _, _, rfl⟩ := h
  rfl

end State.LinkOnly

theorem State.onlyRegs.net_eq {s t : State} {l : List (F × Nat)} (h : s.onlyRegs t l) : t.net = s.net :=
  (congrArg State.net h.1 :)

/-- Register writes, and then a change of the links. -/
theorem State.onlyRegs.sansNet {s t u : State} {l : List (F × Nat)} (h : s.onlyRegs t l) (k : t.LinkOnly u) :
    s.onlyRegs { u with net := s.net } l := by
  obtain ⟨_, _, _, _, rfl⟩ := k
  show s.onlyRegs { t with net := s.net } l
  rw [← h.net_eq]
  exact h

theorem updLink_link (s : State) (k : Nat) (g : Link → Link) : (s.updLink k g).link k = g (s.link k) := Tbl.get_upd_same

/-- A counter below its limit counts. -/
theorem rdi_addSat_same {s : State} {f : F} {k n : Nat} (h : s.rdi f k + n ≤ 2 ^ f.info.width - 1) :
    (s.addSat f k n).rdi f k = s.rdi f k + n := by
  have hpos : 0 < 2 ^ f.info.width := Nat.two_pow_pos _
  refine rdi_wri_same.trans ?_
  rw [Nat.min_eq_right h, Nat.mod_eq_of_lt (by omega)]

theorem rdi_addSat_other {s : State} {f g : F} {j k n : Nat} (h : g ≠ f ∨ j ≠ k) : (s.addSat f k n).rdi g j = s.rdi g j :=
  rdi_wri_other h

/-- The register fields that the Ethernet fields of a frame come from. -/
def etherFields : List F :=
  [.WN_PORT_CTL_FRAMING, .WN_MAC_PREFIX_PREFIX, .WN_ID_MODULE, .WN_ETH_ETYPE, .WN_ETH_TAG_EN, .WN_ETH_PCP, .WN_ETH_VID]

theorem ether_congr {s t : State} (h : ∀ f ∈ etherFields, ∀ k, t.rdi f k = s.rdi f k) (p m : Nat) :
    t.ether p m = s.ether p m := by
  simp only [etherFields, List.mem_cons, List.not_mem_nil, or_false, forall_eq_or_imp, forall_eq] at h
  obtain ⟨hframe, hprefix, hid, htype, htag, hpcp, hvid⟩ := h
  simp only [State.ether, State.flag, State.rd, hframe, hprefix, hid, htype, htag, hpcp, hvid]
  rfl

/-- One NAK: put out where none was. -/
theorem nakOnce_shows (s : State) (p k : Nat) :
    ((s.nakOnce p k).link k).nakSent = true ∧
      (s.nakOnce p k).net.out = s.net.out ++ (if (s.link k).nakSent then []
        else [(p, .control (s.ether p (k % 65536)) ((s.link k).header true 0))]) := by
  unfold State.nakOnce
  split
  · next hsent => exact ⟨hsent, (List.append_nil _).symm⟩
  · exact ⟨by rw [updLink_link], rfl⟩

theorem leaveIdle_of_out {s : State} (h : s.flag .PW_STATE_IDLE 0 = false) : s.leaveIdle = s := if_neg (by simp [h])

/-! ### Replay (R246, R247) -/

theorem resend_shows (s : State) (p k : Nat) :
    (s.addSat .WN_PORT_ERR_REPLAY p 1).LinkOnly (s.resend p k) ∧
      (s.resend p k).net.out.length = s.net.out.length + (s.link k).unacked.length := by
  have hlen : ∀ (g : State → Sent → PortOut) (l : List Sent) (t : State),
      (l.foldl (fun s x => s.putOut p (g s x)) t).net.out.length = t.net.out.length + l.length := by
    intro g l
    induction l with
    | nil => exact fun t => rfl
    | cons x l ih =>
      intro t
      rw [List.foldl_cons, ih, List.length_cons, State.putOut, List.length_append, List.length_singleton]
      omega
  exact ⟨.foldl (fun _ _ h => h.putOut p _) _ ((State.LinkOnly.refl _).updLink k _), hlen _ _ _⟩

/-- A replay that begins. -/
theorem replay_run {s : State} {p k : Nat} {nak : Bool} (hsome : (s.link k).unacked ≠ [])
    (hnone : (s.link k).replaying ≠ some (!nak))
    (hlimit : ((s.link k).unacked.any fun x => decide (8 ≤ x.replays)) = false) :
    s.replay p k nak = (s.resend p k).updLink k fun l => { l with replaying := some nak } := by
  unfold State.replay
  dsimp only
  rw [if_neg (by simp [hsome, hnone]), if_neg (by simp [hlimit])]

/-- What a replay leaves. -/
theorem replay_shows {s : State} {p k : Nat} {nak : Bool} (hsome : (s.link k).unacked ≠ [])
    (hnone : (s.link k).replaying ≠ some (!nak))
    (hlimit : ((s.link k).unacked.any fun x => decide (8 ≤ x.replays)) = false) :
    (s.addSat .WN_PORT_ERR_REPLAY p 1).LinkOnly (s.replay p k nak) ∧
      ((s.replay p k nak).link k).replaying = some nak ∧
      (s.replay p k nak).net.out.length = s.net.out.length + (s.link k).unacked.length := by
  obtain ⟨hnet, hlen⟩ := resend_shows s p k
  rw [replay_run hsome hnone hlimit]
  exact ⟨hnet.updLink k _, by rw [updLink_link], hlen⟩

theorem replay_of_nothing {s : State} {p k : Nat} {nak : Bool}
    (h : (s.link k).unacked = [] ∨ (s.link k).replaying = some (!nak)) : s.replay p k nak = s := by
  unfold State.replay
  exact if_pos (by rcases h with h | h <;> simp [h])

/-- A frame that was sent eight times is at the limit. -/
theorem replay_of_limit {s : State} {p k : Nat} {nak : Bool} (hnone : (s.link k).replaying ≠ some (!nak))
    (hlimit : ((s.link k).unacked.any fun x => decide (8 ≤ x.replays)) = true) :
    s.replay p k nak = s.replayLimit p k := by
  have hsome : (s.link k).unacked ≠ [] := fun h => by simp [h] at hlimit
  unfold State.replay
  dsimp only
  rw [if_neg (by simp [hsome, hnone]), if_pos hlimit]

/-- A direct port at the replay limit. -/
theorem replayLimit_direct {s : State} {p k : Nat} (h : s.flag .WN_PORT_CTL_FRAMING p = false) :
    (s.replayLimit p k).portState p = 4 ∧ (s.replayLimit p k).rdi .WN_PORT_STAT_REASON p = 6 ∧
      (s.replayLimit p k).mem = s.mem := by
  obtain ⟨hstate, hreason⟩ := setPort_shows s p (st := 4) (reason := 6) (by decide) (by decide)
  have hraise := raise_logged (s.setPort p 4 6) .portDown 5 p 0 0 6
  have hlimit : s.replayLimit p k = (s.setPort p 4 6).raise .portDown 5 p 0 0 6 := if_neg (by simp [h])
  rw [hlimit]
  exact ⟨(hraise.regs _ p (by decide)).trans hstate, (hraise.regs _ p (by decide)).trans hreason,
    hraise.mem_eq.trans (setPort_regs s p 4 6).2⟩

theorem mem_afterAck {a : Nat} {l : List Sent} {x : Sent} (h : x ∈ afterAck a l) : x ∈ l := by
  unfold afterAck at h
  split at h
  · exact h
  · exact List.mem_of_mem_drop h

/-- A header with NAK that begins a replay. -/
theorem takeHeader_replays {s : State} {p k : Nat} {h : LinkHeader} (hnak : h.nak = true)
    (hsome : afterAck h.ack (s.link k).unacked ≠ []) (hnone : (s.link k).replaying ≠ some false)
    (hlimit : ((s.link k).unacked.any fun x => decide (8 ≤ x.replays)) = false) :
    (s.addSat .WN_PORT_ERR_REPLAY p 1).LinkOnly (s.takeHeader p k h) := by
  unfold State.takeHeader
  dsimp only
  rw [if_pos hnak]
  refine State.LinkOnly.kick ?_ p k
  set t := s.updLink k fun l => { l with unacked := afterAck h.ack l.unacked, credits := s.creditsAfter p l.credits h }
    with ht
  have hlink : t.link k = { s.link k with
      unacked := afterAck h.ack (s.link k).unacked, credits := s.creditsAfter p (s.link k).credits h } := updLink_link s k _
  have hkept : ((t.link k).unacked.any fun x => decide (8 ≤ x.replays)) = false := by
    rw [hlink, List.any_eq_false]
    exact fun x hx => (List.any_eq_false.1 hlimit) x (mem_afterAck hx)
  obtain ⟨hnet, -, -⟩ := replay_shows (p := p) (nak := true) (hlink ▸ hsome) (hlink ▸ hnone) hkept
  exact State.LinkOnly.trans ((State.LinkOnly.refl (s.addSat .WN_PORT_ERR_REPLAY p 1)).updLink k _) hnet

/-! ### Frames that are not taken (R235, R241, R243, R244, R246) -/

/-- The counters of a frame that is not taken and leaves a gap. -/
def State.badCounted (s : State) (p : Nat) : BadFrame → State
  | .crc ue => (if ue then s.addSat .WN_PORT_FEC_UE p 1 else s).addSat .WN_PORT_ERR_CRC p 1
  | .fcs => (s.addSat .WN_PORT_ERR_CRC p 1).dropFrame p
  | .full => s.dropFrame p
  | _ => s

/-- Does a frame that is not taken leave a gap? -/
def leavesGap (switched : Bool) (b : BadFrame) : Prop :=
  (∃ ue, b = .crc ue) ∨ b = .gap ∨ (switched = true ∧ (b = .fcs ∨ b = .full))

theorem badFrame_of_gap {s : State} {p : Nat} {b : BadFrame} (h : leavesGap (s.flag .WN_PORT_CTL_FRAMING p) b) (m : Nat) :
    s.badFrame p m b = (s.badCounted p b).nakOnce p (s.linkKey p m) := by
  rcases h with ⟨ue, rfl⟩ | rfl | ⟨hs, rfl | rfl⟩
  · rfl
  · rfl
  · exact if_pos hs
  · exact if_pos hs

theorem badCounted_onlyRegs (s : State) (p : Nat) (b : BadFrame) :
    s.onlyRegs (s.badCounted p b) [(.WN_PORT_ERR_CRC, p), (.WN_PORT_FEC_UE, p), (.WN_PORT_DROP_FRAMES, p)] := by
  have hrefl := State.onlyRegs.refl s [(.WN_PORT_ERR_CRC, p), (.WN_PORT_FEC_UE, p), (.WN_PORT_DROP_FRAMES, p)]
  cases b with
  | crc ue => exact ((hrefl.addSat (by simp) 1).ite hrefl).addSat (by simp) 1
  | fcs => exact (hrefl.addSat (by simp) 1).addSat (by simp) 1
  | full => exact hrefl.addSat (by simp) 1
  | gap => exact hrefl
  | foreign => exact hrefl
  | pause => exact hrefl
  | strange f => exact hrefl

/-- The Ethernet fields of a frame come from none of these counters. -/
theorem badCounted_notEther {p k : Nat} {f : F} (h : f ∈ etherFields) :
    (f, k) ∉ [(F.WN_PORT_ERR_CRC, p), (.WN_PORT_FEC_UE, p), (.WN_PORT_DROP_FRAMES, p)] := by
  have hf : f ∉ [F.WN_PORT_ERR_CRC, .WN_PORT_FEC_UE, .WN_PORT_DROP_FRAMES] := by
    revert h
    revert f
    decide
  simp only [List.mem_cons, Prod.mk.injEq, List.not_mem_nil, or_false] at hf ⊢
  tauto

/-- Each counter counts what it is for. -/
theorem badCounted_counts {s : State} {p : Nat} {b : BadFrame} {switched : Bool} (h : leavesGap switched b) :
    (s.rdi .WN_PORT_ERR_CRC p < 2 ^ 32 - 1 → (s.badCounted p b).rdi .WN_PORT_ERR_CRC p =
      s.rdi .WN_PORT_ERR_CRC p + (if b = .gap ∨ b = .full then 0 else 1)) ∧
    (s.rdi .WN_PORT_FEC_UE p < 2 ^ 16 - 1 → (s.badCounted p b).rdi .WN_PORT_FEC_UE p =
      s.rdi .WN_PORT_FEC_UE p + (if b = .crc true then 1 else 0)) ∧
    (s.rdi .WN_PORT_DROP_FRAMES p < 2 ^ 16 - 1 → (s.badCounted p b).rdi .WN_PORT_DROP_FRAMES p =
      s.rdi .WN_PORT_DROP_FRAMES p + (if b = .fcs ∨ b = .full then 1 else 0)) := by
  have hcrc : ∀ t : State, t.rdi .WN_PORT_ERR_CRC p < 2 ^ 32 - 1 →
      (t.addSat .WN_PORT_ERR_CRC p 1).rdi .WN_PORT_ERR_CRC p = t.rdi .WN_PORT_ERR_CRC p + 1 :=
    fun t ht => rdi_addSat_same (Nat.succ_le_of_lt ht)
  have hue : ∀ t : State, t.rdi .WN_PORT_FEC_UE p < 2 ^ 16 - 1 →
      (t.addSat .WN_PORT_FEC_UE p 1).rdi .WN_PORT_FEC_UE p = t.rdi .WN_PORT_FEC_UE p + 1 :=
    fun t ht => rdi_addSat_same (Nat.succ_le_of_lt ht)
  have hdrop : ∀ t : State, t.rdi .WN_PORT_DROP_FRAMES p < 2 ^ 16 - 1 →
      (t.addSat .WN_PORT_DROP_FRAMES p 1).rdi .WN_PORT_DROP_FRAMES p = t.rdi .WN_PORT_DROP_FRAMES p + 1 :=
    fun t ht => rdi_addSat_same (Nat.succ_le_of_lt ht)
  have hother : ∀ (t : State) {f g : F}, g ≠ f → (t.addSat f p 1).rdi g p = t.rdi g p :=
    fun t f g hg => rdi_addSat_other (.inl hg)
  rcases h with ⟨ue, rfl⟩ | rfl | ⟨-, rfl | rfl⟩
  · cases ue with
    | false => exact ⟨hcrc s, fun _ => hother s (by decide), fun _ => hother s (by decide)⟩
    | true =>
      refine ⟨fun hlt => ?_, fun hlt => (hother _ (by decide)).trans (hue s hlt),
        fun _ => (hother _ (by decide)).trans (hother s (by decide))⟩
      have hsame : (s.addSat .WN_PORT_FEC_UE p 1).rdi .WN_PORT_ERR_CRC p = s.rdi .WN_PORT_ERR_CRC p := hother s (by decide)
      exact (hcrc _ (hsame ▸ hlt)).trans (congrArg (· + 1) hsame)
  · exact ⟨fun _ => rfl, fun _ => rfl, fun _ => rfl⟩
  · have hsame : (s.addSat .WN_PORT_ERR_CRC p 1).rdi .WN_PORT_DROP_FRAMES p = s.rdi .WN_PORT_DROP_FRAMES p :=
      hother s (by decide)
    exact ⟨fun hlt => (hother _ (by decide)).trans (hcrc s hlt), fun _ => (hother _ (by decide)).trans (hother s (by decide)),
      fun hlt => (hdrop _ (hsame ▸ hlt)).trans (congrArg (· + 1) hsame)⟩
  · exact ⟨fun _ => hother s (by decide), fun _ => hother s (by decide), hdrop s⟩

end Sys2Proof.Machine

/-! What keeps a link going: control frames, replays, bad frames, timeouts (O52). -/

namespace Sys2Proof.Machine

/-! ### A frame of a reserved OP on a direct port (R241) -/

theorem bufferless_of_direct {s : State} {p op : Nat} {f : Frame} (h : s.flag .WN_PORT_CTL_FRAMING p = false) :
    (s.flag .WN_PORT_CTL_FRAMING p && channelOk f && s.bufferFull p op f) = false := by simp [h]

theorem makeRoom_of_direct {s : State} {p : Nat} (h : s.flag .WN_PORT_CTL_FRAMING p = false) (k : Nat) :
    s.makeRoom p k = some s := if_neg (by simp [h])

/-- The frame of the next LSEQ is taken, where its receive buffer has room. -/
theorem inOrder_of_next {s : State} {p op : Nat} {f : Frame} (hseq : f.lh.lseq = (s.link (s.keyOf p f)).rxNext)
    (hroom : (s.flag .WN_PORT_CTL_FRAMING p && channelOk f && s.bufferFull p op f) = false) :
    s.inOrder p op f = s.takeFrame p op f := by
  have hahead : (f.lh.lseq + 65536 - (s.link (s.keyOf p f)).rxNext) % 65536 = 0 := by
    rw [hseq, Nat.add_sub_cancel_left]
  exact (if_pos hahead).trans (if_neg (by rw [hroom]; decide))

/-- A frame of a reserved OP is taken off its link and discarded. -/
theorem takeFrame_strange {s : State} {p : Nat} {f : Frame} (hnak : f.lh.nak = false) :
    ∃ t, s.LinkOnly t ∧ s.takeFrame p 10 f = t.dropFrame p := by
  have hhead := State.LinkOnly.takeHeader ((State.LinkOnly.refl s).updLink (s.keyOf p f)
    fun l => { l with rxNext := (l.rxNext + 1) % 65536, nakSent := false }) hnak p (s.keyOf p f)
  exact ⟨_, State.LinkOnly.ite (hhead.emptied p 10 f) hhead, rfl⟩

/-- What a frame of a reserved OP does on a direct port. -/
theorem receive_strange {s : State} {p : Nat} {f : Frame} (hup : s.portState p = 3)
    (hidle : s.flag .PW_STATE_IDLE 0 = false) (hdirect : s.flag .WN_PORT_CTL_FRAMING p = false)
    (hnak : f.lh.nak = false) (hseq : f.lh.lseq = (s.link (s.keyOf p f)).rxNext) :
    ∃ t, (s.addSat .WN_PORT_FEC_CE p f.fec).LinkOnly t ∧ s.receive p 10 f = t.dropFrame p := by
  set v := s.addSat .WN_PORT_FEC_CE p f.fec with hv
  have hkept : ∀ k, v.rdi .WN_PORT_CTL_FRAMING k = s.rdi .WN_PORT_CTL_FRAMING k :=
    fun k => rdi_addSat_other (.inl (by decide))
  have hdirect' : v.flag .WN_PORT_CTL_FRAMING p = false := (congrArg (· != 0) (hkept p)).trans hdirect
  have hkey : v.keyOf p f = s.keyOf p f := by
    unfold State.keyOf State.linkKey
    rw [if_neg (by simp [hdirect']), if_neg (by simp [hdirect])]
  obtain ⟨t, ht, htake⟩ := takeFrame_strange (s := v) (p := p) hnak
  refine ⟨t, ht, ?_⟩
  unfold State.receive
  rw [if_neg (by simp [hup]), leaveIdle_of_out hidle]
  dsimp only
  rw [← hv, if_neg (by simp [hdirect']), makeRoom_of_direct hdirect']
  exact (inOrder_of_next (s := v) (hkey ▸ hseq) (bufferless_of_direct hdirect')).trans htake

/-! ### A transaction that times out (R245) -/

theorem Tbl.find_del {α : Type} (t : List (Nat × α)) (k : Nat) : Tbl.find (Tbl.del t k) k = none :=
  Tbl.find_eq_none fun _ he => (Tbl.mem_del he).2

/-- A tag freed while no frame waits for one: its transaction is forgotten. -/
theorem releaseTag_shows {s : State} {b tag : Nat} {x : Txn} (hx : Tbl.find s.net.txns (tagKey b tag) = some x)
    (hwait : s.net.tagWait = []) :
    (s.releaseTag b tag).regs = s.regs ∧ Tbl.find (s.releaseTag b tag).net.txns (tagKey b tag) = none := by
  have hrun : s.releaseTag b tag =
      ({ s with net := { s.net with txns := Tbl.del s.net.txns (tagKey b tag) } } : State).updWork x.queue x.id fun y =>
        { y with tags := y.tags.filter fun t => t != tag } := by
    unfold State.releaseTag
    rw [hx]
    dsimp only [State.updWork, State.updQueue]
    rw [hwait]
    rfl
  rw [hrun]
  exact ⟨rfl, Tbl.find_del _ _⟩

/-- An instruction that ends in a fault ends no transaction. -/
theorem failWork_txns (s : State) (q id : Nat) (f : EFault) : (s.failWork q id f).net.txns = s.net.txns := by
  have hhalt : ∀ (t : State) (pc : Nat), (t.engineFault q f pc).net = t.net :=
    fun t pc => (congrArg State.net (engineFault_halted t q f pc).rest :)
  cases hw : s.workAt q id with
  | none =>
    unfold State.workAt at hw
    rw [State.failWork, hw]
    exact congrArg Net.txns (hhalt s _)
  | some x =>
    rw [failWork_of_work hw, hhalt]
    have hdig := (State.Digested.refl (s.failing q id x f)).leaveDigest q x
    have hleft : ((s.failing q id x f).leaveDigest q x).net.txns = (s.failing q id x f).net.txns :=
      (congrArg (fun t : State => t.net.txns) hdig.rest :)
    have hstatus : s.Stored (if x.kind = .rscat then s.writeStatus x f.code.val else s) :=
      ((State.Stored.refl s).writeStatus _ _).ite (.refl s)
    exact hleft.trans (congrArg (fun t : State => t.net.txns) hstatus.rest :)

/-- The queue of an instruction that ends in a fault, whether it is still there or not. -/
theorem failWork_stops {s : State} {q : Nat} (h5 : s.qState q ≠ 5) (id : Nat) (f : EFault) :
    (s.failWork q id f).qState q = 5 ∧ (s.failWork q id f).rdi .EN_Q_STAT_CODE q = f.code.val := by
  cases hw : s.workAt q id with
  | none =>
    unfold State.workAt at hw
    rw [State.failWork, hw]
    obtain ⟨hstate, hcode⟩ := engineFault_stops s q f (s.rdi .EN_Q_PC_PC q)
    exact ⟨hstate, hcode h5⟩
  | some x => exact ⟨(failWork_ended hw f).state, (failWork_ended hw f).code h5⟩

/-- A write, signal or ring frame whose transaction ends in a fault. -/
theorem failTxn_stops {s : State} {b tag : Nat} {x : Txn} (hx : Tbl.find s.net.txns (tagKey b tag) = some x)
    (hwait : s.net.tagWait = []) (hop : x.op ≠ 1) (h5 : s.qState x.queue ≠ 5) (e : EFault) :
    (s.failTxn b tag e).qState x.queue = 5 ∧ (s.failTxn b tag e).rdi .EN_Q_STAT_CODE x.queue = e.code.val ∧
      Tbl.find (s.failTxn b tag e).net.txns (tagKey b tag) = none := by
  obtain ⟨hregs, hfree⟩ := releaseTag_shows hx hwait
  have hrun : s.failTxn b tag e = (s.releaseTag b tag).failWork x.queue x.id e := by
    unfold State.failTxn
    rw [hx]
    dsimp only
    rw [if_neg (show x.op ≠ opRdReq from hop)]
    rfl
  have hstate : (s.releaseTag b tag).qState x.queue ≠ 5 := by
    rw [State.qState, State.rdi, hregs]
    exact h5
  obtain ⟨hq, hcode⟩ := failWork_stops hstate x.id e
  rw [hrun]
  exact ⟨hq, hcode, by rw [failWork_txns, hfree]⟩

/-- Settles O52: replays (`replay_shows`), bad frames (`badFrame_of_gap`), and transactions (`failTxn_stops`). -/
theorem linkUpkeep : Obligations.LinkUpkeep := by
  intro p m s k hk
  subst hk
  refine ⟨fun hup => ⟨?timer, ?quiet, ?replayed, fun hnone hlimit => ⟨?direct, ?switched⟩⟩,
    fun hup hidle => ⟨fun h hwf => ⟨?reserved, ?header, ?nak⟩, ?gap, fun hs => ⟨?foreign, ?pause⟩, ?ethernet, ?strange⟩,
    fun hdown => ⟨?_, ?_, ?_, ?_⟩, ?hold, ?held, fun b tag => ⟨?free, ?txn⟩⟩
  case timer =>
    have hrun : exec (.linkControlTimer p m) s = .next ((s.sendControl p (s.linkKey p m) false).updLink (s.linkKey p m)
        fun l => { l with replaying := none }) := congrArg Host.Outcome.next (if_pos hup)
    exact ⟨_, hrun, (((State.LinkOnly.refl s).sendControl _ _ _).updLink _ _).eq, by rw [updLink_link], rfl⟩
  case quiet => exact fun h => congrArg Host.Outcome.next ((if_pos hup).trans (replay_of_nothing h))
  case replayed =>
    intro hsome hnone hlimit hlt
    have hrun : exec (.replayTimeout p m) s = .next (s.replay p (s.linkKey p m) false) :=
      congrArg Host.Outcome.next (if_pos hup)
    obtain ⟨hnet, hgoes, hlen⟩ := replay_shows (p := p) (nak := false) hsome hnone hlimit
    exact ⟨_, hrun, (hnet.rdi_eq _ _).trans (rdi_addSat_same (Nat.succ_le_of_lt hlt)), hgoes, hlen,
      ((State.onlyRegs.refl s _).addSat (by simp) 1).sansNet hnet⟩
  case direct =>
    intro hdirect
    have hrun : exec (.replayTimeout p m) s = .next (s.replayLimit p (s.linkKey p m)) :=
      congrArg Host.Outcome.next ((if_pos hup).trans (replay_of_limit hnone hlimit))
    exact ⟨_, hrun, replayLimit_direct hdirect⟩
  case switched =>
    intro hs
    have hrun : exec (.replayTimeout p m) s =
        .next (s.updLink (s.linkKey p m) fun l => { l with unreachable := true }) :=
      congrArg Host.Outcome.next ((if_pos hup).trans ((replay_of_limit hnone hlimit).trans (if_pos hs)))
    exact ⟨_, hrun, by rw [updLink_link], rfl⟩
  case reserved =>
    intro hrsv
    have hrun : exec (.linkControl p m h) s = .next (s.dropFrame p) := by
      refine (if_pos hwf).trans (congrArg Host.Outcome.next ((if_pos hup).trans ?_))
      rw [leaveIdle_of_out hidle]
      exact if_pos hrsv
    exact ⟨_, hrun, (State.onlyRegs.refl s _).addSat (by simp) 1⟩
  case header =>
    intro hrsv hnak
    have hrun : ∃ u, exec (.linkControl p m h) s = .next u ∧ s.LinkOnly u := by
      cases hroom : s.makeRoom p (s.linkKey p m) with
      | none =>
        refine ⟨s, (if_pos hwf).trans (congrArg Host.Outcome.next ((if_pos hup).trans ?_)), .refl s⟩
        rw [leaveIdle_of_out hidle]
        dsimp only
        rw [if_neg (by simp [hrsv]), hroom]
      | some t =>
        refine ⟨t.takeHeader p (s.linkKey p m) h, (if_pos hwf).trans (congrArg Host.Outcome.next ((if_pos hup).trans ?_)),
          ((State.LinkOnly.refl s).makeRoom hroom).takeHeader hnak _ _⟩
        rw [leaveIdle_of_out hidle]
        dsimp only
        rw [if_neg (by simp [hrsv]), hroom]
    obtain ⟨u, hu, hnet⟩ := hrun
    exact ⟨u, hu, hnet.eq⟩
  case nak =>
    intro hrsv hnak hdirect hsome hlimit hnone hlt
    have hrun : exec (.linkControl p m h) s = .next (s.takeHeader p (s.linkKey p m) h) := by
      refine (if_pos hwf).trans (congrArg Host.Outcome.next ((if_pos hup).trans ?_))
      rw [leaveIdle_of_out hidle]
      dsimp only
      rw [if_neg (by simp [hrsv]), makeRoom_of_direct hdirect]
    have hnet := takeHeader_replays (p := p) hnak hsome hnone hlimit
    exact ⟨_, hrun, (hnet.rdi_eq _ _).trans (rdi_addSat_same (Nat.succ_le_of_lt hlt)),
      ((State.onlyRegs.refl s _).addSat (by simp) 1).sansNet hnet⟩
  case gap =>
    intro b hb
    have hgap : leavesGap (s.flag .WN_PORT_CTL_FRAMING p) b := hb
    have hwf : b.wf = true := by rcases hb with ⟨ue, rfl⟩ | rfl | ⟨-, rfl | rfl⟩ <;> rfl
    have hrun : exec (.badCrcOrGap p m b) s = .next ((s.badCounted p b).nakOnce p (s.linkKey p m)) := by
      refine (if_pos hwf).trans (congrArg Host.Outcome.next ((if_pos hup).trans ?_))
      rw [leaveIdle_of_out hidle, badFrame_of_gap hgap]
    have hregs := badCounted_onlyRegs s p b
    have hnet := (State.LinkOnly.refl (s.badCounted p b)).nakOnce p (s.linkKey p m)
    obtain ⟨hcrc, hue, hdrop⟩ := badCounted_counts (s := s) (p := p) hgap
    obtain ⟨hsent, hout⟩ := nakOnce_shows (s.badCounted p b) p (s.linkKey p m)
    have hether : ∀ n, (s.badCounted p b).ether p n = s.ether p n :=
      ether_congr (fun f hf k => hregs.2 f k (badCounted_notEther hf)) p
    have hlink : (s.badCounted p b).link (s.linkKey p m) = s.link (s.linkKey p m) := by
      rw [State.link, hregs.net_eq, State.link]
    rw [hether, hlink, hregs.net_eq] at hout
    exact ⟨_, hrun, hsent, hregs.sansNet hnet, fun hlt => (hnet.rdi_eq _ _).trans (hcrc hlt),
      fun hlt => (hnet.rdi_eq _ _).trans (hue hlt), fun hlt => (hnet.rdi_eq _ _).trans (hdrop hlt), hout⟩
  case foreign =>
    have hrun : exec (.badCrcOrGap p m .foreign) s = .next (s.dropFrame p) := by
      refine congrArg Host.Outcome.next ((if_pos hup).trans ?_)
      rw [leaveIdle_of_out hidle]
      exact if_pos hs
    exact ⟨_, hrun, (State.onlyRegs.refl s _).addSat (by simp) 1, fun hlt => rdi_addSat_same (Nat.succ_le_of_lt hlt)⟩
  case pause =>
    have hrun : exec (.badCrcOrGap p m .pause) s = .next (s.addSat .WN_PORT_DROP_PAUSE p 1) := by
      refine congrArg Host.Outcome.next ((if_pos hup).trans ?_)
      rw [leaveIdle_of_out hidle]
      exact if_pos hs
    exact ⟨_, hrun, (State.onlyRegs.refl s _).addSat (by simp) 1, fun hlt => rdi_addSat_same (Nat.succ_le_of_lt hlt)⟩
  case ethernet =>
    intro hdirect b hb
    have hnone : s.badFrame p m b = s ∧ b.wf = true := by
      simp only [List.mem_cons, List.not_mem_nil, or_false] at hb
      rcases hb with rfl | rfl | rfl | rfl <;> exact ⟨if_neg (by simp [hdirect]), rfl⟩
    refine (if_pos hnone.2).trans (congrArg Host.Outcome.next ((if_pos hup).trans ?_))
    rw [leaveIdle_of_out hidle]
    exact hnone.1
  case strange =>
    intro f hwf hnak hdirect hseq hlt
    obtain ⟨t, hnet, hreceive⟩ := receive_strange hup hidle hdirect hnak hseq
    have hrun : exec (.badCrcOrGap p m (.strange f)) s = .next (t.dropFrame p) := by
      refine (if_pos (c := (BadFrame.strange f).wf = true) hwf).trans (congrArg Host.Outcome.next ((if_pos hup).trans ?_))
      rw [leaveIdle_of_out hidle]
      exact hreceive
    have hsame : t.rdi .WN_PORT_DROP_FRAMES p = s.rdi .WN_PORT_DROP_FRAMES p :=
      (hnet.rdi_eq _ _).trans (rdi_addSat_other (.inl (by decide)))
    refine ⟨_, hrun, ?_, ?_⟩
    · exact (rdi_addSat_same (Nat.succ_le_of_lt (hsame ▸ hlt))).trans (congrArg (· + 1) hsame)
    · obtain ⟨_, _, _, _, rfl⟩ := hnet
      exact ((State.onlyRegs.refl s _).addSat (f := .WN_PORT_FEC_CE) (i := p) (by simp) f.fec).addSat (by simp) 1
  · exact fun h hwf => (if_pos hwf).trans (congrArg Host.Outcome.next (if_neg hdown))
  · exact congrArg Host.Outcome.next (if_neg hdown)
  · exact congrArg Host.Outcome.next (if_neg hdown)
  · exact fun b hwf => (if_pos hwf).trans (congrArg Host.Outcome.next (if_neg hdown))
  case hold =>
    intro haway hacked hwait
    have hrun : exec (.linkHoldExpiry p m) s = .next (s.updLink (s.linkKey p m) fun _ => Link.fresh) := by
      refine congrArg Host.Outcome.next ((if_pos haway).trans ?_)
      unfold State.discardLink
      dsimp only
      rw [hacked, hwait]
      rfl
    exact ⟨_, hrun, updLink_link _ _ _, rfl⟩
  case held =>
    exact fun hup hthere => congrArg Host.Outcome.next (if_neg (by simp [hup, hthere]))
  case free =>
    intro hfree
    refine congrArg Host.Outcome.next ?_
    unfold State.failTxn
    rw [hfree]
  case txn =>
    intro x hx hwait hop _ _ h5
    exact ⟨_, rfl, failTxn_stops hx hwait hop h5 (.of .remoteTimeout)⟩

end Sys2Proof.Machine

/-! Writes that come over the fabric rest on what reads rest on alone, whatever array errors wait (R134, R137, R163 to R165,
R203 to R205). -/

namespace Sys2Proof.Machine

/-- An error event changes nothing that reads rest on. -/
theorem State.ReadsAs.raise {s t : State} (h : s.ReadsAs t) (e : E) (unit inst sub addr detail : Nat) :
    s.ReadsAs (t.raise e unit inst sub addr detail) := by
  have hlog := raise_logged t e unit inst sub addr detail
  exact h.trans ⟨fun f hf k => hlog.regs f k (by revert hf; revert f; decide), hlog.mem_eq,
    (congrArg State.poison hlog.rest :), (congrArg State.flaws hlog.rest :), (congrArg State.prov hlog.rest :)⟩

theorem State.ReadsAs.addSat {s t : State} (h : s.ReadsAs t) {f : F} (hf : f ∉ readFields) (k n : Nat) :
    s.ReadsAs (t.addSat f k n) := h.set hf k _

theorem State.ReadsAs.ite {s t u : State} (h : s.ReadsAs t) {p : Prop} [Decidable p] (k : s.ReadsAs u) :
    s.ReadsAs (if p then t else u) := by
  split <;> assumption

theorem State.ReadsAs.countRow {s t : State} (h : s.ReadsAs t) (p : Nat) (ue : Bool) : s.ReadsAs (t.countRow p ue) := by
  unfold State.countRow
  dsimp only
  split
  · exact h
  · split
    · exact ⟨h.regs, h.mem, h.poison, h.flaws, h.prov⟩
    · exact ⟨h.regs, h.mem, h.poison, h.flaws, h.prov⟩

theorem State.ReadsAs.flawAt_eq {s t : State} (h : s.ReadsAs t) : t.flawAt = s.flawAt := funext fun p => by
  rw [State.flawAt, h.flaws, State.flawAt]

/-- A change that rests on what reads rest on: where memory reads alike before, it reads alike behind it. -/
def Faithful (f : State → State) : Prop := ∀ s t : State, s.ReadsAs t → (f s).ReadsAs (f t)

namespace Faithful

variable {f g : State → State}

theorem id : Faithful fun s => s := fun _ _ h => h

theorem comp (hf : Faithful f) (hg : Faithful g) : Faithful fun s => g (f s) := fun s t h => hg _ _ (hf s t h)

theorem foldl {α : Type} {f : State → α → State} (hf : ∀ a, Faithful fun s => f s a) (l : List α) :
    Faithful fun s => l.foldl f s := by
  induction l with
  | nil => exact id
  | cons a l ih => exact (hf a).comp ih

/-- A choice by something that rests on what reads rest on. -/
theorem look {α : Type} {o : State → α} {f : α → State → State} (ho : ∀ s t : State, s.ReadsAs t → o t = o s)
    (hf : ∀ a, Faithful (f a)) : Faithful fun s => f (o s) s := fun s t h => by
  dsimp only
  rw [ho s t h]
  exact hf (o s) s t h

theorem congr (hg : Faithful g) (h : ∀ s, f s = g s) : Faithful f := fun s t hst => by
  rw [h s, h t]
  exact hg s t hst

theorem ite (hf : Faithful f) (hg : Faithful g) (p : Prop) [Decidable p] : Faithful fun s => if p then f s else g s := by
  split
  · exact hf
  · exact hg

/-- What changes nothing that reads rest on. -/
theorem unseen (hf : ∀ s : State, s.ReadsAs (f s)) : Faithful f := fun s t h => h.across (hf s) (hf t)

theorem mark (p : Nat) (b : Bool) : Faithful fun s => s.mark p b := fun _ _ h =>
  ⟨h.regs, h.mem, congrArg (fun x => Tbl.set false x (unitOf p) b) h.poison, h.flaws, h.prov⟩

theorem setByte (p : Nat) (b : Byte) : Faithful fun s => s.setByte p b := fun _ _ h =>
  ⟨h.regs, congrArg (fun x => Tbl.set 0 x p b) h.mem, h.poison, h.flaws, h.prov⟩

theorem setFlaw (p : Nat) (x : Flaw) : Faithful fun s => s.setFlaw p x := fun _ _ h =>
  ⟨h.regs, h.mem, h.poison, congrArg (fun l => Tbl.set Flaw.none l (cwOf p) x) h.flaws, h.prov⟩

theorem setGranule (v g : Nat) (y : Granule) : Faithful fun s => s.setGranule v g y := fun _ _ h =>
  ⟨h.regs, h.mem, h.poison, h.flaws,
    congrArg (fun x : Prov => { x with granules := Tbl.set ⟨false, none⟩ x.granules (granKey v g) y }) h.prov⟩

theorem rewritten (p : Nat) : Faithful fun s => s.rewritten p := by
  have hword : ∀ c, Faithful fun s => s.setFlaw c { s.flawAt c with found := ⟨false, .clean⟩ } := fun c =>
    look (o := fun s => s.flawAt c) (f := fun x s => s.setFlaw c { x with found := ⟨false, .clean⟩ })
      (fun _ _ h => by rw [h.flawAt_eq]) fun x => setFlaw c _
  refine look (o := fun s => s.flaws.isEmpty) (f := fun b s => if b then s else
    (codewords p).foldl (fun s c => s.setFlaw c { s.flawAt c with found := ⟨false, .clean⟩ }) s)
    (fun _ _ h => by rw [h.flaws]) fun b => ?_
  exact ite id (foldl hword _) (b = true)

/-! ### The check of what a read finds (R134, R162 to R165) -/

theorem senseDie (c : Nat) : Faithful fun s => s.senseDie c :=
  unseen fun s => ((State.ReadsAs.refl s).addSat (by decide) _ _).ite (.refl s)

theorem correctHalf (c : Nat) : Faithful fun s => s.correctHalf c :=
  unseen fun s => (((State.ReadsAs.refl s).addSat (by decide) _ _).countRow _ _).raise _ _ _ _ _ _

/-- A unit written back poisoned: its error is counted and logged. -/
theorem poisoned_then (p : Nat) (hg : ∀ s : State, s.ReadsAs (g s)) :
    Faithful fun s => g ((s.rewritten p).mark p true) := ((rewritten p).comp (mark p true)).comp (unseen hg)

theorem senseHbm (p : Nat) (cs : List Nat) : Faithful fun s => s.senseHbm p cs := by
  refine (foldl (f := State.senseDie) senseDie cs).comp (g := fun s => if s.poisoned p then s
    else if cs.any fun c => (s.foundAt c).code == .uncorrectable then
      ((((s.rewritten p).mark p true).addSat .GN_ECC_UE_COUNT (p / 2 ^ 37) 1).countRow p true).raise .hbmUe 3 (p / 2 ^ 37)
        (bits p 8 6) (s.endpointOf p) 0
    else (cs.filter fun c => (s.foundAt c).code == .corrected).foldl State.correctHalf s) ?_
  intro s t h
  dsimp only
  have hfound : t.foundAt = s.foundAt := funext fun c => by rw [State.foundAt, h.flawAt_eq, State.foundAt]
  rw [h.poisoned_eq, hfound]
  split
  · exact h
  · split
    · have hwritten := ((rewritten p).comp (mark p true)) s t h
      have hnoted : ∀ (u : State) (n : Nat), u.ReadsAs (((u.addSat .GN_ECC_UE_COUNT (p / 2 ^ 37) 1).countRow p true).raise
          .hbmUe 3 (p / 2 ^ 37) (bits p 8 6) n 0) := fun u n =>
        (((State.ReadsAs.refl u).addSat (by decide) _ _).countRow _ _).raise _ _ _ _ _ _
      exact hwritten.across (hnoted _ _) (hnoted _ _)
    · exact foldl (f := State.correctHalf) correctHalf _ s t h

theorem senseLoft (p : Nat) : Faithful fun s => s.senseLoft p := by
  intro s t h
  have hfound : t.foundAt p = s.foundAt p := by rw [State.foundAt, h.flawAt_eq, State.foundAt]
  dsimp only
  unfold State.senseLoft
  rw [h.poisoned_eq, hfound]
  have hnoted : ∀ (u : State) (f : F), f ∉ readFields → ∀ (e : E) (n : Nat),
      u.ReadsAs ((u.addSat f (loftOf p) 1).raise e 2 (loftOf p) 0 n 0) := fun u f hf e n =>
    ((State.ReadsAs.refl u).addSat hf _ _).raise _ _ _ _ _ _
  split
  · exact h
  · split
    · exact h
    · exact (rewritten p s t h).across (hnoted _ .LF_ECC_CE (by decide) _ _) (hnoted _ .LF_ECC_CE (by decide) _ _)
    · exact (((rewritten p).comp (mark p true)) s t h).across (hnoted _ .LF_ECC_UE (by decide) _ _)
        (hnoted _ .LF_ECC_UE (by decide) _ _)

theorem sense (p : Nat) : Faithful fun s => s.sense p := ite (senseHbm p _) (senseLoft p) _

theorem leaveLine (p : Nat) : Faithful fun s => s.leaveLine p := by
  intro s t h
  dsimp only
  unfold State.leaveLine
  rw [h.flawAt_eq]
  dsimp only
  split
  · exact h
  · split
    · exact (setFlaw p _ s t h).across ((State.ReadsAs.refl _).raise _ _ _ _ _ _) ((State.ReadsAs.refl _).raise _ _ _ _ _ _)
    · exact h.across ((State.ReadsAs.refl _).raise _ _ _ _ _ _) ((State.ReadsAs.refl _).raise _ _ _ _ _ _)

theorem senseRun (p n : Nat) : Faithful fun s => s.senseRun p n := by
  refine look (o := fun s => s.flaws.isEmpty) (f := fun b s => if b then s else
    let s := (unitsOf p n).foldl State.sense s
    if isHbm p then (linesOf p n).foldl State.leaveLine s else s) (fun _ _ h => by rw [h.flaws]) fun b => ?_
  exact ite id ((foldl sense _).comp (ite (foldl leaveLine _) id (isHbm p = true))) (b = true)

/-! ### Writes (R136, R137, R203 to R205) -/

theorem writeUnit (g : Nat × List (Nat × PByte)) : Faithful fun s => s.writeUnit g := by
  have hread : Faithful fun s => if g.2.length = unitSize g.1 then s.mark g.1 false
      else if s.flaws.isEmpty then s else s.sense g.1 := by
    refine ite (mark g.1 false) ?_ _
    exact look (o := fun s => s.flaws.isEmpty) (f := fun b s => if b then s else s.sense g.1)
      (fun _ _ h => by rw [h.flaws]) fun b => ite id (sense g.1) (b = true)
  refine hread.comp (g := fun s => if s.poisoned g.1 then s
    else
      let s := g.2.foldl (fun s e => s.setByte e.1 e.2.val) (s.rewritten g.1)
      if g.2.any fun e => e.2.bad then s.mark g.1 true else s) ?_
  refine look (o := fun s => s.poisoned g.1) (f := fun b s => if b then s
    else
      let s := g.2.foldl (fun s e => s.setByte e.1 e.2.val) (s.rewritten g.1)
      if g.2.any fun e => e.2.bad then s.mark g.1 true else s) (fun _ _ h => by rw [h.poisoned_eq]) fun b => ?_
  have hbytes : Faithful fun s => g.2.foldl (fun s e => s.setByte e.1 e.2.val) s :=
    foldl (f := fun s (e : Nat × PByte) => s.setByte e.1 e.2.val) (fun e => setByte e.1 e.2.val) g.2
  exact ite id (((rewritten g.1).comp hbytes).comp (ite (mark g.1 true) id ((g.2.any fun e => e.2.bad) = true))) (b = true)

theorem storePhys (p : Nat) (l : List PByte) : Faithful fun s => s.storePhys p l := by
  refine look (o := fun s => s.onFailed p)
    (f := fun b s => if b then s else
      (groupUnits ((List.range l.length).zip l |>.map fun e => (p + e.1, e.2))).foldl State.writeUnit s)
    (fun _ _ h => by rw [h.onFailed_eq]) fun b => ?_
  exact ite id (foldl writeUnit _) (b = true)

end Faithful

/-- A flit that arrives does so alike, whatever else the states hold. -/
theorem arriveLine_readsAs (p : Nat) {s t : State} (h : s.ReadsAs t) (l : List PByte) (z : Nat) :
    (arriveLine p (s, l) z).1.ReadsAs (arriveLine p (t, l) z).1 ∧ (arriveLine p (t, l) z).2 = (arriveLine p (s, l) z).2 := by
  have hcount : ∀ (u : State) (f : F), f ∉ readFields → u.ReadsAs (if isHbm z then u else u.addSat f (placeUnit z).2 1) :=
    fun u f hf => (State.ReadsAs.refl u).ite ((State.ReadsAs.refl u).addSat hf _ _)
  have hresend := fun u => hcount u .LF_FABRIC_RESEND (by decide)
  have hfail := fun u => hcount u .LF_FABRIC_FAIL (by decide)
  unfold arriveLine
  dsimp only
  rw [h.flawAt_eq]
  split
  · exact ⟨h, rfl⟩
  · have hset : (s.setFlaw z { s.flawAt z with arrives := 0 }).ReadsAs (t.setFlaw z { s.flawAt z with arrives := 0 }) :=
      Faithful.setFlaw z _ s t h
    generalize s.setFlaw z _ = s' at hset ⊢
    generalize t.setFlaw z _ = t' at hset ⊢
    split
    · dsimp only
      exact ⟨hset.across ((hresend _).raise _ _ _ _ _ _) ((hresend _).raise _ _ _ _ _ _), rfl⟩
    · dsimp only
      exact ⟨hset.across (((hresend _).trans (hfail _)).raise _ _ _ _ _ _) (((hresend _).trans (hfail _)).raise _ _ _ _ _ _),
        rfl⟩

theorem foldl_arriveLine_readsAs (p : Nat) (zs : List Nat) {s t : State} (h : s.ReadsAs t) (l : List PByte) :
    (zs.foldl (arriveLine p) (s, l)).1.ReadsAs (zs.foldl (arriveLine p) (t, l)).1 ∧
      (zs.foldl (arriveLine p) (t, l)).2 = (zs.foldl (arriveLine p) (s, l)).2 := by
  induction zs generalizing s t l with
  | nil => exact ⟨h, rfl⟩
  | cons z zs ih =>
    obtain ⟨hstate, hlist⟩ := arriveLine_readsAs p h l z
    rw [List.foldl_cons, List.foldl_cons]
    generalize arriveLine p (s, l) z = x at hstate hlist
    generalize arriveLine p (t, l) z = y at hstate hlist
    obtain ⟨s', l'⟩ := x
    obtain ⟨t', m'⟩ := y
    obtain rfl : m' = l' := hlist
    exact ih hstate m'

namespace Faithful

theorem writePhys (p : Nat) (l : List PByte) : Faithful fun s => s.writePhys p l := by
  intro s t h
  dsimp only
  unfold State.writePhys
  rw [h.flaws]
  split
  · exact storePhys p l s t h
  · obtain ⟨hstate, hlist⟩ := foldl_arriveLine_readsAs p (linesOf p l.length) h l
    dsimp only
    rw [hlist]
    exact storePhys p _ _ _ hstate

theorem poisonRun (p n : Nat) : Faithful fun s => s.poisonRun p n := foldl (fun u => mark u true) _

theorem copyGranule (r : Vreg) (b : Bool) (a : Nat) : Faithful fun s => s.copyGranule r b a := by
  refine look (o := fun s => s.copyPhys r b a)
    (f := fun p s => (s.senseRun p (granSize r.space)).storePhys ((s.senseRun p (granSize r.space)).copyPhys r (!b) a)
      ((s.senseRun p (granSize r.space)).readPhys p (granSize r.space))) (fun _ _ h => by rw [h.copyPhys_eq]) fun p => ?_
  refine (senseRun p (granSize r.space)).comp
    (g := fun s => s.storePhys (s.copyPhys r (!b) a) (s.readPhys p (granSize r.space))) ?_
  exact look (o := fun s => (s.copyPhys r (!b) a, s.readPhys p (granSize r.space)))
    (f := fun y s => s.storePhys y.1 y.2) (fun _ _ h => by rw [h.copyPhys_eq, h.readPhys_eq]) fun y => storePhys y.1 y.2

theorem granulePrepared (r : Vreg) (view : View) (space a n : Nat) (y : Granule × (Granule × Bool) × Nat) :
    Faithful (Machine.granulePrepared r view space a n y) := by
  unfold Machine.granulePrepared
  dsimp only
  cases r.scratch with
  | true => exact ((poisonRun _ _).ite id (y.2.1.2 = true)).comp (setGranule _ _ _)
  | false =>
    cases view with
    | unbound => exact ite id (setGranule _ _ _) _
    | live e => exact (ite id (copyGranule _ _ _) _).comp (setGranule _ _ _)
    | squashed e => exact id

theorem writePlace (rs : List Vreg) (view : View) (space t a n : Nat) :
    Faithful fun s => (s.writePlace rs view space t a n).2 := by
  simp only [writePlace_snd]
  cases rs.find? fun r => r.hasName space t a with
  | none => exact id
  | some r =>
    exact look (o := fun s => s.granuleSeen r space t a) (fun _ _ h => h.granuleSeen_eq r space t a)
      fun y => granulePrepared r view space a n y

theorem writeAt (view : View) (space t a : Nat) (l : List PByte) : Faithful fun s => s.writeAt view space t a l := by
  refine look (o := fun s => s.vregs)
    (f := fun rs s => (splitBy (piecesOf space a l.length) l).foldl
      (fun s p => match s.writePlace rs view space t p.1 p.2.length with
        | (some q, s') => s'.writePhys q p.2
        | (none, s') => s') s) (fun _ _ h => h.vregs_eq) fun rs => ?_
  refine foldl (fun p => ?_) _
  have hpiece : Faithful fun s => match (s.writePlace rs view space t p.1 p.2.length).1 with
      | some q => (s.writePlace rs view space t p.1 p.2.length).2.writePhys q p.2
      | none => (s.writePlace rs view space t p.1 p.2.length).2 :=
    look (o := fun s => (s.writePlace rs view space t p.1 p.2.length).1)
      (f := fun q s => match q with
        | some q => (s.writePlace rs view space t p.1 p.2.length).2.writePhys q p.2
        | none => (s.writePlace rs view space t p.1 p.2.length).2)
      (fun s u h => by rw [writePlace_fst, writePlace_fst, h.placeOf_eq]) fun q => by
        cases q with
        | none => exact writePlace rs view space t p.1 p.2.length
        | some q => exact (writePlace rs view space t p.1 p.2.length).comp (writePhys q p.2)
  refine hpiece.congr fun s => ?_
  generalize s.writePlace rs view space t p.1 p.2.length = y
  obtain ⟨_ | q, v⟩ := y <;> rfl

end Faithful

end Sys2Proof.Machine

/-! Frames that arrive on a port (O51). -/

namespace Sys2Proof.Machine

/-! ### What a port takes (R240, R241, R244, R246, R248, R249) -/

/-- The commands of frames that arrive, with their OPs. -/
def frameCmds (p : Fin 16) (f : Frame) : List (Instr × Nat) :=
  [(.wr p f, 0), (.rdReq p f, 1), (.rdCpl p f, 2), (.ack p f, 3), (.tlSig p f, 4), (.tlAck p f, 5), (.ring p f, 6),
    (.ringAck p f, 7), (.health p f, 8), (.refuse p f, 9)]

theorem frame_run {c : Instr} {op : Nat} {p : Fin 16} {f : Frame} (hc : (c, op) ∈ frameCmds p f)
    (hwf : (if op = 6 then f.ringWf else f.plainWf) = true) (s : State) : exec c s = .next (s.receive p op f) := by
  simp only [frameCmds, List.mem_cons, Prod.mk.injEq, List.not_mem_nil, or_false] at hc
  rcases hc with ⟨rfl, rfl⟩ | ⟨rfl, rfl⟩ | ⟨rfl, rfl⟩ | ⟨rfl, rfl⟩ | ⟨rfl, rfl⟩ | ⟨rfl, rfl⟩ | ⟨rfl, rfl⟩ |
    ⟨rfl, rfl⟩ | ⟨rfl, rfl⟩ | ⟨rfl, rfl⟩ <;> exact if_pos hwf

section
variable {s a : State} {p op : Nat} {f : Frame}

theorem receive_of_down (h : s.portState p ≠ 3) : s.receive p op f = s := if_pos h

/-- A switched port drops a frame for another module, or of a peer it has no link state for. -/
theorem receive_drops (hup : s.portState p = 3) {b : State} (hb : b = s.leaveIdle.addSat .WN_PORT_FEC_CE p f.fec)
    (hs : b.flag .WN_PORT_CTL_FRAMING p = true) (h : f.dst ≠ b.rd .WN_ID_MODULE ∨ b.makeRoom p (b.keyOf p f) = none) :
    s.receive p op f = b.dropFrame p := by
  subst hb
  unfold State.receive
  rw [if_neg (by simp [hup])]
  dsimp only
  split
  · rfl
  · next hto =>
    have hdst : ¬ f.dst ≠ (s.leaveIdle.addSat .WN_PORT_FEC_CE p f.fec).rd .WN_ID_MODULE := fun hne => hto (by simp [hs, hne])
    rw [h.resolve_left hdst]

/-- Any other frame comes to its link. -/
theorem receive_taken (hup : s.portState p = 3) {b : State} (hb : b = s.leaveIdle.addSat .WN_PORT_FEC_CE p f.fec)
    (hto : b.flag .WN_PORT_CTL_FRAMING p = true → f.dst = b.rd .WN_ID_MODULE)
    (hroom : b.makeRoom p (b.keyOf p f) = some a) : s.receive p op f = a.inOrder p op f := by
  subst hb
  unfold State.receive
  rw [if_neg (by simp [hup])]
  dsimp only
  rw [if_neg, hroom]
  intro h
  obtain ⟨hs, hne⟩ := Bool.and_eq_true_iff.1 h
  exact bne_iff_ne.1 hne (hto hs)

theorem State.LinkOnly.keyOf_eq (h : s.LinkOnly a) : a.keyOf p f = s.keyOf p f := by
  obtain ⟨_, _, _, _, rfl⟩ := h
  rfl

/-- A frame beyond the next one is answered with one NAK. -/
theorem inOrder_of_gap (h0 : 0 < (f.lh.lseq + 65536 - (a.link (a.keyOf p f)).rxNext) % 65536)
    (h1 : (f.lh.lseq + 65536 - (a.link (a.keyOf p f)).rxNext) % 65536 < 32768) :
    a.inOrder p op f = a.nakOnce p (a.keyOf p f) := (if_neg (Nat.pos_iff_ne_zero.1 h0)).trans (if_pos h1)

/-- A frame taken before changes nothing. -/
theorem inOrder_of_old (h : 32768 ≤ (f.lh.lseq + 65536 - (a.link (a.keyOf p f)).rxNext) % 65536) :
    a.inOrder p op f = a := (if_neg (by omega)).trans (if_neg (by omega))

/-- The next frame of a switched link without room is dropped. -/
theorem inOrder_of_full (hseq : f.lh.lseq = (a.link (a.keyOf p f)).rxNext)
    (hfull : (a.flag .WN_PORT_CTL_FRAMING p && channelOk f && a.bufferFull p op f) = true) :
    a.inOrder p op f = (a.nakOnce p (a.keyOf p f)).dropFrame p := by
  have hahead : (f.lh.lseq + 65536 - (a.link (a.keyOf p f)).rxNext) % 65536 = 0 := by
    rw [hseq, Nat.add_sub_cancel_left]
  exact (if_pos hahead).trans (if_pos hfull)

/-- The link of a frame once the frame is taken off it. -/
def State.takenOff (a : State) (p k : Nat) (f : Frame) : State :=
  (a.updLink k fun l => { l with rxNext := (l.rxNext + 1) % 65536, nakSent := false }).takeHeader p k f.lh

theorem takeFrame_here (hok : frameOk op f = true)
    (hdst : f.dst = (a.takenOff p (a.keyOf p f) f).rd .WN_ID_MODULE) :
    a.takeFrame p op f = (a.takenOff p (a.keyOf p f) f).endCheck p op f :=
  (if_neg (by simp [hok])).trans (if_pos hdst)

theorem takeFrame_on (hok : frameOk op f = true)
    (hdst : f.dst ≠ (a.takenOff p (a.keyOf p f) f).rd .WN_ID_MODULE) :
    a.takeFrame p op f = (a.takenOff p (a.keyOf p f) f).forward p op f :=
  (if_neg (by simp [hok])).trans (if_neg hdst)

theorem takeFrame_bad (hbad : frameOk op f = false) :
    a.takeFrame p op f = (if channelOk f then (a.takenOff p (a.keyOf p f) f).emptied p op f
      else a.takenOff p (a.keyOf p f) f).dropFrame p := if_pos (by simp [hbad])

end

/-! ### A state with a frame taken off its link -/

/-- A state without its registers and its links. -/
def State.sansWire (s : State) : State :=
  { s with regs := [], net := { s.net with links := [], recent := [], peerWait := [], out := [] } }

/-- `t` is `s` but for its links and the counters of FEC corrections. -/
structure State.Wired (s t : State) : Prop where
  rest : t.sansWire = s.sansWire
  regs : ∀ f k, f ≠ .WN_PORT_FEC_CE → t.rdi f k = s.rdi f k
  regions : t.validRegions = s.validRegions

/-- Writes of other fields leave the valid region entries. -/
theorem validRegions_wri {s : State} {f : F} (h : f ≠ .LF_REGION_SIZE_V) (k v : Nat) :
    (s.wri f k v).validRegions = s.validRegions := by
  have hkey : fkey f k % 512 ≠ F.LF_REGION_SIZE_V.ctorIdx := by
    rw [fkey_mod]
    exact fun he => h (F.ctorIdx_inj he)
  have hput : ∀ (l : List (Nat × Nat)) (x : Nat),
      (Tbl.put l (fkey f k) x).filterMap (fun e =>
        if e.1 % 512 = F.LF_REGION_SIZE_V.ctorIdx ∧ e.2 = 1 then some (e.1 / 512) else none) = l.filterMap (fun e =>
        if e.1 % 512 = F.LF_REGION_SIZE_V.ctorIdx ∧ e.2 = 1 then some (e.1 / 512) else none) := by
    intro l x
    induction l with
    | nil => simp [Tbl.put, hkey]
    | cons e l ih =>
      rw [Tbl.put]
      split
      · next he => simp [he, hkey]
      · split
        · simp [hkey]
        · simp only [List.filterMap_cons, ih]
  have hdel : ∀ l : List (Nat × Nat),
      (Tbl.del l (fkey f k)).filterMap (fun e =>
        if e.1 % 512 = F.LF_REGION_SIZE_V.ctorIdx ∧ e.2 = 1 then some (e.1 / 512) else none) = l.filterMap (fun e =>
        if e.1 % 512 = F.LF_REGION_SIZE_V.ctorIdx ∧ e.2 = 1 then some (e.1 / 512) else none) := by
    intro l
    induction l with
    | nil => rfl
    | cons e l ih =>
      rw [Tbl.del]
      split
      · next he => simp [he, hkey, ih]
      · simp only [List.filterMap_cons, ih]
  unfold State.validRegions State.wri Tbl.set
  dsimp only
  split
  · exact hdel s.regs
  · exact hput s.regs _

namespace State.Wired

variable {s t u : State}

theorem counted (s : State) (p n : Nat) : s.Wired (s.addSat .WN_PORT_FEC_CE p n) :=
  ⟨rfl, fun _ _ hf => rdi_addSat_other (.inl hf), validRegions_wri (by decide) _ _⟩

theorem linked (h : s.Wired t) (k : t.LinkOnly u) : s.Wired u := by
  obtain ⟨_, _, _, _, rfl⟩ := k
  exact ⟨h.rest, h.regs, h.regions⟩

theorem mem_eq (h : s.Wired t) : t.mem = s.mem := (congrArg State.mem h.rest :)
theorem gran_eq (h : s.Wired t) : t.gran = s.gran := (congrArg State.gran h.rest :)
theorem modes_eq (h : s.Wired t) : t.modes = s.modes := (congrArg State.modes h.rest :)
theorem prov_eq (h : s.Wired t) : t.prov = s.prov := (congrArg State.prov h.rest :)
theorem accesses_eq (h : s.Wired t) : t.host.accesses = s.host.accesses := (congrArg (fun x : State => x.host.accesses) h.rest :)
theorem heldWr_eq (h : s.Wired t) : t.net.heldWr = s.net.heldWr := (congrArg (fun x : State => x.net.heldWr) h.rest :)
theorem waiters_eq (h : s.Wired t) : t.waiters = s.waiters := (congrArg State.waiters h.rest :)

theorem readsAs (h : s.Wired t) : s.ReadsAs t :=
  ⟨fun f hf k => h.regs f k (by revert hf; revert f; decide), h.mem_eq, (congrArg State.poison h.rest :),
    (congrArg State.flaws h.rest :), h.prov_eq⟩

theorem flag_eq (h : s.Wired t) {f : F} (hf : f ≠ .WN_PORT_FEC_CE) (k : Nat) : t.flag f k = s.flag f k :=
  congrArg (· != 0) (h.regs f k hf)

theorem rd_eq (h : s.Wired t) {f : F} (hf : f ≠ .WN_PORT_FEC_CE) : t.rd f = s.rd f := h.regs f 0 hf

theorem bayFaulted_eq (h : s.Wired t) : t.bayFaulted = s.bayFaulted := funext fun b =>
  congrArg (fun n => bit n b) (h.rd_eq (f := .ER_BAY_FAULT_BAYS) (by decide))

theorem interleave_eq (h : s.Wired t) : t.interleave = s.interleave := h.rd_eq (f := .GN_CFG_INTERLEAVE) (by decide)

theorem jobOk_eq (h : s.Wired t) (f : Frame) : t.jobOk f = s.jobOk f := by
  rw [State.jobOk, h.flag_eq (by decide), h.rd_eq (by decide), State.jobOk]

theorem bayOk_eq (h : s.Wired t) (x : Span) : t.bayOk x = s.bayOk x := by
  rw [State.bayOk, h.bayFaulted_eq, h.interleave_eq, State.bayOk]

theorem domainOff_eq (h : s.Wired t) : t.domainOff = s.domainOff := funext fun d => h.flag_eq (by decide) d

theorem online_eq (h : s.Wired t) : t.online = s.online := funext fun k => by
  rw [State.online, h.regs _ _ (by decide), h.bayFaulted_eq, h.domainOff_eq, State.online]

theorem checkThere_eq (h : s.Wired t) (x : Option Span) : t.checkThere x = s.checkThere x := by
  cases x with
  | none => rfl
  | some x => rw [State.checkThere, h.interleave_eq, h.online_eq, h.domainOff_eq, State.checkThere]

theorem regionReason_eq (h : s.Wired t) (x : Span) (a : Attr) : t.regionReason x a = s.regionReason x a := by
  have hhas : t.regionHas x = s.regionHas x := funext fun r => by
    rw [State.regionHas, h.regs _ _ (by decide), h.regs _ _ (by decide), State.regionHas]
  have hflag : t.flag a.field = s.flag a.field := funext fun r => h.flag_eq (by cases a <;> decide) r
  rw [State.regionReason, h.regions, hhas, hflag, State.regionReason]

theorem remoteReason_eq (h : s.Wired t) (f : Frame) (x : Option Span) (write : Bool) :
    t.remoteReason f x write = s.remoteReason f x write := by
  cases x with
  | none => rw [State.remoteReason, h.jobOk_eq, State.remoteReason]
  | some x =>
    have hremote : t.remoteOk x write = s.remoteOk x write := by
      simp only [State.remoteOk, h.regionReason_eq, h.readsAs.vregs_eq]
    simp only [State.remoteReason, h.jobOk_eq, h.bayOk_eq, hremote, h.checkThere_eq]

theorem versionReason_eq (h : s.Wired t) (x : Option Span) (view : View) (unbound write : Bool) :
    t.versionReason x view unbound write = s.versionReason x view unbound write := by
  have htag : t.liveTag = s.liveTag := funext₂ fun v g => by
    rw [State.liveTag, h.readsAs.granule_eq, h.readsAs.live_eq, State.liveTag]
  have hfault : t.viewFault = s.viewFault := funext₂ fun x w => by
    rw [State.viewFault, h.readsAs.vregs_eq, htag, State.viewFault]
  cases x with
  | none => rfl
  | some x => rw [State.versionReason, h.readsAs.vregs_eq, hfault, State.versionReason]

theorem judge_eq (h : s.Wired t) (f : Frame) (n : Nat) (write : Bool) : t.judge f n write = s.judge f n write := by
  have hahead : t.aheadEpoch f.epoch = s.aheadEpoch f.epoch := by
    rw [State.aheadEpoch, h.prov_eq, h.rd_eq (by decide), State.aheadEpoch]
  simp only [State.judge, State.judgeSpan, h.remoteReason_eq, h.versionReason_eq, h.readsAs.live_eq, h.readsAs.squashed_eq,
    hahead]

theorem closedWrite_eq (h : s.Wired t) (f : Frame) (n : Nat) : t.closedWrite f n = s.closedWrite f n := by
  simp only [State.closedWrite, State.heldBy205, h.flag_eq (f := .PS_STAT_CLOSED) (by decide),
    h.flag_eq (f := .PS_STAT_OPEN) (by decide), h.rd_eq (f := .PS_EPOCH_OPEN_EPOCH) (by decide),
    h.rd_eq (f := .PS_EPOCH_CLOSED_EPOCH) (by decide), h.readsAs.vregs_eq, h.readsAs.granule_eq]

theorem frameWaits_eq (h : s.Wired t) (op : Nat) (f : Frame) : t.frameWaits op f = s.frameWaits op f := by
  have hsleeps : t.sleeps = s.sleeps := funext fun x => by
    rw [State.sleeps, h.gran_eq, h.readsAs.vregs_eq, h.interleave_eq, State.sleeps]
  have hholds : t.holdsHbm = s.holdsHbm := by
    rw [State.holdsHbm, State.modeBusy, h.modes_eq, State.holdsHbm, State.modeBusy]
  rw [State.frameWaits, hsleeps, hholds, State.frameWaits]

theorem pairWaits_eq (h : s.Wired t) (f : Frame) : t.pairWaits f = s.pairWaits f := by
  rw [State.pairWaits, h.accesses_eq, State.pairWaits]

theorem allocated_eq (h : s.Wired t) (u : Nat) : t.allocated u = s.allocated u :=
  congrArg (fun n => bit n (u % 32)) (h.regs .TL_ALLOC_BITS (u / 32) (by decide))

theorem sigReason_eq (h : s.Wired t) (f : Frame) : t.sigReason f = s.sigReason f := by
  rw [State.sigReason, h.jobOk_eq, h.bayFaulted_eq, h.allocated_eq, State.sigReason]

theorem tally_eq (h : s.Wired t) (u : Nat) : t.tally u = s.tally u := h.regs _ u (by decide)

theorem waitersOf_eq (h : s.Wired t) (u : Nat) : t.waitersOf u = s.waitersOf u := by
  rw [State.waitersOf, h.waiters_eq, State.waitersOf]

end State.Wired

end Sys2Proof.Machine

/-! What a frame for this module does: writes and signals (O51). -/

namespace Sys2Proof.Machine

/-- The next frame of its link, for this module and undamaged, on an UP port that has room for it. -/
structure State.Takes (s : State) (p op : Nat) (f : Frame) : Prop where
  up : s.portState p = 3
  awake : s.flag .PW_STATE_IDLE 0 = false
  plain : f.lh.nak = false
  intact : f.intact = true
  here : f.dst = s.rd .WN_ID_MODULE
  source : f.src < 65536
  next : f.lh.lseq = (s.link (s.keyOf p f)).rxNext
  room : s.flag .WN_PORT_CTL_FRAMING p = false ∨ (s.keyOf p f ∈ s.net.recent ∧ s.bufferFull p op f = false)
  ok : frameOk op f = true

theorem frame_source {f : Frame} (h : f.plainWf = true) : f.src < 65536 := by
  simp only [Frame.plainWf, Frame.wf, Bool.and_eq_true, decide_eq_true_eq] at h
  omega

section
variable {s : State} {p op : Nat} {f : Frame}

/-- A link in use keeps its place. -/
theorem makeRoom_of_recent {k : Nat} (hs : s.flag .WN_PORT_CTL_FRAMING p = true) (hk : k ∈ s.net.recent)
    (hp : k / 65536 = p) : s.makeRoom p k = some (s.touch k) := by
  refine (if_pos hs).trans (if_pos ?_)
  have hmine : (s.net.recent.filter fun j => j / 65536 == p).contains k = true := by
    rw [List.contains_iff_mem, List.mem_filter]
    exact ⟨hk, by simp [hp]⟩
  rw [hmine, Bool.true_or]

/-- A frame that its port takes is delivered, with nothing but links and the count of FEC corrections changed before. -/
theorem receive_delivers (h : s.Takes p op f) : ∃ v, s.Wired v ∧ s.receive p op f = v.deliverFrame p op f := by
  set b := s.addSat .WN_PORT_FEC_CE p f.fec with hb
  have hwired : s.Wired b := .counted s p f.fec
  have hawake : b = s.leaveIdle.addSat .WN_PORT_FEC_CE p f.fec := by rw [leaveIdle_of_out h.awake]
  have hflag : b.flag .WN_PORT_CTL_FRAMING p = s.flag .WN_PORT_CTL_FRAMING p := hwired.flag_eq (by decide) p
  have hid : f.dst = b.rd .WN_ID_MODULE := h.here.trans (hwired.rd_eq (by decide)).symm
  have hkey : b.keyOf p f = s.keyOf p f := by
    rw [State.keyOf, State.linkKey, hflag, State.keyOf, State.linkKey]
  obtain ⟨a, hroom, hlink, hfree⟩ : ∃ a, b.makeRoom p (b.keyOf p f) = some a ∧ a.link = s.link ∧
      (a.flag .WN_PORT_CTL_FRAMING p && channelOk f && a.bufferFull p op f) = false := by
    rcases h.room with hdirect | ⟨hrecent, hfull⟩
    · have hdirect' := hflag.trans hdirect
      exact ⟨b, makeRoom_of_direct hdirect' _, rfl, bufferless_of_direct hdirect'⟩
    · cases hs : s.flag .WN_PORT_CTL_FRAMING p with
      | false => exact ⟨b, makeRoom_of_direct (hflag.trans hs) _, rfl, bufferless_of_direct (hflag.trans hs)⟩
      | true =>
        have hp : s.keyOf p f / 65536 = p := by
          have hsource := h.source
          rw [State.keyOf, State.linkKey, if_pos hs]
          omega
        have hsame : (b.touch (b.keyOf p f)).bufferFull p op f = s.bufferFull p op f := rfl
        refine ⟨b.touch (b.keyOf p f), makeRoom_of_recent (hflag.trans hs) (hkey ▸ hrecent) (hkey ▸ hp), rfl, ?_⟩
        rw [hsame, hfull, Bool.and_false]
  have honly := (State.LinkOnly.refl b).makeRoom hroom
  have hakey : a.keyOf p f = s.keyOf p f := honly.keyOf_eq.trans hkey
  have htaken := (honly.updLink (a.keyOf p f) fun l =>
    { l with rxNext := (l.rxNext + 1) % 65536, nakSent := false }).takeHeader h.plain p (a.keyOf p f)
  have hv : s.Wired (a.takenOff p (a.keyOf p f) f) := hwired.linked htaken
  refine ⟨_, hv, (receive_taken h.up hawake (fun _ => hid) hroom).trans ?_⟩
  have hseq : f.lh.lseq = (a.link (a.keyOf p f)).rxNext := by rw [hlink, hakey, h.next]
  have hdst : f.dst = (a.takenOff p (a.keyOf p f) f).rd .WN_ID_MODULE := h.here.trans (hv.rd_eq (by decide)).symm
  exact (inOrder_of_next hseq hfree).trans ((takeFrame_here h.ok hdst).trans (if_pos h.intact))

/-! ### Writes (R141, R242, R359) -/

theorem State.LinkOnly.answerWr {v : State} (h : s.LinkOnly v) (f : Frame) (r : Except Nat Bool) :
    s.LinkOnly (v.answerWr f r) := by
  cases r with
  | ok bad => exact h.reply f _ _ _
  | error r => exact h.reply f _ _ _

/-- A write that nothing makes wait is judged and answered. -/
theorem deliver_wr {v : State} (hheld : v.net.heldWr = []) (hwaits : v.frameWaits 0 f = false)
    (hpair : v.pairWaits f = false)
    (hopen : (v.judge f f.payload.length true == .go (.live f.epoch) && v.closedWrite f f.payload.length) = false) :
    v.deliverFrame p 0 f = ((v.takeWr f).1.emptied p opWr f).answerWr f (v.takeWr f).2 := by
  have haccess : v.deliverFrame p 0 f = v.receiveWr p f := (if_neg (by rw [hwaits, hpair]; decide)).trans (if_pos rfl)
  rw [haccess, State.receiveWr]
  dsimp only
  rw [hheld, hopen]
  rfl

/-- A write that its checks let through. -/
theorem wr_writes {v : State} (hv : s.Wired v) {view : View} (hgo : s.judge f f.payload.length true = .go view)
    (hplain : f.digest = false) (hheld : s.net.heldWr = []) (hwaits : s.frameWaits 0 f = false)
    (hpair : s.pairWaits f = false) (hopen : s.closedWrite f f.payload.length = false) :
    (v.deliverFrame p 0 f).mem = (s.writeAt view (frSpace f) (frThr f) (frAt f) (frData f)).mem := by
  have hclosed : (v.judge f f.payload.length true == .go (.live f.epoch) && v.closedWrite f f.payload.length) = false := by
    rw [hv.closedWrite_eq, hopen, Bool.and_false]
  have hset : frSet f = none := if_neg (by simp [hplain])
  have htake : (v.takeWr f).1 = v.writeAt view (frSpace f) (frThr f) (frAt f) (frData f) := by
    rw [State.takeWr, hv.judge_eq, hgo]
    dsimp only
    rw [hset]
    rfl
  rw [deliver_wr (hv.heldWr_eq.trans hheld) ((hv.frameWaits_eq 0 f).trans hwaits) ((hv.pairWaits_eq f).trans hpair) hclosed]
  refine (((State.LinkOnly.refl _).emptied p opWr f).answerWr f _).mem_eq.trans ?_
  rw [htake]
  exact (Faithful.writeAt view (frSpace f) (frThr f) (frAt f) (frData f) s v hv.readsAs).mem

/-- A refused write. -/
theorem wr_refused {v : State} (hv : s.Wired v) {r : Nat} (hrefuse : s.judge f f.payload.length true = .refuse r)
    (hheld : s.net.heldWr = []) (hwaits : s.frameWaits 0 f = false) (hpair : s.pairWaits f = false) :
    (v.deliverFrame p 0 f).mem = s.mem ∧ (v.deliverFrame p 0 f).rd .LF_STAT_REMOTE_REFUSED = 1 := by
  have hclosed : (v.judge f f.payload.length true == .go (.live f.epoch) && v.closedWrite f f.payload.length) = false := by
    rw [hv.judge_eq, hrefuse]
    rfl
  have htake : (v.takeWr f).1 = v.countRefusal := by rw [State.takeWr, hv.judge_eq, hrefuse]
  rw [deliver_wr (hv.heldWr_eq.trans hheld) ((hv.frameWaits_eq 0 f).trans hwaits) ((hv.pairWaits_eq f).trans hpair) hclosed,
    htake]
  have hnet := ((State.LinkOnly.refl v.countRefusal).emptied p opWr f).answerWr f (v.takeWr f).2
  exact ⟨hnet.mem_eq.trans hv.mem_eq, (hnet.rdi_eq _ 0).trans rdi_wri_same⟩

/-! ### Remote signals (R120, R359) -/

/-- A remote signal that counts. -/
theorem sig_counts {v : State} (hv : s.Wired v) (hnone : s.sigReason f = none) (hfree : s.waitersOf f.addr = []) :
    (v.deliverFrame p 4 f).tally f.addr = (if f.arg = 0 then s.tally f.addr else min 65535 (s.tally f.addr + f.arg)) ∧
      (v.deliverFrame p 4 f).mem = s.mem ∧ ∀ k, k ≠ f.addr → (v.deliverFrame p 4 f).tally k = s.tally k := by
  have hw : s.Wired (v.emptied p 4 f) := hv.linked ((State.LinkOnly.refl v).emptied p 4 f)
  have hrun : v.deliverFrame p 4 f = (v.emptied p 4 f).receiveSig f := rfl
  rw [hrun]
  generalize v.emptied p 4 f = w at hw
  rw [State.receiveSig, hw.sigReason_eq, hnone]
  dsimp only
  have hnet := (State.LinkOnly.refl (if f.arg = 0 then w else w.signal f.addr f.arg)).reply f opTlAck 0 []
  have hfree' : w.waitersOf f.addr = [] := (hw.waitersOf_eq f.addr).trans hfree
  have hcounted := signal_counted hfree' f.arg
  refine ⟨(hnet.rdi_eq _ _).trans ?_, hnet.mem_eq.trans ?_, fun k hk => (hnet.rdi_eq _ k).trans ?_⟩
  · split
    · exact hw.tally_eq f.addr
    · exact (signal_tally hfree' f.arg).trans (by rw [hw.tally_eq])
  · split
    · exact hw.mem_eq
    · exact hcounted.mem_eq.trans hw.mem_eq
  · split
    · exact hw.tally_eq k
    · exact (hcounted.regs _ k (by simp [ovfRegs, hk])).trans (hw.tally_eq k)

/-- A remote signal that is refused. -/
theorem sig_refused {v : State} (hv : s.Wired v) {r : Nat} (hsome : s.sigReason f = some r) :
    (v.deliverFrame p 4 f).rd .TL_STAT_REMOTE_REFUSED = 1 ∧ (v.deliverFrame p 4 f).mem = s.mem ∧
      ∀ k, (v.deliverFrame p 4 f).tally k = s.tally k := by
  have hw : s.Wired (v.emptied p 4 f) := hv.linked ((State.LinkOnly.refl v).emptied p 4 f)
  have hrun : v.deliverFrame p 4 f = (v.emptied p 4 f).receiveSig f := rfl
  rw [hrun]
  generalize v.emptied p 4 f = w at hw
  rw [State.receiveSig, hw.sigReason_eq, hsome]
  dsimp only
  set n := (((w.addSat .TL_REMOTE_REFUSE_CNT_COUNT 0 1).wr .TL_STAT_REMOTE_REFUSED 1).wr .TL_REMOTE_LAST_TALLY f.addr).wr
    .TL_REMOTE_LAST_SOURCE f.src with hn
  have hnet : n.LinkOnly (n.refuse f r) := (State.LinkOnly.refl n).reply f _ _ _
  refine ⟨(hnet.rdi_eq _ 0).trans ?_, hnet.mem_eq.trans hw.mem_eq, fun k => (hnet.rdi_eq _ k).trans ?_⟩
  · exact (rdi_wri_other (.inl (by decide))).trans ((rdi_wri_other (.inl (by decide))).trans rdi_wri_same)
  · exact (rdi_wri_other (.inl (by decide))).trans ((rdi_wri_other (.inl (by decide))).trans
      ((rdi_wri_other (.inl (by decide))).trans ((rdi_wri_other (.inl (by decide))).trans (hw.tally_eq k))))

end

/-- Settles O51: what a port takes (`receive_taken`, `inOrder_of_next`), and what a write (`wr_writes`, `wr_refused`) and a
signal (`sig_counts`, `sig_refused`) for this module do. -/
theorem framesArrive : Obligations.FramesArrive := by
  intro p f s
  refine ⟨fun c op hc hwf => ?frames, fun k hwf hup hidle hnak hintact hdst hk hseq => ?here⟩
  case frames =>
    have hrun := frame_run hc hwf s
    refine ⟨⟨_, hrun⟩, fun hdown => hrun.trans (congrArg Host.Outcome.next (receive_of_down hdown)),
      fun hup b hb => ⟨fun hs hor => ?dropped, fun a k hto hk hroom => ?taken⟩⟩
    case dropped =>
      exact ⟨_, hrun.trans (congrArg Host.Outcome.next (receive_drops hup hb hs hor)),
        (State.onlyRegs.refl b _).addSat (by simp) 1⟩
    case taken =>
      subst hk
      have hkey : a.keyOf p f = b.keyOf p f := ((State.LinkOnly.refl b).makeRoom hroom).keyOf_eq
      have hin := hrun.trans (congrArg Host.Outcome.next (receive_taken hup hb hto hroom))
      rw [← hkey]
      refine ⟨fun h0 h1 => ?gap, fun hold => hin.trans (congrArg Host.Outcome.next (inOrder_of_old hold)), fun hseq =>
        ⟨fun hs hch hfull => ?full, fun hfree v hv => ?next⟩⟩
      case gap =>
        obtain ⟨hsent, hout⟩ := nakOnce_shows a p (a.keyOf p f)
        exact ⟨_, hin.trans (congrArg Host.Outcome.next (inOrder_of_gap h0 h1)), hsent,
          ((State.LinkOnly.refl a).nakOnce p _).eq, hout⟩
      case full =>
        have hnet := (State.LinkOnly.refl a).nakOnce p (a.keyOf p f)
        refine ⟨_, hin.trans (congrArg Host.Outcome.next (inOrder_of_full hseq (by rw [hs, hch, hfull]; rfl))),
          (nakOnce_shows a p (a.keyOf p f)).1, ?_⟩
        obtain ⟨_, _, _, _, hsame⟩ := hnet
        rw [hsame]
        exact (State.onlyRegs.refl a _).addSat (f := .WN_PORT_DROP_FRAMES) (i := p) (by simp) 1
      case next =>
        have hoff : v = a.takenOff p (a.keyOf p f) f := hv
        have hlink := hin.trans (congrArg Host.Outcome.next (inOrder_of_next hseq hfree))
        subst hoff
        refine ⟨fun hok hid => ?_, fun hok hid => hlink.trans (congrArg Host.Outcome.next (takeFrame_on hok hid)),
          fun hbad => hlink.trans (congrArg Host.Outcome.next (takeFrame_bad hbad))⟩
        have hend := hlink.trans (congrArg Host.Outcome.next (takeFrame_here hok hid))
        refine ⟨fun hi => hend.trans (congrArg Host.Outcome.next (if_pos hi)), fun hi hp =>
          hend.trans (congrArg Host.Outcome.next ((if_neg (by simp [hi])).trans (if_neg (by simp [hp])))), fun hi hp =>
          hend.trans (congrArg Host.Outcome.next ((if_neg (by simp [hi])).trans (if_pos (by simp [hp]))))⟩
  case here =>
    subst hk
    have htakes : ∀ op, s.flag .WN_PORT_CTL_FRAMING p = false ∨
        (s.keyOf p f ∈ s.net.recent ∧ s.bufferFull p op f = false) → frameOk op f = true → s.Takes p op f :=
      fun op hroom hok => ⟨hup, hidle, hnak, hintact, hdst, frame_source hwf, hseq, hroom, hok⟩
    have hwr : exec (.wr p f) s = .next (s.receive p 0 f) := if_pos hwf
    have hsig : exec (.tlSig p f) s = .next (s.receive p 4 f) := if_pos hwf
    refine ⟨fun view hroom hok hgo hplain hheld hwaits hpair hopen => ?write,
      fun r hroom hok hrefuse hheld hwaits hpair => ?refuse, fun hroom hok => ?signal⟩
    case write =>
      obtain ⟨v, hv, hdeliver⟩ := receive_delivers (htakes 0 hroom hok)
      exact ⟨_, hwr.trans (congrArg Host.Outcome.next hdeliver), wr_writes hv hgo hplain hheld hwaits hpair hopen⟩
    case refuse =>
      obtain ⟨v, hv, hdeliver⟩ := receive_delivers (htakes 0 hroom hok)
      exact ⟨_, hwr.trans (congrArg Host.Outcome.next hdeliver), wr_refused hv hrefuse hheld hwaits hpair⟩
    case signal =>
      obtain ⟨v, hv, hdeliver⟩ := receive_delivers (htakes 4 hroom hok)
      have hrun := hsig.trans (congrArg Host.Outcome.next hdeliver)
      exact ⟨fun hnone hfree => ⟨_, hrun, sig_counts hv hnone hfree⟩, fun r hsome => ⟨_, hrun, sig_refused hv hsome⟩⟩

end Sys2Proof.Machine
